-- ==== Sys2Proof/Word.lean ====
section
/-!
DEFINITION. Word.lean: the word types of the DP2 and the plain table and row types that the rest of the model is
written over. Bit vectors stand only for what the manual treats as bits; counts, ticks and indices are natural numbers.
-/
namespace Sys2Proof

/-- A byte of memory (R6). -/
abbrev Byte := BitVec 8
/-- The contents of a register of 32 or 64 bits, a 32-bit register in the low half (R8). -/
abbrev Reg := BitVec 64
/-- One 32-bit element: FP32 bits, an INT32, a register lane, a gaffer word. -/
abbrev W32 := BitVec 32
/-- A Crucible row, a queue entry, a DRAM column: 128 bytes, byte b in bits 8b+7 to 8b (R175, R205). -/
abbrev Row := BitVec 1024
/-- A command word (R120). -/
abbrev Cmd := BitVec 128
/-- A sparse table: keys strictly rising, no entry equal to the table's default (see Machine/Tables.lean). -/
abbrev Tbl (α : Type) := List (Nat × α)

end Sys2Proof
end

