-- ==== Sys2Proof/Machine/Tables.lean ====
section
/-!
DEFINITION. Machine/Tables.lean: reading and writing a sparse table, the byte memory in its canonical form, and the
bit-field and byte-order helpers every other file uses.
-/
namespace Sys2Proof.Machine

/-- The value a table holds at a key; a key that is not listed holds the default. -/
def tget {α : Type} (d : α) : Tbl α → Nat → α
  | [], _ => d
  | (k, v) :: t, a => if k = a then v else tget d t a

/-- The table without a key. -/
def tdel {α : Type} : Tbl α → Nat → Tbl α
  | [], _ => []
  | (k, v) :: t, a => if k = a then tdel t a else (k, v) :: tdel t a

/-- The table with a value put at a key that is not the default. -/
def tput {α : Type} : Tbl α → Nat → α → Tbl α
  | [], a, v => [(a, v)]
  | (k, w) :: t, a, v => if a < k then (a, v) :: (k, w) :: t else if a = k then (a, v) :: t else (k, w) :: tput t a v

/-- Writing a table keeps it canonical: the default value removes the entry. -/
def tset {α : Type} [DecidableEq α] (d : α) (t : Tbl α) (k : Nat) (v : α) : Tbl α :=
  if v = d then tdel t k else tput t k v

/-- The keys rise strictly from a bound on. -/
def tsorted {α : Type} : Nat → Tbl α → Bool
  | _, [] => true
  | b, (k, _) :: t => decide (b ≤ k) && tsorted (k + 1) t

/-- The canonical form of a table: keys strictly rising, no entry equal to the default. -/
def twf {α : Type} [DecidableEq α] (d : α) (t : Tbl α) : Bool :=
  tsorted 0 t && t.all (fun e => decide (e.2 ≠ d))

/-- What a byte that no entry lists reads as. Start-up zero-fills every DRAM entry and every Crucible row (R429); the
manual gives no contents before that. -/
def memDefault : Byte := 0

/-- One byte of memory at a device address. -/
def readByte (m : List Host.Cell) (a : Nat) : Byte := tget memDefault m a

/-- Memory with one byte written, in canonical form. -/
def writeByte (m : List Host.Cell) (a : Nat) (b : Byte) : List Host.Cell := tset memDefault m a b

/-- Memory with consecutive bytes written from an address on. -/
def writeBytes (m : List Host.Cell) (a : Nat) : List Byte → List Host.Cell
  | [] => m
  | b :: bs => writeBytes (writeByte m a b) (a + 1) bs

/-- The canonical form of memory: addresses strictly rising, no byte equal to what an unlisted address reads as. -/
def memWf (m : List Host.Cell) : Bool := twf memDefault m

/-- Consecutive bytes of memory from an address on. -/
def readBytes (m : List Host.Cell) (a : Nat) : Nat → List Byte
  | 0 => []
  | n + 1 => readByte m a :: readBytes m (a + 1) n

/-- The field [lo + w - 1 : lo] of a number. -/
def fld (x lo w : Nat) : Nat := (x / 2 ^ lo) % 2 ^ w

/-- The number with field [lo + w - 1 : lo] replaced. -/
def setFld (x lo w v : Nat) : Nat := x % 2 ^ lo + (v % 2 ^ w) * 2 ^ lo + (x / 2 ^ (lo + w)) * 2 ^ (lo + w)

/-- One bit of a number as a truth value. -/
def bitAt (x i : Nat) : Bool := x / 2 ^ i % 2 == 1

/-- A truth value as a bit. -/
def b2n (b : Bool) : Nat := if b then 1 else 0

/-- A w-bit number read as two's complement. -/
def sext (w x : Nat) : Int := if x % 2 ^ w < 2 ^ (w - 1) then (x % 2 ^ w : Nat) else (x % 2 ^ w : Nat) - (2 ^ w : Nat)

/-- An integer as a w-bit two's complement number. -/
def wrapN (w : Nat) (x : Int) : Nat := (x % (2 ^ w : Nat)).toNat

/-- Ceiling division. -/
def cdiv (a b : Nat) : Nat := (a + b - 1) / b

/-- A little-endian number from bytes (R6). -/
def leNat : List Byte → Nat
  | [] => 0
  | b :: bs => b.toNat + 256 * leNat bs

/-- The n low bytes of a number, little-endian (R6). -/
def leBytes : Nat → Nat → List Byte
  | 0, _ => []
  | n + 1, x => BitVec.ofNat 8 x :: leBytes n (x / 256)

/-- Byte b of a row. -/
def rowByte (r : Row) (b : Nat) : Nat := fld r.toNat (8 * b) 8

/-- A row from its 128 bytes. -/
def rowOf (bs : List Byte) : Row := BitVec.ofNat 1024 (leNat bs)

/-- The 128 bytes of a row. -/
def rowBytes (r : Row) : List Byte := leBytes 128 r.toNat

/-- The row with field [lo + w - 1 : lo] of its bits replaced. -/
def rowSet (r : Row) (lo w v : Nat) : Row := BitVec.ofNat 1024 (setFld r.toNat lo w v)

/-- The bits of a row. -/
def rowGet (r : Row) (lo w : Nat) : Nat := fld r.toNat lo w

/-- A number built from (low bit, width, value) fields. -/
def pack : List (Nat × Nat × Nat) → Nat
  | [] => 0
  | (lo, w, v) :: t => (v % 2 ^ w) * 2 ^ lo + pack t

/-- Fold a function over 0, 1, ..., n - 1. -/
def forN {σ : Type} (n : Nat) (s : σ) (f : Nat → σ → σ) : σ := (List.range n).foldl (fun s i => f i s) s

end Sys2Proof.Machine
end

