-- ==== Sys2Proof/Syntax.lean ====
section
/-!
DEFINITION. Syntax.lean: the commands and events of the part, one constructor per row of the opcode table, with the
operands the manual gives each. Fields that the manual encodes in bits are bit vectors of their width.
-/
namespace Sys2Proof

/-- The header of a stream command as it issues: which of the core's five streams issues it (0 core, 1 BP0 access,
2 BP0 execute, 3 BP1 access, 4 BP1 execute, R157), its index in that stream's command memory, the cycle phase of the
issue cycle in the current tick, and the header fields of Table 5-1 (R121). -/
structure Iss where
  core : Fin 60
  strm : Fin 5
  index : BitVec 15
  phase : Fin 8
  psel : BitVec 3
  pol : Bool
  delta : BitVec 16
deriving DecidableEq, Repr

/-- Counter use and counter increment of a core-stream command (R124). -/
structure CU where
  cuse : BitVec 4
  cinc : BitVec 4
deriving DecidableEq, Repr

/-- MATMUL operands (Table 5-9). -/
structure MatmulOp where
  me : Fin 4
  cu : CU
  sbase : BitVec 16
  sstride : BitVec 8
  scale : BitVec 16
  m : BitVec 9
  u : BitVec 9
  wfmt : BitVec 4
  sfmt : BitVec 4
  bank : Bool
  anch : Bool
  acc : Bool
  a : BitVec 10
deriving DecidableEq, Repr

/-- Operands of a vector operation (Table 5-11). -/
structure VecOp where
  ve : Fin 2
  cu : CU
  n : BitVec 12
  d : BitVec 6
  a : BitVec 6
  b : BitVec 6
  c : BitVec 6
  x : BitVec 6
  aux : BitVec 13
  sat : Bool
  imm : BitVec 32
deriving DecidableEq, Repr

/-- A loop-counter selection of a blowpipe-stream command (R151). -/
structure BU where
  cuse : BitVec 2
  cinc : BitVec 2
deriving DecidableEq, Repr

/-- RD and WR operands (Table 5-17). -/
structure DramOp where
  bu : BU
  q : BitVec 2
  count : BitVec 8
  stride : BitVec 16
  addr : BitVec 41
deriving DecidableEq, Repr

/-- GATHER operands (Table 5-17). -/
structure GatherOp where
  bu : BU
  qi : BitVec 2
  qo : BitVec 2
  count : BitVec 8
  rb : BitVec 8
  limit : BitVec 24
  tbase : BitVec 41
deriving DecidableEq, Repr

/-- BAUOP operands (Table 9-6 with the queue and channel of Table 5-17). -/
structure BauOp where
  q : BitVec 2
  ch : BitVec 6
  cls : BitVec 3
  layer : BitVec 7
  head : BitVec 4
  lanes : BitVec 3
  qofs : BitVec 7
  dofs : BitVec 11
  start : BitVec 10
  count : BitVec 7
deriving DecidableEq, Repr

/-- DISPATCH and COMBINE operands (Table 5-13). -/
structure RouteOp where
  cu : CU
  src : BitVec 16
  dst : BitVec 16
  route : BitVec 16
  assign : BitVec 16
  param : BitVec 6
deriving DecidableEq, Repr

/-- SEND operands (Table 5-15). -/
structure SendOp where
  cu : CU
  src : BitVec 16
  rows : BitVec 4
  plane : Bool
  dkind : BitVec 2
  dest : BitVec 6
  drow : BitVec 16
  ccnt : BitVec 6
deriving DecidableEq, Repr

/-- What nature does to a storage element or a datapath during a tick. The manual names these errors and gives their
detection and correction; when they strike is not the device's choice, so a TICK carries them (log entry 3). A
`syn` is the check syndrome the hardware reports, whose code the manual does not give. -/
inductive Upset where
  /-- A 128-bit Crucible word: correctable, or uncorrectable with its stored bits flipped (R193). -/
  | crucible (core : Fin 60) (row : BitVec 16) (word : Fin 8) (flip : BitVec 128) (syn : BitVec 9) (unc : Bool)
  /-- A command word (R156). -/
  | command (core : Fin 60) (strm : Fin 5) (index : BitVec 15) (flip : BitVec 128) (syn : BitVec 9) (unc : Bool)
  /-- A gaffer memory word: instruction (false) or data (true) memory (R162). -/
  | gaffer (core : Fin 60) (data : Bool) (word : BitVec 15) (flip : BitVec 32) (syn : BitVec 7) (unc : Bool)
  /-- Byte errors of a 64-byte DRAM sector with its 8 check bytes, at positions 0 to 71 (R223). -/
  | sector (stack : Fin 12) (chan : Fin 64) (entry : BitVec 22) (half : Bool) (errs : List (Fin 72 × BitVec 8))
  /-- A 32-bit word of a weight bank (R105). -/
  | weight (core : Fin 60) (me : Fin 4) (bank : Bool) (row : Fin 200) (word : Fin 32) (flip : BitVec 32)
  /-- A 32-bit word of an accumulator unit (R105). -/
  | acc (core : Fin 60) (me : Fin 4) (unit : Fin 512) (word : Fin 128) (flip : BitVec 32)
  /-- A lane of a vector register (R105). -/
  | vreg (core : Fin 60) (ve : Fin 2) (reg : Fin 16) (lane : Fin 64) (flip : BitVec 32)
  /-- A 32-bit word of a BAU query buffer (R244). -/
  | qbuf (stack : Fin 12) (chan : Fin 64) (word : Fin 4096) (flip : BitVec 32)
  /-- An error of `delta` in the next checked integer result of a stage of a column or lane: engines 0-3 ME, 4-5 VE; stages 0
  significand multiply, 1 exponent and block-scale add and alignment shift, 2 truncation, 3 sum (R83 to R85, R90). -/
  | datapath (core : Fin 60) (eng : Fin 6) (index : BitVec 7) (stage : Fin 4) (delta : Int)
  /-- A bit of a Bridle slot-table entry flips, so its parity fails (R270). -/
  | bslot (plane : Fin 2) (tile : Fin 72) (out : Fin 7) (entry : Fin 1024)
  /-- Codewords of a link found corrected and uncorrectable in the tick (R277). -/
  | fec (link : Fin 24) (corrected uncorrectable : BitVec 16)
  /-- A link slot-table entry's parity fails: transmit (false) or receive (true) table (R297). -/
  | lslot (link : Fin 24) (rx : Bool) (entry : Fin 4096)
deriving DecidableEq, Repr

/-- A management payload of Table 2-2. -/
structure TetherMsg where
  flags : BitVec 8
  sender : BitVec 16
  exchange : BitVec 16
  stampA : BitVec 64
  stampB : BitVec 64
  echo : BitVec 64
  bitmap : BitVec 1792
deriving DecidableEq, Repr

/-- What a write to a register carries: how many bytes it writes from its address on, and their value (R8, R9). -/
structure RegWrite where
  bytes : BitVec 8
  value : BitVec 64
deriving DecidableEq, Repr

/-- One launch-tap trial of a crossing alignment: the range of phase codes over 256 marker samples and the receiver
edge of the capture (R45). -/
structure TapTrial where
  lo : Fin 16
  hi : Fin 16
  edge : Fin 4
deriving DecidableEq, Repr

/-- Which reference input: A, B or the recovered clock (R54). -/
inductive RefInput where
  | a | b | recovered
deriving DecidableEq, Repr

/-- The header fields of a received DATA packet that pass R282 (Table 11-3). -/
structure DataHdr where
  seq : BitVec 16
  stick : BitVec 24
  start : Bool
  olink : Bool
  drow : BitVec 16
  ccnt : BitVec 6
deriving DecidableEq, Repr

/-- A received remote operation: the packet's number, and the operation unit with its data (Table 11-8). -/
structure RopMsg where
  seq : BitVec 16
  status : BitVec 8
  rwseq : BitVec 16
  bytes : BitVec 8
  env : BitVec 4
  addr : BitVec 48
  data : BitVec 1920
deriving DecidableEq, Repr
/-- A Crownline message (Table 14-1) without its type. -/
structure CrlMsg where
  flags : BitVec 8
  sender : BitVec 16
  dest : BitVec 16
  subject : BitVec 16
  v : BitVec 64
  step : BitVec 48
  variant : BitVec 8
  cause : BitVec 8
  down : BitVec 32
  up : BitVec 32
  wear : BitVec 32
  part : BitVec 8
  aux : BitVec 64
  secver : BitVec 32
deriving DecidableEq, Repr

/-- A relay message (Table 15-6A) without its type. -/
structure RelayMsg where
  b1 : BitVec 8
  sender : BitVec 16
  dest : BitVec 16
  env : BitVec 8
  ring : BitVec 8
  seq : BitVec 64
  addr : BitVec 64
  payload : BitVec 1792
deriving DecidableEq, Repr

/-- A defect that self-test finds (Table 16-3): a tile with its unit (0 logic, 1 engine, 2 gaffer memory, 3 Crucible bank)
and bank, a router, a DRAM row, a lane of one direction (rx false: transmit). -/
inductive Finding where
  | tile (t : Fin 72) (unit : Fin 4) (bank : BitVec 8)
  | router (plane : Fin 2) (tile : Fin 72)
  | dramRow (stack : Fin 12) (chan : Fin 64) (bank : Fin 16) (row : BitVec 14)
  | lane (link : Fin 24) (rx : Bool) (l : Fin 4)
deriving DecidableEq, Repr

/-- What training finds (R427): stack temperatures, whether every bank's check met no corrected byte, channels that fail
full training, links whose far end answered. -/
structure Trained where
  temps : List (BitVec 8)
  clean : List Bool
  failed : List (Fin 12 × Fin 64)
  up : List (Fin 24)
deriving DecidableEq, Repr

/-- A router input 0-6 (Table 10-1) or a port's end: 8 ejection, 9 link port, 10 system port. -/
inductive BPort where
  | input (i : Fin 7)
  | ejection
  | linkPort
  | sysPort
deriving DecidableEq, Repr

/-- The commands and events, one constructor per row of spec/opcode_table.json, in the table's order but for the last ten. -/
inductive Instr where
  -- Tether and clock (chapter 2)
  | tick (upsets : List Upset)
  | tsyncCapture (pinB : Bool) (phase : Fin 8) (err : Fin 3)
  | frameStart
  | launchTick
  | commitWindowOpen
  | voteFix
  | gatherRound
  | voteGather (link : Fin 24) (msg : TetherMsg)
  | decideRound
  | voteDecide (link : Fin 24) (msg : TetherMsg)
  | decisionTick (transfersDone : Bool)
  | confirmSend (link : Fin 24)
  | confirmReceive (link : Fin 24) (msg : TetherMsg)
  | syncExchangeStart (link : Fin 24) (phase : Fin 8)
  | syncReq (link : Fin 24) (phase : Fin 8) (msg : TetherMsg)
  | syncResp (link : Fin 24) (phase : Fin 8) (msg : TetherMsg)
  | acqStart
  | acquisitionTimeout
  | ttCountSetWrite (v : BitVec 64)
  | ttLaunchWrite (v : BitVec 64)
  | alarmWrite (n : Fin 16) (v : BitVec 64)
  | alarmFire (n : Fin 16)
  | referenceLoss (input : RefInput)
  | holdoverTimeout
  | pllUnlock (region : Fin 18)
  | telltaleSample (site : Fin 12) (i : Fin 4) (margin : BitVec 3)
  | crossingAlignment (region : Fin 19) (port : Fin 8) (trials : List TapTrial)
  -- Command streams (chapter 5)
  | segmentStart (core : Fin 60) (strm : Fin 5)
  | nop (h : Iss)
  | segEnd (h : Iss)
  | segLoop (h : Iss) (level : Bool) (target : BitVec 15) (count : BitVec 16)
  | segArm (h : Iss) (nf : Bool) (ix : BitVec 15) (tick : BitVec 23)
  | attick (h : Iss) (tick : BitVec 23)
  | attickComplete (core : Fin 60) (strm : Fin 5)
  | setcCounter (h : Iss) (tgt : BitVec 4) (j : BitVec 2) (value limit stride : BitVec 16)
  | setcComparator (h : Iss) (tgt : BitVec 4) (cmp en : Bool) (ctr rel : BitVec 2) (pred : BitVec 3) (value : BitVec 16)
  | setcDescriptor (h : Iss) (tgt : BitVec 4) (ix : BitVec 6) (value : BitVec 64)
  | setcCcount (h : Iss) (k : BitVec 6) (value : BitVec 32)
  | waitc (h : Iss) (k : BitVec 6) (n : BitVec 32) (deadline : BitVec 23)
  | waitcComplete (core : Fin 60) (phase : Fin 8)
  | waitcMissed (core : Fin 60)
  | waitq (h : Iss) (bp : Fin 2) (q : BitVec 2) (n : BitVec 32) (deadline : BitVec 23)
  | waitqComplete (core : Fin 60) (phase : Fin 8)
  | waitqMissed (core : Fin 60) (strm : Fin 5)
  | bpipe (h : Iss) (bp : Fin 2) (cu : CU) (src : BitVec 16) (rows : BitVec 8) (q : BitVec 2) (spl : Bool) (spool : BitVec 5)
  | send (h : Iss) (o : SendOp)
  | fill (h : Iss) (cu : CU) (dst rows : BitVec 16) (pattern : BitVec 32)
  | copy (h : Iss) (cu : CU) (src dst rows : BitVec 16)
  | moveW (h : Iss) (me : Fin 4) (cu : CU) (src : BitVec 16) (bank : Bool) (wfmt : BitVec 4)
  | moveMein (h : Iss) (me : Fin 4) (cu : CU) (src : BitVec 16) (u lines : BitVec 9) (layout : BitVec 2)
  | moveMeout (h : Iss) (me : Fin 4) (cu : CU) (dst : BitVec 16) (u m : BitVec 9) (nw : Bool) (form : BitVec 2) (sat : Bool)
  | moveVld (h : Iss) (ve : Fin 2) (cu : CU) (row : BitVec 16) (reg count : BitVec 4)
  | moveVst (h : Iss) (ve : Fin 2) (cu : CU) (row : BitVec 16) (reg count : BitVec 4)
  | matmul (h : Iss) (o : MatmulOp)
  | matmulComplete (core : Fin 60) (me : Fin 4) (phase : Fin 8)
  | transpose (h : Iss) (cu : CU) (src dst : BitVec 16) (nt : BitVec 12) (w : BitVec 2)
  | permute (h : Iss) (cu : CU) (src dst : BitVec 16) (n : BitVec 12) (idx limit : BitVec 16)
  | im2col (h : Iss) (cu : CU) (src dst : BitVec 16) (param : BitVec 6)
  | topk (h : Iss) (cu : CU) (src dst : BitVec 16) (r : BitVec 12) (nb : BitVec 13) (logk : BitVec 4) (param : BitVec 6)
  | dispatch (h : Iss) (o : RouteOp)
  | combine (h : Iss) (o : RouteOp)
  | vadd (h : Iss) (o : VecOp)
  | vsub (h : Iss) (o : VecOp)
  | vmul (h : Iss) (o : VecOp)
  | vfma (h : Iss) (o : VecOp)
  | vmax (h : Iss) (o : VecOp)
  | vmin (h : Iss) (o : VecOp)
  | viadd (h : Iss) (o : VecOp)
  | visub (h : Iss) (o : VecOp)
  | vimul (h : Iss) (o : VecOp)
  | vand (h : Iss) (o : VecOp)
  | vor (h : Iss) (o : VecOp)
  | vxor (h : Iss) (o : VecOp)
  | vshl (h : Iss) (o : VecOp)
  | vshr (h : Iss) (o : VecOp)
  | vcmpsel (h : Iss) (o : VecOp)
  | vexp (h : Iss) (o : VecOp)
  | vrecip (h : Iss) (o : VecOp)
  | vrsqrt (h : Iss) (o : VecOp)
  | vcvt (h : Iss) (o : VecOp)
  | vtomx (h : Iss) (o : VecOp)
  | vacomb (h : Iss) (o : VecOp)
  | vamerge (h : Iss) (o : VecOp)
  | vrsum (h : Iss) (o : VecOp)
  | vrmax (h : Iss) (o : VecOp)
  | vscan (h : Iss) (o : VecOp)
  | vrng (h : Iss) (o : VecOp)
  | vsample (h : Iss) (o : VecOp)
  | commandScrubVisit (core : Fin 60) (mem : Fin 5) (phase : Fin 8)
  -- Blowpipes, DRAM and BAUs (chapters 5, 8, 9)
  | rd (h : Iss) (o : DramOp)
  | rdEntryArrival (core : Fin 60) (bp : Fin 2) (q : BitVec 2) (phase : Fin 8)
  | wr (h : Iss) (o : DramOp)
  | gather (h : Iss) (o : GatherOp)
  | bauq (h : Iss) (q : BitVec 2) (ch : BitVec 6) (count : BitVec 8) (ofs : BitVec 7)
  | bauNop (h : Iss) (o : BauOp)
  | attend (h : Iss) (o : BauOp)
  | attendDelivery (core : Fin 60) (bp : Fin 2) (q : BitVec 2) (phase : Fin 8)
  | kvput (h : Iss) (o : BauOp)
  | pcopy (h : Iss) (o : BauOp)
  | pzero (h : Iss) (o : BauOp)
  | slout (h : Iss) (o : BauOp)
  | slin (h : Iss) (o : BauOp)
  | dlv (h : Iss) (bu : BU) (q : BitVec 2) (count : BitVec 8) (dst : BitVec 16)
  | dlvs (h : Iss) (q : BitVec 2) (count : BitVec 8) (spool : BitVec 5)
  | drop (h : Iss) (q : BitVec 2) (count : BitVec 8)
  | bpWaitq (h : Iss) (q : BitVec 2) (n : BitVec 7) (deadline : BitVec 23)
  | bpWaitqComplete (core : Fin 60) (strm : Fin 5) (phase : Fin 8)
  | refreshStart (stack : Fin 12) (chan : Fin 64) (bank : Fin 16)
  | deferredRefresh (stack : Fin 12) (chan : Fin 64)
  | activationWindowStart (stack : Fin 12)
  | patrolRead (stack : Fin 12) (chan : Fin 64) (phase : Fin 8)
  | stackTemperatureReading (stack : Fin 12) (celsius : BitVec 8)
  -- Crucible and gaffer (chapters 6, 7)
  | scrubPair (core : Fin 60) (phase : Fin 8)
  | marverFillRead (core : Fin 60) (entry : Fin 4) (phase : Fin 8)
  | marverWriteBack (core : Fin 60) (entry : Fin 4) (phase : Fin 8)
  | marverWindowClose (core : Fin 60)
  | keelCrucibleAccess (addr : BitVec 48) (write : Bool) (data : Row)
  | gafferInstruction (core : Fin 60) (phase : Fin 8)
  | gafferCrucibleStore (core : Fin 60) (phase : Fin 8) (addr : BitVec 32) (size : Fin 3) (value : BitVec 32)
  | gafferCrucibleLoad (core : Fin 60) (phase : Fin 8) (rd : Fin 32) (addr : BitVec 32) (size : Fin 3) (signed : Bool)
  | csrAccess (core : Fin 60) (phase : Fin 8) (f3 : BitVec 3) (csr : BitVec 12) (rd : Fin 32) (rs1 : Fin 32)
  | segarm (core : Fin 60) (phase : Fin 8) (rd rs1 rs2 : Fin 32)
  | predw (core : Fin 60) (phase : Fin 8) (rs1 rs2 : Fin 32)
  | predr (core : Fin 60) (phase : Fin 8) (rd : Fin 32)
  | strld (core : Fin 60) (phase : Fin 8) (rd rs1 : Fin 32) (word : BitVec 4)
  | strst (core : Fin 60) (phase : Fin 8) (rs1 rs2 : Fin 32) (word : BitVec 4)
  | frcadd (core : Fin 60) (phase : Fin 8) (rs1 rs2 : Fin 32)
  | frcld (core : Fin 60) (phase : Fin 8) (rd rs1 : Fin 32)
  | waittk (core : Fin 60) (phase : Fin 8) (rs1 : Fin 32)
  | waittkComplete (core : Fin 60)
  | gafferScrubVisit (core : Fin 60) (data : Bool) (phase : Fin 8)
  | engResInjectWrite (core : Fin 60) (host : Bool) (v : BitVec 32)
  -- The Bridle (chapter 10)
  | bridleFlitReceive (plane : Fin 2) (tile : Fin 72) (port : BPort) (phase : Fin 8) (flip : BitVec 1024) (side : BitVec 20)
  -- Nerique links (chapter 11)
  | plannedStart (link : Fin 24) (start : Bool)
  | dataPacket (link : Fin 24) (phase : Fin 8) (h : DataHdr) (row0 : Row) (row1 : Option Row)
  | mgmtPacket (link : Fin 24) (phase : Fin 8) (seq : BitVec 16) (row0 row1 : Row)
  | lehrRelease (link : Fin 24) (phase : Fin 8)
  | parityRowForward (link : Fin 24) (start : Bool)
  | linkctl (link : Fin 24) (phase : Fin 8) (ack : BitVec 16) (credData credMgmt : BitVec 32)
  | nak (link : Fin 24) (phase : Fin 8) (ack : BitVec 16) (credData credMgmt : BitVec 32)
  | linkctlTimer (link : Fin 24) (phase : Fin 8)
  | replayTimeout (link : Fin 24) (phase : Fin 8)
  | retrain (link : Fin 24) (phase : Fin 8)
  | widthReq (link : Fin 24) (phase : Fin 8) (width sel : BitVec 2)
  | widthAck (link : Fin 24) (phase : Fin 8)
  | widthGo (link : Fin 24) (phase : Fin 8) (width sel : BitVec 2)
  | ident (link : Fin 24) (phase : Fin 8) (device : BitVec 13) (number : BitVec 5)
  | codewordTimeout (link : Fin 24) (phase : Fin 8)
  | retrainAttemptTimeout (link : Fin 24)
  | linkRejoin (link : Fin 24)
  | lnkCtrlWidthGo (link : Fin 24) (width sel : BitVec 2) (tick : BitVec 23)
  | widthTick (link : Fin 24)
  | rwrite (link : Fin 24) (phase : Fin 8) (m : RopMsg)
  | rread (link : Fin 24) (phase : Fin 8) (m : RopMsg)
  | rresp (link : Fin 24) (phase : Fin 8) (m : RopMsg)
  | ropDeadline (pair : Fin 12) (rwseq : BitVec 16)
  | ranging (link : Fin 24)
  | failedPacket (link : Fin 24) (phase : Fin 8) (cause : BitVec 3) (sync : Option (BitVec 8))
  -- Serving (chapter 13)
  | intakeSnapshot (env : Fin 16)
  | snapshotReadTimeout (env : Fin 16)
  | posting (env : Fin 16)
  | postingTimeout (env : Fin 16) (completed : Nat)
  | open_ (env : Fin 16) (lsn : BitVec 64) (modelOk : Bool)
  | append (env : Fin 16) (lsn : BitVec 64) (room : Option (BitVec 24))
  | set_ (env : Fin 16) (lsn : BitVec 64)
  | keep (env : Fin 16) (lsn : BitVec 64)
  | release (env : Fin 16) (lsn : BitVec 64)
  | trim (env : Fin 16) (lsn : BitVec 64)
  | close (env : Fin 16) (lsn : BitVec 64)
  | fritLoad (env : Fin 16) (lsn : BitVec 64) (modelOk : Bool) (slotBytes : BitVec 32) (addr : BitVec 48)
  | fritReplace (env : Fin 16) (lsn : BitVec 64) (modelOk : Bool) (slotBytes : BitVec 32) (addr : BitVec 48)
  | fritRetire (env : Fin 16) (lsn : BitVec 64)
  | query (env : Fin 16) (lsn : BitVec 64)
  | tokenSample (env : Fin 16) (stream : BitVec 13) (logits : List (BitVec 32)) (stops : List (BitVec 32)) (noPane : Bool)
  -- Crownline and pods (chapters 14, 15, 17)
  | heartbeatSend
  | heartbeat (link : Fin 24) (m : CrlMsg)
  | heartbeatWindowEnd
  | voteRound (subject : BitVec 16)
  | vote (link : Fin 24) (round : BitVec 3) (m : CrlMsg)
  | crownlineDecision (subject : BitVec 16)
  | decide_ (link : Fin 24) (m : CrlMsg)
  | event (link : Fin 24) (m : CrlMsg)
  | claimMessage (link : Fin 24) (m : CrlMsg)
  | actionTick
  | wearUpdate
  | crlCtrlPromote
  | crlCtrlClaim
  | relayForward (member : BitVec 13) (env ring : Fin 16) (head sub : BitVec 64) (log2 : BitVec 5)
  | relaySub (link : Fin 24) (m : RelayMsg)
  | relayPost (link : Fin 24) (m : RelayMsg)
  | relayWord (link : Fin 24) (m : RelayMsg)
  | secchk (link : Fin 24) (sender dest : BitVec 16) (plan : BitVec 64) (par fw : BitVec 32)
  -- The host interface (chapter 15)
  | hostWindowStart (stack : Fin 12) (w : Fin 16)
  | inboundTransferStart (stack : Fin 12) (w : Fin 16) (desc : Fin 128)
  | transferDeadline (stack : Fin 12) (w : Fin 16) (desc : Fin 128)
  | ringReg (env ring : Fin 16)
  | ringUnreg (env ring : Fin 16)
  | rangeReg (env : Fin 16) (range : Fin 8)
  | rangeUnreg (env : Fin 16) (range : Fin 8)
  | rwinRead (fn : Fin 17)
  | functionLevelReset (fn : Fin 17)
  | ucieLaneRepair (module : Fin 4) (lane : BitVec 8)
  | uciePairFailure (pair : Fin 2)
  | ucieLinkDown
  | hostReadCompletion (tag : Nat) (data : Option (List (BitVec 8)))
  | msiXUnmask (fn : Fin 17) (vector : Fin 18)
  -- The Keel (chapter 15)
  | mailboxPoll (torn : Option (BitVec 64))
  | report
  | load
  | reheat
  | cold
  | discard
  | width
  | promote
  | claim
  | repair
  | logcfg
  | fwimg
  | startcfg
  | parCtrlCheck
  | parCtrlDiscard
  | kelWdogKick
  | watchdogExpiry (mepc : BitVec 64)
  | tqRecordStore (q : Fin 16) (kind : Fin 4) (words : List (BitVec 64)) (dropped : Bool)
  | kelTqNextRead (p : Fin 64)
  | kelTqDataRead (p : Fin 64)
  | tqStallTimeout
  | tqFlush (p : Fin 64)
  | keelRestartComplete
  -- Power and temperature (chapters 12, 18)
  | energyWindowEnd (measured : List (BitVec 16))
  | dieTemperatureReading (sensor : Fin 19) (celsius : BitVec 8)
  | railOutOfTolerance (rail : Fin 6) (mv : BitVec 16)
  | railInTolerance (rail : Fin 6) (mv : BitVec 16)
  -- Starts (chapter 16)
  | boot (seed : Option (List (BitVec 8))) (attempts : BitVec 8)
  | selfTest (found : List Finding)
  | repairRecordStore (readBack : Bool)
  | training (t : Trained)
  | domainRamp (domain : Fin 80) (good : Bool)
  | selfRefreshEntry (stack : Fin 12) (confirmed : Bool)
  -- Board interfaces and registers (chapters 2, 15, 18)
  | jtagExtest (drive : List Bool)
  | referenceRestored (input : RefInput)
  | registerWrite (addr : BitVec 64) (w : RegWrite)
  | misalignedRegisterRead (addr : BitVec 64) (bytes : BitVec 8)
  -- Starts (chapter 16) and board interfaces (chapter 18) that carry nothing
  | resetNRelease
  | resetNAssert
  | pwrGoodFall
  | zeroFill
  | reheatReset
  | reheatVerify
  | stageBoundExceeded
  | jtagBypass
  | jtagIdcode
  | jtagSamplePreload
deriving DecidableEq, Repr

end Sys2Proof
end

