-- ==== Sys2Proof/Decode.lean ====
section
/-!
DEFINITION. Decode.lean: the 128-bit command words of the core and blowpipe streams (chapter 5): the encoder, written
from Tables 5-1 to 5-17, and the decoder the sequencers use, total on every word. The rows of the opcode table give no
bits, so `decodeTableWord` spells no command.
-/
namespace Sys2Proof
open Sys2Proof.Machine

/-- What a command encodes to below its header: opcode, target and operand fields as (low bit, width, value). -/
structure Enc where
  op : Nat
  tgt : Nat
  fs : List (Nat × Nat × Nat)
deriving DecidableEq, Repr

/-- CUSE and CINC in bits [95:88] (R124). -/
def cuF (c : CU) : List (Nat × Nat × Nat) := [(92, 4, c.cuse.toNat), (88, 4, c.cinc.toNat)]

/-- CUSE and CINC of a blowpipe-stream command at two places (Table 5-17). -/
def buF (b : BU) (lo1 lo2 : Nat) : List (Nat × Nat × Nat) := [(lo1, 2, b.cuse.toNat), (lo2, 2, b.cinc.toNat)]

/-- A vector operation: Table 5-11. -/
def vecE (op : Nat) (o : VecOp) : Enc :=
  { op := op, tgt := 4 + o.ve.val,
    fs := cuF o.cu ++ [(76, 12, o.n.toNat), (70, 6, o.d.toNat), (64, 6, o.a.toNat), (58, 6, o.b.toNat),
      (52, 6, o.c.toNat), (46, 6, o.x.toNat), (33, 13, o.aux.toNat), (32, 1, b2n o.sat), (0, 32, o.imm.toNat)] }

/-- A BAU operation: Table 9-6. -/
def bauE (bop : Nat) (o : BauOp) : Enc :=
  { op := 0x89, tgt := 0,
    fs := [(90, 2, o.q.toNat), (84, 6, o.ch.toNat), (76, 8, bop), (73, 3, o.cls.toNat), (66, 7, o.layer.toNat),
      (62, 4, o.head.toNat), (59, 3, o.lanes.toNat), (52, 7, o.qofs.toNat), (41, 11, o.dofs.toNat),
      (31, 10, o.start.toNat), (24, 7, o.count.toNat)] }

/-- RD and WR: Table 5-17. -/
def dramE (op : Nat) (o : DramOp) : Enc :=
  { op := op, tgt := 0, fs := buF o.bu 94 92 ++ [(90, 2, o.q.toNat), (82, 8, o.count.toNat), (66, 16, o.stride.toNat), (25, 41, o.addr.toNat)] }

/-- DISPATCH and COMBINE: Table 5-13. -/
def routeE (op : Nat) (o : RouteOp) : Enc :=
  { op := op, tgt := 6, fs := cuF o.cu ++ [(72, 16, o.src.toNat), (56, 16, o.dst.toNat), (40, 16, o.route.toNat), (24, 16, o.assign.toNat), (18, 6, o.param.toNat)] }

/-- The target code of a sequencer command: 0xF in the core stream, 0 in a blowpipe stream (Tables 5-1, 5-2). -/
def seqT (h : Iss) : Nat := if h.strm = 0 then 15 else 0

/-- The opcode, target and fields of a stream command; other rows of the table are no stream commands. -/
def encOf : Instr → Option (Iss × Enc)
  | .nop h => some (h, { op := 0x00, tgt := seqT h, fs := [] })
  | .segEnd h => some (h, { op := 0x01, tgt := seqT h, fs := [(92, 4, 0)] })
  | .segLoop h l t c => some (h, { op := 0x01, tgt := seqT h, fs := [(92, 4, 1), (88, 1, b2n l), (72, 15, t.toNat), (56, 16, c.toNat)] })
  | .segArm h nf i t => some (h, { op := 0x01, tgt := seqT h, fs := [(92, 4, 2), (88, 1, b2n nf), (72, 15, i.toNat), (0, 23, t.toNat)] })
  | .attick h t => some (h, { op := 0x02, tgt := seqT h, fs := [(0, 23, t.toNat)] })
  | .setcCounter h g j v l st => some (h, { op := 0x03, tgt := g.toNat, fs := [(92, 4, 0), (88, 2, j.toNat), (72, 16, v.toNat), (56, 16, l.toNat), (40, 16, st.toNat)] })
  | .setcComparator h g c en k r p v => some (h, { op := 0x03, tgt := g.toNat, fs := [(92, 4, 1), (88, 1, b2n c), (87, 1, b2n en), (85, 2, k.toNat), (83, 2, r.toNat), (80, 3, p.toNat), (64, 16, v.toNat)] })
  | .setcDescriptor h g i v => some (h, { op := 0x03, tgt := g.toNat, fs := [(92, 4, 2), (80, 6, i.toNat), (0, 64, v.toNat)] })
  | .setcCcount h k v => some (h, { op := 0x03, tgt := 15, fs := [(92, 4, 3), (80, 6, k.toNat), (0, 32, v.toNat)] })
  | .waitc h k n d => some (h, { op := 0x04, tgt := 15, fs := [(88, 6, k.toNat), (32, 32, n.toNat), (0, 23, d.toNat)] })
  | .waitq h b q n d => some (h, { op := 0x05, tgt := 7 + b.val, fs := [(90, 2, q.toNat), (32, 32, n.toNat), (0, 23, d.toNat)] })
  | .bpipe h b cu s r q sp k => some (h, { op := 0x08, tgt := 7 + b.val, fs := cuF cu ++ [(72, 16, s.toNat), (64, 8, r.toNat), (62, 2, q.toNat), (61, 1, b2n sp), (56, 5, k.toNat)] })
  | .send h o => some (h, { op := 0x09, tgt := 11, fs := cuF o.cu ++ [(72, 16, o.src.toNat), (68, 4, o.rows.toNat), (67, 1, b2n o.plane), (65, 2, o.dkind.toNat), (59, 6, o.dest.toNat), (43, 16, o.drow.toNat), (37, 6, o.ccnt.toNat)] })
  | .fill h cu d r p => some (h, { op := 0x0C, tgt := 10, fs := cuF cu ++ [(72, 16, d.toNat), (56, 16, r.toNat), (0, 32, p.toNat)] })
  | .copy h cu s d r => some (h, { op := 0x0D, tgt := 10, fs := cuF cu ++ [(72, 16, s.toNat), (56, 16, d.toNat), (40, 16, r.toNat)] })
  | .moveW h m cu s b w => some (h, { op := 0x10, tgt := m.val, fs := cuF cu ++ [(72, 16, s.toNat), (71, 1, b2n b), (67, 4, w.toNat)] })
  | .moveMein h m cu s u l y => some (h, { op := 0x11, tgt := m.val, fs := cuF cu ++ [(72, 16, s.toNat), (63, 9, u.toNat), (54, 9, l.toNat), (52, 2, y.toNat)] })
  | .moveMeout h m cu d u n w f s => some (h, { op := 0x12, tgt := m.val, fs := cuF cu ++ [(72, 16, d.toNat), (63, 9, u.toNat), (54, 9, n.toNat), (53, 1, b2n w), (51, 2, f.toNat), (50, 1, b2n s)] })
  | .moveVld h v cu r g c => some (h, { op := 0x13, tgt := 4 + v.val, fs := cuF cu ++ [(72, 16, r.toNat), (68, 4, g.toNat), (64, 4, c.toNat)] })
  | .moveVst h v cu r g c => some (h, { op := 0x14, tgt := 4 + v.val, fs := cuF cu ++ [(72, 16, r.toNat), (68, 4, g.toNat), (64, 4, c.toNat)] })
  | .matmul h o => some (h, { op := 0x20, tgt := o.me.val, fs := cuF o.cu ++ [(72, 16, o.sbase.toNat), (64, 8, o.sstride.toNat), (48, 16, o.scale.toNat), (39, 9, o.m.toNat), (30, 9, o.u.toNat), (26, 4, o.wfmt.toNat), (22, 4, o.sfmt.toNat), (21, 1, b2n o.bank), (20, 1, b2n o.anch), (19, 1, b2n o.acc), (9, 10, o.a.toNat)] })
  | .transpose h cu s d n w => some (h, { op := 0x30, tgt := 6, fs := cuF cu ++ [(72, 16, s.toNat), (56, 16, d.toNat), (44, 12, n.toNat), (42, 2, w.toNat)] })
  | .permute h cu s d n i l => some (h, { op := 0x31, tgt := 6, fs := cuF cu ++ [(72, 16, s.toNat), (56, 16, d.toNat), (44, 12, n.toNat), (28, 16, i.toNat), (12, 16, l.toNat)] })
  | .im2col h cu s d p => some (h, { op := 0x32, tgt := 6, fs := cuF cu ++ [(72, 16, s.toNat), (56, 16, d.toNat), (50, 6, p.toNat)] })
  | .topk h cu s d r n k p => some (h, { op := 0x33, tgt := 6, fs := cuF cu ++ [(72, 16, s.toNat), (56, 16, d.toNat), (44, 12, r.toNat), (31, 13, n.toNat), (27, 4, k.toNat), (21, 6, p.toNat)] })
  | .dispatch h o => some (h, routeE 0x34 o)
  | .combine h o => some (h, routeE 0x35 o)
  | .vadd h o => some (h, vecE 0x40 o)
  | .vsub h o => some (h, vecE 0x41 o)
  | .vmul h o => some (h, vecE 0x42 o)
  | .vfma h o => some (h, vecE 0x43 o)
  | .vmax h o => some (h, vecE 0x44 o)
  | .vmin h o => some (h, vecE 0x45 o)
  | .viadd h o => some (h, vecE 0x48 o)
  | .visub h o => some (h, vecE 0x49 o)
  | .vimul h o => some (h, vecE 0x4A o)
  | .vand h o => some (h, vecE 0x4B o)
  | .vor h o => some (h, vecE 0x4C o)
  | .vxor h o => some (h, vecE 0x4D o)
  | .vshl h o => some (h, vecE 0x4E o)
  | .vshr h o => some (h, vecE 0x4F o)
  | .vcmpsel h o => some (h, vecE 0x50 o)
  | .vexp h o => some (h, vecE 0x54 o)
  | .vrecip h o => some (h, vecE 0x55 o)
  | .vrsqrt h o => some (h, vecE 0x56 o)
  | .vcvt h o => some (h, vecE 0x58 o)
  | .vtomx h o => some (h, vecE 0x59 o)
  | .vacomb h o => some (h, vecE 0x5C o)
  | .vamerge h o => some (h, vecE 0x5D o)
  | .vrsum h o => some (h, vecE 0x60 o)
  | .vrmax h o => some (h, vecE 0x61 o)
  | .vscan h o => some (h, vecE 0x62 o)
  | .vrng h o => some (h, vecE 0x68 o)
  | .vsample h o => some (h, vecE 0x69 o)
  | .rd h o => some (h, dramE 0x80 o)
  | .wr h o => some (h, dramE 0x81 o)
  | .gather h o => some (h, { op := 0x82, tgt := 0, fs := buF o.bu 94 92 ++ [(90, 2, o.qi.toNat), (88, 2, o.qo.toNat), (80, 8, o.count.toNat), (72, 8, o.rb.toNat), (48, 24, o.limit.toNat), (7, 41, o.tbase.toNat)] })
  | .bauq h q c n f => some (h, { op := 0x88, tgt := 0, fs := [(90, 2, q.toNat), (84, 6, c.toNat), (76, 8, n.toNat), (69, 7, f.toNat)] })
  | .bauNop h o => some (h, bauE 0 o)
  | .attend h o => some (h, bauE 1 o)
  | .kvput h o => some (h, bauE 2 o)
  | .pcopy h o => some (h, bauE 3 o)
  | .pzero h o => some (h, bauE 4 o)
  | .slout h o => some (h, bauE 5 o)
  | .slin h o => some (h, bauE 6 o)
  | .dlv h b q n d => some (h, { op := 0xC0, tgt := 0, fs := buF b 94 92 ++ [(90, 2, q.toNat), (82, 8, n.toNat), (66, 16, d.toNat)] })
  | .dlvs h q n k => some (h, { op := 0xC1, tgt := 0, fs := [(90, 2, q.toNat), (82, 8, n.toNat), (77, 5, k.toNat)] })
  | .drop h q n => some (h, { op := 0xC2, tgt := 0, fs := [(90, 2, q.toNat), (82, 8, n.toNat)] })
  | .bpWaitq h q n d => some (h, { op := 0x05, tgt := 0, fs := [(90, 2, q.toNat), (32, 7, n.toNat), (0, 23, d.toNat)] })
  | _ => none

/-- The header fields of Table 5-1 above the operands. -/
def hdrF (h : Iss) (e : Enc) : List (Nat × Nat × Nat) :=
  [(120, 8, e.op), (116, 4, e.tgt), (115, 1, b2n h.pol), (112, 3, h.psel.toNat), (96, 16, h.delta.toNat)]

/-- The word of a stream command (R120, R121). -/
def encode (i : Instr) : Option Cmd :=
  match encOf i with
  | some (h, e) => some (BitVec.ofNat 128 (pack (hdrF h e ++ e.fs)))
  | none => none

/-- Fields of a word, by their widths. -/
def bv (w x lo : Nat) : BitVec w := BitVec.ofNat w (fld x lo w)

/-- CUSE and CINC of a word (R124). -/
def cuD (x : Nat) : CU := { cuse := bv 4 x 92, cinc := bv 4 x 88 }
/-- CUSE and CINC of a blowpipe-stream word (Table 5-17). -/
def buD (x lo1 lo2 : Nat) : BU := { cuse := bv 2 x lo1, cinc := bv 2 x lo2 }
/-- A two-way unit number. -/
def fin2 (n : Nat) : Fin 2 := Fin.ofNat 2 n
/-- A four-way unit number. -/
def fin4 (n : Nat) : Fin 4 := Fin.ofNat 4 n

/-- The vector operands of a word (Table 5-11). -/
def vecD (x : Nat) : VecOp :=
  { ve := fin2 (fld x 116 4), cu := cuD x, n := bv 12 x 76, d := bv 6 x 70, a := bv 6 x 64, b := bv 6 x 58, c := bv 6 x 52,
    x := bv 6 x 46, aux := bv 13 x 33, sat := bitAt x 32, imm := bv 32 x 0 }
/-- The BAU operands of a word (Table 9-6). -/
def bauD (x : Nat) : BauOp :=
  { q := bv 2 x 90, ch := bv 6 x 84, cls := bv 3 x 73, layer := bv 7 x 66, head := bv 4 x 62, lanes := bv 3 x 59,
    qofs := bv 7 x 52, dofs := bv 11 x 41, start := bv 10 x 31, count := bv 7 x 24 }
/-- The RD and WR operands of a word. -/
def dramD (x : Nat) : DramOp :=
  { bu := buD x 94 92, q := bv 2 x 90, count := bv 8 x 82, stride := bv 16 x 66, addr := bv 41 x 25 }
/-- The DISPATCH and COMBINE operands of a word. -/
def routeD (x : Nat) : RouteOp :=
  { cu := cuD x, src := bv 16 x 72, dst := bv 16 x 56, route := bv 16 x 40, assign := bv 16 x 24, param := bv 6 x 18 }

/-- The commands both kinds of stream share: NOP, SEG, ATTICK and SETC (Tables 5-7, 5-8, 5-16). -/
def seqD (h : Iss) (op x : Nat) : Option Instr :=
  match op with
  | 0x00 => some (.nop h)
  | 0x01 => match fld x 92 4 with
    | 0 => some (.segEnd h)
    | 1 => some (.segLoop h (bitAt x 88) (bv 15 x 72) (bv 16 x 56))
    | 2 => some (.segArm h (bitAt x 88) (bv 15 x 72) (bv 23 x 0))
    | _ => none
  | 0x02 => some (.attick h (bv 23 x 0))
  | 0x03 => match fld x 92 4 with
    | 0 => some (.setcCounter h (bv 4 x 116) (bv 2 x 88) (bv 16 x 72) (bv 16 x 56) (bv 16 x 40))
    | 1 => some (.setcComparator h (bv 4 x 116) (bitAt x 88) (bitAt x 87) (bv 2 x 85) (bv 2 x 83) (bv 3 x 80) (bv 16 x 64))
    | _ => none
  | _ => none

/-- The commands of the core stream alone (Tables 5-4, 5-8 to 5-15). -/
def coreD (h : Iss) (op x : Nat) : Option Instr :=
  let me := fin4 (fld x 116 4)
  let ve := fin2 (fld x 116 4)
  let bp := fin2 (fld x 116 4 + 1)
  match op with
  | 0x03 => match fld x 92 4 with
    | 2 => some (.setcDescriptor h (bv 4 x 116) (bv 6 x 80) (bv 64 x 0))
    | 3 => some (.setcCcount h (bv 6 x 80) (bv 32 x 0))
    | _ => seqD h op x
  | 0x04 => some (.waitc h (bv 6 x 88) (bv 32 x 32) (bv 23 x 0))
  | 0x05 => some (.waitq h bp (bv 2 x 90) (bv 32 x 32) (bv 23 x 0))
  | 0x08 => some (.bpipe h bp (cuD x) (bv 16 x 72) (bv 8 x 64) (bv 2 x 62) (bitAt x 61) (bv 5 x 56))
  | 0x09 => some (.send h { cu := cuD x, src := bv 16 x 72, rows := bv 4 x 68, plane := bitAt x 67, dkind := bv 2 x 65, dest := bv 6 x 59, drow := bv 16 x 43, ccnt := bv 6 x 37 })
  | 0x0C => some (.fill h (cuD x) (bv 16 x 72) (bv 16 x 56) (bv 32 x 0))
  | 0x0D => some (.copy h (cuD x) (bv 16 x 72) (bv 16 x 56) (bv 16 x 40))
  | 0x10 => some (.moveW h me (cuD x) (bv 16 x 72) (bitAt x 71) (bv 4 x 67))
  | 0x11 => some (.moveMein h me (cuD x) (bv 16 x 72) (bv 9 x 63) (bv 9 x 54) (bv 2 x 52))
  | 0x12 => some (.moveMeout h me (cuD x) (bv 16 x 72) (bv 9 x 63) (bv 9 x 54) (bitAt x 53) (bv 2 x 51) (bitAt x 50))
  | 0x13 => some (.moveVld h ve (cuD x) (bv 16 x 72) (bv 4 x 68) (bv 4 x 64))
  | 0x14 => some (.moveVst h ve (cuD x) (bv 16 x 72) (bv 4 x 68) (bv 4 x 64))
  | 0x20 => some (.matmul h { me := me, cu := cuD x, sbase := bv 16 x 72, sstride := bv 8 x 64, scale := bv 16 x 48, m := bv 9 x 39, u := bv 9 x 30, wfmt := bv 4 x 26, sfmt := bv 4 x 22, bank := bitAt x 21, anch := bitAt x 20, acc := bitAt x 19, a := bv 10 x 9 })
  | 0x30 => some (.transpose h (cuD x) (bv 16 x 72) (bv 16 x 56) (bv 12 x 44) (bv 2 x 42))
  | 0x31 => some (.permute h (cuD x) (bv 16 x 72) (bv 16 x 56) (bv 12 x 44) (bv 16 x 28) (bv 16 x 12))
  | 0x32 => some (.im2col h (cuD x) (bv 16 x 72) (bv 16 x 56) (bv 6 x 50))
  | 0x33 => some (.topk h (cuD x) (bv 16 x 72) (bv 16 x 56) (bv 12 x 44) (bv 13 x 31) (bv 4 x 27) (bv 6 x 21))
  | 0x34 => some (.dispatch h (routeD x))
  | 0x35 => some (.combine h (routeD x))
  | 0x40 => some (.vadd h (vecD x)) | 0x41 => some (.vsub h (vecD x)) | 0x42 => some (.vmul h (vecD x))
  | 0x43 => some (.vfma h (vecD x)) | 0x44 => some (.vmax h (vecD x)) | 0x45 => some (.vmin h (vecD x))
  | 0x48 => some (.viadd h (vecD x)) | 0x49 => some (.visub h (vecD x)) | 0x4A => some (.vimul h (vecD x))
  | 0x4B => some (.vand h (vecD x)) | 0x4C => some (.vor h (vecD x)) | 0x4D => some (.vxor h (vecD x))
  | 0x4E => some (.vshl h (vecD x)) | 0x4F => some (.vshr h (vecD x)) | 0x50 => some (.vcmpsel h (vecD x))
  | 0x54 => some (.vexp h (vecD x)) | 0x55 => some (.vrecip h (vecD x)) | 0x56 => some (.vrsqrt h (vecD x))
  | 0x58 => some (.vcvt h (vecD x)) | 0x59 => some (.vtomx h (vecD x)) | 0x5C => some (.vacomb h (vecD x))
  | 0x5D => some (.vamerge h (vecD x)) | 0x60 => some (.vrsum h (vecD x)) | 0x61 => some (.vrmax h (vecD x))
  | 0x62 => some (.vscan h (vecD x)) | 0x68 => some (.vrng h (vecD x)) | 0x69 => some (.vsample h (vecD x))
  | _ => seqD h op x

/-- The commands of an access stream alone (Table 5-16). -/
def accessD (h : Iss) (op x : Nat) : Option Instr :=
  match op with
  | 0x05 => some (.bpWaitq h (bv 2 x 90) (bv 7 x 32) (bv 23 x 0))
  | 0x80 => some (.rd h (dramD x))
  | 0x81 => some (.wr h (dramD x))
  | 0x82 => some (.gather h { bu := buD x 94 92, qi := bv 2 x 90, qo := bv 2 x 88, count := bv 8 x 80, rb := bv 8 x 72, limit := bv 24 x 48, tbase := bv 41 x 7 })
  | 0x88 => some (.bauq h (bv 2 x 90) (bv 6 x 84) (bv 8 x 76) (bv 7 x 69))
  | 0x89 => match fld x 76 8 with
    | 0 => some (.bauNop h (bauD x)) | 1 => some (.attend h (bauD x)) | 2 => some (.kvput h (bauD x))
    | 3 => some (.pcopy h (bauD x)) | 4 => some (.pzero h (bauD x)) | 5 => some (.slout h (bauD x))
    | 6 => some (.slin h (bauD x)) | _ => none
  | _ => seqD h op x

/-- The commands of an execute stream alone (Table 5-16). -/
def executeD (h : Iss) (op x : Nat) : Option Instr :=
  match op with
  | 0x05 => some (.bpWaitq h (bv 2 x 90) (bv 7 x 32) (bv 23 x 0))
  | 0xC0 => some (.dlv h (buD x 94 92) (bv 2 x 90) (bv 8 x 82) (bv 16 x 66))
  | 0xC1 => some (.dlvs h (bv 2 x 90) (bv 8 x 82) (bv 5 x 77))
  | 0xC2 => some (.drop h (bv 2 x 90) (bv 8 x 82))
  | _ => seqD h op x

/-- The header of a word as it issues at a place and phase. -/
def issOf (core : Fin 60) (strm : Fin 5) (index : BitVec 15) (phase : Fin 8) (x : Nat) : Iss :=
  { core := core, strm := strm, index := index, phase := phase, psel := bv 3 x 112, pol := bitAt x 115, delta := bv 16 x 96 }

/-- The command a word names before its reserved bits and target are judged. -/
def candidateCmd (core : Fin 60) (strm : Fin 5) (index : BitVec 15) (phase : Fin 8) (w : Cmd) : Option Instr :=
  let x := w.toNat
  let h := issOf core strm index phase x
  let op := fld x 120 8
  if strm = 0 then coreD h op x else if strm = 1 ∨ strm = 3 then accessD h op x else executeD h op x

/-- The command of a word in a stream's memory: its opcode, target and reserved bits must be as the tables give them
(R123, R140, R154). The word that fills a memory beyond its section is SEG END in every stream (R120). -/
def decodeCmd (core : Fin 60) (strm : Fin 5) (index : BitVec 15) (phase : Fin 8) (w : Cmd) : Option Instr :=
  if w = 0x01F80000000000000000000000000000 then some (.segEnd (issOf core strm index phase w.toNat))
  else match candidateCmd core strm index phase w with
    | some i => if encode i = some w then some i else none
    | none => none

/-- The rows of the opcode table give no bits: no word spells a command. -/
def decodeTableWord (_nbits _w : Nat) : Option Instr := none

end Sys2Proof
end

