-- ==== Sys2Proof/Machine/Keccak.lean ====
section
/-!
DEFINITION. Machine/Keccak.lean: SHAKE256 of FIPS 202 and KMAC256 of NIST SP 800-185, which the manual names for section
digests, frit digests and cullet tags (R312, R353, R359).
-/
namespace Sys2Proof.Machine
open Sys2Proof

/-- Rotation offsets by lane x + 5y. -/
def rhoOfs : List Nat := [0, 1, 62, 28, 27, 36, 44, 6, 55, 20, 3, 10, 43, 25, 39, 41, 45, 15, 21, 8, 18, 2, 61, 56, 14]
/-- Round constants. -/
def iotaC : List (BitVec 64) :=
  [0x0000000000000001, 0x0000000000008082, 0x800000000000808A, 0x8000000080008000, 0x000000000000808B, 0x0000000080000001,
   0x8000000080008081, 0x8000000000008009, 0x000000000000008A, 0x0000000000000088, 0x0000000080008009, 0x000000008000000A] ++
  [0x000000008000808B, 0x800000000000008B, 0x8000000000008089, 0x8000000000008003, 0x8000000000008002, 0x8000000000000080,
   0x000000000000800A, 0x800000008000000A, 0x8000000080008081, 0x8000000000008080, 0x0000000080000001, 0x8000000080008008]

/-- One round of Keccak-f[1600] on 25 lanes. -/
def keccakRound (a : List (BitVec 64)) (rc : BitVec 64) : List (BitVec 64) :=
  let at_ (l : List (BitVec 64)) (i : Nat) : BitVec 64 := l.getD i 0
  let c := (List.range 5).map fun x => at_ a x ^^^ at_ a (x + 5) ^^^ at_ a (x + 10) ^^^ at_ a (x + 15) ^^^ at_ a (x + 20)
  let d := (List.range 5).map fun x => at_ c ((x + 4) % 5) ^^^ (at_ c ((x + 1) % 5)).rotateLeft 1
  let t := (List.range 25).map fun i => at_ a i ^^^ at_ d (i % 5)
  let b := (List.range 25).map fun i =>
    let j := (i % 5 + 3 * (i / 5)) % 5 + 5 * (i % 5)
    (at_ t j).rotateLeft (rhoOfs.getD j 0)
  let e := (List.range 25).map fun i =>
    let y := i / 5 * 5
    at_ b i ^^^ (~~~(at_ b (y + (i + 1) % 5)) &&& at_ b (y + (i + 2) % 5))
  match e with
  | h :: r => (h ^^^ rc) :: r
  | [] => []

/-- Keccak-f[1600]. -/
def keccakF (a : List (BitVec 64)) : List (BitVec 64) := iotaC.foldl keccakRound a

/-- A 136-byte block absorbed. -/
def absorb (a : List (BitVec 64)) (blk : List Byte) : List (BitVec 64) :=
  keccakF (a.zipIdx.map fun e => if e.2 < 17 then e.1 ^^^ BitVec.ofNat 64 (leNat ((blk.drop (8 * e.2)).take 8)) else e.1)

/-- The blocks of a message, `fuel` whole ones and then the last, padded with the domain byte and the final bit. -/
def absorbAll (suffix : Byte) : Nat → List (BitVec 64) → List Byte → List (BitVec 64)
  | 0, a, m =>
    let b := m ++ suffix :: List.replicate (135 - m.length) 0
    absorb a (b.take 135 ++ [b.getD 135 0 ||| 0x80])
  | n + 1, a, m => absorbAll suffix n (absorb a (m.take 136)) (m.drop 136)

/-- The sponge's first 136 bytes of output at rate 1,088 bits. -/
def sponge256 (m : List Byte) (suffix : Byte) : List Byte :=
  ((absorbAll suffix (m.length / 136) (List.replicate 25 0) m).flatMap fun w => leBytes 8 w.toNat).take 136

/-- SHAKE256, at most 136 bytes of output. -/
def shake256 (m : List Byte) (len : Nat) : List Byte := (sponge256 m 0x1F).take len

/-- left_encode and right_encode of SP 800-185. -/
def encBytes (x : Nat) : List Byte := (leBytes (max 1 (cdiv (if x = 0 then 0 else Nat.log2 x + 1) 8)) x).reverse
/-- left_encode. -/
def leftEnc (x : Nat) : List Byte := BitVec.ofNat 8 (encBytes x).length :: encBytes x
/-- right_encode. -/
def rightEnc (x : Nat) : List Byte := encBytes x ++ [BitVec.ofNat 8 (encBytes x).length]
/-- encode_string. -/
def encStr (m : List Byte) : List Byte := leftEnc (8 * m.length) ++ m
/-- bytepad to 136. -/
def bytepad (m : List Byte) : List Byte :=
  let z := leftEnc 136 ++ m
  z ++ List.replicate ((136 - z.length % 136) % 136) 0

/-- ASCII bytes. -/
def ascii (s : String) : List Byte := s.toList.map fun c => BitVec.ofNat 8 c.toNat

/-- KMAC256 with a 256-bit output. -/
def kmac256 (key x : List Byte) (custom : String) : List Byte :=
  (sponge256 (bytepad (encStr (ascii "KMAC") ++ encStr (ascii custom)) ++ bytepad (encStr key) ++ x ++ rightEnc 256) 0x04).take 32

end Sys2Proof.Machine
end

