-- ==== Sys2Proof/Config.lean ====
section
/-!
DEFINITION. Config.lean: the values the manual leaves open. Each is an opaque constant with no body: nothing in Lean
can evaluate it, so whatever is proved holds for every value of it. Each has a row in the assumption log.
-/
namespace Sys2Proof.Config

/-- The outcome of C4 decoding for a sector with five or more byte errors, which "may be detected or miscorrected"
(R223): from the sector's true 64 bytes and its error pattern, whether it is detected, and if it is not, how many bytes
less one the decoder took for wrong, and the 64 bytes delivered. -/
opaque c4Beyond : BitVec 512 → List (Nat × Nat) → Bool × Fin 4 × BitVec 512

/-- A row that DISPATCH or COMBINE writes when another access met one of its range claims: the manual does not define
the engine's own accesses inside the hold (R180). Indexed by the model's free counter. -/
opaque claimedRow : Nat → Row

/-- Lanes 1 to 63 of the register that RSUM or RMAX writes: the manual defines one element (R107). -/
opaque reductionLane : Nat → W32 → W32
/-- The sum that an element of a line holds after the line was poisoned for an unequal mode or anchor: the manual
gives POISON and the tags, no value (R102). Indexed by unit and element. -/
opaque poisonedSum : Nat → Nat → BitVec 128
/-- The median of an even number of values whose middle two differ: the manual takes "the median offset" of 64 exchanges
(R47, R298) and does not say which value that is. -/
opaque medianEven : Int → Int → Int
/-- Which of a core's resident ranges is its request range: the residency map "names that range" (R347) and no field
says which it is. -/
opaque requestRange : Nat → Fin 16
/-- Where in the twin's mirror range an item's bytes go: the manual names the range and the items' sizes, not their
places (R381). Indexed by the model's free counter. -/
opaque mirrorAddr : Nat → BitVec 48
/-- What the twin image in the mirror range says: the manual gives the items mirrored and their sizes, not the image's
layout (R381, R384). Indexed by the image's bytes, a kind, an envelope or stream, an index and a field. -/
opaque twinField : List Byte → Nat → Nat → Nat → Nat → Nat
/-- Positions of held streams rebuilt or prefilled again in a step: the variant's recovery slots are the plan's (R385).
Indexed by the model's free counter. -/
opaque recovered : Nat → Nat
/-- Whether port p of a link group, UCIe or root region has a neighbour: the manual names the crossings and eight port
codes for every region, and not which codes these regions use (R44, R45). -/
opaque crossingPort : Nat → Nat → Bool
/-- The code, below 256 within the Keel's block 0x0D00, and the severity of the fault that an access of the Keel to an
unlisted address is: R7 makes it a fault of the Keel's block, and Table 15-11 lists none for it. -/
opaque keelAddressFault : BitVec 8 × Fin 5
/-- The least number of BG entries that the parison's background share gives each Bridle output (R38, R270): a parison field
whose default is 11 of 1,024 (Table 1-6), and no register or item of Table 12-16 carries it. Indexed by PLAN_ID, fleet
index and variant. -/
opaque bridleShare : Nat → Nat → Nat → Nat
/-- The stepping of this device, a fixed value (R401, Table 12-15). -/
opaque stepping : BitVec 8
/-- The SHAKE256 hash of the root public key that the boot ROM holds (R442). -/
opaque rootHash : List Byte
/-- ML-DSA-65 of FIPS 204 (R442, R444), which the manual names and does not expand: the public key of a seed, the
deterministic signature of a 64-byte message, and whether a signature verifies. -/
opaque mldsaPublic : List Byte → List Byte
/-- The deterministic signature under a seed of a message. -/
opaque mldsaSign : List Byte → List Byte → List Byte
/-- Whether a signature verifies under a public key: key, message, signature. -/
opaque mldsaVerify : List Byte → List Byte → List Byte → Bool
/-- ML-KEM-768 of FIPS 203 (R442, R445): the encapsulation key of (d, z). -/
opaque mlkemPublic : List Byte → List Byte
/-- Decapsulation under (d, z) of a ciphertext. -/
opaque mlkemDecaps : List Byte → List Byte → List Byte
/-- What a Keel firmware image says of itself: the manual names its version, ABI, SECVER, the FORMATs and gaffer ABIs it
supports, and its compatibility table with its version (R321, R423, R436, R448), not where they stand. -/
opaque fwField : List Byte → Nat → Nat
/-- The lists a firmware image carries: 0 FORMATs, 1 gaffer ABIs, 2 compatibility entries. -/
opaque fwList : List Byte → Nat → List Nat
/-- The home core of a stream of the parison: the parison assigns it (R167, R346) and no item of Table 12-16 says where.
Indexed by PLAN_ID, fleet index and stream. -/
opaque homeCore : Nat → Nat → Nat → Fin 60
/-- The pane-table entry of storage that a gaffer takes for a new pane, or for the copy of a frozen one: its tier, class, place
and slot are the plan's (R237, R254). Indexed by the model's free counter. -/
opaque newPane : Nat → BitVec 64
/-- Whether a fault of severity 3 whose source is a tile, an engine or a Crucible bank is the failure of its tile: R25 gives a
failed tile's fault its severity and no code. Indexed by the fault's place in the log. -/
opaque tileFailed : Nat → Bool
/-- The electorates in which this device votes, by subject (R369): other devices' memberships are the plan's and no item
of Table 12-16 carries them. Indexed by PLAN_ID and fleet index. -/
opaque electorates : Nat → Nat → List (Nat × List Nat)
/-- Facts of the fleet that two devices' parisons share and one image does not carry (R369, R302, R410): 0 the twins lie
in different pods, 1 their envelope sets, streams or rings do not fit, 2 a member's INTAKE_OFS. Indexed by PLAN_ID,
fleet index and fact. -/
opaque fleetFact : Nat → Nat → Nat → Nat
/-- RESULT0 to RESULT7 of a mailbox response: the manual gives them no meaning (Table 15-3). Indexed by the model's free
counter and the word. -/
opaque keelResult : Nat → Nat → BitVec 64
/-- The fields of WIDTH's ARG0, link, width, lanes and tick: the manual names them and not their places (Table 15-6). -/
opaque widthArg : Nat → Nat → Nat
/-- The bytes of a mirrored item whose size Table 14-4 gives and whose layout it does not: the table's row and the item's
fields. -/
opaque mirrorItem : Nat → List Nat → BitVec 384

end Sys2Proof.Config
end

