-- ==== Sys2Proof/Machine/State.lean ====
section
/-!
DEFINITION. Machine/State.lean: every piece of state the manual gives the part, as plain data, the reasons a step can
stop, and the state after reset. Registers live in one table by device address (R7, R8); those that show other state
are computed from it by Machine/RegMap.lean.
-/
namespace Sys2Proof.Machine
open Sys2Proof

/-- Why a command cannot be a command of this part. -/
inductive Fault where
  /-- Raised by a meaning whose operands no sender of the part can form (WellFormed.lean): safe, the manual gives such
  operands no effect. -/
  | illFormed (mnemonic : String)
deriving DecidableEq, Repr

/-- Why the model has no meaning for a command. -/
inductive Refusal where
  /-- The arm of a command that has no meaning yet: safe. -/
  | notModelled (mnemonic : String)
deriving DecidableEq, Repr

/-- A loop counter: value, limit (0 means 65,536) and stride (R94). -/
structure Ctr where
  val : BitVec 16 := 0
  lim : BitVec 16 := 0
  stride : BitVec 16 := 0
deriving DecidableEq, Repr

/-- A comparator binding (R95). -/
structure Cmp where
  en : Bool := false
  pred : BitVec 3 := 0
  ctr : BitVec 2 := 0
  rel : BitVec 2 := 0
  val : BitVec 16 := 0
deriving DecidableEq, Repr

/-- A loop register of a stream (R133). -/
structure LoopReg where
  active : Bool := false
  target : Nat := 0
  remain : Nat := 0
deriving DecidableEq, Repr

/-- A next-start register that holds a start (R130). -/
structure NextStart where
  nextFrame : Bool
  index : Nat
  tick : Nat
deriving DecidableEq, Repr

/-- What a stream waits for (R135, R136, R138, R152). -/
inductive WaitFor where
  | ccnt (k n deadline : Nat)
  | ready (bp q n deadline : Nat)
  | fill (q n deadline : Nat)
  | tick (t : Nat)
deriving DecidableEq, Repr

/-- A command stream (R126, R130, R133). `base` is the base cycle of the next command (Table 5-5), `ix` its index,
`started` the cycle of the last segment start + 1. -/
structure Stream where
  running : Bool := false
  abandoned : Bool := false
  ix : Nat := 0
  base : Nat := 0
  pc : Nat := 0
  lastIssue : Nat := 0
  next : Option NextStart := none
  loop0 : LoopReg := {}
  loop1 : LoopReg := {}
  wait : Option WaitFor := none
  started : Nat := 0
deriving DecidableEq, Repr

/-- A weight bank: its rows as loaded, words whose parity disagrees (32·row + word), and whether a load completed. -/
structure WBank where
  rows : Tbl Row := []
  bad : List Nat := []
  valid : Bool := false
deriving DecidableEq, Repr

/-- One 512-byte accumulator unit with its tags: mode, anchor and part number (R102), the status bits of its elements,
the stored residues of an anchored unit (R105) and the words of an FP32 unit whose parity disagrees. -/
structure AccUnit where
  anch : Bool := false
  a : BitVec 10 := 0
  part : Nat := 0
  data : BitVec 4096 := 0
  stat : BitVec 512 := 0
  resid : BitVec 96 := 0
  bad : List Nat := []
deriving DecidableEq, Repr

/-- A vector register of 64 lanes, with the lanes whose parity disagrees (R105). -/
structure VReg where
  data : BitVec 2048 := 0
  bad : List Nat := []
deriving DecidableEq, Repr

/-- A blowpipe queue: its direction (true: outbound), entries oldest first, entries that arrive in the present
cycle with their stream and command index, which enter as it ends (R139), READY and its two fault counts (R150). -/
structure Queue where
  outbound : Bool := false
  items : List Row := []
  incoming : List (Row × Nat × Nat) := []
  ready : Nat := 0
  overrun : Nat := 0
  underrun : Nat := 0
deriving DecidableEq, Repr

/-- A gaffer entry of the marver (R183 to R186): its row, image and byte mask, the cycle it was allocated, whether its
fill read has been made, whether it is to be written back, and the first cycle its next marver access may use. -/
structure MEntry where
  row : Nat
  img : Row
  mask : BitVec 128
  born : Nat
  filled : Bool
  wb : Bool
  from_ : Nat
deriving DecidableEq, Repr

/-- A gaffer load from the Crucible window that waits for its marver cycle (R185). -/
structure MLoad where
  row : Nat
  lo : Nat
  size : Nat
  signed : Bool
  rd : Nat
  from_ : Nat
deriving DecidableEq, Repr

/-- The store holding register of the marver (R186). -/
structure MStore where
  addr : Nat
  size : Nat
  value : Nat
deriving DecidableEq, Repr

/-- The gaffer: program counter, address of the instruction running (GAF_STAT.PC), registers x1 to x31, memories by word, words with a check-bit error (0 instruction
memory, 2^16 data memory: the value is the syndrome + 1, plus 1024 if uncorrectable), the cycle the next instruction
starts, the cycles to the last end-of-frame WAITTK (GAF_STAT.BUSY), the absolute tick WAITTK waits for, the last trap, gscratch, the halves latched by gttc and gstep (R158 to R170). -/
structure Gaffer where
  pc : Nat := 0
  cur : Nat := 0
  x : Tbl W32 := []
  imem : Tbl W32 := []
  dmem : Tbl W32 := []
  bad : Tbl Nat := []
  at_ : Nat := 0
  busy : Nat := 0
  waitTick : Option Nat := none
  stopped : Bool := false
  mcause : W32 := 0
  mtval : W32 := 0
  mepc : W32 := 0
  gscratch : W32 := 0
  ttch : W32 := 0
  steph : W32 := 0
  minstret : Nat := 0
  scrubI : Nat := 0
  scrubD : Nat := 0
deriving DecidableEq, Repr

/-- A datapath error of a stage of a column or lane that has not struck yet (R83 to R85). -/
structure PathErr where
  eng : Nat
  index : Nat
  stage : Nat
  delta : Int
deriving DecidableEq, Repr

/-- A residue mismatch that has been found and is not recorded yet (R85): the cycle of its record, the column or lane, the
predicted and the observed residue, the stage, and whether it was injected (R89). -/
structure ErrRep where
  at_ : Nat
  col : Nat
  pred : Nat
  obs : Nat
  stage : Nat
  inj : Bool
deriving DecidableEq, Repr

/-- Accumulator lines held: by a MATMUL in flight (a job) or by an MEOUT that still reads them (R91, R104). -/
structure AccHold where
  me : Nat
  u : Nat
  len : Nat
  until_ : Nat
  meout : Bool
  job : Nat
deriving DecidableEq, Repr

/-- The command word with which every command memory is filled beyond its section: SEG END, PSEL 0, POL 1 (R120). -/
def segEndWord : Cmd := 0x01F80000000000000000000000000000

/-- One core: whether the tile map places it, its tile and envelope. Tables: `ctrs` 4e+j and `cmps` 2e+i (e 0-8 engines, 9 the sequencer), `ccnt` completion counters, `strms`
the five streams, `holds` 16·engine+path to the end of the hold, `banks` 2·ME+bank, `acc` 512·ME+unit, `vregs`
16·VE+register, `descs` 64·VE+index (SE at 128), `queues` 4·BP+queue, `cmds` 32,768·stream+index and `cmdBad` its
check-bit errors, `audit` 32,768·stream+index, `epochs` by row, `scrubRow`, `scrubPass` and `marAt` (the cycle after the marver's last access) by bank. -/
structure Core where
  present : Bool := false
  tile : Nat := 0
  env : Nat := 0
  audited : Bool := false
  pred : BitVec 8 := 1
  ctrs : Tbl Ctr := []
  cmps : Tbl Cmp := []
  ccnt : Tbl Nat := []
  strms : Tbl Stream := []
  holds : Tbl Nat := []
  accHolds : List AccHold := []
  banks : Tbl WBank := []
  acc : Tbl AccUnit := []
  vregs : Tbl VReg := []
  descs : Tbl (BitVec 64) := []
  queues : Tbl Queue := []
  cmds : Tbl Cmd := []
  cmdBad : Tbl Nat := []
  cmdScrub : Tbl Nat := []
  audit : Tbl (BitVec 32) := []
  epochs : Tbl Nat := []
  scrubRow : Tbl Nat := []
  scrubPass : Tbl Nat := []
  marver : Tbl (Option MEntry) := []
  mstore : Option MStore := none
  mload : Option MLoad := none
  gaf : Gaffer := {}
  pathErrs : List PathErr := []
  marAt : Tbl Nat := []
deriving DecidableEq, Repr

/-- A command under way: the command as issued, its issue cycle, its stream and index, the counter terms of its row or
entry addresses, the descriptors it named, the weight bank it computes from, the rows it has read so far (keys fixed
by each operation), the register vectors it has read, its audit word, marks that its own operation sets, residue mismatches
not recorded yet, the lanes they poison, and the errors that struck its elements (R84, R85). -/
structure Job where
  cmd : Instr
  core : Nat
  strm : Nat
  index : Nat
  t0 : Nat
  term : Nat
  descs : List (BitVec 64)
  bank : WBank
  buf : Tbl Row
  vbuf : Tbl (BitVec 2048)
  audit : BitVec 32
  skip : Bool
  flag : Nat
  reps : List ErrRep := []
  lanes : List Nat := []
  hits : List (Nat × Int) := []
deriving DecidableEq, Repr

/-- One timed micro-operation of a job. Ports are the bits of the mask of fault 0x0501 (Table 7-8). -/
inductive Micro where
  /-- Read a Crucible row for operand `opnd` and keep it under `key`. -/
  | rdRow (port row opnd key : Nat)
  /-- PERMUTE: read the source row of output i under its range claim (R180). -/
  | rdSrc (i : Nat)
  /-- Write Crucible row `row`, the k-th row the job produces. -/
  | wrRow (port row k : Nat)
  /-- The SE claims the banks of a range of rows for this cycle (R180). -/
  | claim (base len : Nat)
  /-- Pop a spool row and keep it under `key` (R189). -/
  | spPop (spool key : Nat)
  /-- Push the job's row `key` onto a spool (R189). -/
  | spPush (spool key : Nat)
  /-- Pop a queue entry and keep it under `key` (R150). -/
  | qPop (bp q key : Nat)
  /-- The job's row `key` enters a queue (R150). -/
  | qPut (bp q key : Nat)
  /-- DROP counts one entry (R150). -/
  | qReady (bp q key : Nat)
  /-- Request a DRAM entry: entry address in 128-byte units; a read keeps the entry under `key`, a write writes it. -/
  | dReq (wr : Bool) (entry key : Nat)
  /-- GATHER requests entry e of index m (R215). -/
  | gReq (m e : Nat)
  /-- The entry with `key` lands in a BAU query buffer (R214). -/
  | qbPut (chan ofs key : Nat)
  /-- A BAU operation starts (R245). -/
  | bauStart
  /-- A request of a BAU operation: slice entry number and write flag (Table 9-7). -/
  | bauReq (wr : Bool) (i : Nat)
  /-- Read a vector register for operand `opnd`, vector v (R106). -/
  | regRd (ve reg opnd v : Nat)
  /-- Write the job's result vector v to a register (R106). -/
  | regWr (ve reg v : Nat)
  /-- The products of stream row i reach their accumulator lines (R103). -/
  | accRow (i : Nat)
  /-- The weight path deposits its row j (R99). -/
  | bankRow (me bank j : Nat)
  /-- MEIN writes line j once its rows are read (R104). -/
  | meinLine (j : Nat)
  /-- A packet's flit leaves the send port (R148). -/
  | flit (k : Nat)
  /-- A residue check of the job's column or lane reports (R85, R89). -/
  | resCheck
  /-- The host mover acts (R404 to R406): 0 its descriptors have arrived, 1 entry b of outbound transfer a is sent. -/
  | mover (what a b : Nat)
  /-- The job ends. -/
  | done
  /-- A completion counter increases (R135). -/
  | ccInc (k : Nat)
  /-- SETC CCOUNT's value, which the increments of its cycle do not reach (Table 5-6). -/
  | ccSet (k v : Nat)
  /-- A comparator of an engine writes its predicate bit (R95). -/
  | cmpWrite (bit : Nat) (v : Bool) (eng : Nat)
  /-- The gaffer writes a predicate bit (R166). -/
  | predw (bit : Nat) (v : Bool)
  /-- An arm of a next-start register, by SEG ARM (rd = 0) or by the gaffer (rd + 1), judged at the end of its cycle
  (R131). -/
  | arm (strm : Nat) (byGaffer : Bool) (rd : Nat) (n : NextStart)
  /-- The scrub reads a bank's next row in the first cycle of a pair, and writes a corrected row in the second (R195). -/
  | scrubRd (bank : Nat)
  | scrubWr (bank row : Nat)
  /-- The marver's access of a cycle goes to a gaffer entry: its fill read, or its write-back (R185, R186). -/
  | marver (e : Nat) (wb : Bool)
  /-- An ejection port writes payload row k of a packet (R267). -/
  | eject (plane row : Nat) (data : Row) (last : Option Nat)
deriving DecidableEq, Repr

/-- A micro-operation with its cycle, core and job. -/
structure Act where
  cyc : Nat
  core : Nat
  job : Nat
  op : Micro
deriving DecidableEq, Repr

/-- A bank of a DRAM channel (R213, R220, R222). -/
structure DBank where
  openRow : Option Nat := none
  lastAct : Option Nat := none
  acts : Nat := 0
  refUntil : Nat := 0
  defAt : Nat := 0
deriving DecidableEq, Repr

/-- A DRAM channel with its BAU: the cycles of recently accepted requests (R212), banks whose refresh was deferred
(R220), the patrol position, the entries read and skipped in this frame and its passes (R225), the cycle of the last deferred refresh, the highest activation count, the query
buffer and its words with bad parity (R244), the tag copies (R240), and the BAU's hold, job and counts (R245). -/
structure Chan where
  recent : List Nat := []
  deferred : List Nat := []
  patPos : Nat := 0
  patDone : Nat := 0
  patSkip : List Nat := []
  lastDef : Nat := 0
  patPass : Nat := 0
  actPeak : Nat := 0
  qbuf : Tbl Row := []
  qbad : List Nat := []
  tags : Tbl (BitVec 32) := []
  hold : Nat := 0
  job : Nat := 0
  lastBop : Nat := 0
  ops : Nat := 0
deriving DecidableEq, Repr

/-- A fault record (Table 0-5), whether a tail queue has taken it (R415), and whether the Keel has copied it (R411). -/
structure FaultRec where
  code : Nat
  sev : Nat
  cls : Nat
  idx : Nat
  ttc : Nat
  step : Nat
  env : Nat
  detail : BitVec 320
  stored : Bool := false
deriving DecidableEq, Repr

/-- The state of the step's vote (R14 to R16, R58, R59): void faults of this step and of the next, whether the vote is
fixed and how it was cast, the gathered bitmap and the void flag, the last round started, the decision taken for the
last step, whether this step replays a voided one, the last step committed, the last step this device decided with its
decision (commit), and the vote links on which its confirm message has gone (R59). -/
structure Vote where
  void : Bool := false
  nextVoid : Bool := false
  fixed : Bool := false
  castVoid : Bool := false
  bitmap : List Nat := []
  seen : Bool := false
  gather : Nat := 0
  decide : Nat := 0
  decided : Bool := false
  lastCommit : Bool := false
  replay : Bool := false
  voidRun : Nat := 0
  opened : Bool := false
  last : Nat := 0
  confirm : Option (Nat × Bool) := none
  confSent : List Nat := []
deriving DecidableEq, Repr

/-- A Bridle flit: its 1,024 data bits and HEAD, TAIL and ABORT (R263). -/
structure Flit where
  data : Row
  head : Bool
  tail : Bool
  abort : Bool
deriving DecidableEq, Repr

/-- A flit on its way: the cycle in which it passes the output of the router at `tile` on `plane`, and the port at which
it arrives there: a router input 0-6 (Table 10-1), or 8 an ejection port, 9 a link port, 10 a system port. -/
structure Flight where
  cyc : Nat
  plane : Nat
  tile : Nat
  port : Nat
  flit : Flit
deriving DecidableEq, Repr

/-- What a router input or a port is doing: 0 nothing, 1 in a packet, 2 draining; the packet's output, header and
flits so far, and the payload a link or system port has collected. -/
structure BIn where
  mode : Nat := 0
  out : Nat := 0
  hdr : Nat := 0
  k : Nat := 0
  rows : List Row := []
deriving DecidableEq, Repr

/-- A link packet (R279): kind, payload units, sequence number, planned send tick, start and owning link, destination row
and counter, payload rows, the cycle it became eligible, and how often it was replayed. -/
structure LPkt where
  kind : Nat
  units : Nat
  seq : Nat := 0
  stick : Nat := 0
  start : Nat := 0
  olink : Bool := false
  drow : Nat := 0
  ccnt : Nat := 0
  body : List Row := []
  born : Nat := 0
  replays : Nat := 0
deriving DecidableEq, Repr

/-- A DATA packet that waits in the lehr for its release cycle, with its receive half and the link whose table planned
it (R300). -/
structure LehrPkt where
  pkt : LPkt
  half : Nat
  table : Nat
  release : Nat
deriving DecidableEq, Repr

/-- A LANECTL unit to be sent (Table 11-4). -/
structure LaneCtl where
  op : Nat
  width : Nat
  sel : Nat
deriving DecidableEq, Repr

/-- One end of a link. The wire is free from twentieth-cycle `wire` on (a unit takes 4, 8 or 16 of them at x4, x2, x1).
`fq` the foreground queue, `mq` pending management messages with their priority, `elig` packets whose start became
eligible, `started` the cycle of the last start taken + 1, `unacked` the replay buffer, `replay` what is to be replayed
from cycle `replayAt`; `gap` and `search` of R282 and R284; `uncov` accepted packets no LINKCTL covers; credits sent and
granted for each class and those this end grants (R288); `dups` (tick of acceptance, STICK, START) of R301; `attempt`
the uptime a retrain attempt began, `rejoinAt` the tick of the rejoin and `upSince` that tick until a full frame has run (R291, R292); `wStage` of a width change: 1 draining,
2 requested, 3 WIDTH_GO sent, and `wHold` an abandoned request that waits for a rejoin (R293); `ident` what the far end's IDENT named. -/
structure LinkS where
  elig : List LPkt := []
  fq : List LPkt := []
  mq : List (Nat × LPkt) := []
  lanes : List LaneCtl := []
  wire : Nat := 0
  txNext : Nat := 0
  unacked : List LPkt := []
  replay : List Nat := []
  replayAt : Nat := 0
  lastAdv : Nat := 0
  rxNext : Nat := 0
  gap : Bool := false
  search : Bool := false
  started : Nat := 0
  uncov : Nat := 0
  uncovAt : Nat := 0
  ctlDue : Bool := false
  nakDue : Bool := false
  sentD : Nat := 0
  grantD : Nat := 0
  sentM : Nat := 0
  grantM : Nat := 0
  ownD : Nat := 0
  ownM : Nat := 0
  lehr : List LehrPkt := []
  dups : List (Nat × Nat × Bool) := []
  failTick : Nat := 0
  attempt : Nat := 0
  rejoinAt : Option Nat := none
  upSince : Option Nat := none
  wStage : Nat := 0
  wHold : Bool := false
  ident : Option (Nat × Nat) := none
  ranged : Bool := false
  syncNo : Nat := 0
  syncWait : Option Nat := none
  syncAt : Nat := 0
  epochAt : Nat := 0
  delays : List Int := []
  offs3 : List Int := []
deriving DecidableEq, Repr

/-- Tether acquisition and the reference inputs (R47, R54 to R56): acquisition is on, the uptime of its first answer, the
offsets taken, the references lost since the start, the source a switch takes at the next tick, the TTC and the
uptime of holdover entry, whether its excess has been recorded, and the alarm comparators whose value was in the future
when written and has not fired (R49). -/
structure Tether where
  acqOn : Bool := false
  acqFrom : Option Nat := none
  acqOffs : List Int := []
  lostA : Bool := false
  lostB : Bool := false
  refNext : Option Nat := none
  holdTtc : Nat := 0
  holdUp : Nat := 0
  holdDone : Bool := false
  armed : List Nat := []
deriving DecidableEq, Repr

/-- A remote operation of this device (R305, R307): its requester `who` (0 commit engine, 1 Keel, 2 pod relay, 3 the commit engine in an earlier step), its
mirrored item (Table 14-4), its deadline tick and the reissues it has left. -/
structure RopOp where
  op : Nat
  seq : Nat
  bytes : Nat
  env : Nat
  addr : Nat
  data : BitVec 1920
  deadline : Nat
  left : Nat
  who : Nat
  item : Nat
deriving DecidableEq, Repr

/-- A remote-operation engine, one per partner pair (R305 to R307): the next RWSEQ, operations outstanding and waiting,
packets to send, and as a target the highest RWSEQ accepted with the marks of its window. -/
structure RopS where
  next : Nat := 0
  out : List RopOp := []
  wait : List RopOp := []
  sendQ : List LPkt := []
  hi : Option Nat := none
  marks : List Nat := []
deriving DecidableEq, Repr

/-- A parity unit (R387): accumulator rows and counts, complete rows with the cycle of their release (LOCAL), and the
queue of completed rows (FORWARD). -/
structure PUnit where
  rows : Tbl Row := []
  counts : Tbl Nat := []
  due : List (Nat × Nat × Row) := []
  queue : List (Nat × Row) := []
deriving DecidableEq, Repr

/-- A training record of a stack or a link (R427): its settings are good by digest, the stack temperature of its
training. -/
structure TrainRec where
  valid : Bool := false
  temp : Nat := 0
deriving DecidableEq, Repr

/-- The package flash: two Keel firmware slots (R423), the slot that booted, the root public key (R442), the device
certificate (R443), two copies of the repair record (R425), training records by stack and link (R427), the start
configuration record (R426), FAILS and FIRST of the start record with the start counts (R435), the two floors (R448),
ACQ_WAIT, the watchdog period, and a thermal-trip record that the next start delivers (R474). -/
structure Flash where
  slots : List (List Byte) := [[], []]
  booted : Option Nat := none
  rootKey : List Byte := []
  devCert : List Byte := []
  repair : List (List Byte) := [[], []]
  stackTrain : Tbl TrainRec := []
  linkTrain : Tbl TrainRec := []
  startCfg : Option (Nat × Nat × Nat) := none
  fails : Nat := 0
  first : Nat := 0
  colds : Nat := 0
  reheats : Nat := 0
  fwFloor : Nat := 0
  parFloor : Nat := 0
  acqWait : Nat := 0
  wdog : Nat := 156250
  trip : Option FaultRec := none
deriving DecidableEq, Repr

/-- A cullet handle (R354 to R356): its last generation, the keeper, its pane list, the entries it froze itself, the
handles whose panes it uses, its users, the step of its expiry, whether its keeper still counts as a user, and whether
the lead core has listed its panes to be freed. -/
structure Handle where
  gen : Nat := 0
  live : Bool := false
  ended : Bool := false
  freeing : Bool := false
  keeper : Nat := 0
  keeperIn : Bool := false
  len : Nat := 0
  model : Nat := 0
  panes : List (BitVec 64) := []
  own : List (BitVec 64) := []
  uses : List Nat := []
  users : Nat := 0
  expiry : Option Nat := none
deriving DecidableEq, Repr

/-- A frit slot (R357, Table 13-8): 0 FREE, 1 LOADING, 2 RESIDENT; the family's version in it; the request that loads it
with its ring and cookie, where its data lands, how much has landed, its digest; and whether its count was zero after the last commit (R362). -/
structure Frit where
  st : Nat := 0
  family : Nat := 0
  version : Nat := 0
  dflt : Bool := false
  lsn : Nat := 0
  ring : Nat := 0
  cookie : Nat := 0
  kind : Nat := 0
  addr : Nat := 0
  bytes : Nat := 0
  landed : Nat := 0
  digest : Nat := 0
  zero : Bool := false
deriving DecidableEq, Repr

/-- A request in the ledger (R334, R342): its LSN, ring, RSEQ, intake status, executing core, record and step. -/
structure Taken where
  lsn : Nat
  ring : Nat
  rseq : Nat
  status : Nat
  core : Nat
  step : Nat
  rec_ : List Byte
deriving DecidableEq, Repr

/-- An APPEND whose positions have not all committed (R351): stream, request, first position, count, and the positions
for which pane slots are free. -/
structure AppReq where
  stream : Nat
  lsn : Nat
  ring : Nat
  cookie : Nat
  first : Nat
  count : Nat
  room : Option Nat
deriving DecidableEq, Repr

/-- The generation of a stream: LSN, ring and cookie of the APPEND that started it, and the last token drawn: position,
token, value, end reason. -/
structure Gen where
  lsn : Nat := 0
  ring : Nat := 0
  cookie : Nat := 0
  drawn : Bool := false
  pos : Nat := 0
  tok : Nat := 0
  val : Nat := 0
deriving DecidableEq, Repr

/-- What an envelope's serving state commits as one (R32): handles, frit slots, retired families, unfinished APPENDs and
generations. `todo` are the accepted requests of the last step, in LSN order. -/
structure SrvC where
  handles : Tbl Handle := []
  frits : Tbl Frit := []
  retired : List Nat := []
  apps : List AppReq := []
  gens : Tbl Gen := []
  todo : List Taken := []
deriving DecidableEq, Repr

/-- A ring pair (R332, R337): registered addresses and sizes, the sequence numbers, HEAD and the CSEQs posted, the
posting queue, DONE reservations, and whether it was the twin's before a takeover. -/
structure Ring where
  reg : Bool := false
  sub : Nat := 0
  cmp : Nat := 0
  headA : Nat := 0
  consA : Nat := 0
  cfg : Nat := 0
  nextR : Nat := 0
  nextC : Nat := 0
  head : Nat := 0
  posted : Nat := 0
  queue : List (Nat × BitVec 512) := []
  resv : Nat := 0
  twin : Bool := false
deriving DecidableEq, Repr

/-- A registered host range of an envelope (R403). -/
structure HRange where
  reg : Bool := false
  base : Nat := 0
  cfg : Nat := 0
deriving DecidableEq, Repr

/-- A registration entry (Table 15-4). -/
structure RegEnt where
  obj : Nat
  op : Nat
  status : Nat
  vals : List Nat
  step : Nat
  lsn : Nat
deriving DecidableEq, Repr

/-- A snapshot (R334): its phase (1, 2 reads outstanding, 3 taken), step, the tick its reads were issued, the outstanding
reads, what returned, the requests taken and the registration entries. -/
structure Snap where
  phase : Nat := 0
  step : Nat := 0
  at_ : Nat := 0
  out : List Nat := []
  got : Tbl (List Byte) := []
  reqs : List Taken := []
  regs : List RegEnt := []
deriving DecidableEq, Repr

/-- An envelope's serving block (chapter 13): committed and pending state, rings, ranges, pending registrations
(object to operation and staged values), the snapshot, the LSN sequences (its own, and the twin's after a takeover), ledger units committed and exported, the export
mark, what each ring had queued and reserved at the step's start, rings held before the step, writes of the last posting,
records of this step, the pane change records its rows listed with the entries they leave, and whether vector 17 is due. -/
structure Srv where
  c : SrvC := {}
  p : SrvC := {}
  rings : Tbl Ring := []
  hranges : Tbl HRange := []
  req : Tbl (Option (Nat × List Nat)) := []
  snap : Snap := {}
  nextLsn : Nat := 0
  nextLsnT : Nat := 0
  units : Nat := 0
  exported : Nat := 0
  mark : Nat := 0
  q0 : Tbl Nat := []
  heldPrev : List Nat := []
  posts : List (Nat × Nat × Nat × BitVec 512) := []
  dones : List (Nat × Nat × Nat) := []
  toks : List (Nat × Nat × Nat) := []
  panes : List (Nat × Nat × Nat) := []
  executed : List Nat := []
  regPost : Bool := false
  ringStatus : Tbl Nat := []
  rangeStatus : Nat := 0
deriving DecidableEq, Repr

/-- A vote on a subject (R374): its start V, cause, DOWN and UP bits by electorate number, the first round in which this
elector sends, and the last round it sent in. -/
structure CrlVote where
  subject : Nat
  v : Nat
  cause : Nat
  down : Nat
  up : Nat
  from_ : Nat
  sent : Nat
deriving DecidableEq, Repr

/-- A subject decided DOWN or reported, with its cause and action tick; `forced` is a PROMOTE of the Keel (R375 to
R377, R380). -/
structure CrlDec where
  subject : Nat
  cause : Nat
  tick : Nat
  forced : Bool
deriving DecidableEq, Repr

/-- An action-table entry (Table 14-3). -/
structure ActEnt where
  a : Nat
  b : Nat
  causes : Nat
  from_ : Nat
  action : Nat
  variant : Nat
deriving DecidableEq, Repr

/-- What the step's own commit has changed and the rest of its frame still sees as it was (R32): stream-table words, frit
reference counts and the serving state of each envelope. -/
structure Shown where
  strmTab : Tbl W32 := []
  fritRefs : Tbl W32 := []
  srvs : Tbl Srv := []
deriving DecidableEq, Repr

/-- Crownline: the devices heard in the present window, windows ended, the window of the last heartbeat sent (+ 1),
consecutive misses by device, windows of isolation, open votes, the window before which no new vote on a device starts,
decisions and reports, floods seen (type, sender, subject, V), a CLAIM to be flooded, absentees of the last void steps
(R36), the variant that starts with the next frame, wear scores by part, corrected codewords counted by link, the last
wear tick, SECCHK senders and whether one of them forbids launch (R449). -/
structure Crl where
  heard : List Nat := []
  win : Nat := 0
  hbWin : Nat := 0
  miss : Tbl Nat := []
  iso : Nat := 0
  votes : List CrlVote := []
  noVote : Tbl Nat := []
  decs : List CrlDec := []
  seen : List (Nat × Nat × Nat × Nat) := []
  claim : Bool := false
  absent : List (List Nat) := []
  nextVar : Option Nat := none
  wear : Tbl Nat := []
  fec : Tbl Nat := []
  wearAt : Nat := 0
  secOk : List Nat := []
  secBad : Bool := false
deriving DecidableEq, Repr

/-- A lead's reads of one member ring (R409): member, envelope, ring, record addresses and size, first RSEQ, the reads
outstanding and what returned. -/
structure Relay where
  member : Nat
  env : Nat
  ring : Nat
  sub : Nat
  log2 : Nat
  first : Nat
  phase : Nat
  out : List Nat
  got : Tbl (List Byte)
deriving DecidableEq, Repr

/-- A host window beside its DRM_GWIN register (item 10): envelope, descriptor entries, MAXENT, the table's entry
address, its place in the host buffer. -/
structure HWin where
  env : Nat := 0
  ndesc : Nat := 0
  maxent : Nat := 0
  table : Nat := 0
  bufOfs : Nat := 0
  bufLen : Nat := 0
deriving DecidableEq, Repr

/-- The shadow copies of the plan's tables (R314): the table bits of their registers, and the host windows. -/
structure Shadow where
  regs : Tbl Reg := []
  hwins : Tbl HWin := []
deriving DecidableEq, Repr

/-- A host transfer of the frame (R405, R406): window (16 · stack + w), descriptor, envelope, direction, landing window,
first DRAM entry, first host address, entries; whether it is performed, started, judged late; the entries that have
returned (inbound) and how many were sent or landed. -/
structure Xfer where
  win : Nat
  desc : Nat
  env : Nat
  outw : Bool
  land : Nat
  entry : Nat
  host : Nat
  n : Nat
  ok : Bool
  started : Bool := false
  late : Bool := false
  got : Tbl Row := []
  have_ : List Nat := []
  doneN : Nat := 0
deriving DecidableEq, Repr

/-- An image copy of the Keel (R412): 1 LOAD, 2 FWIMG; the reads outstanding and what returned. -/
structure Copy where
  kind : Nat
  len : Nat
  out : List Nat
  got : Tbl (List Byte)
deriving DecidableEq, Repr

/-- A mailbox command that the Keel has accepted and not answered: SEQ, CMD and ARG0 to ARG7 (R412). -/
structure KCmd where
  seq : Nat
  cmd : Nat
  args : List Nat
deriving DecidableEq, Repr

/-- A tail-queue partition: records held, oldest first, as kind and words; the read buffer with the words already read; the
interval of the last fault 0x0D05 (+ 1) (R414 to R417). -/
structure TqPart where
  recs : List (Nat × List (BitVec 64)) := []
  bufKind : Nat := 0
  buf : List (BitVec 64) := []
  pos : Nat := 0
  lastOver : Nat := 0
deriving DecidableEq, Repr

/-- A start under way: the repair record being built, the code of a defect that stops it after stage 2, training results
that wait for stage 9 (R424, R425, R427), and the stacks that confirmed self-refresh (R430). -/
structure Boot where
  record : List Byte := []
  bad : Nat := 0
  trainStack : Tbl TrainRec := []
  trainLink : Tbl TrainRec := []
  asleep : List Nat := []
deriving DecidableEq, Repr

/-- What the part sends out: messages, host writes, interrupts, pin drives, in the order of sending. -/
inductive Out where
  /-- A packet leaves a link's transmitter: its header with CRC, and its payload units' rows (R279). -/
  | packet (link : Nat) (hdr : BitVec 128) (units : Nat) (body : List Row)
  /-- A control unit leaves a link's transmitter (R280). -/
  | ctl (link : Nat) (unit : BitVec 128)
  /-- An interrupt to the Keel with its cause number. -/
  | keelIrq (cause : String) (n : Nat)
  /-- A TSYNC pin is driven high for the tick (R43). -/
  | tsync (pinB : Bool) (ttc : Nat)
  /-- A Crucible row that a Keel read returned (R202). -/
  | keelRow (core row : Nat) (data : Row)
  /-- An MSI-X message of a function: vector, address, data (R400, R408). -/
  | msix (fn vector addr data : Nat)
  /-- A posted write to host memory in a function's ordered stream (R400). -/
  | hostWrite (fn addr : Nat) (data : List Byte)
  /-- A read of host memory: the request's number, function, address and length (R396). -/
  | hostRead (tag fn addr len : Nat)
  /-- The data of an answered remote read (R306, R307). -/
  | ropDone (pair rwseq status : Nat) (data : BitVec 1920)
  /-- The data of a register read: the reading function, the address, the data (R8, R402). -/
  | regData (fn addr value : Nat)
deriving DecidableEq, Repr

/-- The whole part. -/
structure State where
  /-- Commands waiting, first in, first out (the model's interface to its senders). -/
  pending : List Instr
  /-- Cycle phase within the tick TT_COUNT (R42). -/
  phase : Nat
  /-- Registers by device address. -/
  regs : Tbl Reg
  /-- DRAM and Crucible bytes by device address (R7). -/
  mem : List Host.Cell
  /-- Crucible words (device address / 16) with a check-bit error: syndrome + 1, plus 1,024 if uncorrectable. -/
  ecc : Tbl Nat
  /-- DRAM sectors (device address / 64) with byte errors: position and flip. -/
  sec : Tbl (List (Nat × Nat))
  /-- DRAM sectors found uncorrectable, with the step of the finding (R224). -/
  uncSec : Tbl Nat
  /-- Patrol corrections per DRAM sector, for the third-pass rule (R226). -/
  patCorr : Tbl Nat
  cores : Tbl Core
  chans : Tbl Chan
  dbanks : Tbl DBank
  acts : List Act
  jobs : Tbl (Option Job)
  nextJob : Nat
  /-- The model's own counter behind free values (log entry 2). -/
  free : Nat
  faults : List FaultRec
  /-- Fault records that the last wear update has counted (R390). -/
  wearMark : Nat
  /-- Fault records in which the Keel has looked for failed tiles (R25). -/
  tileMark : Nat
  /-- The device stopped for the Keel by a severity-4 fault (R14). -/
  halted : Bool
  /-- Crownline is asked to evacuate the device (R14). -/
  evacuate : Bool
  vote : Vote
  sent : List Out
  /-- Committed stream-table words, 16·stream + word (R167). -/
  strmTab : Tbl W32
  /-- Pending stream-table words of this step (R167). -/
  strmPend : Tbl (Option W32)
  /-- Home core + 1 of each stream (R167). -/
  home : Tbl Nat
  /-- Committed frit reference counts and this step's deltas (R169). -/
  fritRefs : Tbl W32
  fritDelta : Tbl Int
  /-- Soft-repair candidates recorded, as (channel · 16 + bank, row) (R226), and spare rows in use per bank. -/
  repairCand : List (Nat × Nat)
  /-- The sectors recorded as candidates since the last repair: 2 · entry + half (R226). -/
  candSecs : List Nat
  spareRows : Tbl Nat
  /-- Flits in flight on the Bridle (R266). -/
  flights : List Flight
  /-- Router inputs and ports, (72·plane + tile)·16 + port. -/
  bins : Tbl BIn
  /-- First free cycle of a router output, (72·plane + tile)·8 + output (R269). -/
  bbusy : Tbl Nat
  /-- Next sequence number, source·256 + destination, each kind·64 + index (R265). -/
  bseq : Tbl Nat
  /-- Receive records, core·256 + source: packets in the frame + 65,536 · last SEQ (R265). -/
  brx : Tbl Nat
  /-- Slot-table entries whose parity fails: register byte addresses (R270, R297). -/
  slotBad : List Nat
  /-- The links (chapter 11). -/
  links : Tbl LinkS
  /-- Packets that have arrived at a system port: port, header, payload (R267). -/
  sysIn : List (Nat × Nat × List Row)
  tether : Tether
  /-- Management payloads on their way to the root: the cycle from which it can read them, link, rows (R44). -/
  rootIn : List (Nat × Fin 24 × List Row)
  /-- The committed tables as the step sees them until its frame ends, once the decision tick has replaced them (R32). -/
  shown : Option Shown
  /-- Vote links (Table 12-16, item 13). -/
  voteLinks : Nat
  /-- Fleet devices no longer on the plan: the evicted set (R378). -/
  evicted : List Nat
  /-- Yaw increments of the present step: reference switch, Crownline outcome, takeover (R20). -/
  yawRef : Nat
  yawCrl : Nat
  yawTake : Nat
  /-- Stacks whose temperature raised a thermal event to Crownline (R221). -/
  thermal : List Nat
  /-- Narrower or misaligned register accesses, by the owning block's base address (R8). -/
  narrow : Tbl Nat
  /-- Remote-operation engines, by partner pair (R305). -/
  rops : Tbl RopS
  /-- Remote windows (item 8 of Table 12-16): pair · 16 + envelope to (address, bytes) (R306). -/
  rwins : Tbl (Nat × Nat)
  /-- Parity units, by link (R387). -/
  punits : Tbl PUnit
  /-- The ownership table (R319): (class, index, first, count, feature). -/
  owners : List (Nat × Nat × Nat × Nat × Nat)
  /-- Report causes of Table 14-2 that arose in the present heartbeat window (R376). -/
  causes : List Nat
  /-- DRAM ranges of the DRAM layout (item 9 of Table 12-16): kind · 65,536 + index to (base, length). -/
  ranges : Tbl (Nat × Nat)
  /-- Mirrored writes of the twin that wait for the step's outcome: address and bytes (R381). -/
  twinPend : List (Nat × List Byte)
  flash : Flash
  /-- KEL_UPTIME at the beginning of the running start stage (R422). -/
  stageAt : Nat
  /-- The die-to-die attachment: 0 full rate, 1 half rate, 2 down (R397). -/
  ucie : Nat
  /-- Vectors fired in the present step: function · 32 + vector (R408). -/
  fired : List Nat
  /-- Mirrored items of this step whose remote write failed or was refused, as envelope and item (R344, R381). -/
  mirrorBad : List (Nat × Nat)
  /-- Management routes: destination to the links of its hops (item 14 of Table 12-16). -/
  routes : Tbl (List Nat)
  /-- Train members: position and device (item 15). -/
  train : List (Nat × Nat)
  /-- Serving blocks, by envelope. -/
  srvs : Tbl Srv
  /-- Envelope keys of the parison, 32 bytes (R445). -/
  envKeys : Tbl (List Byte)
  /-- Cores whose change list the serving rows started in this step. -/
  listed : List Nat
  /-- Adopted streams whose state is not rebuilt yet (R385). -/
  heldStreams : List Nat
  crl : Crl
  /-- The electorates this device votes in, by subject, ascending (R369). -/
  electors : Tbl (List Nat)
  /-- The action table (R377). -/
  actTab : List ActEnt
  /-- Takeover homes: the twin's streams and their cores here (item 16). -/
  takeHomes : List (Nat × Nat)
  /-- Positions of held streams still to be rebuilt (R385). -/
  heldLeft : Tbl Nat
  /-- A lead's relay reads, and the consumed words members sent back, by (member · 16 + envelope) · 16 + ring (R409). -/
  relays : List Relay
  relayC : Tbl Nat
  hwins : Tbl HWin
  /-- The shadow copies of the tables (R314). -/
  shadow : Shadow
  /-- Host transfers of the frame, and the windows whose MAXENT refused one (R404). -/
  xfers : List Xfer
  hfull : List Nat
  copy : Option Copy
  /-- Relayed records forwarded and posted in this frame (R409, R410). -/
  podFwd : Nat
  podPost : Nat
  /-- The image in the load staging range (R321), the last image loaded (R433), and the last image launched (R434, R454). -/
  staged : List Byte
  img : List Byte
  ran : List Byte
  /-- The seed in the root domain's key store, and with it every key derived from it (R441, R442). -/
  keys : Option (List Byte)
  /-- The Keel: the command under way, KEL_UPTIME of the last poll and of the last kick, the PF fault-log level, the tail-queue
  partitions, a NEXT read that stalls it (partition, cycle), and a COLD that waits for the end of a stage (R412 to R418, R438). -/
  kcmd : Option KCmd
  polled : Option Nat
  kick : Nat
  logLevel : Nat
  tqs : Tbl TqPart
  stall : Option (Nat × Nat)
  coldDue : Bool
  /-- Pins: RESET_N and PWR_GOOD are high; THERMTRIP_N is driven low (R467, R468, R474). -/
  rstn : Bool
  pwrGood : Bool
  thermtrip : Bool
  boot : Boot
  /-- The JTAG port's instruction: 0 IDCODE, 1 BYPASS, 2 SAMPLE/PRELOAD, 3 EXTEST; and what EXTEST drives (R464). -/
  jtag : Nat
  jtagDrive : Option (List Bool)
  /-- Energy accounts: LAST, PEAK, OVER and WINDOW of each, as PWR_ACCT_DATA shows them (R471), and the tick after the one
  of the last window's end. -/
  accts : Tbl Reg
  acctAt : Nat
deriving DecidableEq, Repr

/-- The device address of a register of the Tether block (R60). -/
def ttA (off : Nat) : Nat := 0x020000010000 + off
/-- The device address of a clock register (R60). -/
def clkA (off : Nat) : Nat := 0x020000011000 + off

/-- The part right after reset: every register reads its reset value, which an unlisted register does (R11; ENG_PRED's
1 is the initial predicate file of a core, R118), memory lists nothing, and no command waits. -/
def State.reset : State where
  pending := []
  phase := 0
  regs := []
  mem := []
  ecc := []
  sec := []
  uncSec := []
  patCorr := []
  cores := []
  chans := []
  dbanks := []
  acts := []
  jobs := []
  nextJob := 0
  free := 0
  faults := []
  wearMark := 0
  tileMark := 0
  halted := false
  evacuate := false
  vote := {}
  sent := []
  strmTab := []
  strmPend := []
  home := []
  fritRefs := []
  fritDelta := []
  repairCand := []
  candSecs := []
  spareRows := []
  flights := []
  bins := []
  bbusy := []
  bseq := []
  brx := []
  slotBad := []
  links := []
  sysIn := []
  tether := {}
  rootIn := []
  shown := none
  voteLinks := 0
  evicted := []
  yawRef := 0
  yawCrl := 0
  yawTake := 0
  thermal := []
  narrow := []
  rops := []
  rwins := []
  punits := []
  owners := []
  causes := []
  ranges := []
  twinPend := []
  flash := {}
  stageAt := 0
  ucie := 0
  fired := []
  mirrorBad := []
  routes := []
  train := []
  srvs := []
  envKeys := []
  listed := []
  heldStreams := []
  crl := {}
  electors := []
  actTab := []
  takeHomes := []
  heldLeft := []
  relays := []
  relayC := []
  hwins := []
  shadow := {}
  xfers := []
  hfull := []
  copy := none
  podFwd := 0
  podPost := 0
  staged := []
  img := []
  ran := []
  keys := none
  kcmd := none
  polled := none
  kick := 0
  logLevel := 0
  tqs := []
  stall := none
  coldDue := false
  rstn := false
  pwrGood := true
  thermtrip := false
  boot := {}
  jtag := 0
  jtagDrive := none
  accts := []
  acctAt := 0

end Sys2Proof.Machine
end

