-- ==== Sys2Proof/Machine/Ops.lean ====
section
/-!
DEFINITION. Machine/Ops.lean: the named operations over the state that every family shares: registers by address and
field, time, fault records and what a severity does, a core and its parts, the agenda of micro-operations.
-/
namespace Sys2Proof.Machine
open Sys2Proof

/-! ### Registers (R8 to R11) -/

/-- The stored value of a register. -/
def rg (s : State) (a : Nat) : Nat := (tget 0 s.regs a).toNat
/-- The state with a register stored. -/
def setRg (s : State) (a v : Nat) : State := { s with regs := tset 0 s.regs a (BitVec.ofNat 64 v) }
/-- Field [lo + w - 1 : lo] of a register. -/
def rf (s : State) (a lo w : Nat) : Nat := fld (rg s a) lo w
/-- The state with a field of a register stored. -/
def setRf (s : State) (a lo w v : Nat) : State := setRg s a (setFld (rg s a) lo w v)
/-- A saturating counter field grows by n (the fault and event counters of every block saturate). -/
def bumpBy (s : State) (a lo w n : Nat) : State := setRf s a lo w (min (2 ^ w - 1) (rf s a lo w + n))
/-- A saturating counter field grows by one. -/
def bump (s : State) (a lo w : Nat) : State := bumpBy s a lo w 1

/-- ENG_ registers of a core (R88, R118). -/
def engA (c off : Nat) : Nat := 0x020001000000 + c * 0x10000 + off
/-- CMD_ registers of a core (R155). -/
def cmdA (c off : Nat) : Nat := 0x020001001000 + c * 0x10000 + off
/-- BP_ registers of a core's blowpipe (R155). -/
def bpA (c b off : Nat) : Nat := 0x020001002000 + c * 0x10000 + 0x100 * b + off
/-- GAF_ registers of a core (R173). -/
def gafA (c off : Nat) : Nat := 0x020001003000 + c * 0x10000 + off
/-- CRU_ registers of a core (R203). -/
def cruA (c off : Nat) : Nat := 0x020001004000 + c * 0x10000 + off
/-- DRM_ registers of a stack (R231). -/
def drmA (k off : Nat) : Nat := 0x020002000000 + k * 0x10000 + off
/-- BAU_ registers of a stack (R256). -/
def bauA (k off : Nat) : Nat := 0x020003000000 + k * 0x10000 + off

/-- KEL_ registers (R419, R439). -/
def kelA (off : Nat) : Nat := 0x020000019000 + off
/-- PAR_ registers (R329). -/
def parA (off : Nat) : Nat := 0x020000012000 + off
/-- LNK_ registers of a link (R309). -/
def lnkA (n off : Nat) : Nat := 0x020005000000 + n * 0x10000 + off

/-! ### Time (R3 to R5, R42, R46) -/

/-- TT_COUNT. -/
def ttc (s : State) : Nat := rg s (ttA 0x000)
/-- The cycle stamp TTC × 8 + phase, modulo 2^64 (R43). -/
def stamp (s : State) : Nat := (ttc s * 8 + s.phase) % 2 ^ 64
/-- The cycles since power-up: KEL_UPTIME × 8 + phase (R439). Schedules use it, since TT_COUNT reads 0 until it is
acquired (R46). -/
def now (s : State) : Nat := rg s (kelA 0x110) * 8 + s.phase
/-- STEP (R46). -/
def stepNo (s : State) : Nat := rf s (ttA 0x008) 0 48
/-- LAUNCH_TTC. -/
def launchT (s : State) : Nat := rg s (ttA 0x010)
/-- F, the frame length in tt. -/
def frameLen (s : State) : Nat := rf s (ttA 0x01C) 0 23
/-- C, the commit-window length in tt. -/
def cwLen (s : State) : Nat := rf s (ttA 0x020) 0 16
/-- VOTE_OFS, ROUND_LEN, ROUNDS (TT_CW_CFG). -/
def voteOfs (s : State) : Nat := rf s (ttA 0x024) 0 12
/-- ROUND_LEN in tt. -/
def roundLen (s : State) : Nat := rf s (ttA 0x024) 12 12
/-- ROUNDS. -/
def rounds (s : State) : Nat := rf s (ttA 0x024) 24 5
/-- LAUNCHED (TT_CTRL). -/
def launched (s : State) : Bool := rf s (ttA 0x018) 3 1 == 1
/-- The first tick of the current step's window (R5). -/
def frameStartT (s : State) : Nat := launchT s + stepNo s * frameLen s
/-- The tick offset in the current frame. -/
def frameTick (s : State) : Nat := ttc s - frameStartT s
/-- The frame offset in cycles (chapter 5, "Issue timing"). -/
def frameCyc (s : State) : Nat := frameTick s * 8 + s.phase
/-- The absolute cycle of phase 0 of a tick offset of the current frame. -/
def ofsCyc (s : State) (t : Nat) : Nat := now s + 8 * t - frameCyc s
/-- The plan is running: launched and not halted (R14, R48). -/
def planOn (s : State) : Bool := launched s && !s.halted
/-- The current tick lies in the commit window (R5). -/
def inCommit (s : State) : Bool := decide (frameLen s - cwLen s ≤ frameTick s)
/-- The decision tick's offset in the frame (R58). -/
def decisionOfs (s : State) : Nat := frameLen s - cwLen s + voteOfs s + 2 * rounds s * roundLen s

/-! ### Fault records (R12 to R17) -/

/-- Forty detail bytes from (byte, size in bytes, value). -/
def det (l : List (Nat × Nat × Nat)) : BitVec 320 := BitVec.ofNat 320 (pack (l.map fun e => (8 * e.1, 8 * e.2.1, e.2.2)))

/-- What a severity does to the step's vote: a void fault found after the commit vote was cast counts for the next
step, and a severity of 3 or 4 there counts for both (R14, R16). -/
def voteFault (sev : Nat) (v : Vote) : Vote :=
  if sev < 2 then v
  else if v.fixed && !v.castVoid then
    (if sev = 2 then { v with nextVoid := true } else { v with nextVoid := true, void := true, seen := true })
  else { v with void := true }

/-- Every detected fault: one record, and the action of its severity with every lower one (R12, R14, R15). -/
def raise (s : State) (code sev cls idx env : Nat) (detail : BitVec 320) : State :=
  { s with
    faults := s.faults ++ [{ code := code, sev := sev, cls := cls, idx := idx, ttc := ttc s, step := stepNo s, env := env, detail := detail }]
    vote := voteFault sev s.vote
    evacuate := s.evacuate || decide (3 ≤ sev)
    halted := s.halted || decide (4 ≤ sev) }

/-- A trip reading (R474): THERMTRIP_N low, no further step or vote, and the record goes to flash for the next start. -/
def thermalTrip (s : State) (cls ix sensor celsius : Nat) : State :=
  if s.thermtrip then s
  else
    let r : FaultRec := { code := 0x1004, sev := 4, cls := cls, idx := ix, ttc := ttc s, step := stepNo s, env := 0xFFFF, detail := det [(0, 1, sensor), (1, 1, celsius)] }
    { s with thermtrip := true, halted := true, evacuate := true, vote := voteFault 4 s.vote, flash := { s.flash with trip := some r } }

/-! ### Cores -/

/-- A core's state. -/
def core (s : State) (c : Nat) : Core := tget {} s.cores c
/-- The state with a core changed. -/
def modCore (s : State) (c : Nat) (f : Core → Core) : State := { s with cores := tset {} s.cores c (f (core s c)) }
/-- The site of a core (R22). -/
def siteOf (c : Nat) : Nat := c / 5

/-- A fault of a core's unit, in the core's envelope. -/
def raiseCore (s : State) (c code sev cls idx : Nat) (d : List (Nat × Nat × Nat)) : State :=
  raise s code sev cls idx (core s c).env (det ((0, 2, c) :: d))
/-- A fault with the core's physical tile as its source (class 0x01). -/
def raiseTile (s : State) (c code sev : Nat) (d : List (Nat × Nat × Nat)) : State :=
  raiseCore s c code sev 0x01 (core s c).tile d
/-- A fault with an engine of a core as its source (class 0x02). -/
def raiseEng (s : State) (c e code sev : Nat) (d : List (Nat × Nat × Nat)) : State :=
  raiseCore s c code sev 0x02 (c * 16 + e) d

/-- One of a core's streams. -/
def strm (s : State) (c k : Nat) : Stream := tget {} (core s c).strms k
/-- The state with a stream changed. -/
def modStrm (s : State) (c k : Nat) (f : Stream → Stream) : State :=
  modCore s c fun x => { x with strms := tset {} x.strms k (f (tget {} x.strms k)) }
/-- A blowpipe queue. -/
def queue (s : State) (c b q : Nat) : Queue := tget {} (core s c).queues (4 * b + q)
/-- The state with a queue changed. -/
def modQueue (s : State) (c b q : Nat) (f : Queue → Queue) : State :=
  modCore s c fun x => { x with queues := tset {} x.queues (4 * b + q) (f (tget {} x.queues (4 * b + q))) }
/-- A completion counter. -/
def ccntOf (s : State) (c k : Nat) : Nat := tget 0 (core s c).ccnt k
/-- The state with a completion counter set. -/
def setCcnt (s : State) (c k v : Nat) : State :=
  modCore s c fun x => { x with ccnt := tset 0 x.ccnt k (v % 2 ^ 32) }

/-! ### Crucible rows (R175) -/

/-- The device address of a row's byte 0. -/
def rowAddr (c r : Nat) : Nat := 0x010000000000 + c * 0x1000000 + 128 * (r % 65536)
/-- The stored row. -/
def readRow (s : State) (c r : Nat) : Row := rowOf (readBytes s.mem (rowAddr c r) 128)
/-- The state with the words of a row that a mask selects written: word w is written if bit w of the mask is set
(R176). Written words get fresh check bits (R194). -/
def writeRow (s : State) (c r : Nat) (v : Row) (mask : Nat) : State :=
  forN 8 s fun w s =>
    if bitAt mask w then
      { s with mem := writeBytes s.mem (rowAddr c r + 16 * w) ((rowBytes v).drop (16 * w) |>.take 16)
               ecc := tset 0 s.ecc ((rowAddr c r) / 16 + w) 0 }
    else s

/-! ### DRAM entries (R206) -/

/-- The stored entry at a device address of 128-byte alignment. -/
def readEntry (s : State) (a : Nat) : Row := rowOf (readBytes s.mem a 128)
/-- The state with an entry written: both sectors get fresh check bytes. -/
def writeEntry (s : State) (a : Nat) (v : Row) : State :=
  { s with mem := writeBytes s.mem a (rowBytes v), sec := tset [] (tset [] s.sec (a / 64) []) (a / 64 + 1) [] }

/-! ### The agenda and jobs -/

/-- Nothing under way. -/
def noJob : Job :=
  { cmd := .frameStart, core := 0, strm := 0, index := 0, t0 := 0, term := 0, descs := [], bank := {}, buf := [], vbuf := [],
    audit := 0, skip := false, flag := 0 }
/-- A job. -/
def job (s : State) (j : Nat) : Job := (tget none s.jobs j).getD noJob
/-- The state with a job changed. -/
def modJob (s : State) (j : Nat) (f : Job → Job) : State := { s with jobs := tset none s.jobs j (some (f (job s j))) }
/-- A row a job has read; a row it has not read is absent. -/
def jobHas (x : Job) (k : Nat) : Bool := x.buf.any fun e => e.1 == k
/-- A row of a job's buffer. A zero row is kept like any other, so presence is by key. -/
def jobGet (x : Job) (k : Nat) : Row := tget 0 x.buf k
/-- A job with a row kept. -/
def keep (x : Job) (k : Nat) (r : Row) : Job := { x with buf := tput x.buf k r }
/-- The state with a new job and its micro-operations on the agenda. -/
def startJob (s : State) (x : Job) (ops : List (Nat × Micro)) : State :=
  { s with
    jobs := tset none s.jobs s.nextJob (some x)
    acts := s.acts ++ ops.map fun o => { cyc := o.1, core := x.core, job := s.nextJob, op := o.2 }
    nextJob := s.nextJob + 1 }
/-- The state with a micro-operation on the agenda. -/
def addAct (s : State) (a : Act) : State := { s with acts := s.acts ++ [a] }
/-- A fresh index for a free value. -/
def freshFree (s : State) : Nat × State := (s.free, { s with free := s.free + 1 })
/-- The state with a message sent. -/
def emit (s : State) (o : Out) : State := { s with sent := s.sent ++ [o] }

/-- A committed stream-table word and a frit count as the present step sees them: until its frame ends, as they were committed
at its start (R32, R167, R169). -/
def seenStrm (s : State) (k : Nat) : Nat := (tget 0 (match s.shown with | some x => x.strmTab | none => s.strmTab) k).toNat
/-- A frit count as the present step sees it. -/
def seenRefs (s : State) (k : Nat) : Nat := (tget 0 (match s.shown with | some x => x.fritRefs | none => s.fritRefs) k).toNat

end Sys2Proof.Machine
end

