-- ==== Sys2Proof/Machine/HostOps.lean ====
section
/-!
DEFINITION. Machine/HostOps.lean: the functions the part shows across the attachment (R396 to R401): BAR0 and
configuration registers, bus mastering, host reads and writes, MSI-X vectors.
-/
namespace Sys2Proof.Machine
open Sys2Proof

/-- BAR0 of a function: 0 the physical function, 1 to 16 the virtual ones (R398). The model keys BAR0 above the 48-bit
device address space. -/
def bar (f off : Nat) : Nat := 0x1000000000000 + f * 0x10000 + off
/-- PCI configuration space of a function (R396). -/
def cfgA (f off : Nat) : Nat := 0x2000000000000 + f * 0x1000 + off
/-- Bus mastering is enabled: Command register bit 2 (log entry 12). -/
def busMaster (s : State) (f : Nat) : Bool := rf s (cfgA f 0x004) 2 1 == 1
/-- A virtual function is enabled: VF Enable and NumVFs of the SR-IOV capability (log entry 12). -/
def vfOn (s : State) (f : Nat) : Bool := f == 0 || (rf s (cfgA 0 0x108) 0 1 == 1 && decide (f ≤ rf s (cfgA 0 0x110) 0 16))

/-- The device can reach host memory as the function (R397, R399). -/
def hostReach (s : State) (f : Nat) : Bool := s.ucie != 2 && busMaster s f && vfOn s f

/-- A posted write to host memory: none without bus mastering, lost on a link that is down (R397, R399). -/
def hostWrite (s : State) (f addr : Nat) (data : List Byte) : State :=
  if s.ucie = 2 || !busMaster s f then s else emit s (.hostWrite f addr data)

/-- The message of a vector goes out with its table entry's address and data. -/
def msixSend (s : State) (f v : Nat) : State :=
  emit s (.msix f v (rg s (bar f (0x8000 + 16 * v))) (rf s (bar f (0x8008 + 16 * v)) 0 32))

/-- A vector fires: at most once per step; HST_EVT is set with every firing; a masked vector sets its pending bit
(R408). -/
def msix (s : State) (f v : Nat) : State :=
  if launched s && s.fired.contains (f * 32 + v) then s
  else
    let s := setRf { s with fired := s.fired ++ [f * 32 + v] } (bar f 0x010) v 1 1
    if bitAt (rg s (bar f (0x8008 + 16 * v))) 32 then setRf s (bar f 0x9000) v 1 1
    else if s.ucie = 2 || !busMaster s f then s else msixSend s f v

/-- The Keel answers the command under way (R412): RSP_1 to RSP_7, RSP_0 last, PF vector 0. The results have no meaning in
the manual: free values. -/
def kelAnswer (s : State) (status : Nat) : State :=
  match s.kcmd with
  | none => s
  | some c =>
    let (k, s) := freshFree { s with kcmd := none }
    let s := forN 7 s fun i s => setRg s (bar 0 (0x248 + 8 * i)) (Config.keelResult k (i + 1)).toNat
    msix (setRg s (bar 0 0x240) (pack [(48, 16, c.seq), (32, 16, status), (0, 32, (Config.keelResult k 0).toNat)])) 0 0

end Sys2Proof.Machine
end

