-- ==== Sys2Proof/Machine/Bridle.lean ====
section
/-!
DEFINITION. Machine/Bridle.lean: the two planes of routers (R258 to R275): ports and paths, the slot tables, what a flit
does at a router input and at a port, and the receive records.
-/
namespace Sys2Proof.Machine
open Sys2Proof

/-- BRD_ registers of a router (R274). -/
def brdA (p t off : Nat) : Nat := 0x020004000000 + (72 * p + t) * 0x10000 + off

/-- Attachment tile of link n (Table 10-2). -/
def linkTile (n : Nat) : Nat :=
  let g := n / 6
  (if g < 2 then 0 else 3) * 18 + 9 * (g % 2) + 1 + n % 6
/-- Attachment tile of a system port: UCIe 0-1, UCIe 2-3, root (Table 10-2). -/
def sysTile (q : Nat) : Nat := match q with | 0 => 18 | 1 => 36 | _ => 35
/-- The link attached at a tile. -/
def linkAt (t : Nat) : Option Nat := (List.range 24).find? fun n => linkTile n == t
/-- The system port attached at a tile. -/
def sysAt (t : Nat) : Option Nat := (List.range 3).find? fun q => sysTile q == t
/-- The core a tile carries under the tile map (R23). -/
def coreAt (s : State) (t : Nat) : Option Nat := (List.range 60).find? fun c => (core s c).present && (core s c).tile == t

/-- Output o of a router exists (Table 10-1, R261); the same code is an input that exists (R259). -/
def portAt (s : State) (p t o : Nat) : Bool :=
  match o with
  | 0 => p == 1 || decide (0 < t % 18)
  | 1 => p == 1 || decide (t % 18 < 17)
  | 2 => decide (0 < t / 18)
  | 3 => decide (t / 18 < 3)
  | 4 => (coreAt s t).isSome
  | 5 => (linkAt t).isSome
  | 6 => (sysAt t).isSome
  | _ => false

/-- The neighbour through output 0-3, with wrap (R261). -/
def neighbour (t o : Nat) : Nat :=
  let x := t % 18
  let y := t / 18
  match o with
  | 0 => y * 18 + (x + 17) % 18
  | 1 => y * 18 + (x + 1) % 18
  | 2 => (y - 1) * 18 + x
  | _ => (y + 1) * 18 + x

/-- Two tiles lie in different clock regions: sites are 3 columns by 2 rows (R262). -/
def crossesSite (t u : Nat) : Bool := t % 18 / 3 != u % 18 / 3 || t / 36 != u / 36

/-! ### The head flit (Table 10-3) -/

/-- SEQ. -/
def hSeq (h : Nat) : Nat := fld h 112 16
/-- DROW. -/
def hDrow (h : Nat) : Nat := fld h 96 16
/-- CCNT. -/
def hCcnt (h : Nat) : Nat := fld h 90 6
/-- ROWS. -/
def hRows (h : Nat) : Nat := fld h 86 4
/-- BG. -/
def hBg (h : Nat) : Bool := bitAt h 85
/-- DKIND. -/
def hDkind (h : Nat) : Nat := fld h 82 2
/-- DEST. -/
def hDest (h : Nat) : Nat := fld h 76 6
/-- SKIND · 64 + SRC. -/
def hSrc (h : Nat) : Nat := fld h 74 2 * 64 + fld h 68 6
/-- ENV. -/
def hEnv (h : Nat) : Nat := fld h 64 4

/-- A header (Table 10-3). -/
def mkHdr (seq drow ccnt rows plane dkind dest src env : Nat) (bg : Bool) : Nat :=
  pack [(112, 16, seq), (96, 16, drow), (90, 6, ccnt), (86, 4, rows), (85, 1, b2n bg), (84, 1, plane), (82, 2, dkind), (76, 6, dest), (68, 8, src), (64, 4, env)]

/-- The tile of a destination, none where no tile carries it (R271). -/
def destTile (s : State) (dkind dest : Nat) : Option Nat :=
  match dkind with
  | 0 => if dest < 60 ∧ (core s dest).present then some (core s dest).tile else none
  | 1 => if dest < 24 then some (linkTile dest) else none
  | 2 => if dest < 3 then some (sysTile dest) else none
  | _ => none

/-- The output a packet takes at a router (R261). P0 runs the row first, P1 the column first and then the shorter way
round the ring, east on a tie. -/
def route (s : State) (p t h : Nat) : Option Nat :=
  match destTile s (hDkind h) (hDest h) with
  | none => none
  | some u =>
    let x := t % 18
    let y := t / 18
    let x2 := u % 18
    let y2 := u / 18
    let row : Nat := if p = 0 then (if x < x2 then 1 else 0) else (if (x2 + 18 - x) % 18 ≤ 9 then 1 else 0)
    let col : Nat := if y < y2 then 3 else 2
    if t = u then some (4 + hDkind h)
    else if p = 0 then (if x ≠ x2 then some row else some col)
    else (if y ≠ y2 then some col else some row)

/-- The next number of a source to a destination, which then advances (R265). -/
def takeSeq (s : State) (src dst : Nat) : Nat × State :=
  let n := tget 0 s.bseq (src * 256 + dst)
  (n, { s with bseq := tset 0 s.bseq (src * 256 + dst) ((n + 1) % 65536) })

/-! ### Faults (R275) -/

/-- BRD_LAST_FAULT (Table 10-9). -/
def brdLast (s : State) (p t h input code : Nat) : State :=
  setRg s (brdA p t 0x010) (pack [(48, 16, hSeq h), (40, 8, hSrc h), (37, 3, input), (32, 5, code), (0, 32, frameCyc s)])

/-- A router fault, class 0x06, with its count and the last discard. It belongs to the envelope that the header names, and
to none where no header was readable (log entry 33). -/
def raiseBrd (s : State) (p t h input code sev lo : Nat) (d : List (Nat × Nat × Nat)) : State :=
  brdLast (bump (raise s code sev 0x06 (72 * p + t) (if h = 0 then 0xFFFF else hEnv h) (det ((0, 16, h) :: d))) (brdA p t 0x008) lo 16) p t h input code

/-- The slot entry index that governs a frame cycle (R268). -/
def slotIx (fc : Nat) : Nat := fc % 16384 / 16

/-- The byte address of entry j of output o. -/
def slotAddr (p t o j : Nat) : Nat := brdA p t (0x1000 + 0x400 * o) + j

/-- Entry j of output o as it is read for a head: INPUT and BG, with 0x0806 on bad parity (R270, R275). -/
def slotEntry (s : State) (p t o j h : Nat) : Nat × Bool × State :=
  if s.slotBad.contains (slotAddr p t o j) then
    (15, false, bump (raise s 0x0806 3 0x06 (72 * p + t) 0xFFFF (det [(0, 16, h), (17, 1, o), (18, 2, j)])) (brdA p t 0x008) 0 16)
  else
    let b := fld (rg s (brdA p t (0x1000 + 0x400 * o + 4 * (j / 4)))) (8 * (j % 4)) 8
    (fld b 0 4, bitAt b 7, s)

/-! ### A flit at a router or port -/

/-- A router input or port. -/
def bin (s : State) (p t i : Nat) : BIn := tget {} s.bins ((72 * p + t) * 16 + i)
/-- The state with a router input or port changed. -/
def setBin (s : State) (p t i : Nat) (x : BIn) : State := { s with bins := tset {} s.bins ((72 * p + t) * 16 + i) x }

/-- The parity groups that fail when bits flip (R263): DPAR groups, and CPAR. -/
def parityFails (flip : BitVec 1024) (side : BitVec 20) : Nat × Bool :=
  let odd (x n : Nat) : Bool := (List.range n).foldl (fun a i => a != bitAt x i) false
  if flip = 0 ∧ side = 0 then (0, false)
  else (pack ((List.range 16).map fun i => (i, 1, b2n (odd (fld flip.toNat (64 * i) 64) 64 != bitAt side.toNat (4 + i)))), odd (fld side.toNat 0 4) 4)

/-- The flit as received: flipped data and flipped HEAD, TAIL, ABORT (bits 0 to 2 of the sideband). -/
def Flit.hit (f : Flit) (flip : BitVec 1024) (side : BitVec 20) : Flit :=
  { data := f.data ^^^ flip, head := f.head != bitAt side.toNat 0, tail := f.tail != bitAt side.toNat 1, abort := f.abort != bitAt side.toNat 2 }

/-- A flit leaves through an output: to a neighbour's input, or to the port's arrival (R266). -/
def forward (s : State) (p t o : Nat) (f : Flit) : State :=
  let nx : Flight :=
    if o < 4 then { cyc := now s + 3 + (if crossesSite t (neighbour t o) then 4 else 0), plane := p, tile := neighbour t o, port := (if o % 2 = 0 then o + 1 else o - 1), flit := f }
    else { cyc := now s + (if o = 4 then 4 else 8), plane := p, tile := t, port := o + 4, flit := f }
  { s with flights := s.flights ++ [nx] }

/-- A head judged at its output (R269). -/
def judgeHead (s : State) (p t i : Nat) (f : Flit) : State :=
  let h := rowGet f.data 0 128
  let drain : BIn := { mode := 2 }
  let j := slotIx (frameCyc s)
  let code (o c lo : Nat) (d : List (Nat × Nat × Nat)) (s : State) : State :=
    setBin (raiseBrd s p t h i c 2 lo ([(16, 1, i), (17, 1, o), (18, 2, j), (20, 4, frameCyc s)] ++ d)) p t i drain
  match route s p t h with
  | none => code 0xFF 0x0801 48 [] s
  | some o =>
    if !portAt s p t o then code o 0x0801 48 [] s
    else
      let (inp, bg, s) := slotEntry s p t o j h
      let busy := tget 0 s.bbusy ((72 * p + t) * 8 + o)
      if inp ≠ i ∨ bg ≠ hBg h then code o 0x0801 48 [] s
      else if now s < busy then code o 0x0802 32 [(24, 4, busy - ofsCyc s 0)] s
      else
        let s1 := { s with bbusy := tset 0 s.bbusy ((72 * p + t) * 8 + o) (now s + hRows h + 1) }
        setBin (forward s1 p t o f) p t i { mode := if f.tail then 0 else 1, out := o, hdr := h, k := 1 }

/-- The header as received of a head flit that failed: 0 where its own parity groups, DPAR bits 0 and 1, are among those
that failed (R275). -/
def badHead (f : Flit) (dpar : Nat) : Nat := if dpar % 4 = 0 then rowGet f.data 0 128 else 0

/-- 0x0803 of a router input or port (R272, R275). -/
def raiseParity (s : State) (p t port h k dpar : Nat) (cpar : Bool) : State :=
  raiseBrd s p t h port 0x0803 1 16 [(16, 1, port), (17, 1, k), (18, 2, dpar), (20, 1, b2n cpar), (21, 4, frameCyc s)]

/-- 0x0804: a flit without HEAD where no packet is open and no drain runs (R272). -/
def raiseStray (s : State) (p t port : Nat) : State :=
  raiseBrd s p t 0 port 0x0804 1 16 [(16, 1, port), (21, 4, frameCyc s)]

/-- A flit reaches a router input (R269, R272). -/
def atRouter (s : State) (p t i : Nat) (f : Flit) (dpar : Nat) (cpar : Bool) : State :=
  let b := bin s p t i
  let bad := dpar ≠ 0 || cpar
  match b.mode with
  | 0 =>
    if bad then
      if f.head || cpar then setBin (raiseParity s p t i (badHead f dpar) 0 dpar cpar) p t i { mode := 2 } else raiseStray (raiseParity s p t i 0 0 dpar cpar) p t i
    else if f.head then judgeHead s p t i f
    else raiseStray s p t i
  | 1 =>
    if bad then
      let s1 := raiseParity s p t i b.hdr b.k dpar cpar
      setBin (forward s1 p t b.out { data := 0, head := false, tail := true, abort := true }) p t i { mode := if b.k < hRows b.hdr then 2 else 0 }
    else setBin (forward s p t b.out f) p t i (if f.tail then {} else { b with k := b.k + 1 })
  | _ => if cpar || f.tail then setBin s p t i {} else s

/-- A core's ejection port notes a packet received (R265, R271). -/
def noteRx (s : State) (c h : Nat) : State :=
  let k := c * 256 + hSrc h
  { s with brx := tset 0 s.brx k (min 65535 (tget 0 s.brx k % 65536 + 1) + 65536 * hSeq h) }

/-- 0x0805 at an ejection port (R271). -/
def raiseEnv (s : State) (p t c h : Nat) : State :=
  brdLast (bump (raise s 0x0805 2 0x01 t (core s c).env (det [(0, 16, h), (16, 1, p), (17, 1, (core s c).env), (21, 4, frameCyc s)])) (brdA p t 0x008) 0 16) p t h 4 0x0805

/-- 0x090E at a link port (R296). -/
def raise090E (s : State) (n reason count : Nat) : State :=
  bump (raise s 0x090E 2 0x07 n 0xFFFF (det [(0, 1, n), (1, 1, reason), (2, 2, count)])) (lnkA n 0x050) 0 16

/-- A link's state. -/
def link (s : State) (n : Nat) : LinkS := tget {} s.links n
/-- The state with a link changed. -/
def modLink (s : State) (n : Nat) (f : LinkS → LinkS) : State := { s with links := tset {} s.links n (f (link s n)) }

/-- The link packets of a Bridle packet: ⌈ROWS/2⌉, row pairs in order (R296). -/
def splitRows (drow ccnt : Nat) : Nat → List Row → List LPkt
  | k, a :: b :: t => { kind := 1, units := 16, drow := (drow + 2 * k) % 65536, ccnt := ccnt, body := [a, b] } :: splitRows drow ccnt (k + 1) t
  | k, [a] => [{ kind := 1, units := 8, drow := (drow + 2 * k) % 65536, ccnt := ccnt, body := [a] }]
  | _, [] => []

/-- A Bridle packet has fully arrived at a link port (R296). The link packets of a background one wait behind every
management message for SRC 2 (R294). -/
def linkTake (s : State) (n h : Nat) (rows : List Row) : State :=
  let ps := splitRows (hDrow h) (hCcnt h) 0 rows
  if hBg h then modLink s n fun l => { l with mq := l.mq ++ ps.map fun q => (4, q) }
  else if 64 < (link s n).fq.length + ps.length then raise090E s n 1 ps.length
  else modLink s n fun l => { l with fq := l.fq ++ ps }

/-- A packet has fully arrived at a port that is no core: a link port splits it (R296); a system port hands it to the
unit behind it (chapter 15), where it waits. -/
def portTake (s : State) (t port h : Nat) (rows : List Row) : State :=
  if port = 9 then
    match linkAt t with
    | some n => linkTake s n h rows
    | none => s
  else { s with sysIn := s.sysIn ++ [(hDest h, h, rows)] }

/-- Payload flit k (0, 1, ...) of an open packet arrives intact at a port: an ejection port writes it in the next cycle
(R267), a link or system port collects it. -/
def takePayload (s : State) (p t port : Nat) (b : BIn) (f : Flit) : State :=
  let k := b.k - 1
  let last := k + 1 == hRows b.hdr
  let nxt : BIn := if f.tail then {} else { b with k := b.k + 1, rows := b.rows ++ [f.data] }
  if port = 8 then
    match coreAt s t with
    | some c =>
      addAct (setBin s p t port { nxt with rows := [] })
        { cyc := now s + 1, core := c, job := 0, op := .eject p ((hDrow b.hdr + k) % 65536) f.data (if last then some (hCcnt b.hdr) else none) }
    | none => setBin s p t port nxt
  else if f.tail then portTake (setBin s p t port {}) t port b.hdr (b.rows ++ [f.data])
  else setBin s p t port nxt

/-- A flit reaches an ejection port, a link port or a system port (R267, R271, R272). -/
def atPort (s : State) (p t port : Nat) (f : Flit) (dpar : Nat) (cpar : Bool) : State :=
  let b := bin s p t port
  let bad := dpar ≠ 0 || cpar
  let ic := port - 4
  match b.mode with
  | 0 =>
    if bad then
      if f.head || cpar then setBin (raiseParity s p t ic (badHead f dpar) 0 dpar cpar) p t port { mode := 2 } else raiseStray (raiseParity s p t ic 0 0 dpar cpar) p t ic
    else if f.head then
      let h := rowGet f.data 0 128
      let opened : BIn := { mode := 1, hdr := h, k := 1 }
      if port = 8 then
        match coreAt s t with
        | some c =>
          if hEnv h ≠ (core s c).env then setBin (raiseEnv s p t c h) p t port { mode := 2 }
          else setBin (noteRx s c h) p t port opened
        | none => setBin s p t port { mode := 2 }
      else setBin s p t port opened
    else raiseStray s p t ic
  | 1 =>
    if bad then setBin (raiseParity s p t ic b.hdr b.k dpar cpar) p t port { mode := if b.k < hRows b.hdr then 2 else 0 }
    else if f.abort then setBin s p t port (if f.tail then {} else { mode := 2 })
    else takePayload s p t port b f
  | _ => if cpar || f.tail then setBin s p t port {} else s

/-- A flit arrives where its flight takes it, with the bits that flipped on the way. -/
def receive (s : State) (x : Flight) (flip : BitVec 1024) (side : BitVec 20) : State :=
  let f := x.flit.hit flip side
  let e := parityFails flip side
  if x.port < 8 then atRouter s x.plane x.tile x.port f e.1 e.2 else atPort s x.plane x.tile x.port f e.1 e.2

/-- Every flit of the present cycle that has not been received yet arrives unharmed; on a device that severity 4 has halted
none moves (R14). -/
def receiveAll (s : State) : State :=
  if s.halted then s
  else
  let (due, rest) := s.flights.partition fun x => decide (x.cyc ≤ now s)
  due.foldl (fun s x => receive s x 0 0) { s with flights := rest }

/-- A packet released at a link or system port in a cycle reaches the router's input 4 cycles later: the attachment
crosses a clock-region boundary (R260, R262, R266). -/
def portSource (cyc : Nat) : Nat := cyc + 4

/-- A packet enters the Bridle at a router input: flit f passes the first router's output in cycle t + f (R266). -/
def inject (s : State) (p t port cyc h : Nat) (rows : List Row) : State :=
  let fs : List Flit := { data := BitVec.ofNat 1024 h, head := true, tail := false, abort := false } ::
    rows.zipIdx.map fun r => { data := r.1, head := false, tail := r.2 + 1 == rows.length, abort := false }
  { s with flights := s.flights ++ fs.zipIdx.map fun f => { cyc := cyc + f.2, plane := p, tile := t, port := port, flit := f.1 } }

/-- BRD_STAT.PORTS (Table 10-9). -/
def brdPorts (s : State) (p t : Nat) : Nat := pack ((List.range 7).map fun o => (o, 1, b2n (portAt s p t o)))

end Sys2Proof.Machine
end

