-- ==== Sys2Proof/Machine/Float.lean ====
section
/-!
DEFINITION. Machine/Float.lean: the element formats of Table 3-1, exact values, conversion with one rounding
(R62 to R70), and the correctly rounded functions of R109. Every floating result of the model is an exact value
rounded once by `roundFp`.
-/
namespace Sys2Proof.Machine

/-- An exact value: NaN by its class alone (R64), an infinity, or (-1)^neg × m × 2^e. Zero keeps its sign (R63). -/
inductive FV where
  | nan
  | inf (neg : Bool)
  | fin (neg : Bool) (m : Nat) (e : Int)
deriving DecidableEq, Repr

/-- A floating format of Table 3-1: exponent and significand widths, bias, the largest finite encoding, and the
encodings of infinity and of the canonical NaN where the format has them (R62, R64). -/
structure Fmt where
  eb : Nat
  mb : Nat
  bias : Nat
  maxEnc : Nat
  inf : Option Nat
  nan : Option Nat
deriving DecidableEq, Repr

/-- FP32 (Table 3-1). -/
def fp32 : Fmt := ⟨8, 23, 127, 0x7F7FFFFF, some 0x7F800000, some 0x7FC00000⟩
/-- BF16 (Table 3-1). -/
def bf16 : Fmt := ⟨8, 7, 127, 0x7F7F, some 0x7F80, some 0x7FC0⟩
/-- FP16 (Table 3-1). -/
def fp16 : Fmt := ⟨5, 10, 15, 0x7BFF, some 0x7C00, some 0x7E00⟩
/-- FP8 E4M3 (Table 3-1). -/
def e4m3 : Fmt := ⟨4, 3, 7, 0x7E, none, some 0x7F⟩
/-- FP8 E5M2 (Table 3-1). -/
def e5m2 : Fmt := ⟨5, 2, 15, 0x7B, some 0x7C, some 0x7E⟩
/-- FP6 E3M2 (Table 3-1). -/
def e3m2 : Fmt := ⟨3, 2, 3, 0x1F, none, none⟩
/-- FP6 E2M3 (Table 3-1). -/
def e2m3 : Fmt := ⟨2, 3, 1, 0x1F, none, none⟩
/-- FP4 E2M1 (Table 3-1). -/
def e2m1 : Fmt := ⟨2, 1, 1, 0x7, none, none⟩

/-- Significant bits of a number. -/
def bitLen (n : Nat) : Nat := if n = 0 then 0 else Nat.log2 n + 1

/-- The value of an encoding (R62). -/
def Fmt.decode (f : Fmt) (x : Nat) : FV :=
  let neg := bitAt x (f.eb + f.mb)
  let mag := fld x 0 (f.eb + f.mb)
  if mag ≤ f.maxEnc then
    let e := mag / 2 ^ f.mb
    let m := mag % 2 ^ f.mb
    if e = 0 then .fin neg m (1 - (f.bias : Int) - f.mb)
    else .fin neg (m + 2 ^ f.mb) ((e : Int) - f.bias - f.mb)
  else if f.inf = some mag then .inf neg else .nan

/-- m × 2^(-s) rounded to an integer, ties to even. -/
def rneShift (m s : Nat) : Nat :=
  let q := m / 2 ^ s
  let r := m % 2 ^ s
  let h := 2 ^ s
  if 2 * r > h ∨ (2 * r = h ∧ q % 2 = 1) then q + 1 else q

/-- Magnitude encoding of m × 2^e, m ≠ 0, rounded once by RNE with no bound on the exponent (R68, R69). -/
def Fmt.roundMag (f : Fmt) (m : Nat) (e : Int) : Nat :=
  let q : Int := max (e + bitLen m - 1 - f.mb) (1 - (f.bias : Int) - f.mb)
  let m' := if q ≤ e then m * 2 ^ (e - q).toNat else rneShift m (q - e).toNat
  (q + f.mb + f.bias - 1).toNat * 2 ^ f.mb + m'

/-- What a conversion answers: the encoding, whether it was clamped to a limit, and whether a NaN was lost (R88). -/
structure Conv where
  enc : Nat
  sat : Bool := false
  lost : Bool := false
deriving DecidableEq, Repr

/-- Sign bit of a format in place. -/
def Fmt.signed (f : Fmt) (neg : Bool) (mag : Nat) : Nat := mag + (if neg then 2 ^ (f.eb + f.mb) else 0)

/-- Conversion to a floating format under Table 3-2 (R68). -/
def Fmt.convert (f : Fmt) (sat : Bool) : FV → Conv
  | .nan => match f.nan with
    | some n => { enc := n }
    | none => { enc := 0, lost := true }
  | .inf neg => match f.inf with
    | some i => { enc := f.signed neg i }
    | none => match f.nan, sat with
      | some n, false => { enc := n }
      | _, _ => { enc := f.signed neg f.maxEnc, sat := true }
  | .fin neg m e =>
    if m = 0 then { enc := f.signed neg 0 }
    else
      let r := f.roundMag m e
      if r ≤ f.maxEnc then { enc := f.signed neg r }
      else match f.inf, f.nan, sat with
        | some i, _, false => { enc := f.signed neg i }
        | none, some n, false => { enc := n }
        | _, _, _ => { enc := f.signed neg f.maxEnc, sat := true }

/-- A value rounded to a signed integer of w bits with saturation to [-lo, hi] (Table 3-2). -/
def convInt (w : Nat) (lo hi : Nat) : FV → Conv
  | .nan => { enc := 0, lost := true }
  | .inf neg => { enc := if neg then wrapN w (-(lo : Int)) else hi, sat := true }
  | .fin neg m e =>
    let r := if e ≥ 0 then m * 2 ^ e.toNat else rneShift m (-e).toNat
    if neg then (if r ≤ lo then { enc := wrapN w (-(r : Int)) } else { enc := wrapN w (-(lo : Int)), sat := true })
    else if r ≤ hi then { enc := r } else { enc := hi, sat := true }

/-- The format a code of Table 5-3 names, for the floating codes (5 and 6 by their elements). -/
def fmtOf (code : Nat) : Fmt :=
  match code with
  | 0 => fp32 | 1 => bf16 | 2 => fp16 | 3 => e4m3 | 4 => e5m2 | 5 => e4m3 | 6 => e5m2 | 7 => e3m2 | 8 => e2m3
  | 9 => e2m1 | _ => fp32

/-- Bits of one element of a format code (Table 5-3, R67). -/
def elemBits (code : Nat) : Nat :=
  match code with
  | 0 => 32 | 1 => 16 | 2 => 16 | 7 => 6 | 8 => 6 | 9 => 4 | 12 => 4 | 13 => 32 | _ => 8

/-- The codes that carry block scales (Table 5-3, R65). -/
def isMx (code : Nat) : Bool := decide (5 ≤ code ∧ code ≤ 10)

/-- The integer codes INT8, INT4 and INT32. -/
def isInt (code : Nat) : Bool := decide (11 ≤ code ∧ code ≤ 13)

/-- An integer as an exact value. -/
def ofInt (i : Int) (e : Int) : FV := .fin (decide (i < 0)) i.natAbs e

/-- The value of one element of a format code, block scale not yet applied (R62, R66). -/
def elemVal (code x : Nat) : FV :=
  if code = 10 then ofInt (sext 8 x) (-6)
  else if code = 11 then ofInt (sext 8 x) 0
  else if code = 12 then ofInt (sext 4 x) 0
  else if code = 13 then ofInt (sext 32 x) 0
  else (fmtOf code).decode x

/-- A value times the block scale of an E8M0 byte: a scale of 0xFF makes it NaN (R65, R66). -/
def scaleBy (byte : Nat) : FV → FV
  | v => if byte = 255 then .nan else match v with
    | .nan => .nan
    | .inf n => .inf n
    | .fin n m e => .fin n m (e + byte - 127)

/-- A finite value as an integer multiple of 2^e. -/
def sgn (neg : Bool) (m : Nat) : Int := if neg then -(m : Int) else m

/-- The exact product of two values (R72). -/
def FV.mul : FV → FV → FV
  | .nan, _ => .nan
  | _, .nan => .nan
  | .inf a, .inf b => .inf (a != b)
  | .inf a, .fin b m _ => if m = 0 then .nan else .inf (a != b)
  | .fin a m _, .inf b => if m = 0 then .nan else .inf (a != b)
  | .fin a m e, .fin b n f => .fin (a != b) (m * n) (e + f)

/-- The exact sum of two values; an exact zero sum is +0 unless both are -0 (R72, R74). -/
def FV.add : FV → FV → FV
  | .nan, _ => .nan
  | _, .nan => .nan
  | .inf a, .inf b => if a = b then .inf a else .nan
  | .inf a, .fin _ _ _ => .inf a
  | .fin _ _ _, .inf b => .inf b
  | .fin a m e, .fin b n f =>
    let g := min e f
    let t := sgn a m * 2 ^ (e - g).toNat + sgn b n * 2 ^ (f - g).toNat
    if t = 0 then .fin (a && b && decide (m = 0)) 0 g else .fin (decide (t < 0)) t.natAbs g

/-- The value with its sign turned. -/
def FV.neg : FV → FV
  | .nan => .nan
  | .inf a => .inf (!a)
  | .fin a m e => .fin (!a) m e

/-- An FP32 word as a value. -/
def val32 (x : W32) : FV := fp32.decode x.toNat

/-- A value rounded once to FP32, overflow to infinity (R74). -/
def rnd32 (v : FV) : W32 := BitVec.ofNat 32 (fp32.convert false v).enc

/-- FP32 addition, one rounding. -/
def fadd (a b : W32) : W32 := rnd32 ((val32 a).add (val32 b))
/-- FP32 subtraction, one rounding. -/
def fsub (a b : W32) : W32 := rnd32 ((val32 a).add (val32 b).neg)
/-- FP32 multiplication, one rounding. -/
def fmul (a b : W32) : W32 := rnd32 ((val32 a).mul (val32 b))
/-- FP32 fused multiply-add, one rounding (R106). -/
def ffma (a b c : W32) : W32 := rnd32 (((val32 a).mul (val32 b)).add (val32 c))

/-- The canonical FP32 NaN (R64). -/
def nan32 : W32 := 0x7FC00000

/-- Exact comparison of two finite or infinite values; -0 equals +0. -/
def FV.lt : FV → FV → Bool
  | .nan, _ => false
  | _, .nan => false
  | .inf a, .inf b => a && !b
  | .inf a, .fin _ _ _ => a
  | .fin _ _ _, .inf b => !b
  | .fin a m e, .fin b n f =>
    let g := min e f
    decide (sgn a m * 2 ^ (e - g).toNat < sgn b n * 2 ^ (f - g).toNat)

/-- The class NaN. -/
def FV.isNan : FV → Bool
  | .nan => true
  | _ => false

/-- Neither NaN nor infinite. -/
def FV.isFin : FV → Bool
  | .fin _ _ _ => true
  | _ => false

/-- Zero of either sign. -/
def FV.isZero : FV → Bool
  | .fin _ m _ => decide (m = 0)
  | _ => false

/-- Equal values; -0 equals +0 and NaN equals nothing (R63). -/
def FV.eq (a b : FV) : Bool := !a.isNan && !b.isNan && !a.lt b && !b.lt a

/-- The key that orders FP32 words with -0 below +0 (R108): not for NaN. -/
def ordKey (x : W32) : Int := if x.toNat < 2 ^ 31 then (x.toNat : Int) else -(x.toNat : Int) + 2 ^ 31 - 1

/-- MAX of R108. -/
def fmax (a b : W32) : W32 :=
  if (val32 a).isNan || (val32 b).isNan then nan32 else if ordKey a < ordKey b then b else a

/-- MIN of R108. -/
def fmin (a b : W32) : W32 :=
  if (val32 a).isNan || (val32 b).isNan then nan32 else if ordKey b < ordKey a then b else a

/-- Bits of an integer square root, high bit first. -/
def isqrtAux : Nat → Nat → Nat → Nat
  | 0, _, r => r
  | k + 1, x, r => if (r + 2 ^ k) * (r + 2 ^ k) ≤ x then isqrtAux k x (r + 2 ^ k) else isqrtAux k x r

/-- The integer square root. -/
def isqrt (x : Nat) : Nat := isqrtAux (bitLen x / 2 + 1) x 0

/-- RECIP: the FP32 value nearest 1/x (R109). The quotient is taken to 128 bits with a sticky bit, so one rounding
of it is the rounding of the exact value. -/
def frecip (x : W32) : W32 :=
  match val32 x with
  | .nan => nan32
  | .inf n => rnd32 (.fin n 0 0)
  | .fin n m e =>
    if m = 0 then rnd32 (.inf n)
    else
      let q := 2 ^ 128 / m
      rnd32 (.fin n (2 * q + (if 2 ^ 128 % m = 0 then 0 else 1)) (-e - 129))

/-- RSQRT: the FP32 value nearest 1/√x (R109), by an integer square root with a sticky bit. -/
def frsqrt (x : W32) : W32 :=
  match val32 x with
  | .nan => nan32
  | .inf n => if n then nan32 else 0
  | .fin n m e =>
    if m = 0 then rnd32 (.inf n)
    else if n then nan32
    else
      let (m', e') := if e % 2 = 0 then (m, e) else (2 * m, e - 1)
      let q := 2 ^ 256 / m'
      let r := isqrt q
      rnd32 (.fin false (2 * r + (if r * r * m' = 2 ^ 256 then 0 else 1)) (-(e' / 2) - 129))

/-- The bits of fixed-point precision of `fexp`. -/
def expBits : Nat := 256

/-- Σ 2^K / (k 2^k), k from n down to 1: ln 2 in fixed point, within n units of the last place below. -/
def ln2Sum : Nat → Nat
  | 0 => 0
  | k + 1 => 2 ^ expBits / ((k + 1) * 2 ^ (k + 1)) + ln2Sum k

/-- The Taylor sum of exp on a fixed-point argument: `n` more terms from the term t = r^i / i!. -/
def expSum (r : Nat) : Nat → Nat → Nat → Nat
  | 0, _, _ => 0
  | n + 1, i, t => t + expSum r n (i + 1) (t * r / 2 ^ expBits / (i + 1))

/-- EXP: the FP32 value nearest e^x (R109). The fixed-point sum has an error below 2^20 units; both ends of that
interval round to the same word, since no FP32 argument but 0 comes within 2^-230 of a rounding boundary. -/
def fexp (x : W32) : W32 :=
  match val32 x with
  | .nan => nan32
  | .inf n => if n then 0 else 0x7F800000
  | .fin n m e =>
    if m = 0 then 0x3F800000
    else if (FV.fin n m e).lt (.fin true 104 0) then 0
    else if (FV.fin false 89 0).lt (.fin n m e) then 0x7F800000
    else
      let ln2 := ln2Sum 260
      let X : Int := sgn n (m * 2 ^ ((expBits : Int) + e).toNat)
      let k := X / (ln2 : Int)
      let r := (X - k * ln2).toNat
      let s := expSum r 64 0 (2 ^ expBits)
      let lo := rnd32 (.fin false (s - 2 ^ 20) (k - expBits))
      let hi := rnd32 (.fin false (s + 2 ^ 20) (k - expBits))
      if lo = hi then lo else rnd32 (.fin false s (k - expBits))

/-- floor(v / 2^A) of a finite value: the truncated term of anchored accumulation (R76). -/
def anchorTerm (A : Int) (neg : Bool) (m : Nat) (e : Int) : Int :=
  if A ≤ e then sgn neg m * 2 ^ (e - A).toNat else sgn neg m / (2 ^ (A - e).toNat : Nat)

/-- emax of a microscaled element format (R70). -/
def emaxOf (code : Nat) : Int :=
  match code with
  | 5 => 8 | 6 => 15 | 7 => 4 | 8 => 2 | 9 => 2 | _ => 0

/-- floor(log2) of a nonzero finite value. -/
def floorLog2 (m : Nat) (e : Int) : Int := e + bitLen m - 1

/-- Magnitude order of finite values. -/
def FV.magLt : FV → FV → Bool
  | .fin _ m e, .fin _ n f => (FV.fin false m e).lt (.fin false n f)
  | _, _ => false

/-- The larger magnitude. -/
def amaxOf (vs : List FV) : FV := vs.foldl (fun a v => if a.magLt v then v else a) (.fin false 0 0)

/-- One microscaled block: the scale byte, the element encodings, how many were clamped, and whether the block is
written as NaN (R70). -/
structure MxBlock where
  scale : Nat
  elems : List Nat
  sats : Nat
  lost : Bool
deriving DecidableEq, Repr

/-- to_mx_block of R70. -/
def toMxBlock (code : Nat) (vs : List FV) : MxBlock :=
  if vs.any (fun v => !v.isFin) then { scale := 255, elems := vs.map (fun _ => 0), sats := 0, lost := true }
  else
    let x : Int := match amaxOf vs with
      | .fin _ 0 _ => -127
      | .fin _ m e => max (-127) (min 127 (floorLog2 m e - emaxOf code))
      | _ => -127
    let cs := vs.map fun v => match v with
      | .fin n m e => if code = 10 then convInt 8 127 127 (.fin n m (e - x + 6)) else (fmtOf code).convert true (.fin n m (e - x))
      | _ => { enc := 0 }
    { scale := (x + 127).toNat, elems := cs.map (·.enc), sats := (cs.filter (·.sat)).length, lost := false }

/-- One element converted to a format code that CVT and the floating operations may write (R68, R106). -/
def convertTo (code : Nat) (sat : Bool) (v : FV) : Conv :=
  if code = 11 then convInt 8 128 127 v
  else if code = 12 then convInt 4 8 7 v
  else (fmtOf code).convert sat v

end Sys2Proof.Machine
end

