-- ==== Sys2Proof/Machine/Matrix.lean ====
section
/-!
DEFINITION. Machine/Matrix.lean: what the matrix engines compute (R71 to R81, R97 to R105): operand classes and
layouts, the products of one stream row, the accumulator lines, and the rows MEOUT writes. The cycles are those of
Machine/Moves.lean and Machine/Run.lean.
-/
namespace Sys2Proof.Machine
open Sys2Proof

/-- The operand class of Table 4-2 for a weight and a stream format code. -/
inductive MClass where
  | w16 | w8f | w8i | nf | ni
deriving DecidableEq, Repr

/-- Table 4-2: the class of a pair of formats, none where the pair lies in no class (R97, R143). -/
def mclass (w s : Nat) : Option MClass :=
  if w = 1 ∨ w = 2 then (if s = w then some .w16 else none)
  else if 3 ≤ w ∧ w ≤ 6 then (if 3 ≤ s ∧ s ≤ 6 then some .w8f else none)
  else if 7 ≤ w ∧ w ≤ 9 then (if 3 ≤ s ∧ s ≤ 9 then some .nf else none)
  else if w = 10 ∨ w = 11 then (if s = 10 ∨ s = 11 then some .w8i else none)
  else if w = 12 then (if s = 11 ∨ s = 12 then some .ni else none)
  else none

/-- K per pass (Table 4-2). -/
def MClass.k : MClass → Nat
  | .w16 => 64
  | _ => 128
/-- N per tile over 128 (Table 4-2). -/
def MClass.halves : MClass → Nat
  | .nf => 2
  | .ni => 2
  | _ => 1
/-- A class whose operands are integers accumulates in anchored mode (R74, R97). -/
def MClass.integer : MClass → Bool
  | .w8i => true
  | .ni => true
  | _ => false

/-- L_W: rows of a weight tile, data and scales (Table 4-3). -/
def loadRows (w : Nat) : Nat :=
  match w with
  | 5 => 132 | 6 => 132 | 10 => 132 | 9 => 136 | 7 => 200 | 8 => 200 | _ => 128

/-- The weight W[k][n] of a tile in its layout, with its block scale (Table 4-3, R65, R67). -/
def weightVal (b : WBank) (w k n : Nat) : FV :=
  let row (r : Nat) : Row := tget 0 b.rows r
  match w with
  | 1 => elemVal 1 (rowGet (row (2 * k + n / 64)) (16 * (n % 64)) 16)
  | 2 => elemVal 2 (rowGet (row (2 * k + n / 64)) (16 * (n % 64)) 16)
  | 5 => scaleBy (rowByte (row (128 + k / 32)) n) (elemVal 5 (rowByte (row k) n))
  | 6 => scaleBy (rowByte (row (128 + k / 32)) n) (elemVal 6 (rowByte (row k) n))
  | 10 => scaleBy (rowByte (row (128 + k / 32)) n) (elemVal 10 (rowByte (row k) n))
  | 9 => scaleBy (rowByte (row (128 + 2 * (k / 32) + n / 128)) (n % 128)) (elemVal 9 (rowGet (row k) (4 * n) 4))
  | 12 => elemVal 12 (rowGet (row k) (4 * n) 4)
  | _ =>
    if w = 7 ∨ w = 8 then
      let bit := (k % 2) * 1536 + 6 * n
      let whole := rowGet (row (3 * (k / 2) + bit / 1024)) (bit % 1024) 6 + rowGet (row (3 * (k / 2) + bit / 1024 + 1)) 0 6 * 2 ^ (1024 - bit % 1024)
      scaleBy (rowByte (row (192 + 2 * (k / 32) + n / 128)) (n % 128)) (elemVal w (whole % 64))
    else elemVal w (rowByte (row k) n)

/-- Element k of a stream row, with its block scale when the stream is MX (R100). -/
def streamVal (sfmt : Nat) (data scales : Row) (i k : Nat) : FV :=
  let v := elemVal sfmt (rowGet data (elemBits sfmt * k) (elemBits sfmt))
  if isMx sfmt then scaleBy (rowByte scales ((4 * i + k / 32) % 128)) v else v

/-- TAG bits of Table 3-3. -/
def tagOf : FV → Nat
  | .fin _ _ _ => 0
  | .inf false => 1
  | .inf true => 2
  | .nan => 3

/-- The combination of tags under addition (R72). -/
def tagAdd (a b : Nat) : Nat := if a = 0 then b else if b = 0 then a else if a = b then a else 3

/-- One element of a line while products are added: the sum or FP32 word, and its status bits (Table 3-3). -/
structure Elem where
  v : Nat
  st : Nat
deriving DecidableEq, Repr

/-- Add one product in FP32 mode: one rounding per addition (R74); the tag alone decides once it is not finite. -/
def addFp32 (e : Elem) (p : FV) : Elem :=
  match p with
  | .fin _ _ _ =>
    if e.st % 4 ≠ 0 then e
    else
      let c := (rnd32 ((val32 (BitVec.ofNat 32 e.v)).add p)).toNat
      if c % 2 ^ 31 = 0x7F800000 then { v := 0, st := e.st + (if c < 2 ^ 31 then 1 else 2) } else { e with v := c }
  | q => { e with st := e.st / 4 * 4 + tagAdd (e.st % 4) (tagOf q) }

/-- Add one product in anchored mode (R76). -/
def addAnch (A : Int) (e : Elem) (p : FV) : Elem :=
  match p with
  | .fin n m x =>
    let t := sext 128 e.v + anchorTerm A n m x
    let wrap := decide (t < -(2 ^ 127 : Nat) ∨ (2 ^ 127 : Nat) ≤ t)
    { v := wrapN 128 t, st := if wrap ∧ ¬ bitAt e.st 2 then e.st + 4 else e.st }
  | q => { e with st := e.st / 4 * 4 + tagAdd (e.st % 4) (tagOf q) }

/-- Status with POISON set. -/
def poison (st : Nat) : Nat := if bitAt st 3 then st else st + 8

/-- An accumulator unit of an engine; unit numbers wrap at 512 (log entry 10). -/
def accUnit (x : Core) (me u : Nat) : AccUnit := tget {} x.acc (512 * me + u % 512)

/-- The units of one line, from its first unit. -/
def lineUnits (x : Core) (me u w : Nat) : List AccUnit := (List.range w).map fun j => accUnit x me (u + j)

/-- The units form one line of a mode and anchor: parts in order (R102). -/
def lineMatches (us : List AccUnit) (anch : Bool) (a : BitVec 10) : Bool :=
  us.zipIdx.all fun e => decide (e.1.anch = anch ∧ (anch = true → e.1.a = a) ∧ e.1.part = (if anch then e.2 else 0))

/-- Element e of a line read from its units. -/
def lineElem (us : List AccUnit) (anch : Bool) (e : Nat) : Elem :=
  let x := us.getD (if anch then e / 32 else 0) {}
  if anch then { v := fld x.data.toNat (128 * (e % 32)) 128, st := fld x.stat.toNat (4 * (e % 32)) 4 }
  else { v := fld x.data.toNat (32 * e) 32, st := fld x.stat.toNat (4 * e) 4 }

/-- The units of a line from its 128 elements, with the stored residues of an anchored line (R102, R105). -/
def unitsOf (anch : Bool) (a : BitVec 10) (es : List Elem) : List AccUnit :=
  if anch then
    (List.range 4).map fun j =>
      let q := (es.drop (32 * j)).take 32
      { anch := true, a := a, part := j,
        data := BitVec.ofNat 4096 (pack (q.zipIdx.map fun e => (128 * e.2, 128, e.1.v))),
        stat := BitVec.ofNat 512 (pack (q.zipIdx.map fun e => (4 * e.2, 4, e.1.st))),
        resid := BitVec.ofNat 96 (pack (q.zipIdx.map fun e => (3 * e.2, 3, (sext 128 e.1.v % 7).toNat))) }
  else
    [{ anch := false, a := 0, part := 0,
       data := BitVec.ofNat 4096 (pack (es.zipIdx.map fun e => (32 * e.2, 32, e.1.v))),
       stat := BitVec.ofNat 512 (pack (es.zipIdx.map fun e => (4 * e.2, 4, e.1.st))) }]

/-- A core with the units of a line written from a first unit on. -/
def putUnits (x : Core) (me u : Nat) (us : List AccUnit) : Core :=
  us.zipIdx.foldl (fun x e => { x with acc := tset {} x.acc (512 * me + (u + e.2) % 512) e.1 }) x

/-- The elements of an anchored line whose stored residue disagrees, with the stored and the observed residue (R105). -/
def residBad (us : List AccUnit) : List (Nat × Nat × Nat) :=
  (List.range 128).filterMap fun e =>
    let x := us.getD (e / 32) {}
    let st := fld x.resid.toNat (3 * (e % 32)) 3
    let ob := (sext 128 (fld x.data.toNat (128 * (e % 32)) 128) % 7).toNat
    if st = ob then none else some (e, st, ob)

/-- The accumulation mode of a MATMUL: its mode bit, or anchored for an integer class (R74, R97). -/
def mmAnch (o : MatmulOp) : Bool :=
  o.anch || (match mclass o.wfmt.toNat o.sfmt.toNat with
    | some c => c.integer
    | none => false)

/-- P of a MATMUL: ⌈M/32⌉ for an MX stream (R103). -/
def mmP (o : MatmulOp) : Nat := if isMx o.sfmt.toNat then cdiv (o.m.toNat + 1) 32 else 0
/-- Lines per stream row (R101). -/
def mmHalves (o : MatmulOp) : Nat := (mclass o.wfmt.toNat o.sfmt.toNat).elim 1 (·.halves)
/-- Units of one line (R101). -/
def mmWidth (o : MatmulOp) : Nat := if mmAnch o then 4 else 1
/-- Units of the region (R101). -/
def mmUnits (o : MatmulOp) : Nat := (o.m.toNat + 1) * mmHalves o * mmWidth o

/-- The elements of line h of a stream row with the row's products added (R74, R76): in anchored mode too in ascending k, which
is one of the orders R76 leaves to the plan and decides OVF alone (DESIGN CHOICE, log entry 70). -/
def lineAdd (o : MatmulOp) (b : WBank) (data scales : Row) (i h : Nat) (es : List Elem) : List Elem :=
  let K := (mclass o.wfmt.toNat o.sfmt.toNat).elim 128 (·.k)
  let ss := (List.range K).map fun k => streamVal o.sfmt.toNat data scales i k
  es.zipIdx.map fun e =>
    ss.zipIdx.foldl (fun acc s =>
      let p := s.1.mul (weightVal b o.wfmt.toNat s.2 (128 * h + e.2))
      if mmAnch o then addAnch (sext 10 o.a.toNat) acc p else addFp32 acc p) e.1

/-- A product after an error in stage 0 to 2 of its path (R83, R84): in its significand, in the aligned integer, or in the
truncated term. -/
def hitProd (A : Int) (st : Nat) (d : Int) : FV → FV
  | .fin n m x =>
    (match st with
     | 0 => .fin (n != decide ((m : Int) + d < 0)) ((m : Int) + d).natAbs x
     | 1 => if A ≤ x then ofInt (sgn n m * 2 ^ (x - A).toNat + d) A else ofInt (sgn n m + d) x
     | 2 => ofInt (anchorTerm A n m x + d) A
     | _ => .fin n m x)
  | v => v

/-- The integer result of a stage for the first product of a row, and for stage 3 of its sum z (R82, R83). -/
def stageInt (A : Int) (st : Nat) (p : FV) (z : Elem) : Int :=
  match st, p with
  | 3, _ => sext 128 z.v
  | 0, .fin _ m _ => m
  | 1, .fin n m x => if A ≤ x then sgn n m * 2 ^ (x - A).toNat else sgn n m
  | 2, .fin n m x => anchorTerm A n m x
  | _, _ => 0

/-- The first product of stream row i in column n. -/
def firstProd (o : MatmulOp) (b : WBank) (data scales : Row) (i n : Nat) : FV :=
  (streamVal o.sfmt.toNat data scales i 0).mul (weightVal b o.wfmt.toNat 0 n)

/-- Element n of line 0 with the row's products added, where an error of d in a stage struck the first product, or in stage 3
the sum (R84). -/
def strikeElem (o : MatmulOp) (b : WBank) (data scales : Row) (i n st : Nat) (d : Int) (e : Elem) : Elem :=
  let K := (mclass o.wfmt.toNat o.sfmt.toNat).elim 128 (·.k)
  let A := sext 10 o.a.toNat
  let r := (List.range K).foldl (fun acc k =>
    let p := (streamVal o.sfmt.toNat data scales i k).mul (weightVal b o.wfmt.toNat k n)
    let p := if k = 0 then hitProd A st d p else p
    if mmAnch o then addAnch A acc p else addFp32 acc p) e
  if st = 3 then { r with v := wrapN 128 (sext 128 r.v + d) } else r

/-- The FP32 value of an element of an FP32-mode line as an exact value, tag and poison applied (R73). -/
def elemOut (anch : Bool) (a : BitVec 10) (e : Elem) : FV :=
  if bitAt e.st 3 || bitAt e.st 2 || e.st % 4 == 3 then .nan
  else if e.st % 4 = 1 then .inf false
  else if e.st % 4 = 2 then .inf true
  else if anch then ofInt (sext 128 e.v) (sext 10 a.toNat)
  else val32 (BitVec.ofNat 32 e.v)

/-- Row r of the 17-row partial block of a line (Table 3-5). -/
def blockRow (es : List Elem) (a : Nat) (r : Nat) : Row :=
  if r < 16 then BitVec.ofNat 1024 (pack ((List.range 8).map fun j => (128 * j, 128, (es.getD (8 * r + j) ⟨0, 0⟩).v)))
  else BitVec.ofNat 1024 (pack ((es.zipIdx.map fun e => (4 * e.2, 4, e.1.st)) ++ [(512, 16, wrapN 16 (sext 10 a))]))

/-- The 128 elements of a partial block from its 17 rows (Table 3-5). -/
def blockElems (rows : Nat → Row) : List Elem :=
  (List.range 128).map fun e => { v := rowGet (rows (e / 8)) (128 * (e % 8)) 128, st := rowGet (rows 16) (4 * e) 4 }

/-- The anchor field of a partial block: 16 bits, sign-extended (Table 3-5). -/
def blockAnchor (rows : Nat → Row) : Nat := rowGet (rows 16) 512 16

/-- One element of a combined block and whether its addition wrapped (R81). -/
def combineElem (x y : Elem) : Elem :=
  let t := sext 128 x.v + sext 128 y.v
  let wrap := decide (t < -(2 ^ 127 : Nat) ∨ (2 ^ 127 : Nat) ≤ t)
  { v := wrapN 128 t,
    st := tagAdd (x.st % 4) (y.st % 4) + (if bitAt x.st 2 || bitAt y.st 2 || wrap then 4 else 0) + (if bitAt x.st 3 || bitAt y.st 3 then 8 else 0) }

/-- Combining two partial blocks (R81): unequal anchors give S = 0 and POISON, the first anchor, the tags combined and
the OR of the OVF bits. -/
def combineBlock (xs ys : List Elem) (ax ay : Nat) : List Elem :=
  (xs.zip ys).map fun e =>
    if ax = ay then combineElem e.1 e.2
    else { v := 0, st := tagAdd (e.1.st % 4) (e.2.st % 4) + (if bitAt e.1.st 2 || bitAt e.2.st 2 then 4 else 0) + 8 }

end Sys2Proof.Machine
end

