-- ==== Sys2Proof/Machine/Vector.lean ====
section
/-!
DEFINITION. Machine/Vector.lean: what the vector engines compute (R106 to R112, R145, R146, R249, R250): operands and
their layouts, the read and write lists, and the value of every result element.
-/
namespace Sys2Proof.Machine
open Sys2Proof

/-- The vector operations (Table 5-12). -/
inductive VKind where
  | add | sub | mul | fma | max | min | iadd | isub | imul | and | or | xor | shl | shr | cmpsel | exp | recip | rsqrt
  | cvt | tomx | acomb | amerge | rsum | rmax | scan | rng | sample
deriving DecidableEq, Repr

/-- The vector operation and operands of a command. -/
def vecOf : Instr → Option (VKind × VecOp)
  | .vadd _ o => some (.add, o) | .vsub _ o => some (.sub, o) | .vmul _ o => some (.mul, o) | .vfma _ o => some (.fma, o)
  | .vmax _ o => some (.max, o) | .vmin _ o => some (.min, o) | .viadd _ o => some (.iadd, o)
  | .visub _ o => some (.isub, o) | .vimul _ o => some (.imul, o) | .vand _ o => some (.and, o) | .vor _ o => some (.or, o)
  | .vxor _ o => some (.xor, o) | .vshl _ o => some (.shl, o) | .vshr _ o => some (.shr, o)
  | .vcmpsel _ o => some (.cmpsel, o) | .vexp _ o => some (.exp, o) | .vrecip _ o => some (.recip, o)
  | .vrsqrt _ o => some (.rsqrt, o) | .vcvt _ o => some (.cvt, o) | .vtomx _ o => some (.tomx, o)
  | .vacomb _ o => some (.acomb, o) | .vamerge _ o => some (.amerge, o) | .vrsum _ o => some (.rsum, o)
  | .vrmax _ o => some (.rmax, o) | .vscan _ o => some (.scan, o) | .vrng _ o => some (.rng, o)
  | .vsample _ o => some (.sample, o)
  | _ => none

/-- The letters of the operands an operation reads: 1 A, 2 B, 3 C, 4 X (Table 5-12). -/
def VKind.ins : VKind → List Nat
  | .fma => [1, 2, 3] | .scan => [1, 2, 3] | .cmpsel => [1, 2, 3, 4]
  | .exp => [1] | .recip => [1] | .rsqrt => [1] | .cvt => [1] | .tomx => [1] | .rsum => [1] | .rmax => [1] | .rng => [1]
  | _ => [1, 2]

/-- λ of Table 4-8. -/
def VKind.lat : VKind → Nat
  | .exp => 24 | .recip => 24 | .rsqrt => 24 | .tomx => 16 | .rsum => 32 | .rmax => 32 | .scan => 9 | .rng => 9 | .sample => 9
  | _ => 8

/-- The integer operations of R106. -/
def VKind.integer : VKind → Bool
  | .iadd => true | .isub => true | .imul => true | .and => true | .or => true | .xor => true | .shl => true | .shr => true
  | _ => false

/-- The operations whose lanes carry a residue check, with the stage of fault 0x0202 (Tables 3-6, 4-8). -/
def VKind.stage : VKind → Option Nat
  | .mul => some 0 | .fma => some 0 | .imul => some 0 | .scan => some 0 | .rng => some 0 | .amerge => some 0
  | .iadd => some 3 | .isub => some 3 | .acomb => some 3
  | _ => none

/-- An operand as its descriptor names it (Table 5-11). -/
inductive Opd where
  | none
  | imm
  | reg (r : Nat) (bcast : Bool)
  | mem (fmt : Nat) (stride : Int) (base scale : Nat)
deriving DecidableEq, Repr

/-- The operand of a descriptor value: counter terms apply to every Crucible operand and its scale array (R94, R145). -/
def opdOf (index desc term : Nat) : Opd :=
  if index = 63 then .imm
  else match desc / 2 ^ 62 % 4 with
    | 1 => .mem (fld desc 48 4) (sext 16 (fld desc 32 16)) ((fld desc 0 16 + term) % 65536) ((fld desc 16 16 + term) % 65536)
    | 2 => .reg (fld desc 0 4) (bitAt desc 4)
    | _ => .none

/-- The descriptor index of a letter: 0 D, 1 A, 2 B, 3 C, 4 X. -/
def letterIx (o : VecOp) (l : Nat) : Nat :=
  match l with
  | 0 => o.d.toNat | 1 => o.a.toNat | 2 => o.b.toNat | 3 => o.c.toNat | _ => o.x.toNat

/-- The operand of a letter in a job. -/
def jobOpd (x : Job) (o : VecOp) (l : Nat) : Opd := opdOf (letterIx o l) (x.descs.getD l 0).toNat x.term

/-- A Crucible operand. -/
def Opd.isMem : Opd → Bool
  | .mem _ _ _ _ => true
  | _ => false

/-- Row and bit of element i of a Crucible operand of w-bit elements (R106, Table 5-11). -/
def place (stride : Int) (base w i : Nat) : Nat × Nat :=
  if stride = 0 then ((base + i * w / 1024) % 65536, i * w % 1024)
  else ((((base : Int) + ((i / 64 : Nat) : Int) * stride + ((i % 64 * w / 1024 : Nat) : Int)) % 65536).toNat, i % 64 * w % 1024)

/-- Rows from one row to another, both included, modulo 65,536. -/
def rowsFromTo (a b : Nat) : List Nat := (List.range ((b + 65536 - a) % 65536 + 1)).map fun t => (a + t) % 65536

/-- The rows that hold elements i0 to i0 + n - 1 of an operand, its scale rows included (R106, R179). -/
def opdRows (o : Opd) (i0 n : Nat) : List Nat :=
  match o with
  | .mem fmt st base scale =>
    if n = 0 then [] else
    let w := elemBits fmt
    let p := place st base w i0
    let q := place st base w (i0 + n - 1)
    let rows := rowsFromTo p.1 ((q.1 + (q.2 + w - 1) / 1024) % 65536)
    if isMx fmt then
      rows ++ (((List.range (i0 / 32 + 0 + ((i0 + n - 1) / 32 - i0 / 32) + 1)).drop (i0 / 32)).map fun b => (scale + b / 128) % 65536).eraseDups
    else rows
  | _ => []

/-- Insertion of a row in ascending order, once. -/
def insRow (r : Nat) : List Nat → List Nat
  | [] => [r]
  | x :: t => if r < x then r :: x :: t else if r = x then x :: t else x :: insRow r t

/-- Ascending rows without repeats. -/
def sortRows (l : List Nat) : List Nat := l.foldl (fun a r => insRow r a) []

/-- The read list: vector by vector, in operand order, ascending rows, a row already listed for the same operand left
out (R179). Each unit lists a vector's (letter, rows). -/
def readListOf (units : List (List (Nat × List Nat))) : List (Nat × Nat) :=
  units.foldl (fun acc u => u.foldl (fun acc e => acc ++ ((sortRows e.2).filter fun r => !acc.contains (e.1, r)).map fun r => (e.1, r)) acc) []

/-- Lanes of an MX or plain element as the 32-bit word a lane reads (R106). -/
def laneWord (fmt code scale : Nat) : W32 :=
  if fmt = 0 ∨ fmt = 13 then BitVec.ofNat 32 code
  else if fmt = 11 then BitVec.ofNat 32 (wrapN 32 (sext 8 code))
  else if fmt = 12 then BitVec.ofNat 32 (wrapN 32 (sext 4 code))
  else if isMx fmt then rnd32 (scaleBy scale (elemVal fmt code))
  else rnd32 (elemVal fmt code)

/-- A row of an operand as the job read it; a row whose read has not been made yet is read as it stands. -/
def opdRow (s : State) (x : Job) (l row : Nat) : Row :=
  if jobHas x (65536 * l + row % 65536) then jobGet x (65536 * l + row % 65536) else readRow s x.core row

/-- A vector register. -/
def vregOf (s : State) (c ve r : Nat) : VReg := tget {} (core s c).vregs (16 * ve + r % 16)

/-- Element i of an operand as a lane reads it (R106). -/
def opdElem (s : State) (x : Job) (o : VecOp) (l i : Nat) : W32 :=
  match jobOpd x o l with
  | .none => 0
  | .imm => o.imm
  | .reg r b =>
    let d := if x.vbuf.any (fun e => e.1 == 65536 * l + i / 64) then tget 0 x.vbuf (65536 * l + i / 64)
      else (vregOf s x.core o.ve.val (if b then r else r + i / 64)).data
    BitVec.ofNat 32 (fld d.toNat (32 * (i % 64)) 32)
  | .mem fmt st base scale =>
    let w := elemBits fmt
    let p := place st base w i
    let d := (opdRow s x l p.1).toNat + (if p.2 + w > 1024 then (opdRow s x l (p.1 + 1)).toNat * 2 ^ 1024 else 0)
    let sc := if isMx fmt then rowByte (opdRow s x l (scale + i / 32 / 128)) (i / 32 % 128) else 127
    laneWord fmt (fld d p.2 w) sc

/-- Signed reading of a word. -/
def s32 (x : W32) : Int := sext 32 x.toNat
/-- An integer as a word. -/
def w32 (i : Int) : W32 := BitVec.ofNat 32 (wrapN 32 i)

/-- CMPSEL's relation on FP32 words (Table 5-12): NaN compares false, -0 equals +0. -/
def cmpRel (rel : Nat) (a b : W32) : Bool :=
  let x := val32 a
  let y := val32 b
  match rel with
  | 0 => x.eq y
  | 1 => x.lt y
  | 2 => x.lt y || x.eq y
  | _ => false

/-- A word whose NaN, if it is one, is the canonical NaN: no sign or payload is propagated (R64). -/
def canon (a : W32) : W32 := if (val32 a).isNan then nan32 else a

/-- One lane of the elementwise operations (Table 4-8, R106, R108, R109, R146). -/
def laneOp (k : VKind) (aux : Nat) (a b c x : W32) : W32 :=
  match k with
  | .add => fadd a b | .sub => fsub a b | .mul => fmul a b | .fma => ffma a b c
  | .max => fmax a b | .min => fmin a b
  | .iadd => a + b | .isub => a - b | .imul => w32 (s32 a * s32 b)
  | .and => a &&& b | .or => a ||| b | .xor => a ^^^ b
  | .shl => a <<< (b.toNat % 32)
  | .shr => if bitAt aux 0 then BitVec.sshiftRight a (b.toNat % 32) else a >>> (b.toNat % 32)
  | .cmpsel => canon (if cmpRel (aux % 4) a b then c else x)
  | .exp => fexp a | .recip => frecip a | .rsqrt => frsqrt a
  | _ => a

/-- Left fold of a lane's elements j, j + 64, ... (R107). -/
def laneFold (f : W32 → W32 → W32) (g : Nat → W32) (j : Nat) : Nat → W32 → W32
  | 0, a => a
  | n + 1, a => laneFold f g (j + 64) n (f a (g (j + 64)))

/-- One level of the pairwise tree (R107). -/
def treeLevel (f : W32 → W32 → W32) : List W32 → List W32
  | a :: b :: t => f a b :: treeLevel f t
  | l => l

/-- The fixed pairwise tree over 64 lane results: six levels (R107). -/
def tree64 (f : W32 → W32 → W32) (l : List W32) : W32 :=
  (treeLevel f (treeLevel f (treeLevel f (treeLevel f (treeLevel f (treeLevel f l)))))).headD 0

/-- RSUM and RMAX over 64n elements (R107). -/
def reduceRow (f : W32 → W32 → W32) (g : Nat → W32) (n : Nat) : W32 :=
  tree64 f ((List.range 64).map fun j => laneFold f g j (n - 1) (g j))

/-- One Philox-4x32 round on (c0, c1, c2, c3) with key (k0, k1) (R111). -/
def philoxRound (c : Nat × Nat × Nat × Nat) (k : Nat × Nat) : Nat × Nat × Nat × Nat :=
  let p := 0xD2511F53 * c.1
  let q := 0xCD9E8D57 * c.2.2.1
  ((q / 2 ^ 32) ^^^ c.2.1 ^^^ k.1, q % 2 ^ 32, (p / 2 ^ 32) ^^^ c.2.2.2 ^^^ k.2, p % 2 ^ 32)

/-- Philox-4x32: the rounds, the key bumped between rounds (R111). -/
def philox : Nat → Nat × Nat × Nat × Nat → Nat × Nat → Nat × Nat × Nat × Nat
  | 0, c, _ => c
  | n + 1, c, k => philox n (philoxRound c k) ((k.1 + 0x9E3779B9) % 2 ^ 32, (k.2 + 0xBB67AE85) % 2 ^ 32)

/-- Word d mod 4 of a Philox block. -/
def philoxWord (c : Nat × Nat × Nat × Nat) (d : Nat) : Nat :=
  match d % 4 with
  | 0 => c.1 | 1 => c.2.1 | 2 => c.2.2.1 | _ => c.2.2.2

/-- Draw d of an RNG entry of 16 bytes (R111). -/
def rngDraw (entry tag d : Nat) : Nat :=
  philoxWord (philox 10 (fld entry 96 24, fld entry 64 16 + fld entry 80 8 * 65536, d / 4, tag) (fld entry 0 32, fld entry 32 32)) d

/-- The uniform form of a draw (R111). -/
def uniformOf (w : Nat) : W32 := rnd32 (.fin false (w / 256) (-24))

/-- e[i] of SAMPLE (R112). -/
def sampleE (v0 vi : W32) : W32 := if (val32 vi).isNan then 0 else fexp (fsub vi v0)

/-- The running sums c[i] of SAMPLE, newest last (R112). -/
def sampleC (v0 : W32) : W32 → List W32 → List W32
  | c, [] => [c]
  | c, v :: t => c :: sampleC v0 (fadd c (sampleE v0 v)) t

/-- The first index from i on whose element satisfies a condition. -/
def firstIx (f : W32 → Bool) : Nat → List W32 → Option Nat
  | _, [] => none
  | i, c :: t => if f c then some i else firstIx f (i + 1) t

/-- FP32 comparison a ≥ b; false for NaN. -/
def fge (a b : W32) : Bool := (val32 b).lt (val32 a) || (val32 b).eq (val32 a)
/-- FP32 comparison a > b; false for NaN. -/
def fgt (a b : W32) : Bool := (val32 b).lt (val32 a)

/-- The candidate SAMPLE chooses among values in TOPK order (R112). -/
def sampleIx (vs : List W32) (u p : W32) : Nat :=
  match vs with
  | [] => 0
  | v0 :: t =>
    if !(val32 v0).isFin then 0
    else
      let cs := sampleC v0 0x3F800000 t
      let last := cs.getLastD 0
      let j := (firstIx (fun c => fge c (fmul p last)) 0 cs).getD (vs.length - 1)
      let thr := fmul u (cs.getD j 0)
      (firstIx (fun c => fgt c thr) 0 (cs.take (j + 1))).getD j

/-- One lane of a partial record (Table 9-8): status, m, l and o[0..127]. -/
structure Lane where
  st : Nat
  m : W32
  l : W32
  o : List W32
deriving DecidableEq, Repr

/-- Lane j of a record whose rows are given (Table 9-8). -/
def recLane (rows : Nat → Row) (j : Nat) : Lane :=
  { st := rowByte (rows 0) (64 + j), m := BitVec.ofNat 32 (rowGet (rows 0) (64 * j) 32), l := BitVec.ofNat 32 (rowGet (rows 0) (64 * j + 32) 32),
    o := (List.range 128).map fun d => BitVec.ofNat 32 (rowGet (rows (1 + 4 * j + d / 32)) (32 * (d % 32)) 32) }

/-- A lane of status NAN or POISON, written with zeros (R247, R249). -/
def deadLane (st : Nat) : Lane := { st := st, m := 0, l := 0, o := (List.range 128).map fun _ => 0 }

/-- merge of R249. -/
def mergeLane (a x : Lane) : Lane :=
  if a.st = 3 ∨ x.st = 3 then deadLane 3
  else if a.st = 2 ∨ x.st = 2 then deadLane 2
  else if x.st = 1 then a
  else if a.st = 1 then x
  else
    let m := fmax a.m x.m
    let ca := fexp (fsub a.m m)
    let cx := fexp (fsub x.m m)
    { st := 0, m := m, l := ffma ca a.l (fmul cx x.l), o := (a.o.zip x.o).map fun e => ffma ca e.1 (fmul cx e.2) }

/-- Row q of a record of lanes (Table 9-8). -/
def recRow (ls : List Lane) (q : Nat) : Row :=
  if q = 0 then
    BitVec.ofNat 1024 (pack (ls.zipIdx.flatMap fun e => [(64 * e.2, 32, e.1.m.toNat), (64 * e.2 + 32, 32, e.1.l.toNat), (512 + 8 * e.2, 8, e.1.st)]))
  else
    let l := ls.getD ((q - 1) / 4) (deadLane 0)
    BitVec.ofNat 1024 (pack ((List.range 32).map fun t => (32 * t, 32, (l.o.getD (32 * ((q - 1) % 4) + t) 0).toNat)))

/-- Entries of the operation's count field: n vectors, blocks, T, R or records (Table 5-12, R480). -/
def vecN (o : VecOp) : Nat := o.n.toNat + 1
/-- AUX[7:0] + 1: G, D or k (Table 5-12). -/
def vecAux8 (o : VecOp) : Nat := fld o.aux.toNat 0 8 + 1
/-- Entries of an AMERGE record (R250). -/
def recLen (o : VecOp) : Nat := 1 + 4 * (fld o.aux.toNat 0 3 + 1)
/-- Rows of SAMPLE's candidates per row (R112). -/
def candRows (o : VecOp) : Nat := cdiv (8 * vecAux8 o) 128

/-- The BASE row of a Crucible operand. -/
def Opd.base : Opd → Nat
  | .mem _ _ b _ => b
  | _ => 0

/-- Consecutive rows from a base. -/
def seqRows (b n : Nat) : List Nat := (List.range n).map fun t => (b + t) % 65536

/-- Row q of block t of an ACOMB operand: blocks 17 rows apart, or STRIDE rows where the descriptor has one. -/
def blockAt (x : Job) (o : VecOp) (l t q : Nat) : Nat :=
  match jobOpd x o l with
  | .mem _ st b _ => (((b : Int) + (t : Int) * (if st = 0 then 17 else st) + q) % 65536).toNat
  | _ => q

/-- How many result vectors a job makes (R106). -/
def vecCount (k : VKind) (o : VecOp) : Nat :=
  match k with
  | .scan => vecN o * vecAux8 o
  | .rng => cdiv (vecN o * vecAux8 o) 64
  | .sample => cdiv (vecN o) 64
  | .rsum => 1
  | .rmax => 1
  | _ => vecN o

/-- The read units of an operation: per vector, the rows of each operand (R111, R112, R145, R179, R250). -/
def vecUnits (x : Job) (k : VKind) (o : VecOp) : List (List (Nat × List Nat)) :=
  match k with
  | .acomb => (List.range (vecN o)).map fun t => [1, 2].map fun l => (l, if (jobOpd x o l).isMem then (List.range 17).map (blockAt x o l t) else [])
  | .rng => [[(1, if (jobOpd x o 1).isMem then seqRows (jobOpd x o 1).base (cdiv (vecN o) 8) else [])]]
  | .sample => (List.range (cdiv (vecN o) 64)).map fun u =>
      let n := min 64 (vecN o - 64 * u)
      [(1, if (jobOpd x o 1).isMem then seqRows ((jobOpd x o 1).base + 64 * u * candRows o) (n * candRows o) else []), (2, opdRows (jobOpd x o 2) (64 * u) n)]
  | .scan => (List.range (vecCount k o)).map fun v =>
      [(1, opdRows (jobOpd x o 1) (64 * v) 64), (2, opdRows (jobOpd x o 2) (64 * v) 64)] ++ (if v < vecAux8 o then [(3, opdRows (jobOpd x o 3) (64 * v) 64)] else [])
  | .amerge => []
  | _ => (List.range (vecN o)).map fun v => k.ins.map fun l => (l, opdRows (jobOpd x o l) (64 * v) 64)

/-- AMERGE's reads: B first when it accumulates, then the A records, rows ascending (R250). -/
def mergeReads (x : Job) (o : VecOp) : List (Nat × Nat) :=
  (if bitAt o.aux.toNat 3 then (seqRows (jobOpd x o 2).base (recLen o)).map fun r => (2, r) else []) ++
  (seqRows (jobOpd x o 1).base (vecN o * recLen o)).map fun r => (1, r)

/-- The read list of a vector operation (R179, R250). -/
def vecReads (x : Job) (k : VKind) (o : VecOp) : List (Nat × Nat) :=
  match k with
  | .amerge => mergeReads x o
  | _ => readListOf (vecUnits x k o)

/-- A piece of a result row: the vector that writes it, row, bit, width, and the key of its element. -/
structure Piece where
  v : Nat
  row : Nat
  bit : Nat
  w : Nat
  key : Nat
deriving DecidableEq, Repr

/-- The pieces of one element of a Crucible result, in one row or across two. -/
def elemPieces (v : Nat) (o : Opd) (i key : Nat) : List Piece :=
  match o with
  | .mem fmt st base _ =>
    let w := elemBits fmt
    let p := place st base w i
    ⟨v, p.1, p.2, w, key⟩ :: (if p.2 + w > 1024 then [⟨v, (p.1 + 1) % 65536, 0, w, key + 2 ^ 40⟩] else [])
  | _ => []

/-- The key of scale byte b of TOMX. -/
def scaleKey (b : Nat) : Nat := 2 ^ 30 + b

/-- Every piece of the results of a vector operation, in the order written (R179). -/
def vecPieces (x : Job) (k : VKind) (o : VecOp) : List Piece :=
  let d := jobOpd x o 0
  match k with
  | .acomb => (List.range (vecN o)).flatMap fun t => (List.range 17).map fun q => ⟨t, blockAt x o 0 t q, 0, 1024, 17 * t + q⟩
  | .amerge => (List.range (recLen o)).map fun q => ⟨q, (d.base + q) % 65536, 0, 1024, q⟩
  | .rsum => elemPieces 0 d 0 0
  | .rmax => elemPieces 0 d 0 0
  | .rng => (List.range (vecN o * vecAux8 o)).flatMap fun i => elemPieces (i / 64) d i i
  | .sample => (List.range (vecN o)).flatMap fun i => elemPieces (i / 64) d i i
  | .tomx => (List.range (vecN o)).flatMap fun v =>
      ((List.range 64).flatMap fun j => elemPieces v d (64 * v + j) (64 * v + j)) ++
      [0, 1].flatMap fun b => match jobOpd x o 4 with
        | .mem _ _ base _ => [⟨v, (base + (2 * v + b) / 128) % 65536, 8 * ((2 * v + b) % 128), 8, scaleKey (2 * v + b)⟩]
        | _ => []
  | _ => (List.range (vecCount k o)).flatMap fun v => (List.range 64).flatMap fun j => elemPieces v d (64 * v + j) (64 * v + j)

/-- The write list: rows by the vector that first writes them, then ascending (R179). -/
def vecWrites (x : Job) (k : VKind) (o : VecOp) : List Nat :=
  let ps := vecPieces x k o
  (List.range (match k with | .amerge => recLen o | _ => vecCount k o)).foldl (fun acc v =>
    acc ++ (sortRows ((ps.filter fun p => p.v == v).map (·.row))).filter fun r => !acc.contains r) []

/-- Crucible bytes of one vector over an operand, scale bytes included (β of R106, in bits). -/
def opdBits (o : Opd) : Nat :=
  match o with
  | .mem fmt _ _ _ => 64 * elemBits fmt + (if isMx fmt then 16 else 0)
  | _ => 0

/-- The hold T of a vector operation (R106, R107, R110 to R112, R145, R250). -/
def vecHold (x : Job) (k : VKind) (o : VecOp) : Nat :=
  let n := vecN o
  let ins := (k.ins.map fun l => opdBits (jobOpd x o l)).foldl (· + ·) 0
  match k with
  | .acomb => cdiv (51 * n) 2 + 7
  | .amerge => cdiv (mergeReads x o).length 2 + 32 + cdiv (recLen o) 2
  | .scan => n * max (vecAux8 o * cdiv (opdBits (jobOpd x o 0) + opdBits (jobOpd x o 1) + opdBits (jobOpd x o 2)) 2048) 4 + 8
  | .rng => cdiv n 64 * (vecAux8 o + 4) + 24
  | .sample => cdiv n 64 * (2 * vecAux8 o + 32)
  | .rsum => max n (cdiv (n * ins + (match jobOpd x o 0 with | .mem f _ _ _ => 8 * cdiv (elemBits f) 8 | _ => 0)) 2048) + 31
  | .rmax => max n (cdiv (n * ins + (match jobOpd x o 0 with | .mem f _ _ _ => 8 * cdiv (elemBits f) 8 | _ => 0)) 2048) + 31
  | .tomx => max n (cdiv (n * (ins + (match jobOpd x o 0 with | .mem f _ _ _ => 64 * elemBits f | _ => 0) + (if (jobOpd x o 4).isMem then 16 else 0))) 2048) + 15
  | _ => max n (cdiv (n * (ins + opdBits (jobOpd x o 0))) 2048) + k.lat - 1

/-- SCAN's h at step t of a channel, from h₋₁ (R110). -/
def scanH (a b : Nat → W32) (h0 : W32) : Nat → W32
  | 0 => ffma (a 0) h0 (b 0)
  | t + 1 => ffma (a (t + 1)) (scanH a b h0 t) (b (t + 1))

/-- The 16-byte entry e of RNG's table (R111). -/
def rngEntry (s : State) (x : Job) (o : VecOp) (e : Nat) : Nat :=
  rowGet (opdRow s x 1 ((jobOpd x o 1).base + e / 8)) (128 * (e % 8)) 128

/-- The raw 32-bit result of element i (before conversion to D's format). -/
def vecRaw (s : State) (x : Job) (k : VKind) (o : VecOp) (i : Nat) : W32 :=
  let g (l : Nat) (i : Nat) : W32 := opdElem s x o l i
  match k with
  | .rsum => reduceRow fadd (g 1) (vecN o)
  | .rmax => reduceRow fmax (g 1) (vecN o)
  | .scan =>
    let G := vecAux8 o
    let v := i / 64
    let j := i % 64
    scanH (fun t => g 1 (64 * (t * G + v % G) + j)) (fun t => g 2 (64 * (t * G + v % G) + j)) (g 3 (64 * (v % G) + j)) (v / G)
  | .rng =>
    let D := vecAux8 o
    let w := rngDraw (rngEntry s x o (i / D)) o.imm.toNat (i % D)
    if bitAt o.aux.toNat 8 then uniformOf w else BitVec.ofNat 32 w
  | .sample =>
    let kk := vecAux8 o
    let r := (jobOpd x o 1).base + i * candRows o
    let pair (q : Nat) (h : Nat) : W32 := BitVec.ofNat 32 (rowGet (opdRow s x 1 (r + q / 16)) (64 * (q % 16) + 32 * h) 32)
    pair (sampleIx ((List.range kk).map fun q => pair q 0) (g 2 i) o.imm) 1
  | _ => laneOp k o.aux.toNat (g 1 i) (g 2 i) (g 3 i) (g 4 i)

/-- CVT reads its operand as an integer where it comes from Crucible in an integer format (R106). A register operand is read
as FP32 (DESIGN CHOICE, log entry 70: R106 gives its 32 bits and no format). -/
def cvtInt (x : Job) (o : VecOp) : Bool :=
  match jobOpd x o 1 with
  | .mem f _ _ _ => isInt f
  | _ => false

/-- A raw result in D's format (R68, R69, R106): RNG and SAMPLE write 32-bit words, and registers take the 32-bit value
unconverted. A poisoned lane's 0x7FC00000 is written to an integer D as that integer, or as its saturated narrowing (DESIGN
CHOICE, log entry 70: R85 names canonical NaN, which these formats do not have). -/
def vecOut (x : Job) (k : VKind) (o : VecOp) (raw : W32) : Conv :=
  let int := k.integer || (k == .cvt && cvtInt x o)
  match jobOpd x o 0 with
  | .mem f _ _ _ =>
    if k = .rng ∨ k = .sample ∨ (int = true ∧ f = 13) then { enc := raw.toNat }
    else if int then convertTo f o.sat (ofInt (s32 raw) 0)
    else convertTo f o.sat (val32 raw)
  | _ => { enc := (if k == .cvt && !int then canon raw else raw).toNat }

/-- Block b of TOMX (R70): the 32 elements from 32b on. -/
def tomxBlock (s : State) (x : Job) (o : VecOp) (b : Nat) : MxBlock :=
  toMxBlock (match jobOpd x o 0 with | .mem f _ _ _ => f | _ => 5) ((List.range 32).map fun t => val32 (opdElem s x o 1 (32 * b + t)))

/-- The elements of block t of an ACOMB operand. -/
def acombBlock (s : State) (x : Job) (o : VecOp) (l t : Nat) : Nat → Row := fun q => opdRow s x l (blockAt x o l t q)

/-- A lane that a residue mismatch of the command has poisoned: its elements are written as canonical NaN, or as poisoned
elements of ACOMB (R85, R106). -/
def struck (x : Job) (j : Nat) : Bool := x.lanes.contains j

/-- By how much errors have changed the checked integer of an element (R84). -/
def hitOf (x : Job) (el : Nat) : Int := (x.hits.filter fun h => h.1 == el).foldl (fun a h => a + h.2) 0

/-- The rows of a combined block t (R81, R86). -/
def acombRow (s : State) (x : Job) (o : VecOp) (t q : Nat) : Row :=
  let a := acombBlock s x o 1 t
  let b := acombBlock s x o 2 t
  let es := (combineBlock (blockElems a) (blockElems b) (blockAnchor a) (blockAnchor b)).zipIdx.map fun e =>
    let y : Elem := { e.1 with v := wrapN 128 (sext 128 e.1.v + hitOf x (128 * t + e.2)) }
    if struck x (4 * (e.2 % 16)) then { y with st := poison y.st } else y
  if q < 16 then blockRow es 0 q
  else BitVec.ofNat 1024 (setFld (blockRow es 0 16).toNat 512 16 (blockAnchor a))

/-- Lane j of the records that an AMERGE folds, in order (R250). -/
def mergeIn (s : State) (x : Job) (o : VecOp) (j : Nat) : List Lane :=
  ((if bitAt o.aux.toNat 3 then [(2, (jobOpd x o 2).base)] else []) ++ (List.range (vecN o)).map fun t => (1, (jobOpd x o 1).base + t * recLen o)).map
    fun (r : Nat × Nat) => recLane (fun q => opdRow s x r.1 (r.2 + q)) j

/-- A left fold of merges (R249). -/
def mergeAll : List Lane → Lane
  | [] => deadLane 1
  | l :: t => t.foldl mergeLane l

/-- The record an AMERGE writes: the left fold in order (R249, R250). -/
def mergeRec (s : State) (x : Job) (o : VecOp) : List Lane :=
  (List.range (fld o.aux.toNat 0 3 + 1)).map fun j => mergeAll (mergeIn s x o j)

/-! ### Checked results and the errors that strike them (R83 to R85) -/

/-- The value with its significand changed by an error. -/
def addSig (d : Int) : FV → FV
  | .fin n m e => .fin (n != decide ((m : Int) + d < 0)) ((m : Int) + d).natAbs e
  | v => v
/-- The integer significand of a value (R82). -/
def sigOf : FV → Int
  | .fin _ m _ => (m : Int)
  | _ => 0
/-- FMA with an error in its product. -/
def fmaHit (d : Int) (a b c : W32) : W32 := rnd32 ((addSig d ((val32 a).mul (val32 b))).add (val32 c))

/-- The last merge of AMERGE's element el, word el of the record: the factor and the accumulated value of its FMA, and the
addend (R249); none where no FMA makes the element. -/
def mergeFma (s : State) (x : Job) (o : VecOp) (el : Nat) : Option (W32 × W32 × W32) :=
  let q := el / 32
  let ls := mergeIn s x o (if q = 0 then el / 2 else (q - 1) / 4)
  let a := mergeAll ls.dropLast
  let b := ls.getLastD (deadLane 1)
  if ls.length < 2 ∨ a.st ≠ 0 ∨ b.st ≠ 0 ∨ (q = 0 ∧ el % 2 = 0) then none
  else
    let d := 32 * ((q - 1) % 4) + el % 32
    let ca := fexp (fsub a.m (fmax a.m b.m))
    let cb := fexp (fsub b.m (fmax a.m b.m))
    some (ca, if q = 0 then a.l else a.o.getD d 0, fmul cb (if q = 0 then b.l else b.o.getD d 0))

/-- The lane that makes and checks element el of a command: ACOMB's element e of block t is 128t + e, AMERGE's are the words
of its record, every other's its element number. RNG's and AMERGE's lanes are the number modulo 64 (DESIGN CHOICE, log entry
70: no rule assigns them). -/
def laneOf (k : VKind) (el : Nat) : Nat := if k = .acomb then 4 * (el % 16) else el % 64

/-- The checked elements of a result row. -/
def rowElems (s : State) (x : Job) (k : VKind) (o : VecOp) (row : Nat) : List Nat :=
  let ps := (vecPieces x k o).filter fun p => p.row == row
  match k with
  | .acomb => ps.flatMap fun p => if p.key % 17 < 16 then (List.range 8).map fun t => 128 * (p.key / 17) + 8 * (p.key % 17) + t else []
  | .amerge => (ps.flatMap fun p => (List.range 32).map fun t => 32 * p.key + t).filter fun e => (mergeFma s x o e).isSome
  | _ => (ps.map fun p => p.key).filter fun e => decide (e < 2 ^ 30)

/-- SCAN's h at step t of a channel with the errors that struck it. -/
def scanHit (a b : Nat → W32) (h0 : W32) (d : Nat → Int) : Nat → W32
  | 0 => fmaHit (d 0) (a 0) h0 (b 0)
  | t + 1 => fmaHit (d (t + 1)) (a (t + 1)) (scanHit a b h0 d t) (b (t + 1))

/-- A Philox block whose first product of the first round an error has changed. -/
def philoxHit (d : Int) (c : Nat × Nat × Nat × Nat) (k : Nat × Nat) : Nat × Nat × Nat × Nat :=
  let p := ((0xD2511F53 * c.1 : Nat) + d).toNat
  let q := 0xCD9E8D57 * c.2.2.1
  philox 9 ((q / 2 ^ 32) ^^^ c.2.1 ^^^ k.1, q % 2 ^ 32, (p / 2 ^ 32 % 2 ^ 32) ^^^ c.2.2.2 ^^^ k.2, p % 2 ^ 32)
    ((k.1 + 0x9E3779B9) % 2 ^ 32, (k.2 + 0xBB67AE85) % 2 ^ 32)

/-- The channel of SCAN's element el: its coefficients, its initial value and its step (R110). -/
def scanArgs (s : State) (x : Job) (o : VecOp) (el : Nat) : (Nat → W32) × (Nat → W32) × W32 × Nat :=
  let G := vecAux8 o
  let v := el / 64
  let at_ (t : Nat) : Nat := 64 * (t * G + v % G) + el % 64
  (fun t => opdElem s x o 1 (at_ t), fun t => opdElem s x o 2 (at_ t), opdElem s x o 3 (64 * (v % G) + el % 64), v / G)

/-- The raw result of element el after the errors that struck the command (R84). -/
def vecRawHit (s : State) (x : Job) (k : VKind) (o : VecOp) (el : Nat) : W32 :=
  let d := hitOf x el
  let a := opdElem s x o 1 el
  let b := opdElem s x o 2 el
  match k with
  | .scan =>
    let r := scanArgs s x o el
    scanHit r.1 r.2.1 r.2.2.1 (fun t => hitOf x (64 * (t * vecAux8 o + el / 64 % vecAux8 o) + el % 64)) r.2.2.2
  | .rng =>
    let e := rngEntry s x o (el / vecAux8 o)
    let n := el % vecAux8 o
    let w := philoxWord (philoxHit d (fld e 96 24, fld e 64 16 + fld e 80 8 * 65536, n / 4, o.imm.toNat) (fld e 0 32, fld e 32 32)) n
    if bitAt o.aux.toNat 8 then uniformOf w else BitVec.ofNat 32 w
  | .mul => rnd32 (addSig d ((val32 a).mul (val32 b)))
  | .fma => fmaHit d a b (opdElem s x o 3 el)
  | .imul => w32 (s32 a * s32 b + d)
  | .iadd => w32 (s32 a + s32 b + d)
  | .isub => w32 (s32 a - s32 b + d)
  | _ => vecRaw s x k o el

/-- The integer result of the checked stage of element el (R82 to R85): the product of the significands, the integer sum, or
the first Philox product. -/
def vecStageInt (s : State) (x : Job) (k : VKind) (o : VecOp) (el : Nat) : Int :=
  let sig (w : W32) : Int := sigOf (val32 w)
  let a := opdElem s x o 1 el
  let b := opdElem s x o 2 el
  match k with
  | .imul => s32 a * s32 b
  | .iadd => s32 a + s32 b
  | .isub => s32 a - s32 b
  | .rng => (0xD2511F53 * fld (rngEntry s x o (el / vecAux8 o)) 96 24 : Nat)
  | .scan =>
    let r := scanArgs s x o el
    sig (r.1 r.2.2.2) * sig (match r.2.2.2 with | 0 => r.2.2.1 | t + 1 => scanH r.1 r.2.1 r.2.2.1 t)
  | .acomb =>
    let e (l : Nat) : Int := sext 128 ((blockElems fun q => opdRow s x l (blockAt x o l (el / 128) q)).getD (el % 128) ⟨0, 0⟩).v
    e 1 + e 2
  | .amerge => match mergeFma s x o el with
    | some f => sig f.1 * sig f.2.1
    | none => 0
  | _ => sig a * sig b

/-- Row q of AMERGE's record, with what errors and mismatches made of its elements. -/
def mergeRow (s : State) (x : Job) (o : VecOp) (q : Nat) : Row :=
  let r := recRow (mergeRec s x o) q
  if x.lanes = [] ∧ x.hits = [] then r
  else (List.range 32).foldl (fun r t =>
    match mergeFma s x o (32 * q + t) with
    | some f => if struck x ((32 * q + t) % 64) then rowSet r (32 * t) 32 nan32.toNat else if hitOf x (32 * q + t) = 0 then r else rowSet r (32 * t) 32 (fmaHit (hitOf x (32 * q + t)) f.1 f.2.1 f.2.2).toNat
    | none => r) r

/-- The value of a keyed piece: encoding, clamp and NaN-loss marks. -/
def vecValue (s : State) (x : Job) (k : VKind) (o : VecOp) (key : Nat) : Conv :=
  match k with
  | .acomb => { enc := (acombRow s x o (key / 17) (key % 17)).toNat }
  | .amerge => { enc := (mergeRow s x o key).toNat }
  | .tomx =>
    if key ≥ 2 ^ 30 ∧ key < 2 ^ 40 then
      let b := tomxBlock s x o (key - 2 ^ 30)
      { enc := b.scale, lost := b.lost }
    else { enc := (tomxBlock s x o (key % 2 ^ 40 / 32)).elems.getD (key % 2 ^ 40 % 32) 0 }
  | _ =>
    let i := key % 2 ^ 40
    vecOut x k o (if struck x (laneOf k i) then nan32 else if x.hits = [] then vecRaw s x k o i else vecRawHit s x k o i)

/-- The bits of a result row: every piece in its place; a piece that continues from the row before shows its high
bits. Bytes of a produced sector that the operation does not produce are 0 (R184). -/
def vecRowData (s : State) (x : Job) (k : VKind) (o : VecOp) (row : Nat) : Row :=
  BitVec.ofNat 1024 (((vecPieces x k o).filter fun p => p.row == row).foldl (fun acc p =>
    let v := (vecValue s x k o p.key).enc
    if p.key ≥ 2 ^ 40 then acc + v / 2 ^ (1024 - (place' x o (p.key - 2 ^ 40))) else acc + v % 2 ^ p.w * 2 ^ p.bit) 0)
where
  /-- The bit at which a piece that crosses a row begins in the row before. -/
  place' (x : Job) (o : VecOp) (i : Nat) : Nat :=
    match jobOpd x o 0 with
    | .mem fmt st base _ => (place st base (elemBits fmt) i).2
    | _ => 0

/-- The word mask of a result row: both words of every 32-byte sector that receives a result (R184). -/
def vecRowMask (x : Job) (k : VKind) (o : VecOp) (row : Nat) : Nat :=
  let ps := (vecPieces x k o).filter fun p => p.row == row
  pack ((List.range 4).map fun sct => (2 * sct, 2, if ps.any (fun p => p.bit / 256 ≤ sct ∧ sct ≤ (min 1023 (p.bit + p.w - 1)) / 256) then 3 else 0))

/-- Clamps and NaN losses of the elements a row completes: counted once per element (R88). -/
def vecRowCount (s : State) (x : Job) (k : VKind) (o : VecOp) (row : Nat) : Nat × Nat :=
  ((vecPieces x k o).filter fun p => p.row == row && p.key < 2 ^ 40).foldl (fun acc p =>
    match k with
    | .acomb => acc
    | .amerge => acc
    | .tomx =>
      if p.key ≥ 2 ^ 30 then
        let b := tomxBlock s x o (p.key - 2 ^ 30)
        (acc.1 + b.sats, acc.2 + b2n b.lost)
      else acc
    | _ =>
      let c := vecValue s x k o p.key
      (acc.1 + b2n c.sat, acc.2 + b2n c.lost)) (0, 0)

/-- The register contents of result vector v (R106). The reductions define lane 0; their other lanes are open. -/
def vecRegData (s : State) (x : Job) (k : VKind) (o : VecOp) (v : Nat) : BitVec 2048 :=
  BitVec.ofNat 2048 (pack ((List.range 64).map fun j => (32 * j, 32,
    match k with
    | .rsum => (if j = 0 then vecRaw s x k o 0 else Config.reductionLane j (vecRaw s x k o 0)).toNat
    | .rmax => (if j = 0 then vecRaw s x k o 0 else Config.reductionLane j (vecRaw s x k o 0)).toNat
    | _ => (vecValue s x k o (64 * v + j)).enc)))

end Sys2Proof.Machine
end

