-- ==== Sys2Proof/Machine/Dram.lean ====
section
/-!
DEFINITION. Machine/Dram.lean: the DRAM channels (R205 to R227) and what the bank-side attention units compute and
check (R233 to R248). Judging a request and reading a sector are here; when each request is made is in Machine/Run.lean.
-/
namespace Sys2Proof.Machine
open Sys2Proof

/-! ### Address mapping (R206): entry addresses are device addresses in 128-byte units -/

/-- Stack of an entry address. -/
def eStack (e : Nat) : Nat := e / 2 ^ 28
/-- Channel 0-63 of an entry address. -/
def eChan (e : Nat) : Nat := e % 64
/-- Column of an entry address. -/
def eCol (e : Nat) : Nat := e / 64 % 16
/-- Bank of an entry address. -/
def eBank (e : Nat) : Nat := e / 1024 % 16
/-- Row of an entry address. -/
def eRow (e : Nat) : Nat := e / 16384 % 16384
/-- The channel index stack × 64 + channel (R17). -/
def eChIx (e : Nat) : Nat := eStack e * 64 + eChan e
/-- The bank key channel index × 16 + bank. -/
def eBankIx (e : Nat) : Nat := eChIx e * 16 + eBank e

/-- A channel's state. -/
def chan (s : State) (i : Nat) : Chan := tget {} s.chans i
/-- The state with a channel changed. -/
def modChan (s : State) (i : Nat) (f : Chan → Chan) : State := { s with chans := tset {} s.chans i (f (chan s i)) }
/-- A bank's state. -/
def dbank (s : State) (i : Nat) : DBank := tget {} s.dbanks i
/-- The state with a bank changed. -/
def modBank (s : State) (i : Nat) (f : DBank → DBank) : State := { s with dbanks := tset {} s.dbanks i (f (dbank s i)) }

/-- A channel fault: class 0x04, detail byte 0 the stack, byte 1 the channel (R232). -/
def raiseChan (s : State) (i code sev : Nat) (d : List (Nat × Nat × Nat)) : State :=
  raise s code sev 0x04 i 0xFFFF (det ([(0, 1, i / 64), (1, 1, i % 64)] ++ d))

/-! ### Sectors (R223, R224, R226) -/

/-- A sector becomes a soft-repair candidate once: 0x060E, and 0x060F where its bank has no spare row left for its row
(R226). -/
def candidate (s : State) (e half cause : Nat) : State :=
  if s.candSecs.contains (2 * e + half) then s
  else
    let rows := ((s.repairCand.filter fun c => c.1 == eBankIx e).takeWhile fun c => c.2 != eRow e).length
    let used := tget 0 s.spareRows (eBankIx e) + rows
    let s1 := { s with candSecs := s.candSecs ++ [2 * e + half],
                       repairCand := if s.repairCand.contains (eBankIx e, eRow e) then s.repairCand else s.repairCand ++ [(eBankIx e, eRow e)] }
    let s2 := bump (raiseChan s1 (eChIx e) 0x060E 1 [(2, 1, eBank e), (4, 2, eRow e), (6, 1, cause)]) (drmA (eStack e) 0x050) 0 16
    if 32 ≤ used then raiseChan s2 (eChIx e) 0x060F 3 [(2, 1, eBank e), (4, 2, eRow e)] else s2

/-- The outcome of decoding one sector: bytes corrected, or uncorrectable; and its 64 bytes as delivered. -/
structure SecRead where
  data : BitVec 512
  fixed : Nat
  unc : Bool
deriving DecidableEq, Repr

/-- Bytes of a sector with the errors at positions 0 to 63 applied. -/
def corrupt (d : BitVec 512) (errs : List (Nat × Nat)) : BitVec 512 :=
  errs.foldl (fun d e => if e.1 < 64 then d ^^^ BitVec.ofNat 512 (e.2 * 2 ^ (8 * e.1)) else d) d

/-- Multiplication in GF(2^8) modulo x^8 + x^4 + x^3 + x^2 + 1 (R223, R386). -/
def gfMul (a b : Nat) : Nat :=
  (forN 8 (0, a) fun i (p : Nat × Nat) =>
    (if bitAt b i then p.1 ^^^ p.2 else p.1, if 128 ≤ p.2 then (p.2 * 2 ^^^ 0x11D) % 256 else p.2 * 2)).1

/-- A syndrome of an error pattern over the 72 bytes of a transfer (R223): the pattern's value at a root, by Horner's rule
with byte 71 the coefficient of the highest power (log entry 64). -/
def rsSyndrome (errs : List (Nat × Nat)) (root : Nat) : Nat :=
  (List.range 72).reverse.foldl (fun v p => gfMul v root ^^^ ((errs.filter fun e => e.1 == p).foldl (fun x e => x ^^^ e.2) 0)) 0

/-- The roots α^0 to α^7 of the sector code (R223); α is 2. -/
def rsRoots : List Nat := [1, 2, 4, 8, 16, 32, 64, 128]

/-- The pattern is a word of the code: every syndrome is 0, so the decoder sees no error. A nonzero one has at least nine
bytes, the code's minimum distance. -/
def rsClean (errs : List (Nat × Nat)) : Bool := rsRoots.all fun r => rsSyndrome errs r == 0

/-- Decoding under the stack's mode (R223): C4 corrects up to four byte errors, and what becomes of five or more is open; a
miscorrection is to the decoder a correction. D8 corrects none, and detects what the code does not contain: every
pattern of one to eight. -/
def decodeSector (d8 : Bool) (true_ : BitVec 512) (errs : List (Nat × Nat)) : SecRead :=
  if errs = [] then { data := true_, fixed := 0, unc := false }
  else if d8 then { data := corrupt true_ errs, fixed := 0, unc := decide (errs.length ≤ 8) || !rsClean errs }
  else if errs.length ≤ 4 then { data := true_, fixed := errs.length, unc := false }
  else
    let r := Config.c4Beyond true_ errs
    if r.1 then { data := corrupt true_ errs, fixed := 0, unc := true } else { data := r.2.2, fixed := r.2.1.val + 1, unc := false }

/-- DRM_ECC_LAST (R231). -/
def eccLast (s : State) (e half : Nat) (unc : Bool) (bytes : Nat) : State :=
  setRg s (drmA (eStack e) 0x040) (pack [(58, 6, eChan e), (54, 4, eBank e), (40, 14, eRow e), (36, 4, eCol e), (35, 1, half), (34, 1, b2n unc), (30, 4, bytes)])

/-- The record and counts of one sector read (R224). The address of an uncorrectable sector is kept for four steps. -/
def noteSector (s : State) (e half : Nat) (patrol : Bool) (r : SecRead) : State :=
  let loc := [(2, 1, eBank e), (4, 2, eRow e), (6, 1, eCol e), (7, 1, half)]
  let k := e * 2 + half
  if r.unc then
    let s1 := raiseChan s (eChIx e) 0x0608 2 loc
    let s2 := eccLast (bump s1 (drmA (eStack e) 0x038) 16 16) e half true 0
    let first := tget 0 s2.uncSec k
    let s3 := if first ≠ 0 ∧ stepNo s2 ≤ first - 1 + 4 then
        bump (raiseChan s2 (eChIx e) 0x0609 3 (loc ++ [(8, 6, first - 1)])) (drmA (eStack e) 0x038) 0 16
      else { s2 with uncSec := tset 0 s2.uncSec k (stepNo s2 + 1) }
    candidate s3 e half 0
  else if r.fixed = 0 then s
  else
    let s1 := raiseChan s (eChIx e) 0x0607 1 (loc ++ [(8, 1, r.fixed), (9, 1, b2n patrol)])
    let s2 := eccLast (bump s1 (drmA (eStack e) 0x038) 32 32) e half false r.fixed
    let s3 := if patrol then { s2 with patCorr := tset 0 s2.patCorr k (tget 0 s2.patCorr k + 1) } else s2
    if 3 ≤ r.fixed then candidate s3 e half 1
    else if patrol && decide (3 ≤ tget 0 s3.patCorr k) then candidate s3 e half 2 else s3

/-- One entry read through the decoder: the delivered entry, whether a sector was uncorrectable, and the state with
its records (R223, R224). -/
def readSectors (s : State) (e : Nat) (patrol : Bool) : Row × Bool × State :=
  let d8 := rf s (drmA (eStack e) 0x000) 0 1 == 1
  let whole := readEntry s (e * 128)
  let get (h : Nat) : SecRead := decodeSector d8 (BitVec.ofNat 512 (rowGet whole (512 * h) 512)) (tget [] s.sec (e * 2 + h))
  let a := get 0
  let b := get 1
  (BitVec.ofNat 1024 (a.data.toNat + b.data.toNat * 2 ^ 512), a.unc || b.unc, noteSector (noteSector s e 0 patrol a) e 1 patrol b)

/-! ### Requests (R207, R208, R212, R213, R216, R220, R222, R225) -/

/-- Who requests: a blowpipe 0-9 of the site, 10 the channel's BAU, 11 patrol, 15 the site's host mover (R404). -/
structure DReq where
  who : Nat
  core : Nat
  strm : Nat
  index : Nat
  job : Nat
  key : Nat
  wr : Bool
  entry : Nat
  gather : Bool
deriving DecidableEq, Repr

/-- Fence entry j of a stack covers a stripe for an envelope (R452). -/
def fenceHit (s : State) (env stack stripe j : Nat) : Bool :=
  let r := rg s (0x020000018400 + 128 * stack + 8 * j)
  bitAt r 63 && fld r 56 4 == env && decide (fld r 0 18 ≤ stripe ∧ stripe ≤ fld r 32 18)

/-- An entry lies in an envelope's DRAM fence (R452). -/
def inFence (s : State) (env e : Nat) : Bool :=
  (List.range 16).any (fenceHit s env (eStack e) (e % 2 ^ 28 / 1024))

/-- The channel is failed in the repair record (R207). -/
def chanFailed (s : State) (e : Nat) : Bool := rf s (drmA (eStack e) (0x100 + 8 * eChan e)) 63 1 == 1

/-- Class and index of a requester of the channels (R232): a blowpipe's own. The manual gives 0x060A and 0x060B no source
for the others: the BAU's are its channel's (class 0x05), the patrol's and the host mover's the channel's (class 0x04;
DESIGN CHOICE, log entry 71). -/
def reqSource (s : State) (q : DReq) : Nat × Nat × Nat :=
  if q.who < 10 then (0x02, q.core * 16 + 7 + q.who % 2, (core s q.core).env)
  else (if q.who = 10 then 0x05 else 0x04, eChIx q.entry, 0xFFFF)

/-- A request that R207 refuses before it reaches a channel, with its fault: the stack and the fence bind blowpipes, a
failed channel every requester. The patrol passes over a failed channel (log entry 64). -/
def refuse207 (s : State) (q : DReq) : Option State :=
  if q.who ≥ 10 then
    let r := reqSource s q
    if q.who = 11 ∨ !chanFailed s q.entry then none
    else some (bump (raise s 0x060B 2 r.1 r.2.1 r.2.2 (det [(0, 1, eStack q.entry), (1, 1, eChan q.entry), (8, 2, q.index)])) (drmA (eStack q.entry) 0x048) 0 16)
  else
    let site := siteOf q.core
    let f (code : Nat) (d : List (Nat × Nat × Nat)) : State :=
      bump (raise s code 2 0x02 (q.core * 16 + 7 + q.who % 2) (core s q.core).env (det ((0, 1, site) :: d))) (drmA site 0x048) 0 16
    if eStack q.entry ≠ site then some (f 0x0601 [(2, 6, q.entry * 128), (8, 2, q.index), (10, 1, q.strm)])
    else if !inFence s (core s q.core).env q.entry then some (f 0x0602 [(2, 6, q.entry * 128), (8, 2, q.index), (10, 1, (core s q.core).env)])
    else if chanFailed s q.entry then some (f 0x060B [(1, 1, eChan q.entry), (8, 2, q.index)])
    else none

/-- The gather window of a site that covers a tick offset: its number and its blowpipe (R216). -/
def gatherWin (s : State) (site t : Nat) : Option (Nat × Nat) :=
  (List.range 16).findSome? fun w =>
    let r := rg s (drmA site (0x400 + 8 * w))
    if bitAt r 63 && decide (fld r 0 23 ≤ t ∧ t < fld r 0 23 + fld r 32 10 + 1) then some (w, fld r 56 4) else none

/-- The tick offset lies in a stack's background window (R225). -/
def inBackground (s : State) (stack t : Nat) : Bool :=
  let r := rg s (drmA stack 0x010)
  decide (fld r 0 23 ≤ t ∧ t < fld r 0 23 + fld r 23 23)

/-- The refusals of R216 and R404: a request in a window of another requester, or of a blowpipe but not of a GATHER. -/
def windowBreach (s : State) (q : DReq) : Option Nat :=
  match gatherWin s (eStack q.entry) (frameTick s) with
  | some (w, b) => if (q.gather || q.who == 15) && b == q.who then none else some w
  | none => none

/-- 0x060A with the requester as its source (R232). -/
def raiseBreach (s : State) (q : DReq) (w : Nat) : State :=
  let r := reqSource s q
  bump (raise s 0x060A 2 r.1 r.2.1 r.2.2
    (det [(0, 1, eStack q.entry), (1, 1, w), (4, 4, frameCyc s), (8, 2, q.index)])) (drmA (eStack q.entry) 0x048) 0 16

/-- 0x0603 for every request of a cycle to a channel (R212, R225, R232). -/
def raiseOverload (s : State) (i reason : Nat) (l : List DReq) : State :=
  bump (raiseChan s i 0x0603 2 [(2, 1, reason), (4, 4, frameCyc s),
    (8, 2, pack ((List.range 10).map fun b => (b, 1, b2n (l.any fun q => q.who == b)))),
    (10, 1, b2n (l.any fun q => q.who == 10)), (11, 1, b2n (l.any fun q => q.who == 11))]) (drmA (i / 64) 0x048) 48 16

/-- The request opens its bank's row if it must, under R213, R220 and R222: none, with the refusal's state, or the state
with the row open. -/
def openRow (s : State) (e : Nat) : Bool × State :=
  let i := eChIx e
  let b := dbank s (eBankIx e)
  let t := now s
  let st := eStack e
  if t < b.refUntil then
    (false, bump (raiseChan s i 0x0605 2 [(2, 1, eBank e), (4, 4, frameCyc s)]) (drmA st 0x048) 32 16)
  else if b.openRow = some (eRow e) then (true, s)
  else match b.lastAct with
    | some a =>
      if t < a + 48 then
        (false, bump (raiseChan s i 0x0604 2 [(2, 1, eBank e), (4, 4, frameCyc s), (8, 2, eRow e), (10, 2, t - a)]) (drmA st 0x048) 32 16)
      else act s e
    | none => act s e
where
  /-- Activate the row within the budget (R222). -/
  act (s : State) (e : Nat) : Bool × State :=
    let b := dbank s (eBankIx e)
    if rf s (drmA (eStack e) 0x020) 32 16 < b.acts + 1 then
      (false, bump (raiseChan s (eChIx e) 0x0606 2 [(2, 1, eBank e), (4, 2, eRow e), (6, 2, b.acts)]) (drmA (eStack e) 0x048) 16 16)
    else (true, modBank s (eBankIx e) fun b => { b with openRow := some (eRow e), lastAct := some (now s), acts := b.acts + 1 })

/-- The mark of an entry a job read that was refused or came from an uncorrectable sector (R247). -/
def badKey : Nat := 2 ^ 24

/-- An accepted request is carried out: a write stores the job's row, a read keeps the delivered entry (R209, R210). The patrol's write-back of an entry that could not be corrected writes nothing (R225). -/
def carryOut (s : State) (q : DReq) (data : Row) : State :=
  if q.wr then (if q.who = 11 ∧ jobHas (job s q.job) (badKey + q.key) then s else writeEntry s (q.entry * 128) data)
  else
    let r := readSectors s q.entry (q.who == 11)
    modJob r.2.2 q.job fun x => let x := keep x q.key r.1; if r.2.1 then keep x (badKey + q.key) 1 else x

/-- A refused read leaves a zero entry, marked (R208, R247). -/
def refused (s : State) (q : DReq) : State :=
  if q.wr then s else modJob s q.job fun x => keep (keep x q.key 0) (badKey + q.key) 1

/-- One channel's requests of one cycle (R212 and the rules under it). `data` gives the row a write stores. -/
def judgeChannel (s : State) (i : Nat) (l : List DReq) (data : DReq → Row) : State :=
  let (out, reach) := l.partition fun q => (windowBreach s q).isSome
  let s := out.foldl (fun s q => refused (raiseBreach s q ((windowBreach s q).getD 0xFF)) q) s
  if reach = [] then s
  else if reach.any (fun q => q.who ≠ 11) && planOn s && inBackground s (i / 64) (frameTick s) then
    reach.foldl refused (raiseOverload s i 2 reach)
  else
    let recent := (chan s i).recent.filter fun c => now s < c + 5
    if 1 < reach.length ∨ 3 ≤ recent.length then reach.foldl refused (raiseOverload s i 1 reach)
    else match reach with
      | [q] =>
        match openRow s q.entry with
        | (true, s) => carryOut (modChan s i fun c => { c with recent := recent ++ [now s] }) q (data q)
        | (false, s) => refused s q
      | _ => s

/-- Every DRAM request of one cycle (R207, R212). -/
def judgeAll (s : State) (l : List DReq) (data : DReq → Row) : State :=
  let step (acc : State × List DReq) (q : DReq) : State × List DReq :=
    match refuse207 acc.1 q with
    | some s => (refused s q, acc.2)
    | none => (acc.1, acc.2 ++ [q])
  let (s, l) := l.foldl step (s, [])
  ((l.map fun q => eChIx q.entry).eraseDups).foldl (fun s i => judgeChannel s i (l.filter fun q => eChIx q.entry == i) data) s

/-! ### BAU: classes, slices, tags (R233 to R235, R240, R243) -/

/-- BAU_CLASS_k of a stack. -/
def bauClass (s : State) (stack k : Nat) : Nat := rg s (bauA stack (0x080 + 8 * k))
/-- BAU_AREA_k of a stack. -/
def bauArea (s : State) (stack k : Nat) : Nat := rg s (bauA stack (0x0C0 + 8 * k))
/-- e: entries per position half (R233). -/
def classE (cls : Nat) : Nat := if fld cls 61 2 = 2 then 2 else 1
/-- The format code of a class: E4M3, E5M2 or BF16 (R233). -/
def classFmt (cls : Nat) : Nat := match fld cls 61 2 with | 0 => 3 | 1 => 4 | _ => 1
/-- S′ = ⌈NL·HKV/64⌉ (R234). -/
def classS (cls : Nat) : Nat := cdiv ((fld cls 54 7 + 1) * (fld cls 50 4 + 1)) 64
/-- σ = ℓ·HKV + h (chapter 9). -/
def sliceIx (cls : Nat) (o : BauOp) : Nat := o.layer.toNat * (fld cls 50 4 + 1) + o.head.toNat

/-- The entry address of slice entry i of slot z (R234). -/
def sliceEntry (s : State) (stack ch : Nat) (o : BauOp) (z i : Nat) : Nat :=
  let cls := bauClass s stack o.cls.toNat
  let area := bauArea s stack o.cls.toNat
  let x := fld area 0 14 * 256 + (z * classS cls + sliceIx cls o / 64) * (512 * classE cls) + i
  stack * 2 ^ 28 + x * 64 + ch

/-- The tag index of slot z (R240). -/
def tagIx (s : State) (stack : Nat) (o : BauOp) (z : Nat) : Nat := fld (bauArea s stack o.cls.toNat) 32 13 + z
/-- STATE of a tag (Table 9-4). -/
def tagState (t : Nat) : Nat := fld t 29 3
/-- A tag from its state, envelope and stream. -/
def mkTag (st env stream : Nat) : BitVec 32 := BitVec.ofNat 32 (pack [(29, 3, st), (22, 4, env), (0, 13, stream)])
/-- ENV and STREAM of a tag match. -/
def tagOwned (t env stream : Nat) : Bool := fld t 22 4 == env && fld t 0 13 == stream

/-- The tag admits a read (Table 9-5). -/
def tagReads (t env stream : Nat) : Bool := (tagState t == 2 || tagState t == 3) && tagOwned t env stream
/-- The tag admits a write, and the tag after it (Table 9-5). -/
def tagWrites (t env stream : Nat) : Option (BitVec 32) :=
  match tagState t with
  | 0 => some (mkTag 1 env stream)
  | 1 => if tagOwned t env stream then some (BitVec.ofNat 32 t) else none
  | 2 => if tagOwned t env stream then some (BitVec.ofNat 32 t) else none
  | _ => none
/-- The tag admits PZERO, and the tag after it (Table 9-5). -/
def tagZero (t env : Nat) : Option (BitVec 32) :=
  match tagState t with
  | 0 => some (BitVec.ofNat 32 t)
  | 1 => if fld t 22 4 == env then some 0 else none
  | 4 => some 0
  | _ => none

/-- A word of a query buffer, 32-bit word w. -/
def qbWord (c : Chan) (w : Nat) : Nat := rowGet (tget 0 c.qbuf (w / 32)) (32 * (w % 32)) 32
/-- The 8-byte descriptor at offset DOFS (R242). -/
def qbDesc (c : Chan) (dofs : Nat) : Nat := qbWord c (2 * dofs) + qbWord c (2 * dofs + 1) * 2 ^ 32
/-- The operation number of a BAU command (Table 9-6). -/
def bopOf : Instr → Nat
  | .attend _ _ => 1 | .kvput _ _ => 2 | .pcopy _ _ => 3 | .pzero _ _ => 4 | .slout _ _ => 5 | .slin _ _ => 6
  | _ => 0
/-- The operands of a BAU command. -/
def bauOpOf : Instr → Option BauOp
  | .attend _ o => some o | .kvput _ o => some o | .pcopy _ o => some o | .pzero _ o => some o | .slout _ o => some o
  | .slin _ o => some o | .bauNop _ o => some o
  | _ => none

/-- A BAU fault: class 0x05, detail byte 0 the stack, byte 1 the channel (R257). -/
def raiseBau (s : State) (i code env : Nat) (d : List (Nat × Nat × Nat)) : State :=
  raise s code 2 0x05 i env (det ([(0, 1, i / 64), (1, 1, i % 64)] ++ d))

/-- The descriptor check of R243: the reason it fails. -/
def descReason (s : State) (stack ch bop : Nat) (o : BauOp) (d : Nat) : Option Nat :=
  let cls := bauClass s stack o.cls.toNat
  let slots := fld (bauArea s stack o.cls.toNat) 16 13
  let z := fld d 51 13
  let z2 := fld d 38 13
  let n := fld d 29 9
  if slots ≤ z then some 1
  else if slots ≤ z2 then some 2
  else if (bop = 1 ∧ 256 < n) ∨ (bop = 2 ∧ 255 < n) then some 3
  else if (z + sliceIx cls o) % 64 ≠ ch ∨ (bop = 3 ∧ (z2 + sliceIx cls o) % 64 ≠ ch) then some 4
  else none

/-- The hold of an operation (Table 9-7). -/
def bauHold (bop e c : Nat) : Nat :=
  match bop with
  | 1 => 1024 * e + 112 | 2 => 2 * e + 104 | 3 => 2048 * e + 156 | 4 => 1024 * e + 48 | 5 => 2 * c + 48 | 6 => 2 * c + 48
  | _ => 0

/-- The channel requests of an operation: (cycle from start, write, number), where number i names slice entry i of a
read and of a write (Table 9-7). -/
def bauReqs (bop e c p : Nat) : List (Nat × Bool × Nat) :=
  match bop with
  | 1 => ((List.range (256 * e)).map fun i => (2 * i, false, i)) ++ (List.range (256 * e)).map fun i => (512 * e + 64 + 2 * i, false, 256 * e + i)
  | 2 => ((List.range e).map fun j => (2 * j, true, e * p + j)) ++ (List.range e).map fun j => (56 + 2 * j, true, 256 * e + e * p + j)
  | 3 => (List.range (512 * e)).flatMap fun j => [(4 * j, false, j), (4 * j + 110, true, j)]
  | 4 => (List.range (512 * e)).map fun j => (2 * j, true, j)
  | 5 => (List.range c).map fun j => (2 * j, false, j)
  | 6 => (List.range c).map fun j => (2 * j, true, j)
  | _ => []

/-- The queue entries of an operation: (cycle from start, entry) (Table 9-7). -/
def bauPuts (bop e c lanes : Nat) : List (Nat × Nat) :=
  match bop with
  | 1 => (List.range (1 + 4 * lanes)).map fun k => (1024 * e + 176 + k, k)
  | 5 => (List.range c).map fun j => (2 * j + 104, j)
  | _ => []

/-! ### Attention (R246 to R248) -/

/-- Dimension d of an entry pair: e entries from a first one, format elements in ascending dimension (R233). -/
def kvElem (fmt e : Nat) (ent : Nat → Row) (d : Nat) : FV :=
  if e = 1 then elemVal fmt (rowByte (ent 0) d) else elemVal 1 (rowGet (ent (d / 64)) (16 * (d % 64)) 16)

/-- One level of the tree over exact values, each addition rounded once (R107, R246). -/
def fvLevel : List FV → List FV
  | a :: b :: t => val32 (rnd32 (a.add b)) :: fvLevel t
  | l => l

/-- The tree sum of 64 exact products (R246). -/
def fvTree (l : List FV) : W32 :=
  rnd32 ((fvLevel (fvLevel (fvLevel (fvLevel (fvLevel (fvLevel l)))))).headD (.fin false 0 0))

/-- s[p] = q·k_p (R246). -/
def score (q k : Nat → FV) : W32 :=
  let h (b : Nat) : W32 := fvTree ((List.range 64).map fun d => (q (b + d)).mul (k (b + d)))
  fadd (h 0) (h 64)

/-- The lane's partial over N positions, from its scores and values (R246). -/
def softmaxLane (scores : List W32) (v : Nat → Nat → W32) : Lane :=
  match scores with
  | [] => { st := 1, m := 0xFF800000, l := 0, o := (List.range 128).map fun _ => 0 }
  | s0 :: t =>
    let m := t.foldl fmax s0
    let z : W32 × List W32 := (0, (List.range 128).map fun _ => 0)
    let r := scores.zipIdx.foldl (fun acc e =>
      let w := fexp (fsub e.1 m)
      (fadd acc.1 w, acc.2.zipIdx.map fun o => ffma w (v e.2 o.2) o.1)) z
    { st := 0, m := m, l := r.1, o := r.2 }

/-- A value is infinite or NaN. -/
def notFin (w : W32) : Bool := !(val32 w).isFin

/-- One lane of ATTEND: POISON prevails over NAN; a lane with N = 0 is EMPTY (R246, R247). -/
def attendLane (fmt e n : Nat) (q : Nat → Row) (qBad : Bool) (kv : Nat → Row) (bad : Nat → Bool) : Lane :=
  if n = 0 then softmaxLane [] fun _ _ => 0
  else if qBad || (List.range (n * e)).any (fun i => bad i || bad (256 * e + i)) then deadLane 3
  else
    let key (p : Nat) : Nat → FV := kvElem fmt e fun u => kv (e * p + u)
    let val (p d : Nat) : W32 := rnd32 (kvElem fmt e (fun u => kv (256 * e + e * p + u)) d)
    let scores := (List.range n).map fun p => score (kvElem fmt e q) (key p)
    if scores.any notFin || (List.range n).any (fun p => (List.range 128).any fun d => notFin (val p d)) then deadLane 2
    else softmaxLane scores val

end Sys2Proof.Machine
end

