-- ==== Sys2Proof/Machine/Link.lean ====
section
/-!
DEFINITION. Machine/Link.lean: the parts of the Nerique links that every cycle or several commands use (R276 to R310):
what a transmitter sends next, acceptance in sequence, acknowledgement, failover, the lehr, the parity units behind the
link ports, and the engines of remote operations. The commands of the links are in Machine/LinkCmds.lean.
-/
namespace Sys2Proof.Machine
open Sys2Proof

/-! ### State of a link (R309) -/

/-- LNK_STAT.STATE: 0 off, 1 training, 2 ranging, 3 up, 4 retrain, 5 down. -/
def lnkSt (s : State) (n : Nat) : Nat := rf s (lnkA n 0x008) 60 4
/-- LNK_STAT.STATE set. -/
def setLnkSt (s : State) (n v : Nat) : State := setRf s (lnkA n 0x008) 60 4 v
/-- The partner of a link (R302). -/
def partner (n : Nat) : Nat := if n % 2 = 0 then n + 1 else n - 1
/-- Links 2k and 2k + 1 are protected (R302). -/
def isProtected (s : State) (n : Nat) : Bool := rf s (lnkA n 0x000) 35 1 == 1
/-- FLIGHT_A. -/
def flightA (s : State) (n : Nat) : Nat := rf s (lnkA n 0x018) 16 16
/-- REPLAY_LIMIT. -/
def replayLimit (s : State) (n : Nat) : Nat := rf s (lnkA n 0x000) 36 4
/-- Twentieths of a cycle that a unit takes at the link's width (Table 11-1). -/
def unitCost (s : State) (n : Nat) : Nat := match rf s (lnkA n 0x008) 58 2 with | 0 => 4 | 1 => 8 | _ => 16

/-- A link fault: class 0x07, byte 0 the link (R310). -/
def raiseLnk (s : State) (n code sev : Nat) (d : List (Nat × Nat × Nat)) : State :=
  raise s code sev 0x07 n 0xFFFF (det ((0, 1, n) :: d))

/-- A case of Table 14-2 marked "report" arises (R376). -/
def report (s : State) (cause : Nat) : State :=
  if s.causes.contains cause then s else { s with causes := s.causes ++ [cause] }

/-! ### Units and packets (R278 to R280) -/

/-- One byte of the CRC-32 of IEEE 802.3, least significant bit first. -/
def crcByte (c b : Nat) : Nat :=
  forN 8 (c ^^^ b) fun _ x => if x % 2 = 1 then (x / 2) ^^^ 0xEDB88320 else x / 2
/-- The CRC-32 of a list of bytes (R279). -/
def crc32 (bs : List Byte) : Nat := (bs.foldl (fun c b => crcByte c b.toNat) 0xFFFFFFFF) ^^^ 0xFFFFFFFF

/-- The payload bytes of a packet: its units in order. -/
def payload (p : LPkt) : List Byte := (p.body.flatMap rowBytes).take (16 * p.units)

/-- The header of a packet (Table 11-3). -/
def lnkHdr (p : LPkt) (rep : Bool) : BitVec 128 :=
  let h := pack [(124, 4, p.kind), (120, 4, p.units - 1), (104, 16, p.seq), (80, 24, p.stick), (79, 1, p.start), (78, 1, b2n p.olink),
    (77, 1, b2n rep), (56, 16, p.drow), (50, 6, p.ccnt)]
  BitVec.ofNat 128 (h + crc32 ((leBytes 16 h).drop 4 ++ payload p))

/-- A control unit with its CRC (R280). -/
def ctlUnit (x : Nat) : BitVec 128 := BitVec.ofNat 128 (x + crc32 ((leBytes 16 x).drop 4))

/-- A LANECTL unit (Table 11-4): the sender's index and link number go with IDENT. -/
def laneUnit (s : State) (n : Nat) (l : LaneCtl) : BitVec 128 :=
  ctlUnit (pack ([(124, 4, 9), (120, 4, l.op), (118, 2, l.width), (116, 2, l.sel)] ++
    if l.op = 5 then [(103, 13, rf s (parA 0x030) 0 13), (98, 5, n)] else []))

/-- A packet is sequenced (Table 11-2). -/
def sequenced (k : Nat) : Bool := k == 1 || k == 2 || k == 4

/-! ### The transmitter (R281, R283, R285 to R288) -/

/-- Units that the replay buffer holds, whole packets (R287). -/
def replayUnits (l : LinkS) : Nat := (l.unacked.map fun p => p.units + 1).foldl (· + ·) 0
/-- Credit admits a first transmission of u units (R288). -/
def credited (sent granted u : Nat) : Bool :=
  let d := (sent + u + 2 ^ 32 - granted) % 2 ^ 32
  d == 0 || decide (2 ^ 31 ≤ d)
/-- A planned packet may start: credit, replay buffer, no width change, and outside state up only SYNC (R288, R287, R292,
R293). -/
def mayStart (s : State) (n : Nat) (l : LinkS) (p : LPkt) : Bool :=
  decide (p.born ≤ now s) && if sequenced p.kind then
    lnkSt s n == 3 && l.wStage == 0 && decide (replayUnits l + p.units + 1 ≤ 16384) &&
    (if p.kind = 1 then credited l.sentD l.grantD (p.units + 1) else credited l.sentM l.grantM (p.units + 1))
  else true

/-- The packet's first transmission: its number, its units counted, and its place in the replay buffer (R283, R287); before
a replay that is due has begun it joins the packets to be replayed (R286). -/
def firstSend (s : State) (l : LinkS) (p : LPkt) : LPkt × LinkS :=
  let q := { p with seq := l.txNext }
  let u := p.units + 1
  (q, { l with txNext := (l.txNext + 1) % 65536, unacked := l.unacked ++ [q],
               replay := if now s < l.replayAt then l.replay ++ [q.seq] else l.replay,
               lastAdv := if l.unacked = [] then now s else l.lastAdv,
               sentD := if p.kind = 1 then (l.sentD + u) % 2 ^ 32 else l.sentD,
               sentM := if p.kind = 1 then l.sentM else (l.sentM + u) % 2 ^ 32 })

/-- A SYNC packet is stamped as its header leaves: stamp A is t1 of a request, t3 of an answer (R289, R51). -/
def stampSync (s : State) (p : LPkt) : LPkt :=
  { p with body := match p.body with | r :: t => rowSet r 64 64 (stamp s) :: t | [] => [] }

/-- The unit or packet that a transmitter sends next at a boundary in the present cycle, other than IDLE (R281). -/
def txNextItem (s : State) (n : Nat) : Option (Nat × State) :=
  let l := link s n
  match l.lanes with
  | c :: t => some (1, emit (modLink s n fun l => { l with lanes := t }) (.ctl n (laneUnit s n c)))
  | [] =>
    if l.nakDue || l.ctlDue || decide (32 ≤ l.uncov) then
      let x := pack [(124, 4, 8), (123, 1, b2n l.nakDue), (104, 16, l.rxNext), (72, 32, l.ownD), (40, 32, l.ownM)]
      let s := if l.nakDue then bump s (lnkA n 0x040) 16 16 else s
      some (1, emit (modLink s n fun l => { l with nakDue := false, ctlDue := false, uncov := 0 }) (.ctl n (ctlUnit x)))
    else
      let rep := if lnkSt s n = 3 ∧ l.replayAt ≤ now s then l.replay.findSome? fun q => l.unacked.find? fun p => p.seq == q else none
      match rep with
      | some p =>
        let s := modLink s n fun l =>
          { l with replay := (l.replay.dropWhile fun q => q != p.seq).drop 1,
                   unacked := l.unacked.map fun q => if q.seq == p.seq then { q with replays := q.replays + 1 } else q }
        some (p.units + 1, emit (bump s (lnkA n 0x040) 0 16) (.packet n (lnkHdr p true) p.units p.body))
      | none =>
        match l.elig.find? (mayStart s n l) with
        | some p =>
          let rest := l.elig.erase p
          if sequenced p.kind then
            let r := firstSend s { l with elig := rest } p
            some (p.units + 1, emit (modLink s n fun _ => r.2) (.packet n (lnkHdr r.1 false) p.units p.body))
          else
            let p := stampSync s p
            some (p.units + 1, emit (modLink s n fun l => { l with elig := rest }) (.packet n (lnkHdr p false) p.units p.body))
        | none => none

/-- The transmitter sends in a cycle: a link that ranges or is up sends in all of them, an IDLE unit where nothing is due;
one that trains or retrains sends what is due and is else silent (R281, R290). -/
def txBusy (st : Nat) (l : LinkS) : Bool :=
  st == 2 || st == 3 || l.lanes != [] || l.nakDue || l.ctlDue || decide (32 ≤ l.uncov) || l.elig != []

/-- An IDLE unit is sent: KIND 0 (R278, R281). -/
def sendIdle (s : State) (n : Nat) : State := emit s (.ctl n 0)

/-- A width change whose replay buffer has drained asks the far end (R293). -/
def widthDrained (s : State) (n : Nat) : State :=
  let l := link s n
  if l.wStage = 1 ∧ l.unacked = [] then
    modLink s n fun l => { l with wStage := 2, lanes := l.lanes ++ [{ op := 2, width := rf s (lnkA n 0x010) 30 2, sel := rf s (lnkA n 0x010) 28 2 }] }
  else s

/-- A cycle of a link's transmitter: every packet boundary of the cycle (R281, Table 11-1). -/
def txCycle (s : State) (n : Nat) : State :=
  let st := lnkSt s n
  let s := if st = 3 then widthDrained s n else s
  if st = 0 ∨ st = 5 ∨ !txBusy st (link s n) then s
  else
    let s := modLink s n fun l => { l with wire := max l.wire (20 * now s) }
    forN 5 s fun _ s =>
      let w := (link s n).wire
      if 20 * (now s + 1) ≤ w then s
      else match txNextItem s n with
        | some (u, s) => modLink s n fun l => { l with wire := w + u * unitCost s n }
        | none => modLink (if st = 2 ∨ st = 3 then sendIdle s n else s) n fun l => { l with wire := w + unitCost s n }

/-! ### Reception (R282 to R285, R288) -/

/-- A number that passes R282 is judged against the one expected (R282 to R284): accepted, a gap, or a duplicate. -/
def seqTake (s : State) (n seq : Nat) : Bool × State :=
  let l := link s n
  let d := (seq + 65536 - l.rxNext) % 65536
  if d = 0 then
    (true, modLink s n fun l => { l with rxNext := (l.rxNext + 1) % 65536, gap := false, search := false, uncov := l.uncov + 1,
                                         uncovAt := if l.uncov = 0 then now s else l.uncovAt })
  else if l.search then (false, s)
  else if d < 32768 then (false, if l.gap then s else modLink s n fun l => { l with gap := true, nakDue := true })
  else (false, modLink s n fun l => { l with ctlDue := true })

/-- A DATA packet's units leave the lehr: the grant rises (R288), the occupancy falls. -/
def freeLehr (s : State) (n units : Nat) : State := modLink s n fun l => { l with ownD := (l.ownD + units + 1) % 2 ^ 32 }
/-- A management packet's units are delivered (R288). -/
def freeMgmt (s : State) (n units : Nat) : State := modLink s n fun l => { l with ownM := (l.ownM + units + 1) % 2 ^ 32 }
/-- Units in a link's lehr. -/
def lehrOcc (l : LinkS) : Nat := (l.lehr.map fun p => p.pkt.units + 1).foldl (· + ·) 0

/-- What a LINKCTL brings (R280, R285, R288): earlier numbers are acknowledged, grants are taken if they are later. -/
def ackTake (s : State) (n ack d m : Nat) : State :=
  let l := link s n
  let acked (q : Nat) : Bool := decide ((ack + 65536 - q) % 65536 - 1 < 32767) && ack != q
  let rest := l.unacked.filter fun p => !acked p.seq
  let later (old new : Nat) : Nat := if (new + 2 ^ 32 - old) % 2 ^ 32 < 2 ^ 31 then new else old
  modLink s n fun l =>
    { l with unacked := rest, replay := l.replay.filter fun q => !acked q,
             lastAdv := if rest.length < l.unacked.length then now s else l.lastAdv,
             grantD := later l.grantD d, grantM := later l.grantM m }

/-- The lookup index of a planned send tick: its full TTC, at most 2^24 ticks back (R297). -/
def stickTtc (s : State) (stick : Nat) : Nat := ttc s - (ttc s + 2 ^ 24 - stick) % 2 ^ 24
/-- The tick offset of a TTC in the frame that holds it (R5). -/
def offsetOf (s : State) (t : Nat) : Nat := (t - launchT s) % max (frameLen s) 1

/-- A half of a receive entry, all zeros with 0x090F where its parity fails (R297). -/
def rxHalf (s : State) (n j start : Nat) : Nat × State :=
  let a := lnkA n (0x4000 + 8 * j)
  if s.slotBad.contains a then (0, raiseLnk s n 0x090F 3 [(1, 1, 1), (2, 2, j)])
  else (rf s a (32 * start) 32, s)

/-- A counter of LNK_FAULT_CNT rises. -/
def lnkCount (s : State) (n lo : Nat) : State := bump s (lnkA n 0x050) lo 16

/-- An accepted DATA packet is placed in the lehr or discarded: duplicate, unplanned, late, on time (R297 to R301). -/
def dataTake (s : State) (n : Nat) (p : LPkt) : State :=
  let tb := if p.olink then partner n else n
  let s := modLink s tb fun l => { l with dups := l.dups.filter fun e => decide (ttc s ≤ e.1 + 8192) }
  let id := (p.stick, p.start == 1)
  if (link s tb).dups.any fun e => (e.2.1, e.2.2) == id then
    freeLehr (lnkCount (raiseLnk s n 0x0907 0 [(1, 1, p.start), (2, 3, p.stick), (5, 1, b2n p.olink)]) n 32) n p.units
  else
    let s := modLink s tb fun l => { l with dups := l.dups ++ [(ttc s, id.1, id.2)] }
    let t := stickTtc s p.stick
    let (h, s) := rxHalf s tb (offsetOf s t % 4096) p.start
    if !bitAt h 31 then
      freeLehr (lnkCount (raiseLnk s n 0x0908 2 [(1, 1, p.start), (2, 3, p.stick), (5, 1, b2n p.olink)]) n 16) n p.units
    else
      let d := t + cdiv (flightA s tb + 16) 8 + rf s (lnkA tb 0x020) 16 16
      if d ≤ ttc s then
        freeLehr (lnkCount (raiseLnk s n 0x0906 2 [(1, 1, p.start), (2, 3, p.stick), (5, 3, offsetOf s (ttc s)), (8, 3, offsetOf s d)]) n 48) n p.units
      else
        let rel := now s + 8 * (d - ttc s) + fld h 15 3 - s.phase
        let s := modLink s n fun l => { l with lehr := l.lehr ++ [{ pkt := p, half := h, table := tb, release := rel }] }
        setRf s (lnkA n 0x058) 32 32 (max (rf s (lnkA n 0x058) 32 32) (lehrOcc (link s n)))

/-! ### Parity units (R387) -/

/-- TRN_ registers. -/
def trnA (off : Nat) : Nat := 0x020000016000 + off
/-- A parity unit. -/
def punit (s : State) (n : Nat) : PUnit := tget {} s.punits n
/-- The state with a parity unit changed. -/
def modPunit (s : State) (n : Nat) (f : PUnit → PUnit) : State := { s with punits := tset {} s.punits n (f (punit s n)) }

/-- A row times a coefficient, byte by byte. -/
def gfRow (c : Nat) (r : Row) : Row := rowOf ((rowBytes r).map fun b => BitVec.ofNat 8 (gfMul b.toNat c))

/-- 0x0C0A, class 0x07 with the link (R395). -/
def raise0C0A (s : State) (n reason row ccnt : Nat) : State :=
  bump (raise s 0x0C0A 2 0x07 n 0xFFFF (det [(0, 1, reason), (2, 2, row), (4, 1, ccnt)])) (trnA (0x108 + 16 * n)) 16 16

/-- Completed row r of unit n is delivered under MODE (R387): LOCAL waits for its release cycle, FORWARD joins the
queue of 64. -/
def parityDone (s : State) (n r ccnt : Nat) : State :=
  let cfg := trnA (0x100 + 16 * n)
  let v := tget 0 (punit s n).rows r
  let s := bump s (trnA (0x108 + 16 * n)) 48 16
  if rf s cfg 62 2 = 1 then
    modPunit s n fun u => { u with due := u.due ++ [(now s - s.phase + 8 + rf s cfg 52 3, r, v)] }
  else
    let s := modPunit s n fun u => { u with rows := tset 0 u.rows r 0, counts := tset 0 u.counts r 0 }
    if 64 ≤ (punit s n).queue.length then raise0C0A s n 2 r ccnt
    else modPunit s n fun u => { u with queue := u.queue ++ [(r, v)] }

/-- The payload rows of a packet are folded into unit n (R387). -/
def parityFold (s : State) (n : Nat) (p : LPkt) : State :=
  let cfg := trnA (0x100 + 16 * n)
  let c := rf s (trnA (0x400 + 64 * n + 4 * (p.ccnt / 4))) (8 * (p.ccnt % 4)) 8
  if rf s cfg 62 2 = 0 then s
  else p.body.zipIdx.foldl (fun s e =>
    let r := (p.drow + e.2) % 1024
    if (punit s n).due.any fun d => d.2.1 == r then raise0C0A s n 1 r p.ccnt
    else
      let s := modPunit s n fun u => { u with rows := tset 0 u.rows r (tget 0 u.rows r ^^^ gfRow c e.1), counts := tset 0 u.counts r (tget 0 u.counts r + 1) }
      if tget 0 (punit s n).counts r = rf s cfg 48 4 then parityDone s n r p.ccnt else s) s

/-- The LOCAL releases of unit n whose cycle it is (R387); none of a halted device (R14). -/
def parityRelease (s : State) (n : Nat) : State :=
  if s.halted then s
  else
  let cfg := trnA (0x100 + 16 * n)
  let (due, rest) := (punit s n).due.partition fun d => decide (d.1 ≤ now s)
  due.foldl (fun s d =>
    let core := rf s cfg 56 6
    let (q, s) := takeSeq s (64 + n) core
    let s := modPunit s n fun u => { u with rows := tset 0 u.rows d.2.1 0, counts := tset 0 u.counts d.2.1 0 }
    inject (bump s (trnA (0x108 + 16 * n)) 32 16) (rf s cfg 55 1) (linkTile n) 5 (portSource (now s))
      (mkHdr q ((rf s cfg 16 16 + d.2.1) % 65536) (rf s cfg 40 6) 1 (rf s cfg 55 1) 0 core (64 + n) (rf s cfg 36 4) false) [d.2.2])
    (modPunit s n fun u => { u with due := rest })

/-! ### The lehr's releases (R300) -/

/-- A packet leaves the lehr: into the Bridle through input 5 of the attachment router, or into a parity unit. -/
def lehrOut (s : State) (n : Nat) (x : LehrPkt) : State :=
  let h := x.half
  let p := x.pkt
  let s := freeLehr s n p.units
  let dk := fld h 29 2
  let dest := fld h 23 6
  if dk = 3 then parityFold s (dest % 24) p
  else
    let (q, s) := takeSeq s (64 + n) (dk * 64 + dest)
    inject s (fld h 18 1) (linkTile n) 5 (portSource (now s)) (mkHdr q p.drow p.ccnt p.body.length (fld h 18 1) dk dest (64 + n) (fld h 19 4) false) p.body

/-- Every packet of the lehr whose release cycle it is; none of a halted device (R14). -/
def lehrRelease (s : State) (n : Nat) : State :=
  if s.halted then s
  else
  let (due, rest) := (link s n).lehr.partition fun x => decide (x.release ≤ now s)
  due.foldl (fun s x => lehrOut s n x) (modLink s n fun l => { l with lehr := rest })

/-- The links in a cycle: releases, then the transmitters. -/
def runLinks (s : State) : State :=
  let s := s.links.foldl (fun s e => if e.2.lehr = [] then s else lehrRelease s e.1) s
  let s := s.punits.foldl (fun s e => if e.2.due = [] then s else parityRelease s e.1) s
  s.links.foldl (fun s e => txCycle s e.1) s

/-! ### Retrain and failover (R290 to R293, R303, R304) -/

/-- A width change under way is abandoned; the request stays, for the first WIDTH_TICK that follows a rejoin (R293). -/
def dropWidth (s : State) (n : Nat) : State :=
  if (link s n).wStage = 0 then s
  else raiseLnk (modLink s n fun l => { l with wStage := 0, wHold := true }) n 0x090D 0 [(1, 1, rf s (lnkA n 0x010) 30 2)]

/-- Packets that fit a replay buffer with u units in use, and those that do not (R303). -/
def fitUnits : Nat → List LPkt → List LPkt × List LPkt
  | _, [] => ([], [])
  | u, p :: t =>
    if u + p.units + 1 ≤ 16384 then (let r := fitUnits (u + p.units + 1) t; (p :: r.1, r.2))
    else (let r := fitUnits u t; (r.1, p :: r.2))

/-- LNK_STAT.FAILED_OVER of a link and CARRYING of its partner (R309). -/
def setCarried (s : State) (n v : Nat) : State := setRf (setRf s (lnkA n 0x008) 55 1 v) (lnkA (partner n) 0x008) 54 1 v

/-- This end's transmit direction moves to the partner (R303); where the partner has failed too nothing carries either
(R304). Packets the partner has not sent are not in its replay buffer yet. -/
def failover (s : State) (n : Nat) : State :=
  let p := partner n
  let l := link s n
  let s := dropWidth (dropWidth s n) p
  let s := modLink s n fun l => { l with unacked := [], replay := [], elig := [], failTick := ttc s }
  let s := setCarried s p 0
  if lnkSt s p ≠ 3 then s
  else
    let held := replayUnits (link s p)
    let mark (q : LPkt) : LPkt := { q with olink := q.olink != true, replays := 0 }
    let (go, lost) := fitUnits held (l.unacked.map mark)
    let later := if isProtected s n then (l.elig.filter fun q => sequenced q.kind).map mark else []
    let s := modLink s p fun x => { x with elig := go ++ x.elig ++ later }
    let s := setCarried s n 1
    if lost = [] then s else lnkCount (raiseLnk s n 0x0909 2 [(1, 1, p), (2, 2, lost.length)]) n 0

/-- The stages of a retrain attempt from its beginning: IDENT follows the training of the lanes (R290). -/
def beginAttempt (s : State) (n : Nat) (units : List LaneCtl) : State :=
  modLink s n fun l => { l with attempt := rg s (kelA 0x110), ident := none, delays := [], lanes := units ++ [{ op := 5, width := 0, sel := 0 }],
                                rejoinAt := none, nakDue := false, ctlDue := false }

/-- REPLAY_LIMIT failures declare the link down (R291). -/
def judgeFails (s : State) (n : Nat) : State :=
  let f := rf s (lnkA n 0x008) 48 4
  if replayLimit s n ≤ f then
    report (raiseLnk (modLink (setLnkSt s n 5) n fun l => { l with lanes := [] }) n 0x0905 1 [(1, 1, f)]) 6
  else s

/-- A link enters retrain (R290): 0x0903, eight RETRAIN units, its traffic moves; a return to retrain in the frame of its
rejoin counts as a failure (R291). -/
def enterRetrain (s : State) (n cause seq : Nat) : State :=
  if lnkSt s n ≠ 3 then s
  else
    let s := bump (raiseLnk s n 0x0903 1 [(1, 1, cause), (2, 2, seq)]) (lnkA n 0x008) 32 16
    let again := (link s n).upSince.isSome && launched s
    let s := failover (setLnkSt s n 4) n
    let s := beginAttempt s n (List.replicate 8 { op := 1, width := 0, sel := 0 })
    if again then judgeFails (bump s (lnkA n 0x008) 48 4) n else s

/-- A retrain attempt fails (R290, R291): the next starts at once unless the link is declared down. -/
def attemptFails (s : State) (n reason flight : Nat) : State :=
  let s := bump s (lnkA n 0x008) 48 4
  let s := raiseLnk s n 0x0904 1 [(1, 1, rf s (lnkA n 0x008) 48 4), (2, 1, reason), (4, 2, flight)]
  let s := judgeFails s n
  if lnkSt s n = 4 then beginAttempt s n [] else s

/-- The tick of the first frame that begins at least 64 tt later; at once where no plan runs (R292). -/
def rejoinTick (s : State) : Nat :=
  if planOn s then launchT s + cdiv (ttc s + 64 - launchT s) (max (frameLen s) 1) * frameLen s else ttc s

/-- A flight against the assumed one (R298): 0 good, else the reason of 0x090C. -/
def flightReason (s : State) (n flight : Nat) : Nat :=
  if flightA s n < flight then 1
  else if 1280 < flight then 2
  else if rf s (lnkA n 0x018) 32 16 < flightA s n - flight then 3
  else 0

/-- Packets to be replayed: retrain where one of them has been replayed REPLAY_LIMIT times (R286, R290). -/
def startReplay (s : State) (n : Nat) (l : List LPkt) : State :=
  match l.find? fun p => decide (replayLimit s n ≤ p.replays) with
  | some p => enterRetrain s n 1 p.seq
  | none => modLink s n fun x => { x with replay := l.map (·.seq), replayAt := now s + 2 }

/-! ### Remote operations (R305 to R307) -/

/-- A pair's engine. -/
def rop (s : State) (k : Nat) : RopS := tget {} s.rops k
/-- The state with an engine changed. -/
def modRop (s : State) (k : Nat) (f : RopS → RopS) : State := { s with rops := tset {} s.rops k (f (rop s k)) }

/-- The operation unit and data of an ROP packet (Table 11-8). -/
def ropPkt (op status seq bytes env addr : Nat) (data : BitVec 1920) : LPkt :=
  let n := pack [(120, 8, op), (112, 8, status), (96, 16, seq), (88, 8, bytes), (84, 4, env), (32, 48, addr), (128, 1920, data.toNat)]
  { kind := 4, units := 1 + bytes / 16, body := [BitVec.ofNat 1024 n, BitVec.ofNat 1024 (n / 2 ^ 1024)] }

/-- A packet waits for a SRC 3 start of the pair. -/
def ropQueue (s : State) (k : Nat) (p : LPkt) : State := modRop s k fun r => { r with sendQ := r.sendQ ++ [p] }

/-- ROP_TIMEOUT and REISSUE of a pair (LNK_TIMING of the even link). -/
def ropTimeout (s : State) (k : Nat) : Nat := rf s (lnkA (2 * k) 0x020) 0 16
/-- REISSUE of a pair. -/
def ropReissue (s : State) (k : Nat) : Nat := rf s (lnkA (2 * k) 0x020) 60 4

/-- Waiting operations are issued while fewer than 128 are outstanding (R305). -/
def ropIssue (s : State) (k : Nat) : State :=
  forN (rop s k).wait.length s fun _ s =>
    let r := rop s k
    match r.wait with
    | o :: t =>
      if 128 ≤ r.out.length then s
      else
        let o := { o with seq := r.next, deadline := ttc s + ropTimeout s k, left := ropReissue s k }
        ropQueue (modRop s k fun r => { r with next := (r.next + 1) % 65536, out := r.out ++ [o], wait := t }) k
          (ropPkt o.op 0 o.seq o.bytes o.env o.addr o.data)
    | [] => s

/-- A requester's operation (R305). -/
def ropRequest (s : State) (k op bytes env addr who item : Nat) (data : BitVec 1920) : State :=
  let o : RopOp := { op := op, seq := 0, bytes := bytes, env := env, addr := addr, data := data, deadline := 0, left := 0, who := who, item := item }
  ropIssue (modRop s k fun r => { r with wait := r.wait ++ [o] }) k

/-! ### Management messages (R294, R371) -/

/-- The link comes up: numbers from 0, the buffers' capacity granted, no duplicate records (R283, R288, R292). -/
def linkComesUp (l : LinkS) : LinkS :=
  { l with txNext := 0, rxNext := 0, unacked := [], replay := [], replayAt := 0, gap := false, search := false, uncov := 0, nakDue := false, ctlDue := false,
           sentD := 0, grantD := 65536, sentM := 0, grantM := 1024, ownD := 65536, ownM := 1024, dups := [] }

/-- A link that ran the frame that ends since its rejoin clears its count of failures (R291). -/
def fullFrame (s : State) (n : Nat) : State :=
  match (link s n).upSince with
  | some t => if lnkSt s n = 3 ∧ t < ttc s then setRf (modLink s n fun l => { l with upSince := none }) (lnkA n 0x008) 48 4 0 else s
  | none => s

/-- The link packets of the foreground queue that no start took are discarded at the commit window (R296). -/
def leftForeground (s : State) (n : Nat) : State :=
  let k := (link s n).fq.length
  if k = 0 then s else raise090E (modLink s n fun l => { l with fq := [] }) n 2 k

/-- A message waits for a management start of a link, once it has crossed from the root to the link group (R44); priority 0 SYNC, 1 votes, 2 Crownline, 3 relay, 4 background
(R294, R409). SYNC on a link that ranges or retrains, and any message before launch, needs no planned start (R292). -/
def sendMgmt (s : State) (n prio kind : Nat) (rows : List Row) : State :=
  let p : LPkt := { kind := kind, units := 16, body := rows, born := now s + 4 }
  if (kind = 3 && (lnkSt s n == 2 || lnkSt s n == 4)) || !launched s then modLink s n fun l => { l with elig := l.elig ++ [p] }
  else modLink s n fun l => { l with mq := l.mq ++ [(prio, p)] }

end Sys2Proof.Machine
end

