-- ==== Sys2Proof/Machine/StartOps.lean ====
section
/-!
DEFINITION. Machine/StartOps.lean: the stages of a start as several families use them (R421, R422, R435, R437): which
stage runs, how one ends, and how a start fails.
-/
namespace Sys2Proof.Machine
open Sys2Proof

/-- KEL_START_STAT.KIND: 1 cold, 2 reheat, 3 cold forced under R435. -/
def startKind (s : State) : Nat := rf s (kelA 0x100) 60 4
/-- KEL_START_STAT.STAGE. -/
def stage (s : State) : Nat := rf s (kelA 0x100) 56 4
/-- KEL_UPTIME. -/
def uptime (s : State) : Nat := rg s (kelA 0x110)

/-- A start fault; byte 0 of the detail holds the stage (R440). LAST_FAULT keeps the code. -/
def raiseStart (s : State) (code sev cls idx : Nat) (d : List (Nat × Nat × Nat)) : State :=
  setRf (raise s code sev cls idx 0xFFFF (det ((0, 1, stage s) :: d))) (kelA 0x100) 32 16 code

/-- KEL_START_REC as the flash holds it (Table 16-11). -/
def showStartRec (s : State) : State :=
  setRg s (kelA 0x108) (pack [(62, 2, s.flash.fails), (40, 16, s.flash.colds), (24, 16, s.flash.reheats), (0, 24, s.flash.first / 2 ^ 40)])

/-- What a cold start leaves of a state: the reset state with the package flash, the key store, the uptime, the pins and
the attachment, what memory holds until the zero-fill, the model's own fields, and with a mailbox COLD the function
registers and BAR2 (R421, R439, R441). -/
def wiped (s : State) (keepHost : Bool) : State :=
  let hostReg (a : Nat) : Bool := decide (0x1000000000000 ≤ a) && a != bar 0 0x280
  let host (a : Nat) : Bool := decide (0x1000000000000 ≤ a)
  let s' := { State.reset with
    pending := s.pending, phase := s.phase, free := s.free, sent := s.sent, faults := s.faults, wearMark := s.wearMark, tileMark := s.tileMark, nextJob := s.nextJob, flash := s.flash,
    keys := s.keys, ucie := s.ucie, rstn := s.rstn, pwrGood := s.pwrGood, thermtrip := s.thermtrip, sec := s.sec, ecc := s.ecc, repairCand := s.repairCand, candSecs := s.candSecs,
    spareRows := s.spareRows, kcmd := if keepHost then s.kcmd else none, logLevel := if keepHost then s.logLevel else 0,
    mem := s.mem.filter fun x => keepHost || !host x.1, regs := s.regs.filter fun r => keepHost && hostReg r.1 }
  setRg s' (kelA 0x110) (uptime s)

/-- A cold start begins at stage 0 (R421, R422); kind 3 is one forced under R435. The boot ROM runs. A thermal-trip record
in flash is delivered first (R474). -/
def coldStart (s : State) (kind : Nat) (keepHost : Bool) : State :=
  let s := wiped s keepHost
  let s := match s.flash.trip with
    | some f => { s with faults := s.faults ++ [f], flash := { s.flash with trip := none } }
    | none => s
  let s := showStartRec { s with flash := { s.flash with colds := min 65535 (s.flash.colds + 1) }, stageAt := uptime s }
  setRg s (kelA 0x100) (pack [(60, 4, kind)])

/-- A COLD that waited is taken at the end of the running stage (R438). -/
def coldIfDue (s : State) : State := if s.coldDue then coldStart s 1 true else s

/-- The start record after a reheat that ended in STAGE 15 (R435). -/
def countFailure (s : State) : State :=
  if startKind s ≠ 2 then s
  else if s.flash.fails = 0 ∨ 93750000000 ≤ uptime s - s.flash.first then
    showStartRec { s with flash := { s.flash with fails := 1, first := uptime s } }
  else showStartRec { s with flash := { s.flash with fails := min 3 (s.flash.fails + 1) } }

/-- The running stage fails: STAGE 15, and every later stage stays unrun (R422). -/
def failStage (s : State) (code : Nat) : State :=
  let s := setRf (setRf s (kelA 0x100) 52 4 (stage s)) (kelA 0x100) 32 16 code
  coldIfDue (setRf (countFailure s) (kelA 0x100) 56 4 15)

/-- The running stage ends: its time is written and the next begins (R422, R439); new training settings go to flash once
stage 9 is reached (R427). -/
def endStage (s : State) : State :=
  let n := stage s
  let s := if n = 8 then { s with flash := { s.flash with stackTrain := s.boot.trainStack.foldl (fun t e => tset {} t e.1 e.2) s.flash.stackTrain, linkTrain := s.boot.trainLink.foldl (fun t e => tset {} t e.1 e.2) s.flash.linkTrain } } else s
  let s := if n ≤ 9 then setRg s (kelA (0x180 + 4 * n)) (min (2 ^ 32 - 1) (uptime s - s.stageAt)) else s
  coldIfDue { setRf s (kelA 0x100) 56 4 (n + 1) with stageAt := uptime s }

/-- PAR_STAT.STATE set; a change raises PF vector 2 (Table 15-5). -/
def setParState (s : State) (v : Nat) : State :=
  if rf s (parA 0x000) 60 4 = v then s else msix (setRf s (parA 0x000) 60 4 v) 0 2

/-- A refusal of the load (R321): PAR_STAT reads refused and PAR_REFUSE what was refused. -/
def parRefuse (s : State) (code sec off : Nat) : State :=
  setRg (setParState s 4) (parA 0x010) (pack [(48, 16, code), (32, 16, sec), (0, 32, off)])

end Sys2Proof.Machine
end

