-- ==== Sys2Proof/Machine/Shape.lean ====
section
/-!
DEFINITION. Machine/Shape.lean: what the shaping engine computes (R113 to R116, R147, R180): the rows each operation
writes, from the rows it reads.
-/
namespace Sys2Proof.Machine
open Sys2Proof

/-- E of TRANSPOSE: elements per row at an element width code (Tables 4-9, 5-13). -/
def trE (w : Nat) : Nat := match w with | 0 => 128 | 1 => 64 | _ => 32

/-- Output row r of a transposed tile: element c is element r of input row c (R113). -/
def transposeRow (w : Nat) (rows : Nat → Row) (t r : Nat) : Row :=
  let E := trE w
  let b := 1024 / E
  BitVec.ofNat 1024 (pack ((List.range E).map fun c => (b * c, b, rowGet (rows (t * E + c)) (b * r) b)))

/-- Parameters of IM2COL (Table 5-14), counts as counts. -/
structure Im2 where
  tin : Nat
  fin_ : Nat
  rin : Nat
  kt : Nat
  kf : Nat
  st : Nat
  sf : Nat
  pt : Nat
  pf : Nat
deriving DecidableEq, Repr

/-- The IM2COL parameters of a descriptor (Table 5-14, R480). -/
def im2Of (d : Nat) : Im2 :=
  { tin := fld d 0 12 + 1, fin_ := fld d 12 10 + 1, rin := fld d 22 4 + 1, kt := fld d 26 5 + 1, kf := fld d 31 5 + 1,
    st := fld d 36 4 + 1, sf := fld d 40 4 + 1, pt := fld d 44 4, pf := fld d 48 4 }

/-- ⌊(n + 2p - k)/s⌋ + 1, and 0 where the window does not fit (R147). -/
def outDim (n p k s : Nat) : Nat := if n + 2 * p < k then 0 else (n + 2 * p - k) / s + 1

/-- Output rows of IM2COL: P_out · KT · KF · R_in (Table 4-9). -/
def Im2.rows (p : Im2) : Nat := outDim p.tin p.pt p.kt p.st * outDim p.fin_ p.pf p.kf p.sf * p.kt * p.kf * p.rin

/-- The source row offset of window row q in output order (point, tap, row), none in the zero padding (R113, R147). -/
def Im2.src (p : Im2) (q : Nat) : Option Nat :=
  let r := q % p.rin
  let tap := q / p.rin % (p.kt * p.kf)
  let pt := q / p.rin / (p.kt * p.kf)
  let fo := outDim p.fin_ p.pf p.kf p.sf
  let t : Int := (pt / fo * p.st + tap / p.kf : Nat) - (p.pt : Int)
  let f : Int := (pt % fo * p.sf + tap % p.kf : Nat) - (p.pf : Int)
  if 0 ≤ t ∧ t < p.tin ∧ 0 ≤ f ∧ f < p.fin_ then some ((t.toNat * p.fin_ + f.toNat) * p.rin + r) else none

/-- TOPK's order: a before b (R114): descending, NaN last, zeros equal, then the lower index. -/
def topBefore (a b : W32 × Nat) : Bool :=
  let x := val32 a.1
  let y := val32 b.1
  if x.isNan then (if y.isNan then decide (a.2 < b.2) else false)
  else if y.isNan then true
  else if y.lt x then true
  else if x.lt y then false
  else decide (a.2 < b.2)

/-- A candidate put in its place. -/
def topIns (a : W32 × Nat) : List (W32 × Nat) → List (W32 × Nat)
  | [] => [a]
  | b :: t => if topBefore a b then a :: b :: t else b :: topIns a t

/-- The k best of n values in order, as (value, element) pairs (R114). -/
def topBest (k n : Nat) (v : Nat → W32) : List (W32 × Nat) :=
  (List.range n).foldl (fun best i => (topIns (v i, i) best).take k) []

/-- Output row u of a value row: 16 pairs of 8 bytes, value first, then base + element (R114). -/
def topRow (best : List (W32 × Nat)) (base u : Nat) : Row :=
  BitVec.ofNat 1024 (pack (((best.drop (16 * u)).take 16).zipIdx.flatMap fun e =>
    [(64 * e.2, 32, e.1.1.toNat), (64 * e.2 + 32, 32, base + e.1.2)]))

/-- Parameters of DISPATCH and COMBINE (Table 5-14), counts as counts. -/
structure Route where
  t : Nat
  e : Nat
  x : Nat
  c : Nat
  trows : Nat
  xrows : Nat
  f32 : Bool
deriving DecidableEq, Repr

/-- The routing parameters of a descriptor (Table 5-14, R480). -/
def routeOf (d : Nat) : Route :=
  { t := fld d 0 12 + 1, e := fld d 12 3 + 1, x := fld d 15 10 + 1, c := fld d 25 12, trows := fld d 37 8 + 1, xrows := fld d 45 8 + 1, f32 := bitAt d 53 }

/-- Expert and gate of routing entry i: 8 bytes (R115). -/
def routeEntry (rows : Nat → Row) (i : Nat) : Nat × W32 :=
  (rowGet (rows (i / 16)) (64 * (i % 16)) 16, BitVec.ofNat 32 (rowGet (rows (i / 16)) (64 * (i % 16) + 32) 32))

/-- The admission of DISPATCH while pairs are taken rank-major: the next free slot of each expert, the slot of every
admitted pair (by pair index), who fills each slot (by x·C + c, token + 1), and the bad expert ids met (R115). -/
structure Admit where
  next : Tbl Nat
  slot : Tbl Nat
  fill : Tbl Nat
  bad : List Nat
deriving DecidableEq, Repr

/-- One pair (t, j) admitted or dropped (R115). Slots are kept plus one, so that 0 means dropped. -/
def admitPair (p : Route) (rows : Nat → Row) (a : Admit) (t j : Nat) : Admit :=
  let i := t * p.e + j
  let x := (routeEntry rows i).1
  if p.x ≤ x then { a with bad := a.bad ++ [x] }
  else
    let n := tget 0 a.next x
    if p.c ≤ n then a
    else { a with next := tset 0 a.next x (n + 1), slot := tset 0 a.slot i (n + 1), fill := tset 0 a.fill (x * p.c + n) (t + 1) }

/-- Rank-major admission of every pair (R115). -/
def admitAll (p : Route) (rows : Nat → Row) : Admit :=
  (List.range p.e).foldl (fun a j => (List.range p.t).foldl (fun a t => admitPair p rows a t j) a) { next := [], slot := [], fill := [], bad := [] }

/-- The assignment row r: 64 entries of 16 bits, the slot or 0xFFFF (R115). -/
def assignRow (p : Route) (a : Admit) (r : Nat) : Row :=
  BitVec.ofNat 1024 (pack ((List.range 64).filterMap fun i =>
    if 64 * r + i < p.t * p.e then
      some (16 * i, 16, match tget 0 a.slot (64 * r + i) with | 0 => 0xFFFF | n + 1 => n)
    else none))

/-- Assignment entry i (R116). -/
def assignEntry (rows : Nat → Row) (i : Nat) : Nat := rowGet (rows (i / 64)) (16 * (i % 64)) 16

/-- Elements of an expert output row (R116). -/
def Route.elems (p : Route) : Nat := p.xrows * (if p.f32 then 32 else 64)

/-- Element d of an expert output as FP32 (R116). -/
def expertElem (p : Route) (rows : Nat → Row) (x c d : Nat) : W32 :=
  let r0 := (x * p.c + c) * p.xrows
  if p.f32 then BitVec.ofNat 32 (rowGet (rows (r0 + d / 32)) (32 * (d % 32)) 32)
  else laneWord 1 (rowGet (rows (r0 + d / 64)) (16 * (d % 64)) 16) 127

/-- Pair (t, j) is used by COMBINE: (expert, slot) where it is valid, else nothing, with the bad value if it is out of
range rather than dropped (R116). -/
def combinePair (p : Route) (route assign : Nat → Row) (i : Nat) : Option (Nat × Nat) × Option Nat :=
  let x := (routeEntry route i).1
  let c := assignEntry assign i
  if c = 0xFFFF then (none, if p.x ≤ x then some x else none)
  else if p.x ≤ x then (none, some x)
  else if p.c ≤ c then (none, some c)
  else (some (x, c), none)

/-- Element d of token t's combined row: the accumulator starts at +0, one fused multiply-add per valid pair in
ascending choice (R116). -/
def combineAt (p : Route) (src route assign : Nat → Row) (t d : Nat) : W32 :=
  (List.range p.e).foldl (fun acc j =>
    match (combinePair p route assign (t * p.e + j)).1 with
    | some (x, c) => ffma (routeEntry route (t * p.e + j)).2 (expertElem p src x c d) acc
    | none => acc) 0

/-- Rows of one combined token: 4D bytes (Table 4-9). -/
def Route.outRows (p : Route) : Nat := cdiv (4 * p.elems) 128

/-- Row u of token t's combined row. -/
def combineRow (p : Route) (src route assign : Nat → Row) (t u : Nat) : Row :=
  BitVec.ofNat 1024 (pack ((List.range 32).map fun i => (32 * i, 32, (combineAt p src route assign t (32 * u + i)).toNat)))

/-- Cycles of a shaping command from issue to the last write, inclusive (Table 4-9). -/
def shapeHold (i : Instr) (d : Nat) : Nat :=
  match i with
  | .transpose _ _ _ _ n w => (n.toNat + 1) * trE w.toNat + trE w.toNat + 4
  | .permute _ _ _ _ n _ _ => (n.toNat + 1) + cdiv (2 * (n.toNat + 1)) 128 + 8
  | .im2col _ _ _ _ _ => (im2Of d).rows + 8
  | .topk _ _ _ _ r nb k _ => (r.toNat + 1) * max (nb.toNat + 1) (cdiv (8 * 2 ^ k.toNat) 128) + 96
  | .dispatch _ _ => (routeOf d).x * (routeOf d).c * (routeOf d).trows + cdiv (8 * (routeOf d).t * (routeOf d).e) 128 + 24
  | .combine _ _ => (routeOf d).t * max ((routeOf d).e * (routeOf d).xrows) (routeOf d).outRows + 24
  | _ => 0

end Sys2Proof.Machine
end

