-- ==== Sys2Proof/Machine/Crucible.lean ====
section
/-!
DEFINITION. Machine/Crucible.lean: one cycle of a core's Crucible (R175 to R200): the accesses that meet at a bank, the
reserved cycles, spools, check bits, resident ranges, audit epochs, and what each access does.
-/
namespace Sys2Proof.Machine
open Sys2Proof

/-- What an access does when it takes place. -/
inductive AccKind where
  | rd (opnd key : Nat)
  | rdSrc (i : Nat)
  | wr (data : Row) (mask : Nat)
  | eject (data : Row)
  | mfill (e : Nat)
  | mwb (e : Nat)
  | mload
  | scrubRd
  | scrubWr
deriving DecidableEq, Repr

/-- One access of one cycle: port bit of Table 7-8, row, direction, job. -/
structure Acc where
  port : Nat
  row : Nat
  wr : Bool
  job : Nat
  kind : AccKind
deriving DecidableEq, Repr

/-- Bank of a row (R175). -/
def bankOf (r : Nat) : Nat := r % 16

/-- The bank is reserved for the marver in this frame cycle (R187). -/
def marverCycle (s : State) (c bank fc : Nat) : Bool :=
  let r := rg s (cruA c 0x020)
  decide (8 * fld r 0 23 ≤ fc ∧ fc < 8 * fld r 23 23) && fc % 4 == bank % 4

/-- The frame cycle lies in a scrub pair of a core (R195). -/
def scrubCycle (s : State) (c fc : Nat) : Bool :=
  let r := rg s (cruA c 0x028)
  decide (8 * fld r 23 23 ≤ fc ∧ fc < 8 * fld r 23 23 + 2 * fld r 0 13)

/-- The resident range that holds a row (R199, R200). -/
def residentOf (s : State) (c row : Nat) : Option Nat :=
  (List.range 16).find? fun n =>
    let r := rg s (cruA c (0x200 + 8 * n))
    bitAt r 63 && decide (fld r 0 16 ≤ row ∧ row < fld r 0 16 + fld r 16 17)

/-- Audit rows that the plan may not use (R196). -/
def auditRow (s : State) (c row : Nat) : Bool := (core s c).audited && decide (0xF000 ≤ row % 65536)

/-- The Crucible class-0x03 fault of a bank (R204). -/
def raiseBank (s : State) (c bank code sev : Nat) (d : List (Nat × Nat × Nat)) : State :=
  raiseCore s c code sev 0x03 (c * 16 + bank) ((2, 1, bank) :: d)

/-- CRU_ECC_LAST (R203). -/
def cruEccLast (s : State) (c row w : Nat) (unc : Bool) (syn : Nat) : State :=
  setRg s (cruA c 0x018) (pack [(48, 16, row), (45, 3, w), (44, 1, b2n unc), (0, 9, syn)])

/-- The check-bit state of word w of a row: 0 clean. -/
def eccMark (s : State) (c row w : Nat) : Nat := tget 0 s.ecc (rowAddr c row / 16 + w)

/-- Records and counts of the check bits of one word as it is read, by a port or by scrub (R193, R195). -/
def noteWord (s : State) (c row : Nat) (scrub : Bool) (w : Nat) : State :=
  let m := eccMark s c row w
  if m = 0 then s
  else
    let syn := m % 1024 - 1
    if m < 1024 then
      cruEccLast (bump (raiseBank s c (bankOf row) 0x0506 1 [(4, 2, row), (6, 1, w), (8, 2, syn), (10, 1, b2n scrub)]) (cruA c 0x010) 32 32) c row w false syn
    else match residentOf s c row with
      | some n => cruEccLast (bump (raiseBank s c (bankOf row) 0x0508 3 [(4, 2, row), (6, 1, w), (7, 1, n), (10, 1, b2n scrub)]) (cruA c 0x010) 0 16) c row w true syn
      | none => cruEccLast (bump (raiseBank s c (bankOf row) 0x0507 2 [(4, 2, row), (6, 1, w), (10, 1, b2n scrub)]) (cruA c 0x010) 16 16) c row w true syn

/-- A row as a port reads it, with its records (R193). -/
def readChecked (s : State) (c row : Nat) : Row × State :=
  (readRow s c row, forN 8 s fun w s => noteWord s c row false w)

/-- The audit comparison of one read (R198). -/
def auditRead (s : State) (c row j opnd : Nat) : State :=
  let x := job s j
  let e := fld x.audit.toNat (20 - 6 * opnd) 6
  let f := tget 0 (core s c).epochs row
  if !(core s c).audited || e == 0 || e == f || 4 ≤ opnd then s
  else
    let s1 := raiseBank s c (bankOf row) 0x0509 2 [(4, 2, row), (6, 1, e), (7, 1, f), (8, 2, x.index), (10, 1, x.strm), (11, 1, opnd)]
    let s2 := bump s1 (cruA c 0x038) 32 16
    setRg s2 (cruA c 0x038) (setFld (setFld (setFld (rg s2 (cruA c 0x038)) 16 16 row) 10 6 e) 4 6 f)

/-- Access to rows 0xF000 to 0xFFFF in audit mode (R196). -/
def raise050D (s : State) (c row port : Nat) : State :=
  bump (raiseTile s c 0x050D 2 [(4, 2, row), (7, 1, port)]) (cruA c 0x008) 0 16

/-- A write of a row by a port: refused on a resident row (R200) and on an audit row (R196); otherwise the masked
words are stored, and in audit mode the row takes the writer's epoch (R197). -/
def putRow (s : State) (c row port : Nat) (data : Row) (mask epoch : Nat) : State :=
  if auditRow s c row then raise050D s c row port
  else match residentOf s c row with
    | some n => bump (raiseTile s c 0x050A 2 [(4, 2, row), (6, 1, n), (7, 1, port)]) (cruA c 0x008) 16 16
    | none =>
      let s := writeRow s c row data mask
      if (core s c).audited then modCore s c fun x => { x with epochs := tset 0 x.epochs row epoch } else s

/-- The epoch a job's writes carry (R197). -/
def jobEpoch (x : Job) : Nat := fld x.audit.toNat 26 6

/-- A row read reaches its job: a weight load deposits it in its bank (R99), every other job keeps it. -/
def deliver (s : State) (c j key : Nat) (data : Row) : State :=
  match (job s j).cmd with
  | .moveW _ me _ _ bank _ =>
    modCore s c fun x =>
      let b := tget {} x.banks (2 * me.val + b2n bank)
      let b' : WBank := { b with rows := tset 0 b.rows key data, bad := b.bad.filter fun w => w / 32 != key }
      { x with banks := tset {} x.banks (2 * me.val + b2n bank) b' }
  | _ => modJob s j fun x => keep x key data

/-- A gaffer entry of the marver. -/
def mentry (s : State) (c e : Nat) : Option MEntry := tget none (core s c).marver e
/-- The state with a gaffer entry changed. -/
def setMentry (s : State) (c e : Nat) (v : Option MEntry) : State :=
  modCore s c fun x => { x with marver := tset none x.marver e v }

/-- Fill data under the bytes the gaffer has stored (R185). -/
def overlay (img data : Row) (mask : BitVec 128) : Row :=
  rowOf ((List.range 128).map fun b => if bitAt mask.toNat b then BitVec.ofNat 8 (rowByte img b) else BitVec.ofNat 8 (rowByte data b))

/-- A store of 1, 2 or 4 bytes in a row image. -/
def storeIn (e : MEntry) (lo size v : Nat) : MEntry :=
  { e with img := rowSet e.img (8 * lo) (8 * size) v,
           mask := BitVec.ofNat 128 (setFld e.mask.toNat lo size (2 ^ size - 1)) }

/-- A new gaffer entry for a row, holding one store; its first marver access is its fill read, from a cycle on (R185). -/
def newEntry (s : State) (row lo size v first : Nat) : MEntry :=
  storeIn { row := row, img := 0, mask := 0, born := now s, filled := false, wb := false, from_ := first } lo size v

/-- The entry that a write-back frees takes the store that waits in the holding register, in the cycle in which the write-back
completes (R186); its fill read may use that cycle or a later one (R185). -/
def takeHeld (s : State) (c e : Nat) : State :=
  match (core s c).mstore with
  | some m =>
    let s := setMentry s c e (some (newEntry s (m.addr / 128) (m.addr % 128) m.size m.value (now s)))
    modCore s c fun x => { x with mstore := none }
  | none => setMentry s c e none

/-- A gaffer register x1 to x31 written. -/
def setX (s : State) (c r : Nat) (v : W32) : State :=
  if r = 0 then s else modCore s c fun x => { x with gaf := { x.gaf with x := tset 0 x.gaf.x r v } }

/-- A loaded datum of 1, 2 or 4 bytes, extended (RV32I). -/
def extend (size v : Nat) (signed : Bool) : W32 :=
  BitVec.ofNat 32 (if signed then wrapN 32 (sext (8 * size) v) else v % 2 ^ (8 * size))

/-- The row as the gaffer sees it: the bytes of its pending entry laid over it (R185). -/
def gafView (s : State) (c row : Nat) (data : Row) : Row :=
  match (List.range 4).findSome? (fun e => match mentry s c e with | some m => if m.row = row then some m else none | none => none) with
  | some m => overlay m.img data m.mask
  | none => data

/-- An access takes place. -/
def perform (s : State) (c : Nat) (a : Acc) : State :=
  match a.kind with
  | .rd opnd key =>
    if auditRow s c a.row then deliver (raise050D s c a.row a.port) c a.job key 0
    else
      let r := readChecked s c a.row
      deliver (auditRead r.2 c a.row a.job opnd) c a.job key r.1
  | .rdSrc i =>
    if auditRow s c a.row then deliver (raise050D s c a.row a.port) c a.job i 0
    else
      let r := readChecked s c a.row
      deliver (auditRead r.2 c a.row a.job 0) c a.job i r.1
  | .wr data mask => putRow s c a.row a.port data mask (jobEpoch (job s a.job))
  | .eject data => putRow s c a.row a.port data 255 62
  | .mfill e => match mentry s c e with
    | some m =>
      let r := if auditRow s c m.row then (0, raise050D s c m.row 8) else readChecked s c m.row
      setMentry r.2 c e (some { m with img := overlay m.img r.1 m.mask, filled := true, from_ := now s + 1 })
    | none => s
  | .mwb e => match mentry s c e with
    | some m => takeHeld (putRow s c m.row 8 m.img 255 61) c e
    | none => s
  | .mload => match (core s c).mload with
    | some m =>
      let r := if auditRow s c m.row then (0, raise050D s c m.row 8) else readChecked s c m.row
      setX (modCore r.2 c fun x => { x with mload := none }) c m.rd (extend m.size (rowGet (gafView s c m.row r.1) (8 * m.lo) (8 * m.size)) m.signed)
    | none => s
  | .scrubRd =>
    let ms := (List.range 8).map fun w => eccMark s c a.row w
    let s1 := forN 8 s fun w s => noteWord s c a.row true w
    if ms.any (fun m => m ≠ 0) && ms.all (fun m => m < 1024) then
      addAct s1 { cyc := now s + 1, core := c, job := 0, op := .scrubWr (bankOf a.row) a.row }
    else s1
  | .scrubWr => { s with ecc := (List.range 8).foldl (fun t w => tset 0 t (rowAddr c a.row / 16 + w) 0) s.ecc }

/-- An access that met another: a read returns zeros, a write is lost (R177). -/
def lost (s : State) (c : Nat) (a : Acc) : State :=
  match a.kind with
  | .rd _ key => deliver s c a.job key 0
  | .rdSrc i => deliver s c a.job i 0
  | .mfill e => match mentry s c e with
    | some m => setMentry s c e (some { m with img := overlay m.img 0 m.mask, filled := true, from_ := now s + 1 })
    | none => s
  | .mwb e => takeHeld s c e
  | .mload => match (core s c).mload with
    | some m => setX (modCore s c fun x => { x with mload := none }) c m.rd (extend m.size (rowGet (gafView s c m.row 0) (8 * m.lo) (8 * m.size)) m.signed)
    | none => s
  | _ => s

/-- A range claim of the SE: its job and the rows it covers (R180). -/
structure Claim where
  job : Nat
  base : Nat
  len : Nat
deriving DecidableEq, Repr

/-- A claim covers a bank. -/
def Claim.covers (k : Claim) (bank : Nat) : Bool := (List.range (min 16 k.len)).any fun i => bankOf (k.base + i) == bank

/-- One bank's accesses of one cycle (R177, R192): reserved cycles and claims count as accesses; an access of the
claiming job is within its own claim. -/
def bankCycle (s : State) (c bank : Nat) (l : List Acc) (claims : List Claim) : State :=
  let ks := claims.filter fun k => k.covers bank
  let jobs := (ks.map (·.job)).eraseDups
  let mar := planOn s && marverCycle s c bank (frameCyc s)
  let scr := planOn s && scrubCycle s c (frameCyc s)
  let plan := l.filter fun a => a.port < 8 && !jobs.contains a.job
  if 1 < plan.length + jobs.length + b2n mar + b2n scr then
    let mask := pack ((List.range 8).map (fun p => (p, 1, b2n (l.any fun a => a.port == p))) ++ [(8, 1, b2n mar), (9, 1, b2n scr), (10, 1, b2n (ks ≠ []))])
    let s0 := if mar then modCore s c fun x => { x with marAt := tset 0 x.marAt bank (now s + 1) } else s
    let s1 := bump (raiseBank s0 c bank 0x0501 2 [(4, 4, frameCyc s), (8, 2, mask), (10, 2, (l.head?.map (·.row)).getD 0)]) (cruA c 0x008) 48 16
    let s2 := jobs.foldl (fun s j => modJob s j fun x => { x with flag := x.flag ||| 1 }) s1
    l.foldl (fun s a => lost s c a) s2
  else
    let (ws, rs) := l.partition (·.wr)
    ws.foldl (fun s a => perform s c a) (rs.foldl (fun s a => perform s c a) s)

/-- A spool's register (R188). -/
def spoolReg (s : State) (c n : Nat) : Nat := rg s (cruA c (0x100 + 8 * n))

/-- The marver's access in a bank's marver cycle: a waiting load first, else the entry allocated least recently whose
next access may use this cycle (R185, R186). -/
def marverPick (s : State) (c bank : Nat) : Option Acc :=
  let t := now s
  if tget 0 (core s c).marAt bank = t + 1 then none
  else match (core s c).mload with
  | some m => if bankOf m.row = bank ∧ m.from_ ≤ t then some ⟨8, m.row, false, 0, .mload⟩ else entries t
  | none => entries t
where
  /-- The entries in order of allocation. -/
  entries (t : Nat) : Option Acc :=
    let es := (List.range 4).filterMap fun e => match mentry s c e with
      | some m => if bankOf m.row = bank ∧ m.from_ ≤ t ∧ (!m.filled || m.wb || m.mask = BitVec.allOnes 128) then some (m.born, e, m) else none
      | none => none
    match es.foldl (fun (b : Option (Nat × Nat × MEntry)) e => match b with | none => some e | some x => if e.1 < x.1 then some e else some x) none with
    | some (_, e, m) =>
      if m.mask = BitVec.allOnes 128 ∨ m.filled then some ⟨8, m.row, true, 0, .mwb e⟩ else some ⟨8, m.row, false, 0, .mfill e⟩
    | none => none

end Sys2Proof.Machine
end

