-- ==== Sys2Proof/Machine/Stream.lean ====
section
/-!
DEFINITION. Machine/Stream.lean: the command streams (R120 to R139, R151, R152, R156): issue, skipping, waits, segments,
loops, arms, counters, comparators and predicates, paths and their holds.
-/
namespace Sys2Proof.Machine
open Sys2Proof

/-- A stream fault: the core stream by its tile, a blowpipe stream by its blowpipe (R157). -/
def raiseStrm (s : State) (c k code sev : Nat) (d : List (Nat × Nat × Nat)) : State :=
  if k = 0 then raiseTile s c code sev ((2, 1, k) :: d)
  else raiseEng s c (7 + (k - 1) / 2) code sev ((2, 1, k) :: d)

/-- The blowpipe of a blowpipe stream. -/
def bpOf (k : Nat) : Nat := (k - 1) / 2

/-- A stream abandons its segment (R129). -/
def abandon (s : State) (c k : Nat) : State :=
  modStrm s c k fun x =>
    { x with running := false, wait := none, abandoned := true, loop0 := { x.loop0 with active := false }, loop1 := { x.loop1 with active := false } }

/-! ### Waits (R135 to R138, R152) -/

/-- The condition of a wait holds in this state. -/
def waitHolds (s : State) (c k : Nat) : WaitFor → Bool
  | .ccnt n v _ => decide (v ≤ ccntOf s c n)
  | .ready b q v _ => decide (v ≤ (queue s c b q).ready)
  | .fill q v _ => decide (v ≤ (queue s c (bpOf k) q).items.length)
  | .tick t => frameCyc s == 8 * t

/-- What a completed wait subtracts. -/
def waitTake (s : State) (c : Nat) : WaitFor → State
  | .ccnt n v _ => setCcnt s c n (ccntOf s c n - v)
  | .ready b q v _ => modQueue s c b q fun x => { x with ready := x.ready - v }
  | _ => s

/-- The wait's deadline tick has come (R137). -/
def waitOver (s : State) : WaitFor → Bool
  | .ccnt _ _ d => decide (8 * d ≤ frameCyc s)
  | .ready _ _ _ d => decide (8 * d ≤ frameCyc s)
  | .fill _ _ d => decide (8 * d ≤ frameCyc s)
  | .tick _ => false

/-- A failed wait: its fault, and the segment is abandoned (R137). -/
def waitMiss (s : State) (c k : Nat) (w : WaitFor) : State :=
  let ix := (strm s c k).pc
  let s1 := match w with
    | .ccnt n v d => raiseStrm s c k 0x0401 2 [(4, 2, ix), (6, 1, n), (8, 4, v), (12, 4, ccntOf s c n), (16, 3, d)]
    | .ready b q v d => raiseStrm s c k 0x0402 2 [(4, 2, ix), (6, 1, b), (7, 1, q), (8, 4, v), (12, 4, (queue s c b q).ready), (16, 3, d)]
    | .fill q v d => raiseStrm s c k 0x0402 2 [(4, 2, ix), (6, 1, bpOf k), (7, 1, q), (8, 4, v), (12, 4, (queue s c (bpOf k) q).items.length), (16, 3, d)]
    | .tick _ => s
  abandon (bump s1 (cmdA c 0x018) 48 16) c k

/-- A stream's wait in this cycle: fails at its deadline, completes where its condition holds, else goes on. -/
def waitTry (s : State) (c k : Nat) : State :=
  match (strm s c k).wait with
  | none => s
  | some w =>
    if waitOver s w then waitMiss s c k w
    else if waitHolds s c k w then
      modStrm (waitTake s c w) c k fun x => { x with wait := none, base := now s }
    else s

/-! ### Segments and arms (R130 to R132) -/

/-- The stream's armed start is due in this cycle (R130). -/
def startDue (s : State) (c k : Nat) : Bool :=
  match (strm s c k).next with
  | some n => !n.nextFrame && n.tick == frameTick s && s.phase == 0 && planOn s
  | none => false

/-- The armed start of a stream: VALID clears, a running segment is abandoned with 0x0404, and the command at INDEX
issues at this cycle plus its DELTA (R130, R132). -/
def startSeg (s : State) (c k : Nat) : State :=
  match (strm s c k).next with
  | none => s
  | some n =>
    let s1 := if (strm s c k).running then
        abandon (bump (raiseStrm s c k 0x0404 2 [(4, 2, (strm s c k).pc), (6, 2, n.index)]) (cmdA c 0x018) 16 16) c k
      else s
    modStrm s1 c k fun x => { x with running := true, wait := none, ix := n.index, base := now s, next := none, started := now s + 1 }

/-- Why an arm is refused against a register (R131, R165), none where it is kept. -/
def armReason (s : State) (held : Option NextStart) (gaf : Bool) (n : NextStart) : Option Nat :=
  if held.isSome then some 1
  else if (!n.nextFrame && decide (n.tick ≤ frameTick s)) || (gaf && decide (frameLen s - cwLen s ≤ n.tick)) then some 2
  else none

/-- 0x0405 with its reason (R131). -/
def raiseArm (s : State) (c k r : Nat) (n : NextStart) : State :=
  bump (raiseStrm s c k 0x0405 2 [(3, 1, r), (6, 2, n.index), (8, 3, n.tick)]) (cmdA c 0x018) 16 16

/-- The next-start register as it stood at the start of this cycle: one whose start is of this cycle held that start
(R131). -/
def heldStart (s : State) (c k : Nat) : Option NextStart :=
  let x := strm s c k
  if x.started = now s + 1 then some { nextFrame := false, index := x.ix, tick := frameTick s } else x.next

/-- The stream's turn in a cycle: an armed start comes first (R132), then a wait. -/
def streamTurn (s : State) (c k : Nat) : State := if startDue s c k then startSeg s c k else waitTry s c k

/-- One arm of a cycle, judged against the register as it stood at the start of the cycle (R131). -/
def judgeArm (s : State) (c k : Nat) (held : Option NextStart) (both gaf : Bool) (rd : Nat) (n : NextStart) : State :=
  let r := if gaf && both then some 3 else armReason s held gaf n
  let s1 := match r with
    | some r => raiseArm s c k r n
    | none => modStrm s c k fun x => { x with next := some n }
  if gaf then setX s1 c rd (BitVec.ofNat 32 (r.getD 0)) else s1

/-! ### Counters, comparators, predicates (R94 to R96, R124, R151) -/

/-- Loop counter j of an engine (9: the sequencer). -/
def ctr (s : State) (c e j : Nat) : Ctr := tget {} (core s c).ctrs (4 * e + j)

/-- Σ LCj × STRIDEj over a selection from counter `lo` on (R94), as an integer. -/
def terms (s : State) (c e lo sel : Nat) : Int :=
  (List.range 4).foldl (fun a i => if bitAt sel i then a + ((ctr s c e (lo + i)).val.toNat : Int) * sext 16 (ctr s c e (lo + i)).stride.toNat else a) 0

/-- The relation of a comparator (R95). -/
def relHolds (rel : BitVec 2) (v w : Nat) : Bool :=
  match rel.toNat with
  | 0 => v == w | 1 => v != w | 2 => decide (v < w) | _ => decide (w ≤ v)

/-- The comparators bound to a counter evaluate its new value in the next cycle (R95, R142). -/
def evalCmps (s : State) (c e j v : Nat) : State :=
  forN 2 s fun i s =>
    let k := tget {} (core s c).cmps (2 * e + i)
    if k.en && k.ctr.toNat == j then
      addAct s { cyc := now s + 1, core := c, job := 0, op := .cmpWrite k.pred.toNat (relHolds k.rel v k.val.toNat) e }
    else s

/-- A counter takes a new value (R94). -/
def setCtr (s : State) (c e j : Nat) (x : Ctr) : State :=
  evalCmps (modCore s c fun k => { k with ctrs := tset {} k.ctrs (4 * e + j) x }) c e j x.val.toNat

/-- The limit of a counter; 0 means 65,536 (R94). -/
def Ctr.limit (x : Ctr) : Nat := if x.lim = 0 then 65536 else x.lim.toNat

/-- The increments a command selects: v becomes (v + 1) mod L (R94). -/
def incCtrs (s : State) (c e lo sel : Nat) : State :=
  forN 4 s fun i s =>
    if bitAt sel i then
      let x := ctr s c e (lo + i)
      setCtr s c e (lo + i) { x with val := BitVec.ofNat 16 ((x.val.toNat + 1) % x.limit) }
    else s

/-- P[i] (R95): P0 reads 1 always. -/
def predBit (s : State) (c i : Nat) : Bool := i == 0 || bitAt (core s c).pred.toNat i

/-- A predicate bit written (R95, R166); P0 is never written. -/
def setPred (s : State) (c i : Nat) (v : Bool) : State :=
  if i = 0 then s else modCore s c fun x => { x with pred := BitVec.ofNat 8 (setFld x.pred.toNat i 1 (b2n v)) }

/-- The command at this header is skipped (R122). -/
def skipped (s : State) (h : Iss) : Bool := predBit s h.core.val h.psel.toNat != h.pol

/-! ### Paths (R91, R92) -/

/-- The cycle at which a path of an engine is free. -/
def freeAt (s : State) (c e p : Nat) : Nat := tget 0 (core s c).holds (16 * e + p)
/-- The path is held at least until a cycle. -/
def holdPath (s : State) (c e p u : Nat) : State :=
  modCore s c fun x => { x with holds := tset 0 x.holds (16 * e + p) (max (tget 0 x.holds (16 * e + p)) u) }
/-- The first path of a list that is still held in this cycle (R91). -/
def overlap (s : State) (c e : Nat) (ps : List Nat) : Option Nat := ps.find? fun p => decide (now s < freeAt s c e p)
/-- 0x0301: engine, path, command index and the cycles of the hold that remain (R91, R119). -/
def raiseOverlap (s : State) (c e p ix left : Nat) : State :=
  bump (raiseEng s c e 0x0301 2 [(2, 1, e), (3, 1, p), (4, 2, ix), (6, 2, left)]) (engA c 0x028) 48 16

/-- The holds of a command on its paths: it takes them for their times whether it executes, is skipped or overlaps; an
overlap is recorded and the command is not executed (R91, R92). -/
def takePaths (s : State) (c e ix : Nat) (ps : List (Nat × Nat)) : Bool × State :=
  let o := overlap s c e (ps.map (·.1))
  let s1 := match o with
    | some p => raiseOverlap s c e p ix (freeAt s c e p - now s)
    | none => s
  (o.isNone, ps.foldl (fun s p => holdPath s c e p.1 (now s + p.2)) s1)

/-! ### Issue (R122, R126, R128, R156) -/

/-- The command word at a place of a stream's memory. -/
def cmdWord (s : State) (c k ix : Nat) : Cmd := tget segEndWord (core s c).cmds (32768 * k + ix)
/-- The check-bit state of a command word: 0 clean, syndrome + 1, plus 1,024 if uncorrectable. -/
def cmdMark (s : State) (c k ix : Nat) : Nat := tget 0 (core s c).cmdBad (32768 * k + ix)

/-- The stream's next command is due in this cycle and the word in its memory is the command presented (R126); in
the cycle of an armed start no command of the running segment issues (R132). -/
def cmdDue (s : State) (h : Iss) (i : Instr) : Bool :=
  let x := strm s h.core.val h.strm.val
  planOn s && !startDue s h.core.val h.strm.val && x.running && x.wait.isNone && x.ix == h.index.toNat && now s == x.base + h.delta.toNat &&
    (decide (1024 ≤ cmdMark s h.core.val h.strm.val x.ix) ||
      decodeCmd h.core h.strm h.index h.phase (cmdWord s h.core.val h.strm.val x.ix) == some i)

/-- A corrected command word is written back with its record (R156). -/
def fixWord (s : State) (c k ix : Nat) : State :=
  let m := cmdMark s c k ix
  if m = 0 then s
  else
    let s1 := bump (raiseStrm s c k 0x0407 1 [(4, 2, ix), (6, 1, m - 1)]) (cmdA c 0x020) 0 16
    modCore s1 c fun x => { x with cmdBad := tset 0 x.cmdBad (32768 * k + ix) 0 }

/-- The stream has issued the command: the next one follows at this cycle plus its DELTA (Table 5-5). -/
def advance (s : State) (h : Iss) : State :=
  modStrm s h.core.val h.strm.val fun x => { x with pc := h.index.toNat, lastIssue := frameCyc s, ix := h.index.toNat + 1, base := now s }

/-- NOP and SEG END may issue in the commit window (R128). -/
def cwAllowed : Instr → Bool
  | .nop _ => true
  | .segEnd _ => true
  | _ => false

/-- A due command issues: its check bits are judged, the stream advances, the commit window refuses it, and otherwise
its meaning runs, told whether it is skipped (R122, R126, R128, R156). -/
def issueNow (s : State) (h : Iss) (i : Instr) (f : Bool → State → State) : State :=
  let c := h.core.val
  let k := h.strm.val
  let ix := h.index.toNat
  if 1024 ≤ cmdMark s c k ix then
    abandon (bump (raiseStrm (advance s h) c k 0x0408 3 [(4, 2, ix)]) (cmdA c 0x020) 16 16) c k
  else
    let s := advance (fixWord s c k ix) h
    if inCommit s && !cwAllowed i then
      abandon (bump (raiseStrm s c k 0x0406 2 [(4, 2, ix)]) (cmdA c 0x018) 0 16) c k
    else f (skipped s h) s

end Sys2Proof.Machine
end

