-- ==== Sys2Proof/Machine/Effects.lean ====
section
/-!
DEFINITION. Machine/Effects.lean: what the timed parts of a command under way do: the rows a command produces, products
reaching accumulator lines, imports and exports of the matrix engines, residue and parity checks, and the operations of
a bank-side attention unit. Machine/Run.lean gives each its cycle.
-/
namespace Sys2Proof.Machine
open Sys2Proof

/-- Keys of a job's rows above the plain ones: index rows, query-buffer rows, bad query lanes, poisoned columns. -/
def idxKey : Nat := 2 ^ 32
/-- Rows a BAU operation took from the query buffer. -/
def qryKey : Nat := 2 ^ 33
/-- Marks of bad query lanes. -/
def laneKey : Nat := 2 ^ 34
/-- Marks of poisoned columns; 1,000 means every column. -/
def colKey : Nat := 2 ^ 35

/-! ### Parity and residue (R85, R89, R105) -/

/-- 0x0304: storage 0 bank, 1 accumulator, 2 register (R105, R119). -/
def raise0304 (s : State) (c e storage word : Nat) : State :=
  bump (raiseEng s c e 0x0304 2 [(2, 1, e), (3, 1, storage), (4, 2, word)]) (engA c 0x030) (if storage = 1 then 0 else 16) 16

/-- 0x0201 (R85, R90), with the mismatch count and ENG_ARITH_LAST. -/
def raise0201 (s : State) (c me col pred obs ix : Nat) (anch : Bool) (stage : Nat) (inj : Bool) : State :=
  setRg (bump (raiseEng s c me 0x0201 2 [(2, 1, me), (3, 1, col), (4, 1, pred), (5, 1, obs), (6, 2, ix), (8, 1, b2n anch), (9, 1, stage), (39, 1, b2n inj)]) (engA c 0x000) 48 16) (engA c 0x010) (ttc s)

/-- 0x0202 (R85, R90). The operation class is the opcode. -/
def raise0202 (s : State) (c ve lane pred obs ix op stage : Nat) (inj : Bool) : State :=
  setRg (bump (raiseEng s c (4 + ve) 0x0202 2 [(2, 1, 4 + ve), (3, 1, lane), (4, 1, pred), (5, 1, obs), (6, 2, ix), (8, 1, op), (9, 1, stage), (39, 1, b2n inj)]) (engA c 0x000) 32 16) (engA c 0x010) (ttc s)

/-- 0x0204 with its count; 0x7FFF stands for FP32 mode (R81, R102, R104). -/
def raise0204 (s : State) (c e ix a b : Nat) : State :=
  bump (raiseEng s c e 0x0204 2 [(2, 1, e), (6, 2, ix), (8, 2, a), (10, 2, b)]) (engA c 0x000) 0 16

/-- The anchor as a fault detail shows it. -/
def anchorCode (anch : Bool) (a : BitVec 10) : Nat := if anch then wrapN 16 (sext 10 a.toNat) else 0x7FFF

/-- The error that strikes a checked result of an engine: an armed injection, whatever the result's stage (R89), or a datapath
error of a stage the result has (R85); `fits` says whether the column or lane it names is the result's. The injection
disarms. -/
def takeErr (s : State) (c e : Nat) (fits stages : Nat → Bool) : Option (PathErr × Bool) × State :=
  let r := rg s (engA c 0x018)
  if bitAt r 31 && fld r 16 4 == e && fits (fld r 0 7) then
    (some ({ eng := e, index := fld r 0 7, stage := 0, delta := 0 }, true), setRf s (engA c 0x018) 31 1 0)
  else match (core s c).pathErrs.find? fun p => p.eng == e && fits p.index && stages p.stage with
    | some p => (some (p, false), modCore s c fun x => { x with pathErrs := x.pathErrs.erase p })
    | none => (none, s)

/-- A residue 0 to 6 of an integer. -/
def mod7 (i : Int) : Nat := (i % 7).toNat

/-- Mark a column of a matrix job as poisoned. -/
def markCol (x : Job) (col : Nat) : Job := keep x (colKey + col) 1
/-- A column of a matrix job is poisoned. -/
def colBad (x : Job) (n : Nat) : Bool := jobHas x (colKey + 1000) || jobHas x (colKey + n % 128)

/-- A mismatch of a job's check is recorded six cycles after the element's write (R85). -/
def resLater (s : State) (j written col pred obs stage : Nat) (inj : Bool) : State :=
  addAct (modJob s j fun x => { x with reps := x.reps ++ [{ at_ := written + 6, col := col, pred := pred, obs := obs, stage := stage, inj := inj }] })
    { cyc := written + 6, core := (job s j).core, job := j, op := .resCheck }

/-- A check of integer v fails, or an error passes it (R84, R89): the residues, and whether they differ. -/
def residues (v d : Int) (inj : Bool) : Nat × Nat × Bool :=
  if inj then ((mod7 v + 1) % 7, mod7 v, true) else (mod7 v, mod7 (v + d), decide (d % 7 ≠ 0))

/-- The mismatches of a job whose time it is are recorded (R85, R90). -/
def resReport (s : State) (j : Nat) : State :=
  let x := job s j
  let (due, rest) := x.reps.partition fun r => decide (r.at_ ≤ now s)
  due.foldl (fun s r =>
    match x.cmd, vecOf x.cmd with
    | .matmul _ o, _ => raise0201 s x.core o.me.val r.col r.pred r.obs x.index (mmAnch o) r.stage r.inj
    | .moveMeout _ me _ _ _ _ _ _ _, _ => raise0201 s x.core me.val r.col r.pred r.obs x.index true r.stage r.inj
    | i, some (_, o) => raise0202 s x.core o.ve.val r.col r.pred r.obs x.index ((encOf i).elim 0 (·.2.op)) r.stage r.inj
    | _, _ => s) (modJob s j fun x => { x with reps := rest })

/-- The errors that strike the products of stream row i in its line 0, whose elements were es and are out (R83 to R85, R89): the
elements they leave, and the mismatches found. -/
def strikeRow (s : State) (j : Nat) (o : MatmulOp) (i : Nat) (es out : List Elem) : List Elem × State :=
  forN ((core s (job s j).core).pathErrs.length + 1) (out, s) fun _ r =>
    let x := job r.2 j
    let data := jobGet x i
    let scales := jobGet x (65536 + i / 32)
    match takeErr r.2 x.core o.me.val (fun n => decide (n < 128)) fun st => if mmAnch o then decide (st < 4) else st == 0 with
    | (none, s) => (r.1, s)
    | (some (p, inj), s) =>
      let v := stageInt (sext 10 o.a.toNat) p.stage (firstProd o x.bank data scales i p.index) (out.getD p.index ⟨0, 0⟩)
      let m := residues v p.delta inj
      (if inj then r.1 else r.1.set p.index (strikeElem o x.bank data scales i p.index p.stage p.delta (es.getD p.index ⟨0, 0⟩)),
       if m.2.2 then resLater (modJob s j fun x => markCol x p.index) j (now s) p.index m.1 m.2.1 p.stage inj else s)

/-! ### Accumulator lines (R101 to R105) -/

/-- The words of a line's units whose parity disagrees, as (unit, word). -/
def parityBad (us : List AccUnit) : List (Nat × Nat) := us.zipIdx.flatMap fun u => u.1.bad.map fun w => (u.2, w)

/-- A mismatch in the storage of an anchored element (R89, R105): its column is poisoned in the command. -/
def storeBad (s : State) (j col pred obs written : Nat) (inj : Bool) : State :=
  resLater (modJob s j fun x => markCol x (col % 128)) j written (col % 128) pred obs 4 inj

/-- The checks of reading a line (R105): parity in an FP32 line, the stored residue in an anchored line, which an armed
injection strikes too (R89). `written` is the cycle in which an element of the line is written. -/
def checkLine (s : State) (j c me u : Nat) (anch : Bool) (us : List AccUnit) (written : Nat → Nat) : State :=
  if anch then
    let s := match takeErr s c me (fun n => decide (n < 128)) fun _ => false with
      | (some (p, inj), s) =>
        let m := residues (sext 128 (lineElem us true p.index).v) 0 inj
        storeBad s j p.index m.1 m.2.1 (written p.index) inj
      | (none, s) => s
    (residBad us).foldl (fun s e => storeBad s j e.1 e.2.1 e.2.2 (written e.1) false) s
  else
    (parityBad us).foldl (fun s e =>
      modJob (raise0304 s c me 1 (128 * (u + e.1) + e.2)) j fun x => markCol x 1000) s

/-- The elements an ACC MATMUL continues from, after judging the line (R102). -/
def lineStart (s : State) (j : Nat) (o : MatmulOp) (u : Nat) : List Elem × State :=
  let x := job s j
  let anch := mmAnch o
  let us := lineUnits (core s x.core) o.me.val u (mmWidth o)
  if !o.acc then ((List.range 128).map fun _ => ⟨0, 0⟩, s)
  else if lineMatches us anch o.a then ((List.range 128).map (lineElem us anch), checkLine s j x.core o.me.val u anch us fun _ => now s)
  else
    let h := us.headD {}
    ((List.range 128).map fun e => { v := fld (Config.poisonedSum u e).toNat 0 (if anch then 128 else 32), st := poison (lineElem us anch e).st },
     raise0204 s x.core o.me.val x.index (anchorCode h.anch h.a) (anchorCode anch o.a))

/-- Stream row i of a MATMUL adds its products into its lines (R101 to R103); a column's check of the row is that of its
element in line 0 (R85). -/
def accRow (s : State) (j i : Nat) : State :=
  let x := job s j
  match x.cmd with
  | .matmul _ o =>
    if x.skip then s
    else forN (mmHalves o) s fun h s =>
      let u := o.u.toNat + (i * mmHalves o + h) * mmWidth o
      let (es, s) := lineStart s j o u
      let out := lineAdd o x.bank (jobGet x i) (jobGet x (65536 + i / 32)) i h es
      let r := if h = 0 then strikeRow s j o i es out else (out, s)
      modCore r.2 x.core fun k => putUnits k o.me.val u (unitsOf (mmAnch o) o.a r.1)
  | _ => s

/-- An output tile that holds OVF elements is counted, and with `first` recorded: the first such tile of a command (R87). -/
def ovfTile (s : State) (c e ix a n : Nat) (first : Bool) : State :=
  if n = 0 then s
  else
    let s := bump s (engA c 0x000) 16 16
    if first then raiseEng s c e 0x0203 0 [(2, 1, e), (6, 2, ix), (8, 2, a), (10, 2, n)] else s

/-- Elements with OVF set. -/
def ovfCount (es : List Elem) : Nat := (es.filter fun e => bitAt e.st 2).length

/-- A MATMUL completes (R85, R87, R103): the columns its checks named are poisoned in every line, and a tile that holds
OVF elements is counted and recorded. -/
def mmDone (s : State) (j : Nat) (o : MatmulOp) : State :=
  let x := job s j
  let anch := mmAnch o
  let w := mmWidth o
  let lines := (o.m.toNat + 1) * mmHalves o
  let s1 := forN lines s fun l s =>
    let u := o.u.toNat + l * w
    let us := lineUnits (core s x.core) o.me.val u w
    if (List.range 128).any (colBad x) then
      let es := (List.range 128).map fun e => let y := lineElem us anch e; if colBad x e then { y with st := poison y.st } else y
      modCore s x.core fun k => putUnits k o.me.val u (unitsOf anch o.a es)
    else s
  let ovf : Nat := ((List.range lines).map fun (l : Nat) =>
    let us := lineUnits (core s1 x.core) o.me.val (o.u.toNat + l * w) w
    ((List.range 128).filter fun e => bitAt (lineElem us anch e).st 2).length).foldl (· + ·) 0
  if anch && !x.skip then ovfTile s1 x.core o.me.val x.index (wrapN 16 (sext 10 o.a.toNat)) ovf true else s1

/-! ### MOVE.MEIN and MOVE.MEOUT (R104) -/

/-- Crucible rows of one line in a layout: FP32, BF16, partial blocks (R104, R144). -/
def layoutRows (layout : Nat) : Nat := match layout with | 0 => 4 | 1 => 2 | _ => 17

/-- An FP32 element of an imported line with its tag (R72). -/
def importElem (v : FV) (bits : Nat) : Elem := { v := if v.isFin then bits else 0, st := tagOf v }

/-- MEIN writes line l (R104): a partial block makes an anchored line with the block's A, the others an FP32 line. -/
def meinLine (s : State) (j l : Nat) : State :=
  let x := job s j
  match x.cmd with
  | .moveMein _ me _ _ u _ layout =>
    let n := layoutRows layout.toNat
    let row (r : Nat) : Row := jobGet x (l * n + r)
    let (anch, a, es) : Bool × BitVec 10 × List Elem :=
      match layout.toNat with
      | 0 => (false, 0, (List.range 128).map fun e => let b := rowGet (row (e / 32)) (32 * (e % 32)) 32; importElem (val32 (BitVec.ofNat 32 b)) b)
      | 1 => (false, 0, (List.range 128).map fun e => let b := rowGet (row (e / 64)) (16 * (e % 64)) 16; importElem (elemVal 1 b) (b * 65536))
      | _ => (true, BitVec.ofNat 10 (blockAnchor row), blockElems row)
    modCore s x.core fun k => putUnits k me.val (u.toNat + l * (if anch then 4 else 1)) (unitsOf anch a es)
  | _ => s

/-- What MEOUT makes of a region: its lines (elements, mode, anchor; a line whose units do not form one line reads as
none), after the checks of reading them, with the state that records them (R104, R105). Each line fills `rows` rows, written from
the fourth cycle after issue on. -/
def meoutLines (s : State) (j me u lines rows : Nat) : List (Option (Bool × BitVec 10 × List Elem)) × State :=
  let x := job s j
  let h := accUnit (core s x.core) me u
  let w := if h.anch then 4 else 1
  (List.range lines).foldl (fun (acc : List (Option (Bool × BitVec 10 × List Elem)) × State) l =>
    let us := lineUnits (core s x.core) me (u + l * w) w
    let f := us.headD {}
    if lineMatches us h.anch f.a then
      (acc.1 ++ [some (h.anch, f.a, (List.range 128).map (lineElem us h.anch))], checkLine acc.2 j x.core me (u + l * w) h.anch us fun e => now s + 4 + l * rows + e / (128 / min rows 16))
    else (acc.1 ++ [none], raise0204 acc.2 x.core me x.index (anchorCode h.anch h.a) (anchorCode f.anch f.a))) ([], s)

/-- Elements of an exported row and the conversions that clamped or lost a NaN (R73, R78, R88). -/
def exportElems (bf sat : Bool) (vs : List FV) : List Nat × Nat × Nat :=
  vs.foldl (fun acc v => let c := convertTo (if bf then 1 else 0) sat v; (acc.1 ++ [c.enc], acc.2.1 + b2n c.sat, acc.2.2 + b2n c.lost)) ([], 0, 0)

/-- The rows MEOUT writes, kept under keys 0, 1, ... at its issue (R104): the lines stay as they are until it ends. -/
def meoutPrepare (s : State) (j : Nat) : State :=
  let x0 := job s j
  match x0.cmd with
  | .moveMeout _ me _ _ u m nw form sat =>
    let halves := if nw then 2 else 1
    let lines := (m.toNat + 1) * halves
    let (ls, s) := meoutLines s j me.val u.toNat lines (match form.toNat with | 0 => 4 | 1 => 2 | _ => 17)
    let x := job s j
    let c := x.core
    let anchored := ls.filterMap fun l => match l with | some (true, a, es) => some (wrapN 16 (sext 10 a.toNat), ovfCount es) | _ => none
    let s := ovfTile s c me.val x.index ((anchored.headD (0, 0)).1) ((anchored.map (·.2)).foldl (· + ·) 0) true
    if 2 ≤ form.toNat then
      ls.zipIdx.foldl (fun s l =>
        let (es, a, s) : List Elem × Nat × State := match l.1 with
          | some (true, a, es) => (es.zipIdx.map fun e => if colBad x e.2 then { e.1 with st := poison e.1.st } else e.1, wrapN 16 (sext 10 a.toNat), s)
          | some (false, _, es) => (es.map fun e => ⟨0, poison e.st⟩, 0, raise0204 s c me.val x.index 0x7FFF 0)
          | none => ((List.range 128).map fun _ => ⟨0, 8⟩, 0, s)
        forN 17 s fun r s => modJob s j fun x => keep x (17 * l.2 + r) (blockRow es a r)) s
    else
      let bf := form.toNat = 1
      let per := if bf then 64 else 32
      ls.zipIdx.foldl (fun s l =>
        let vs : List FV := match l.1 with
          | some (anch, a, es) => es.zipIdx.map fun e => if colBad x e.2 then .nan else elemOut anch a e.1
          | none => (List.range 128).map fun _ => .nan
        let r := exportElems bf sat vs
        let s := bumpBy (bumpBy s (engA c 0x008) 32 32 r.2.1) (engA c 0x008) 0 32 r.2.2
        forN (128 / per) s fun q s =>
          modJob s j fun x => keep x ((128 / per) * l.2 + q)
            (BitVec.ofNat 1024 (pack (((r.1.drop (per * q)).take per).zipIdx.map fun e => ((1024 / per) * e.2, 1024 / per, e.1))))) s
  | _ => s

/-! ### The rows and registers a command produces -/

/-- A PERMUTE's index i (R113): a 16-bit entry of its index rows. -/
def permIndex (x : Job) (i : Nat) : Nat := rowGet (jobGet x (idxKey + i / 64)) (16 * (i % 64)) 16

/-- The row a job writes as its k-th, to Crucible row `row`, with its word mask (R184 for the vector engines). -/
def jobRow (s : State) (j k row : Nat) : Row × Nat :=
  let x := job s j
  match x.cmd, vecOf x.cmd with
  | _, some (v, o) => (vecRowData s x v o row, vecRowMask x v o row)
  | .fill _ _ _ _ p, _ => (BitVec.ofNat 1024 (pack ((List.range 32).map fun w => (32 * w, 32, p.toNat))), 255)
  | .moveVst _ _ _ _ _ _, _ => (BitVec.ofNat 1024 (fld (tget 0 x.vbuf (k / 2)).toNat (1024 * (k % 2)) 1024), 255)
  | .transpose _ _ _ _ _ w, _ => (transposeRow w.toNat (jobGet x) (k / trE w.toNat) (k % trE w.toNat), 255)
  | .topk _ _ _ _ _ nb lk _, _ =>
    let n := nb.toNat + 1
    let w := cdiv (8 * 2 ^ lk.toNat) 128
    let best := topBest (2 ^ lk.toNat) (32 * n) fun i => BitVec.ofNat 32 (rowGet (jobGet x (k / w * n + i / 32)) (32 * (i % 32)) 32)
    (topRow best (fld (x.descs.getD 0 0).toNat 0 32) (k % w), 255)
  | _, _ => (jobGet x k, 255)

/-- A job's write k is made at all: a delivery writes only what it popped (R150). -/
def jobWrites (x : Job) (k : Nat) : Bool :=
  match x.cmd with
  | .dlv _ _ _ _ _ => jobHas x k
  | .dlvs _ _ _ _ => jobHas x k
  | _ => true

/-- The row of a job's queue entry under a key. -/
def jobEntry (s : State) (j key : Nat) : Row :=
  let x := job s j
  match x.cmd with
  | .fill _ _ _ _ _ => (jobRow s j key 0).1
  | _ => jobGet x key

/-- What a completed row adds to the conversion counts (R88). -/
def countRow (s : State) (j row : Nat) : State :=
  let x := job s j
  match vecOf x.cmd with
  | some (v, o) =>
    let r := vecRowCount s x v o row
    bumpBy (bumpBy s (engA x.core 0x008) 32 32 r.1) (engA x.core 0x008) 0 32 r.2
  | none => s

/-- The contents of result register vector v of a job: MOVE.VLD's two rows, or a vector operation's lanes (R106, R144). -/
def jobReg (s : State) (j v : Nat) : BitVec 2048 :=
  let x := job s j
  match vecOf x.cmd with
  | some (k, o) => vecRegData s x k o v
  | none => BitVec.ofNat 2048 ((jobGet x (2 * v)).toNat + (jobGet x (2 * v + 1)).toNat * 2 ^ 1024)

/-- A vector register is read: parity is checked and the word delivered as read (R105). -/
def readVreg (s : State) (j ve reg opnd v : Nat) : State :=
  let x := job s j
  let r := vregOf s x.core ve reg
  let s1 := r.bad.foldl (fun s l => raise0304 s x.core (4 + ve) 2 (64 * (reg % 16) + l)) s
  modJob s1 j fun x => { x with vbuf := tput x.vbuf (65536 * opnd + v) r.data }

/-- A vector register is written. -/
def writeVreg (s : State) (c ve reg : Nat) (d : BitVec 2048) : State :=
  modCore s c fun x => { x with vregs := tset {} x.vregs (16 * ve + reg % 16) { data := d, bad := [] } }

/-! ### Errors in vector lanes (R84, R85, R89) -/

/-- What a job of a vector operation has written of a lane before this cycle's write becomes canonical NaN, or poisoned (R85):
in the rows before `row`, or in the registers of the vectors before v. -/
def patchLane (s : State) (j l : Nat) (k : VKind) (o : VecOp) (row v : Nat) : State :=
  let x := job s j
  match jobOpd x o 0 with
  | .reg r b => forN v s fun w s => modCore s x.core fun y =>
      let z := tget {} y.vregs (16 * o.ve.val + (if b then r else r + w) % 16)
      { y with vregs := tset {} y.vregs (16 * o.ve.val + (if b then r else r + w) % 16) { z with data := BitVec.ofNat 2048 (setFld z.data.toNat (32 * l) 32 nan32.toNat) } }
  | _ => ((vecWrites x k o).takeWhile (· != row)).foldl (fun s r =>
      if auditRow s x.core r || (residentOf s x.core r).isSome then s
      else
        let d := vecRowData s x k o r
        let ps := (vecPieces x k o).filter fun p => p.row == r && (k == .acomb || k == .amerge || laneOf k (p.key % 2 ^ 40) == l)
        writeRow s x.core r (ps.foldl (fun c p => rowSet c p.bit (min p.w (1024 - p.bit)) (rowGet d p.bit (min p.w (1024 - p.bit)))) (readRow s x.core r)) 255) s

/-- The errors that strike the checked elements a vector job writes now (R84, R85, R89). -/
def strikeVec (s : State) (j : Nat) (k : VKind) (o : VecOp) (els : List Nat) (row v : Nat) : State :=
  forN ((core s (job s j).core).pathErrs.length + 1) s fun _ s =>
    let x := job s j
    match takeErr s x.core (4 + o.ve.val) (fun l => els.any fun e => laneOf k e == l) fun st => k.stage == some st with
    | (none, s) => s
    | (some (p, inj), s) =>
      let el := (els.find? fun e => laneOf k e == p.index).getD 0
      let m := residues (vecStageInt s x k o el) p.delta inj
      let s := if inj then s else modJob s j fun x => { x with hits := x.hits ++ [(el, p.delta)] }
      if m.2.2 then
        patchLane (resLater (modJob s j fun x => { x with lanes := x.lanes ++ [p.index] }) j (now s) p.index m.1 m.2.1 (k.stage.getD 0) inj) j p.index k o row v
      else s

/-- The checks of the results that a micro-operation writes. -/
def strikeOut (s : State) (a : Act) : State :=
  match vecOf (job s a.job).cmd with
  | none => s
  | some (k, o) =>
    if k.stage.isNone then s
    else match a.op with
      | .wrRow _ r _ => strikeVec s a.job k o (rowElems s (job s a.job) k o (r % 65536)) (r % 65536) 0
      | .regWr _ _ v => strikeVec s a.job k o ((List.range 64).map (64 * v + ·)) 65536 v
      | _ => s

/-! ### DISPATCH, COMBINE, PERMUTE and GATHER at their ends -/

/-- 0x0303 (R115, R116, R119). -/
def raise0303 (s : State) (c ix first count : Nat) : State :=
  bump (raiseEng s c 6 0x0303 2 [(4, 2, ix), (6, 4, first), (10, 2, count)]) (engA c 0x028) 16 16

/-- The rows of a range as the SE reads them at the end of the hold, with their check bits and audit (R180). -/
def shapeRead (s : State) (j base n opnd key : Nat) : State :=
  forN n s fun i s =>
    let x := job s j
    perform s x.core { port := 4, row := (base + i) % 65536, wr := false, job := j, kind := .rd opnd (key + i) }

/-- A row that DISPATCH or COMBINE writes; a claim that was met leaves it open (R180). -/
def shapePut (s : State) (j row : Nat) (data : Row) : State :=
  let x := job s j
  let (n, s) := if bitAt x.flag 0 then freshFree s else (0, s)
  putRow s x.core (row % 65536) 4 (if bitAt x.flag 0 then Config.claimedRow n else data) 255 (jobEpoch x)

/-- DISPATCH's effect, at the end of its hold (R115). -/
def dispatchDone (s : State) (j : Nat) (o : RouteOp) : State :=
  let x := job s j
  let p := routeOf (x.descs.getD 0 0).toNat
  let at_ (b : BitVec 16) : Nat := b.toNat + x.term
  let s := shapeRead (shapeRead s j (at_ o.route) (cdiv (8 * p.t * p.e) 128) 1 idxKey) j (at_ o.src) (p.t * p.trows) 0 0
  let y := job s j
  let a := admitAll p fun r => jobGet y (idxKey + r)
  let s := forN (p.x * p.c) s fun z s => forN p.trows s fun r s =>
    shapePut s j (at_ o.dst + z * p.trows + r) (match tget 0 a.fill z with | 0 => 0 | t + 1 => jobGet y (t * p.trows + r))
  let s := forN (cdiv (p.t * p.e) 64) s fun r s => shapePut s j (at_ o.assign + r) (assignRow p a r)
  if a.bad = [] then s else raise0303 s x.core x.index (a.bad.headD 0) a.bad.length

/-- COMBINE's effect, at the end of its hold (R116). -/
def combineDone (s : State) (j : Nat) (o : RouteOp) : State :=
  let x := job s j
  let p := routeOf (x.descs.getD 0 0).toNat
  let at_ (b : BitVec 16) : Nat := b.toNat + x.term
  let s := shapeRead s j (at_ o.src) (p.x * p.c * p.xrows) 0 0
  let s := shapeRead s j (at_ o.route) (cdiv (8 * p.t * p.e) 128) 1 qryKey
  let s := shapeRead s j (at_ o.assign) (cdiv (p.t * p.e) 64) 2 laneKey
  let y := job s j
  let src (r : Nat) : Row := jobGet y r
  let rt (r : Nat) : Row := jobGet y (qryKey + r)
  let asg (r : Nat) : Row := jobGet y (laneKey + r)
  let s := forN p.t s fun t s => forN p.outRows s fun u s => shapePut s j (at_ o.dst + t * p.outRows + u) (combineRow p src rt asg t u)
  let bad := (List.range (p.t * p.e)).filterMap fun i => (combinePair p rt asg i).2
  if bad = [] then s else raise0303 s x.core x.index (bad.headD 0) bad.length

/-- PERMUTE's record of indices of LIMIT or more (R116). -/
def permuteDone (s : State) (j n limit : Nat) : State :=
  let x := job s j
  let bad := ((List.range n).map (permIndex x)).filter fun i => decide (limit ≤ i)
  if bad = [] then s else raise0303 s x.core x.index (bad.headD 0) bad.length

/-- ACOMB's record of each pair of blocks with unequal anchors (R81), and its combined blocks with OVF elements (R87). -/
def acombDone (s : State) (j : Nat) (o : VecOp) : State :=
  let x := job s j
  let a (t l : Nat) : Nat := blockAnchor fun q => opdRow s x l (blockAt x o l t q)
  let ovf (t : Nat) : Nat := ovfCount (combineBlock (blockElems (acombBlock s x o 1 t)) (blockElems (acombBlock s x o 2 t)) (a t 1) (a t 2))
  let first := (List.range (vecN o)).find? fun t => ovf t != 0
  forN (vecN o) s fun t s =>
    let s := if a t 1 = a t 2 then s else raise0204 s x.core (4 + o.ve.val) x.index (a t 1) (a t 2)
    ovfTile s x.core (4 + o.ve.val) x.index (a t 1) (ovf t) (first == some t)

/-- Index m of a GATHER: the 32-bit word of its popped index entry, none where the entry was not found (R215). -/
def gatherIndex (x : Job) (m : Nat) : Option Nat :=
  if jobHas x (idxKey + m / 32) then some (rowGet (jobGet x (idxKey + m / 32)) (32 * (m % 32)) 32) else none

/-- GATHER's record of indices of LIMIT or more (R157, R215). -/
def gatherDone (s : State) (j : Nat) (o : GatherOp) : State :=
  let x := job s j
  let bad := ((List.range (o.count.toNat + 1)).filterMap (gatherIndex x)).filter fun i => decide (o.limit.toNat ≤ i)
  if bad = [] then s
  else raiseEng s x.core (7 + bpOf x.strm) 0x0684 2 [(2, 1, x.strm), (6, 1, bpOf x.strm), (8, 2, x.index), (12, 4, bad.headD 0), (16, 2, bad.length)]

/-! ### Bank-side attention units (R242 to R248) -/

/-- The descriptor a started BAU job read. -/
def bauDesc (x : Job) : Nat := (x.descs.getD 0 0).toNat
/-- e of a BAU job's class in its stack. -/
def bauE_ (s : State) (x : Job) (o : BauOp) : Nat := classE (bauClass s (siteOf x.core) o.cls.toNat)
/-- The blowpipe of the site, 0 to 9, of a blowpipe-stream job. -/
def sitePipe (x : Job) : Nat := x.core % 5 * 2 + bpOf x.strm

/-- A BAU job fails: it makes no request, and its entries carry POISON or zeros (R243). -/
def bauFail (s : State) (j : Nat) : State := modJob s j fun x => { x with flag := x.flag ||| 1 }

/-- 0x0707 (R244, R257). -/
def raise0707 (s : State) (i env w : Nat) : State :=
  bump (raiseBau s i 0x0707 env [(2, 2, w)]) (bauA (i / 64) 0x008) 0 16

/-- 0x0702 to 0x0704 (R240, R257). -/
def raiseTag (s : State) (i code bop ix tag stream env : Nat) : State :=
  bump (raiseBau s i code env [(2, 1, bop), (4, 2, ix), (6, 4, tag), (10, 2, stream), (12, 1, env)]) (bauA (i / 64) 0x008) 32 16

/-- The query-buffer words with bad parity among n entries from one on. -/
def badIn (c : Chan) (e n : Nat) : List Nat := c.qbad.filter fun w => decide (e ≤ w / 32 ∧ w / 32 < e + n)

/-- Every bad word that is read records 0x0707 (R244). -/
def noteBad (s : State) (i env : Nat) (ws : List Nat) : State := ws.foldl (fun s w => raise0707 s i env w) s

/-- The tag check of an operation whose descriptor passed, with its change of the local copy (R240, Table 9-5); bad KVPUT
data keeps the tag and makes no write (R244). -/
def bauTags (s : State) (j i bop : Nat) (o : BauOp) (d : Nat) : State :=
  let x := job s j
  let env := (core s x.core).env
  let stream := fld d 16 13
  let get (z : Nat) : Nat := (tget 0 (chan s i).tags (tagIx s (i / 64) o z)).toNat
  let z := fld d 51 13
  let z2 := fld d 38 13
  let put (s : State) (z : Nat) (t : BitVec 32) : State := modChan s i fun c => { c with tags := tset 0 c.tags (tagIx s (i / 64) o z) t }
  let refuse (s : State) (code z : Nat) : State := bauFail (raiseTag s i code bop (tagIx s (i / 64) o z) (get z) stream env) j
  match bop with
  | 1 => if tagReads (get z) env stream then s else refuse s 0x0702 z
  | 5 => if tagReads (get z) env stream then s else refuse s 0x0702 z
  | 2 => match tagWrites (get z) env stream with
    | some t => if badIn (chan s i) o.qofs.toNat (2 * bauE_ s x o) = [] then put s z t else bauFail s j
    | none => refuse s 0x0703 z
  | 6 => match tagWrites (get z) env stream with
    | some _ => s
    | none => refuse s 0x0703 z
  | 3 =>
    if !tagReads (get z) env stream then refuse s 0x0702 z
    else match tagWrites (get z2) env stream with
      | some t => put s z2 t
      | none => refuse s 0x0703 z2
  | 4 => match tagZero (get z) env with
    | some t => put s z t
    | none => refuse s 0x0704 z
  | _ => s

/-- The query-buffer entries a started operation takes in its start cycle, whatever its descriptor says (R244): ATTEND's
queries, KVPUT's data. -/
def bauFetch (s : State) (j i bop : Nat) (o : BauOp) : State :=
  let x := job s j
  let e := bauE_ s x o
  let c := chan s i
  let n := match bop with | 1 => (o.lanes.toNat + 1) * e | 2 => 2 * e | _ => 0
  let s1 := forN n s fun k s => modJob s j fun x => keep x (qryKey + k) (tget 0 c.qbuf (o.qofs.toNat + k))
  let s2 := noteBad s1 i (core s x.core).env (badIn c o.qofs.toNat n)
  if bop = 1 then
    forN (o.lanes.toNat + 1) s2 fun l s => if badIn c (o.qofs.toNat + e * l) e = [] then s else modJob s j fun x => keep x (laneKey + l) 1
  else s2

/-- A BAU operation starts (R243 to R245). Its queue entries come at their cycles whatever the checks find. -/
def bauStart (s : State) (j : Nat) : State :=
  let x := job s j
  match bauOpOf x.cmd with
  | none => s
  | some o =>
    let bop := bopOf x.cmd
    let i := siteOf x.core * 64 + o.ch.toNat
    let e := bauE_ s x o
    let C := o.count.toNat + 1
    let t := now s
    let env := (core s x.core).env
    let acts := (bauPuts bop e C (o.lanes.toNat + 1)).map fun p => ({ cyc := t + p.1, core := x.core, job := j, op := .qPut (bpOf x.strm) o.q.toNat (idxKey + p.2) } : Act)
    let s := { s with acts := s.acts ++ acts }
    if bop = 0 then s
    else if t < (chan s i).hold then
      bauFail (bump (raiseBau s i 0x0701 env [(2, 1, bop), (4, 4, frameCyc s), (8, 1, sitePipe x)]) (bauA (i / 64) 0x008) 48 16) j
    else
      let hold := bauHold bop e C
      let s := modChan s i fun c => { c with hold := t + hold, job := j, lastBop := bop }
      let s := addAct s { cyc := t + hold - 1, core := x.core, job := j, op := .done }
      let c := chan s i
      let d := qbDesc c o.dofs.toNat
      let s := modJob s j fun x => { x with descs := [BitVec.ofNat 64 d] }
      let bad := [2 * o.dofs.toNat, 2 * o.dofs.toNat + 1].filter c.qbad.contains
      let s := bauFetch (noteBad s i env bad) j i bop o
      if bad ≠ [] then bauFail s j
      else match descReason s (i / 64) (i % 64) bop o d with
        | some r => bauFail (bump (raiseBau s i 0x0705 env [(2, 1, bop), (3, 1, r), (4, 8, d)]) (bauA (i / 64) 0x008) 16 16) j
        | none =>
          let s := bauTags s j i bop o d
          if bitAt (job s j).flag 0 then s
          else { s with acts := s.acts ++ (bauReqs bop e C (fld d 29 9)).map fun q => { cyc := t + q.1, core := x.core, job := j, op := .bauReq q.2.1 q.2.2 } }

/-- The slice entry a BAU request names: SLOUT and SLIN count from START, PCOPY writes slot Z2 (Table 9-7). -/
def bauEntryOf (s : State) (x : Job) (o : BauOp) (wr : Bool) (i : Nat) : Nat :=
  let bop := bopOf x.cmd
  let z := if bop = 3 ∧ wr = true then fld (bauDesc x) 38 13 else fld (bauDesc x) 51 13
  sliceEntry s (siteOf x.core) o.ch.toNat o z (if bop = 5 ∨ bop = 6 then o.start.toNat + i else i)

/-- What a BAU write request stores: KVPUT's key then value entries, PCOPY's copy, zeros, or a query-buffer entry
(R244). -/
def bauData (s : State) (x : Job) (o : BauOp) (i : Nat) : Row :=
  match bopOf x.cmd with
  | 2 =>
    let e := bauE_ s x o
    let p := fld (bauDesc x) 29 9
    jobGet x (qryKey + (if i < 256 * e then i - e * p else e + (i - 256 * e - e * p)))
  | 3 => jobGet x i
  | 6 => tget 0 (chan s (siteOf x.core * 64 + o.ch.toNat)).qbuf (o.qofs.toNat + i)
  | _ => 0

/-- SLIN's write i is about to be made (R244): a bad entry stops it and every later one; the first write changes the
tag. -/
def slinStep (s : State) (j : Nat) (o : BauOp) (i : Nat) : Bool × State :=
  let x := job s j
  let ch := siteOf x.core * 64 + o.ch.toNat
  let env := (core s x.core).env
  if bitAt x.flag 1 then (false, s)
  else match badIn (chan s ch) (o.qofs.toNat + i) 1 with
    | w :: t => (false, modJob (noteBad s ch env (w :: t)) j fun x => { x with flag := x.flag ||| 2 })
    | [] =>
      if i = 0 then
        let ix := tagIx s (ch / 64) o (fld (bauDesc x) 51 13)
        (true, modChan s ch fun c => { c with tags := tset 0 c.tags ix ((tagWrites (tget 0 c.tags ix).toNat env (fld (bauDesc x) 16 13)).getD (tget 0 c.tags ix)) })
      else (true, s)

/-- The record of an ATTEND, kept under its entry keys when its first entry is due (R246 to R248). -/
def attendRecord (s : State) (j : Nat) (o : BauOp) : State :=
  let x := job s j
  let cls := bauClass s (siteOf x.core) o.cls.toNat
  let e := classE cls
  let L := o.lanes.toNat + 1
  let lanes := (List.range L).map fun l =>
    if bitAt x.flag 0 then deadLane 3
    else attendLane (classFmt cls) e (fld (bauDesc x) 29 9) (fun u => jobGet x (qryKey + e * l + u)) (jobHas x (laneKey + l)) (jobGet x) (fun i => jobHas x (badKey + i))
  forN (1 + 4 * L) s fun k s => modJob s j fun x => keep x (idxKey + k) (recRow lanes k)

/-- A BAU job's queue entry is about to enter its queue: ATTEND's record, SLOUT's entry. -/
def bauEntry (s : State) (j key : Nat) : State :=
  match (job s j).cmd with
  | .attend _ o => if key = idxKey then attendRecord s j o else s
  | .slout _ _ => modJob s j fun x => keep x key (if bitAt x.flag 0 then 0 else jobGet x (key - idxKey))
  | _ => s

end Sys2Proof.Machine
end

