-- ==== Sys2Proof/Machine/Mover.lean ====
section
/-!
DEFINITION. Machine/Mover.lean: the host movers of the sites (R404 to R407): descriptors, landing writes, outbound reads
and their deadlines.
-/
namespace Sys2Proof.Machine
open Sys2Proof

/-- A host window's items. -/
def hwin (s : State) (k : Nat) : HWin := tget {} s.hwins k
/-- DRM_GWIN of window k = 16 · stack + w. -/
def gwinReg (s : State) (k : Nat) : Nat := rg s (drmA (k / 16) (0x400 + 8 * (k % 16)))
/-- The window is a host window in use. -/
def isHostWin (s : State) (k : Nat) : Bool := bitAt (gwinReg s k) 63 && fld (gwinReg s k) 56 4 == 15
/-- START and end tick offset of a window. -/
def winStart (s : State) (k : Nat) : Nat := fld (gwinReg s k) 0 23
/-- The tick offset after the window. -/
def winEnd (s : State) (k : Nat) : Nat := winStart s k + fld (gwinReg s k) 32 10 + 1

/-- The state with the transfers changed one by one. -/
def modXfer (s : State) (win desc : Nat) (f : Xfer → Xfer) : State :=
  { s with xfers := s.xfers.map fun x => if x.win = win ∧ x.desc = desc then f x else x }
/-- A transfer of the frame. -/
def xferOf (s : State) (win desc : Nat) : Option Xfer := s.xfers.find? fun x => x.win == win && x.desc == desc

/-- The deadline of a transfer as a tick offset (R406). -/
def deadlineOf (s : State) (x : Xfer) : Nat :=
  if x.outw then winEnd s x.win + fld (gwinReg s x.win) 42 13 else winStart s (x.win / 16 * 16 + x.land)

/-- 0x0610 for a transfer, once (R230). -/
def raise0610 (s : State) (x : Xfer) : State :=
  if x.late then s
  else
    let s := modXfer s x.win x.desc fun y => { y with late := true }
    raise s 0x0610 2 0x04 (x.win / 16 * 64) x.env (det [(0, 1, x.win / 16), (1, 1, x.desc), (4, 4, deadlineOf s x), (8, 4, 128 * if x.outw then x.doneN else x.have_.length)])

/-- A transfer judged at its deadline: incomplete is late (R406). -/
def judgeXfer (s : State) (x : Xfer) : State :=
  let got := if x.outw then x.doneN else x.have_.length
  if x.ok && decide (got < x.n) then raise0610 s x else s

/-- A frit slot that loads counts what lands in it (R359). -/
def countLanded (s : State) (e a : Nat) : State :=
  let v := tget {} s.srvs e
  if v.p.frits.all fun f => f.2.st != 1 || !decide (f.2.addr ≤ a ∧ a < f.2.addr + f.2.bytes) then s
  else
    let fs := v.p.frits.map fun f => if f.2.st = 1 ∧ f.2.addr ≤ a ∧ a < f.2.addr + f.2.bytes then (f.1, { f.2 with landed := f.2.landed + 128 }) else f
    { s with srvs := tset {} s.srvs e { v with p := { v.p with frits := fs } } }

/-- Key of a descriptor entry in the mover's job, and of an outbound entry. -/
def descKey : Nat := 2 ^ 20
/-- Key of an outbound entry in the mover's job. -/
def outKey : Nat := 2 ^ 21

/-- The transfers that land in a window, in ascending source window and descriptor order. -/
def landing (s : State) (k : Nat) : List Xfer :=
  (List.range 16).flatMap fun w => s.xfers.filter fun x => x.win == k / 16 * 16 + w && !x.outw && x.win / 16 * 16 + x.land == k

/-- A host window starts (R404): descriptor reads in its first cycles, then landing writes two per cycle; entries not in
the buffer land as zeros. A request at or after the window's end is not made. -/
def startWindow (s : State) (k : Nat) : State :=
  let h := hwin s k
  let t := now s
  let stop := t + 8 * (winEnd s k - winStart s k)
  let ls := landing s k
  let s := ls.foldl judgeXfer s
  let rows := ls.flatMap fun x => (List.range x.n).map fun i => (x, i)
  let cyc (m : Nat) : Nat := t + h.ndesc + m / 2
  let s := rows.zipIdx.foldl (fun s r =>
    if stop ≤ cyc r.2 then raise0610 s r.1.1
    else if r.1.1.ok && r.1.1.have_.contains r.1.2 then countLanded s r.1.1.env ((r.1.1.entry + r.1.2) * 128) else s) s
  let buf := rows.zipIdx.foldl (fun b r => tput b r.2 (if r.1.1.ok then tget 0 r.1.1.got r.1.2 else 0)) ([] : Tbl Row)
  let x : Job := { noJob with cmd := .hostWindowStart (Fin.ofNat 12 (k / 16)) (Fin.ofNat 16 k), core := k / 16 * 5, t0 := t, term := rows.length, buf := buf }
  let reads := (List.range h.ndesc).filterMap fun j => if t + j < stop then some (t + j, Micro.dReq false (h.table + j) (descKey + j)) else none
  let writes := rows.zipIdx.filterMap fun r => if cyc r.2 < stop then some (cyc r.2, Micro.dReq true (r.1.1.entry + r.1.2) r.2) else none
  startJob s x (reads ++ (if h.ndesc = 0 then [] else [(t + h.ndesc + 103, .mover 0 0 0)]) ++ writes)

/-- The reason a transfer is not performed (R407): 1 range, 2 length, 3 stack or fence, 4 MAXENT. -/
def xferReason (s : State) (x : Xfer) (range ofs : Nat) : Option Nat :=
  let r := tget {} (tget {} s.srvs x.env).hranges range
  let k := if x.outw then x.win else x.win / 16 * 16 + x.land
  let used := ((s.xfers.filter fun y => y.ok && (if y.outw then y.win else y.win / 16 * 16 + y.land) == k).map (·.n)).foldl (· + ·) 0
  if !r.reg || fld r.cfg 60 4 == 4 then some 1
  else if 32 * fld r.cfg 0 36 < ofs + x.n then some 2
  else if (List.range x.n).any fun i => eStack (x.entry + i) != x.win / 16 || !inFence s x.env (x.entry + i) then some 3
  else if s.hfull.contains k || decide ((hwin s k).maxent < used + x.n) then some 4
  else none

/-- A descriptor becomes a transfer of the frame (R405, R407). -/
def takeDesc (s : State) (k d v : Nat) : State :=
  if !bitAt v 127 then s
  else
    let e := (hwin s k).env
    let range := fld v 123 3
    let ofs := fld v 0 62
    let r := tget {} (tget {} s.srvs e).hranges range
    let x : Xfer := { win := k, desc := d, env := e, outw := bitAt v 126, land := fld v 119 4, entry := fld v 62 41, host := r.base + 128 * ofs, n := fld v 103 16 + 1, ok := true }
    match xferReason s x range ofs with
    | some n =>
      let s := raise { s with xfers := s.xfers ++ [{ x with ok := false }] } 0x0D04 2 0x0A (e + 1) e (det [(0, 1, k / 16), (1, 1, k % 16), (2, 1, d), (3, 1, n)])
      if n = 4 then { s with hfull := s.hfull ++ [if x.outw then k else k / 16 * 16 + x.land] } else s
    | none => { s with xfers := s.xfers ++ [x] }

/-- The mover's own steps: its descriptors have arrived and outbound reads follow; or an outbound entry is sent. -/
def moverAct (s : State) (j what a b : Nat) : State :=
  let x := job s j
  match x.cmd with
  | .hostWindowStart st w =>
    let k := 16 * st.val + w.val
    if what = 0 then
      let s := forN (8 * (hwin s k).ndesc) s fun d s => takeDesc s k d (rowGet (jobGet x (descKey + d / 8)) (128 * (d % 8)) 128)
      let from_ := max (x.t0 + (hwin s k).ndesc + 104) (x.t0 + (hwin s k).ndesc + cdiv x.term 2)
      let stop := x.t0 + 8 * (winEnd s k - winStart s k)
      let outs := (s.xfers.filter fun y => y.win == k && y.outw && y.ok).flatMap fun y => (List.range y.n).map fun i => (y, i)
      outs.zipIdx.foldl (fun s o =>
        let c := from_ + o.2 / 2
        if stop ≤ c then raise0610 s o.1.1
        else addAct (addAct s { cyc := c, core := x.core, job := j, op := .dReq false (o.1.1.entry + o.1.2) (outKey + o.2) })
          { cyc := c + 104, core := x.core, job := j, op := .mover 1 o.1.1.desc (o.1.2 + 65536 * o.2) }) s
    else match xferOf s k a with
      | some y =>
        if y.late || !hostReach s (y.env + 1) then s
        else modXfer (hostWrite s (y.env + 1) (y.host + 128 * (b % 65536)) (rowBytes (jobGet x (outKey + b / 65536)))) k a fun y => { y with doneN := y.doneN + 1 }
      | none => s
  | _ => s

/-- The number of a transfer's read of host memory. -/
def xferTag (win desc i : Nat) : Nat := 2 ^ 41 + (win * 128 + desc) * 65536 + i

/-- An inbound transfer issues its host reads (R406). -/
def startInbound (s : State) (x : Xfer) : State :=
  if !x.ok || x.started || x.outw then s
  else
    let s := modXfer s x.win x.desc fun y => { y with started := true }
    if hostReach s (x.env + 1) then forN x.n s fun i s => emit s (.hostRead (xferTag x.win x.desc i) (x.env + 1) (x.host + 128 * i) 128) else s

/-- A read of an inbound transfer returns (R406). -/
def xferRead (s : State) (tag : Nat) (d : Option (List Byte)) : State :=
  let t := tag - 2 ^ 41
  match xferOf s (t / 65536 / 128) (t / 65536 % 128) with
  | none => s
  | some x =>
    match d with
    | some b => if !x.started || x.late || x.have_.contains (t % 65536) then s
      else modXfer s x.win x.desc fun y => { y with got := tset 0 y.got (t % 65536) (rowOf b), have_ := y.have_ ++ [t % 65536] }
    | none => bump s (bar (x.env + 1) 0x008) 0 16

end Sys2Proof.Machine
end

