-- ==== Sys2Proof/Machine/Run.lean ====
section
/-!
DEFINITION. Machine/Run.lean: one cycle of the part after another. The micro-operations on the agenda act in their
cycles: pops, DRAM requests, Crucible accesses bank by bank, registers, arrivals, then the rest. A state at phase p is
the state at the start of cycle p of the tick; the operations of a cycle act as the cycle is left (log entry 1).
-/
namespace Sys2Proof.Machine
open Sys2Proof

/-! ### Queues (R150) -/

/-- A queue fault of a blowpipe (R157). -/
def raiseQueue (s : State) (c k b q code : Nat) (d : List (Nat × Nat × Nat)) : State :=
  raiseEng s c (7 + b) code 2 ([(2, 1, k), (6, 1, b), (7, 1, q)] ++ d)

/-- Pop one entry for a job; an empty queue pops nothing (R150). -/
def popEntry (s : State) (c b q j key : Nat) : State :=
  match (queue s c b q).items with
  | r :: t => modJob (modQueue s c b q fun x => { x with items := t }) j fun x => keep x key r
  | [] => modQueue (raiseQueue s c (job s j).strm b q 0x0682 [(8, 2, (job s j).index)]) c b q fun x => { x with underrun := min 255 (x.underrun + 1) }

/-- An entry arrives: it enters its queue as the cycle ends, after the cycle's pops, and counts in FILL from the next cycle
on (R139, R150, R152). -/
def putEntry (s : State) (c b q j key : Nat) : State :=
  let s := bauEntry s j key
  modQueue s c b q fun x => { x with incoming := x.incoming ++ [(jobEntry s j key, (job s j).strm, (job s j).index)] }

/-- The entries that arrived in this cycle enter their queues, after its pops (R139, R150): a queue of 64 drops the entry. -/
def settleQueue (s : State) (c i : Nat) (l : List (Row × Nat × Nat)) : State :=
  l.foldl (fun s e =>
    if 64 ≤ (queue s c (i / 4) (i % 4)).items.length then
      modQueue (raiseQueue s c e.2.1 (i / 4) (i % 4) 0x0681 [(8, 2, e.2.2)]) c (i / 4) (i % 4) fun x => { x with overrun := min 255 (x.overrun + 1) }
    else modQueue s c (i / 4) (i % 4) fun x => { x with items := x.items ++ [e.1] }) (modQueue s c (i / 4) (i % 4) fun x => { x with incoming := [] })

/-- Every queue takes what has arrived in the cycle. -/
def settleQueues (s : State) : State :=
  s.cores.foldl (fun s x => x.2.queues.foldl (fun s q => if q.2.incoming = [] then s else settleQueue s x.1 q.1 q.2.incoming) s) s

/-! ### DRAM requests of a cycle (R209 to R216, R245) -/

/-- Who makes a job's DRAM requests. -/
def requester (x : Job) : Nat :=
  match x.cmd with | .patrolRead _ _ _ => 11 | .hostWindowStart _ _ => 15 | _ => sitePipe x

/-- The DRAM request of a micro-operation, with what making it changes. -/
def reqOf (s : State) (a : Act) : Option DReq × State :=
  let x := job s a.job
  let base : DReq := { who := requester x, core := a.core, strm := x.strm, index := x.index, job := a.job, key := 0, wr := false, entry := 0, gather := false }
  match a.op with
  | .dReq wr e k => if wr && !jobHas x k then (none, s) else (some { base with key := k, wr := wr, entry := e }, s)
  | .gReq m e => match x.cmd with
    | .gather _ o =>
      let key := m * (o.rb.toNat + 1) + e
      match gatherIndex x m with
      | some i =>
        if o.limit.toNat ≤ i then (none, s)
        else (some { base with key := key, entry := (o.tbase.toNat + i * (o.rb.toNat + 1) + e + x.term) % 2 ^ 41, gather := true }, s)
      | none => (none, s)
    | _ => (none, s)
  | .bauReq wr i => match bauOpOf x.cmd with
    | some o =>
      let (go, s) := if bopOf x.cmd = 6 then slinStep s a.job o i else (true, s)
      if go then (some { base with who := 10, key := i, wr := wr, entry := bauEntryOf s (job s a.job) o wr i }, s) else (none, s)
    | none => (none, s)
  | _ => (none, s)

/-- What a write request stores. -/
def reqData (s : State) (q : DReq) : Row :=
  let x := job s q.job
  match bauOpOf x.cmd with
  | some o => bauData s x o q.key
  | none => jobGet x q.key

/-- Every DRAM request of the cycle is judged (R207, R212). Requests store what they name at the start of the cycle. -/
def runDram (s : State) (l : List Act) : State :=
  let (qs, s) := l.foldl (fun (acc : List DReq × State) a => let r := reqOf acc.2 a; (acc.1 ++ r.1.toList, r.2)) ([], s)
  judgeAll s qs (reqData s)

/-! ### Crucible accesses of a cycle -/

/-- HEAD and COUNT of a spool register. -/
def setSpool (s : State) (c n head count : Nat) : State :=
  setRg s (cruA c (0x100 + 8 * n)) (setFld (setFld (spoolReg s c n) 32 16 head) 48 16 count)

/-- 0x0504 or 0x0505 for a cycle (R190). -/
def raiseSpool (s : State) (c code n ix rows : Nat) : State :=
  bump (raiseTile s c code 2 [(2, 1, n), (4, 2, ix), (6, 1, rows)]) (cruA c 0x008) 32 16

/-- The pops and pushes of one spool in one cycle: pops judged first against COUNT, then pushes (R189, R190). A pop
that finds nothing delivers zeros. -/
def spoolCycle (s : State) (c n : Nat) (pops pushes : List (Nat × Nat)) : List Acc × State :=
  let r := spoolReg s c n
  let base := fld r 0 16
  let size := fld r 16 16
  let head := fld r 32 16
  let count := fld r 48 16
  let np := min pops.length count
  let nq := min pushes.length (size - (count - np))
  let row (i : Nat) : Nat := (base + i % max size 1) % 65536
  let rd := (pops.take np).zipIdx.map fun p => ({ port := 5, row := row (head + p.2), wr := false, job := p.1.1, kind := .rd 0 p.1.2 } : Acc)
  let wr := (pushes.take nq).zipIdx.map fun p => ({ port := 5, row := row (head + count + p.2), wr := true, job := p.1.1, kind := .wr (jobGet (job s p.1.1) p.1.2) 255 } : Acc)
  let s1 := (pops.drop np).foldl (fun s p => modJob s p.1 fun x => keep x p.2 0) s
  let s2 := setSpool s1 c n ((head + np) % max size 1) (count - np + nq)
  let s3 := if np < pops.length then raiseSpool s2 c 0x0505 n (job s ((pops.headD (0, 0)).1)).index (pops.length - np) else s2
  let s4 := if nq < pushes.length then raiseSpool s3 c 0x0504 n (job s ((pushes.headD (0, 0)).1)).index (pushes.length - nq) else s3
  (rd ++ wr, s4)

/-- The Crucible access of a micro-operation. -/
def accOf (s : State) (a : Act) : Option Acc :=
  let x := job s a.job
  match a.op with
  | .rdRow p r o k => some { port := p, row := r % 65536, wr := false, job := a.job, kind := .rd o k }
  | .rdSrc i => match x.cmd with
    | .permute _ _ src _ _ _ lim =>
      let ix := permIndex x i
      if lim.toNat ≤ ix then none else some { port := 4, row := (src.toNat + x.term + ix) % 65536, wr := false, job := a.job, kind := .rdSrc i }
    | _ => none
  | .wrRow p r k => if jobWrites x k then let d := jobRow s a.job k (r % 65536); some { port := p, row := r % 65536, wr := true, job := a.job, kind := .wr d.1 d.2 } else none
  | .eject _ r d _ => some { port := 7, row := r % 65536, wr := true, job := a.job, kind := .eject d }
  | .scrubRd b => some { port := 9, row := b + 16 * tget 0 (core s a.core).scrubRow b, wr := false, job := 0, kind := .scrubRd }
  | .scrubWr _ r => some { port := 9, row := r, wr := true, job := 0, kind := .scrubWr }
  | .marver e wb => (mentry s a.core e).map fun m => { port := 8, row := m.row, wr := wb, job := 0, kind := if wb then .mwb e else .mfill e }
  | _ => none

/-- The bank's part of a core's cycle: the marver takes its cycle if it needs one (R187). -/
def bankStep (s : State) (c bank : Nat) (l : List Acc) (ks : List Claim) : State :=
  let mine := l.filter fun a => bankOf a.row == bank
  let m := if planOn s && marverCycle s c bank (frameCyc s) then marverPick s c bank else none
  let s := if m.isSome then modCore s c fun x => { x with marAt := tset 0 x.marAt bank (now s + 1) } else s
  if mine = [] ∧ m = none ∧ ks.all (fun k => !k.covers bank) then s else bankCycle s c bank (mine ++ m.toList) ks

/-- The Crucible accesses of a core in a cycle, on the banks given. -/
def runCrucible (s : State) (c : Nat) (l : List Act) (banks : List Nat) : State :=
  let accs := l.filterMap (accOf s)
  let ks := l.filterMap fun a => match a.op with | .claim b n => some ({ job := a.job, base := b, len := n } : Claim) | _ => none
  let pops (n : Nat) := l.filterMap fun a => match a.op with | .spPop k key => if k = n then some (a.job, key) else none | _ => none
  let push (n : Nat) := l.filterMap fun a => match a.op with | .spPush k key => if k = n && jobWrites (job s a.job) key then some (a.job, key) else none | _ => none
  let ns := (l.filterMap fun a => match a.op with | .spPop k _ => some k | .spPush k _ => some k | _ => none).eraseDups
  let (accs, s) := ns.foldl (fun (acc : List Acc × State) n => let r := spoolCycle acc.2 c n (pops n) (push n); (acc.1 ++ r.1, r.2)) (accs, s)
  let s := l.foldl (fun s a => match a.op with | .wrRow _ r _ => countRow s a.job (r % 65536) | _ => s) s
  banks.foldl (fun s b => bankStep s c b accs ks) s

/-! ### Everything else of a cycle -/

/-- Predicate bits written in one cycle (R95, R96): two writers of one bit leave it and record 0x0302,
the gaffer (0xFF) last (log entry 33). -/
def runPreds (s : State) (c : Nat) (l : List Act) : State :=
  let ws := l.filterMap fun a => match a.op with
    | .cmpWrite b v e => some (b, v, e)
    | .predw b v => some (b, v, 0xFF)
    | _ => none
  forN 8 s fun b s =>
    match ws.filter fun w => w.1 == b with
    | [] => s
    | [w] =>
      if b = 0 then bump (raiseEng s c 9 0x0305 0 []) (engA c 0x028) 0 16
      else setPred s c b w.2.1
    | w :: v :: _ => bump (raiseEng s c 9 0x0302 2 [(2, 1, b), (3, 1, min w.2.2 v.2.2), (4, 1, max w.2.2 v.2.2)]) (engA c 0x028) 32 16

/-- Arms made in one cycle (R131). -/
def runArms (s : State) (c : Nat) (l : List Act) : State :=
  let as := l.filterMap fun a => match a.op with | .arm k g rd n => some (k, g, rd, n) | _ => none
  as.foldl (fun t a =>
    let both := as.any fun b => b.1 == a.1 && !b.2.1
    judgeArm t c a.1 (heldStart s c a.1) both a.2.1 a.2.2.1 a.2.2.2) s

/-- A job ends. -/
def jobDone (s : State) (j : Nat) : State :=
  let x := job s j
  let c := x.core
  match x.cmd with
  | .matmul _ o =>
    modCore (if x.skip then s else mmDone s j o) c fun k => { k with accHolds := k.accHolds.filter fun h => h.job != j || h.meout }
  | .moveW _ me _ _ b _ =>
    if x.skip then s
    else modCore s c fun k =>
      let w := tget {} k.banks (2 * me.val + b2n b)
      { k with banks := tset {} k.banks (2 * me.val + b2n b) { w with valid := true } }
  | .dispatch _ o => dispatchDone s j o
  | .combine _ o => combineDone s j o
  | .permute _ _ _ _ n _ lim => permuteDone s j (n.toNat + 1) lim.toNat
  | .vacomb _ o => acombDone s j o
  | .gather _ o => gatherDone s j o
  | i => match bauOpOf i with
    | some o => modChan s (siteOf c * 64 + o.ch.toNat) fun k => { k with ops := min (2 ^ 32 - 1) (k.ops + 1) }
    | none => s

/-- The header of a SEND at its issue (R148, R264, R265). -/
def sendHdr (s : State) (j : Nat) (o : SendOp) : Nat × State :=
  let x := job s j
  let (q, s) := takeSeq s x.core (o.dkind.toNat * 64 + o.dest.toNat)
  (mkHdr q ((o.drow.toNat + x.term) % 65536) o.ccnt.toNat o.rows.toNat (b2n o.plane) o.dkind.toNat o.dest.toNat x.core (core s x.core).env false, s)

/-- Flit k of a SEND reaches the router's injection input in its cycle (R266). -/
def sendFlit (s : State) (j k : Nat) : State :=
  let x := job s j
  match x.cmd with
  | .send _ o =>
    let p := b2n o.plane
    let t := (core s x.core).tile
    let (d, s) := if k = 0 then (let h := sendHdr s j o; (BitVec.ofNat 1024 h.1, h.2)) else (jobGet x (k - 1), s)
    { s with flights := s.flights ++ [{ cyc := now s, plane := p, tile := t, port := 4, flit := { data := d, head := k == 0, tail := k == o.rows.toNat, abort := false } }] }
  | _ => s

/-- A BAU query-buffer entry lands (R214). -/
def qbLand (s : State) (j i ofs key : Nat) : State :=
  if jobHas (job s j) key then
    modChan s i fun c => { c with qbuf := tset 0 c.qbuf (ofs % 128) (jobGet (job s j) key), qbad := c.qbad.filter fun w => w / 32 != ofs % 128 }
  else s

/-- The micro-operations that act on their own, after pops, requests and accesses. -/
def runOther (s : State) (a : Act) : State :=
  match a.op with
  | .qPut b q key => putEntry s a.core b q a.job key
  | .qReady b q key =>
    if jobHas (job s a.job) key then modQueue s a.core b q fun x => { x with ready := (x.ready + 1) % 2 ^ 32 } else s
  | .qbPut i ofs key => qbLand s a.job i ofs key
  | .accRow i => accRow s a.job i
  | .meinLine l => meinLine s a.job l
  | .flit k => sendFlit s a.job k
  | .resCheck => resReport s a.job
  | .mover w x i => moverAct s a.job w x i
  | .done => jobDone s a.job
  | .ccInc k => setCcnt s a.core k (min (2 ^ 32 - 1) (ccntOf s a.core k + 1))
  | .eject _ _ _ (some k) => setCcnt s a.core k (min (2 ^ 32 - 1) (ccntOf s a.core k + 1))
  | .scrubRd b => modCore s a.core fun x =>
      let r := (tget 0 x.scrubRow b + 1) % 4096
      { x with scrubRow := tset 0 x.scrubRow b r, scrubPass := if r = 0 then tset 0 x.scrubPass b (min (2 ^ 32 - 1) (tget 0 x.scrubPass b + 1)) else x.scrubPass }
  | _ => s

/-- The micro-operation touches the Crucible. -/
def isAccess : Micro → Bool
  | .rdRow _ _ _ _ => true | .rdSrc _ => true | .wrRow _ _ _ => true | .claim _ _ => true | .spPop _ _ => true
  | .spPush _ _ => true | .eject _ _ _ _ => true | .scrubRd _ => true | .scrubWr _ _ => true | .marver _ _ => true
  | _ => false

/-- The micro-operation starts a BAU operation. -/
def isBauStart : Micro → Bool
  | .bauStart => true
  | _ => false
/-- The micro-operation is a request of a BAU operation. -/
def isBauReq : Micro → Bool
  | .bauReq _ _ => true
  | _ => false

/-- The BAU operations that start in the cycle, each with the requests it makes in its start cycle (R245); they read their
query buffers before an entry lands in them (R244). -/
def startBaus (s : State) (l : List Act) : List Act × State :=
  let s := l.foldl (fun s a => if isBauStart a.op then bauStart s a.job else s) s
  let started (j : Nat) : Bool := l.any fun a => a.job == j && isBauStart a.op
  let (first, rest) := s.acts.partition fun a => decide (a.cyc ≤ now s) && started a.job && isBauReq a.op
  (first, { s with acts := rest })

/-- All micro-operations of a list, which are of one cycle, in the order the manual's rules of precedence fix: BAU starts,
pops before arrivals (Table 5-6), reads of the start of the cycle before writes (R176), increments before SETC CCOUNT. -/
def runActs (s : State) (l : List Act) : State :=
  let b := startBaus s l
  let l := l ++ b.1
  let s := b.2
  let s := l.foldl (fun s a => match a.op with | .qPop b q k => popEntry s a.core b q a.job k | _ => s) s
  let s := runDram s (l.filter fun a => match a.op with | .dReq _ _ _ => true | .gReq _ _ => true | .bauReq _ _ => true | _ => false)
  let cs := (l.map (·.core)).eraseDups
  let s := l.foldl strikeOut s
  let s := cs.foldl (fun s c =>
    let m := l.filter fun a => a.core == c && isAccess a.op
    if m = [] then s else runCrucible s c m (List.range 16)) s
  let s := l.foldl (fun s a => match a.op with | .regRd ve r o v => readVreg s a.job ve r o v | _ => s) s
  let s := l.foldl (fun s a => match a.op with | .regWr ve r v => writeVreg s a.core ve r (jobReg s a.job v) | _ => s) s
  let s := l.foldl runOther s
  let s := cs.foldl (fun s c =>
    let m := l.filter fun a => a.core == c
    runArms (runPreds s c m) c m) s
  l.foldl (fun s a => match a.op with | .ccSet k v => setCcnt s a.core k v | _ => s) s

/-- The micro-operation belongs to the plan: all but the scrub's, the patrol's and the host mover's. -/
def ofPlan (s : State) (a : Act) : Bool :=
  match a.op with
  | .scrubRd _ => false | .scrubWr _ _ => false | .mover _ _ _ => false
  | _ => match (job s a.job).cmd with | .patrolRead _ _ _ => false | .hostWindowStart _ _ => false | _ => true

/-- Take the due micro-operations that a test selects off the agenda and perform them now: what an event of the opcode
table that names one part of a cycle does. A device that severity 4 has halted performs none of the plan's (R14). -/
def fire (s : State) (f : Act → Bool) : State :=
  let (l, rest) := s.acts.partition fun a => decide (a.cyc ≤ now s) && f a
  runActs { s with acts := rest } (if s.halted then l.filter fun a => !ofPlan s a else l)

/-- A micro-operation that the test selects is due in this cycle. -/
def dueAct (s : State) (f : Act → Bool) : Bool := s.acts.any fun a => decide (a.cyc ≤ now s) && f a

/-- The marver makes its accesses of the cycle in banks that no planned access touched (R185 to R187). A write-back frees an
entry for the held store in its own cycle, whose fill read may fall in another bank's use of the same cycle, so the banks
are asked twice. -/
def runMarver (s : State) : State :=
  s.cores.foldl (fun s e =>
    if (core s e.1).mload = none ∧ (core s e.1).marver = [] then s
    else (List.range 32).foldl (fun s b => bankStep s e.1 (b % 16) [] []) s) s

/-- Waits and armed starts whose cycle it is, where no event of their own has carried them out (log entry 1). -/
def runStreams (s : State) : State :=
  if s.halted then s
  else s.cores.foldl (fun s e => forN 5 s fun k s =>
    streamTurn s e.1 k) s

/-- Jobs with nothing left on the agenda leave the table. -/
def dropJobs (s : State) : State := { s with jobs := s.jobs.filter fun e => s.acts.any fun a => a.job == e.1 }

/-- The cycle is carried out to its end. -/
def endCycle (s : State) : State :=
  let s := runStreams s
  let s := fire s fun _ => true
  let s := runMarver (settleQueues s)
  runLinks (dropJobs (receiveAll s))

/-- Cycles up to a phase of the present tick. -/
def runTo (s : State) (p : Nat) : State :=
  forN (p - s.phase) s fun _ s => let s := endCycle s; { s with phase := s.phase + 1 }

/-- An event at a cycle phase of the present tick: the cycles before it are carried out first; an event whose cycle has
passed does not occur (log entry 1). -/
def whenAt (s : State) (p : Nat) (f : State → State) : State := if p < s.phase then s else f (runTo s p)

/-- A command at its header's cycle phase: the stream takes its turn, and where its next command is due and is the one
presented, it issues (R126). -/
def whenDue (s : State) (h : Iss) (i : Instr) (f : Bool → State → State) : State :=
  whenAt s h.phase.val fun s =>
    let s := if s.halted then s else streamTurn s h.core.val h.strm.val
    if cmdDue s h i then issueNow s h i f else s

end Sys2Proof.Machine
end

