-- ==== Sys2Proof/Machine/Tether.lean ====
section
/-!
DEFINITION. Machine/Tether.lean: the Tether and clock block (R41 to R61): the tick, the TSYNC pins, the vote rounds,
synchronisation, acquisition, alarms, references, telltales and crossings. What a frame start, the commit window and the
decision do besides is in Machine/Commit.lean.
-/
namespace Sys2Proof.Machine
open Sys2Proof

/-! ### Management messages (R50) -/

/-- The 256 payload bytes of a Tether or commit message, as two rows (Table 2-2). -/
def mgmtRows (type : Nat) (m : TetherMsg) : List Row :=
  let n := pack [(0, 8, type), (8, 8, m.flags.toNat), (16, 16, m.sender.toNat), (32, 16, m.exchange.toNat), (64, 64, m.stampA.toNat),
    (128, 64, m.stampB.toNat), (192, 64, m.echo.toNat), (256, 1792, m.bitmap.toNat)]
  [BitVec.ofNat 1024 n, BitVec.ofNat 1024 (n / 2 ^ 1024)]

/-- The payload bytes of a message as one number. -/
def mgmtNat : List Row → Nat
  | [] => 0
  | r :: t => r.toNat + 2 ^ 1024 * mgmtNat t

/-- The fields of a payload in the layout of Table 2-2. -/
def mgmtOf (rows : List Row) : TetherMsg :=
  let n := mgmtNat rows
  let f (lo w : Nat) : BitVec w := BitVec.ofNat w (fld n lo w)
  { flags := f 8 8, sender := f 16 16, exchange := f 32 16, stampA := f 64 64, stampB := f 128 64, echo := f 192 64, bitmap := f 256 1792 }

/-- This device's fleet index. -/
def myIx (s : State) : Nat := rf s (parA 0x030) 0 13
/-- Devices of the plan: those of PAR_FLEET that are not evicted (R378). -/
def planDevices (s : State) : List Nat := (List.range (rf s (parA 0x030) 16 13 + 1)).filter fun d => !s.evicted.contains d
/-- The device is alone on the plan (R58). -/
def alone (s : State) : Bool := decide ((planDevices s).length ≤ 1)

/-- The vote links. -/
def voteLinkList (s : State) : List Nat := (List.range 24).filter fun n => bitAt s.voteLinks n

/-- A message of this device. -/
def myMsg (s : State) (flags exchange a b echo bitmap : Nat) : TetherMsg :=
  { flags := BitVec.ofNat 8 flags, sender := BitVec.ofNat 16 (myIx s), exchange := BitVec.ofNat 16 exchange, stampA := BitVec.ofNat 64 a,
    stampB := BitVec.ofNat 64 b, echo := BitVec.ofNat 64 echo, bitmap := BitVec.ofNat 1792 bitmap }

/-! ### The tick and the pins (R43, R46, R55) -/

/-- A TSYNC pin's configuration, A or B (Table 2-6). -/
def tsyncCfg (s : State) (b : Bool) : Nat := rf s (ttA 0x040) (if b then 16 else 0) 16

/-- The TSYNC pulses of a tick that begins (R43). -/
def tsyncPulse (s : State) (b : Bool) : State :=
  let c := tsyncCfg s b
  let pulse := match fld c 0 2 with
    | 2 => launched s && frameTick s % max (frameLen s) 1 == 0
    | 3 => ttc s % 2 ^ fld c 8 8 == 0
    | _ => false
  if pulse then emit s (.tsync b (ttc s)) else s

/-- The words of a store whose parity per 32 bits fails, after some bits of word w have flipped: an even number of flips leaves
the parity as it was (R105). -/
def flipParity (bad : List Nat) (w : Nat) (flip : BitVec 32) : List Nat :=
  if ((List.range 32).filter fun i => bitAt flip.toNat i).length % 2 = 0 then bad else if bad.contains w then bad.erase w else bad ++ [w]

/-- What strikes a storage element or a datapath in a tick (log entry 3). -/
def upset (s : State) : Upset → State
  | .crucible c r w flip syn unc =>
    let k := rowAddr c.val r.toNat / 16 + w.val
    let s := { s with ecc := tset 0 s.ecc k (syn.toNat % 512 + 1 + if unc then 1024 else 0) }
    if unc then
      { s with mem := writeBytes s.mem (k * 16) (leBytes 16 (leNat (readBytes s.mem (k * 16) 16) ^^^ flip.toNat)) }
    else s
  | .command c k i flip syn unc => modCore s c.val fun x =>
    let a := 32768 * k.val + i.toNat
    { x with cmdBad := tset 0 x.cmdBad a (syn.toNat % 512 + 1 + if unc then 1024 else 0),
             cmds := if unc then tset segEndWord x.cmds a (tget segEndWord x.cmds a ^^^ flip) else x.cmds }
  | .gaffer c d w flip syn unc => modCore s c.val fun x =>
    let g := x.gaf
    let a := w.toNat
    let bad := tset 0 g.bad (a + if d then 2 ^ 16 else 0) (syn.toNat % 128 + 1 + if unc then 1024 else 0)
    { x with gaf := if unc then (if d then { g with bad := bad, dmem := tset 0 g.dmem a (tget 0 g.dmem a ^^^ flip) }
        else { g with bad := bad, imem := tset 0 g.imem a (tget 0 g.imem a ^^^ flip) }) else { g with bad := bad } }
  | .sector k ch e h errs =>
    { s with sec := tset [] s.sec (((k.val * 2 ^ 28) + e.toNat * 64 + ch.val) * 2 + b2n h) (errs.map fun x => (x.1.val, x.2.toNat)) }
  | .weight c m b r w flip => modCore s c.val fun x =>
    let k := 2 * m.val + b2n b
    let y := tget {} x.banks k
    { x with banks := tset {} x.banks k { y with rows := tset 0 y.rows r.val (rowSet (tget 0 y.rows r.val) (32 * w.val) 32 (rowGet (tget 0 y.rows r.val) (32 * w.val) 32 ^^^ flip.toNat)),
                                                 bad := flipParity y.bad (32 * r.val + w.val) flip } }
  | .acc c m u w flip => modCore s c.val fun x =>
    let k := 512 * m.val + u.val
    let y := tget {} x.acc k
    { x with acc := tset {} x.acc k { y with data := y.data ^^^ BitVec.ofNat 4096 (flip.toNat * 2 ^ (32 * w.val)), bad := if y.anch then y.bad else flipParity y.bad w.val flip } }
  | .vreg c v r l flip => modCore s c.val fun x =>
    let k := 16 * v.val + r.val
    let y := tget {} x.vregs k
    { x with vregs := tset {} x.vregs k { data := y.data ^^^ BitVec.ofNat 2048 (flip.toNat * 2 ^ (32 * l.val)), bad := flipParity y.bad l.val flip } }
  | .qbuf k ch w flip => modChan s (k.val * 64 + ch.val) fun c =>
    { c with qbuf := tset 0 c.qbuf (w.val / 32) (rowSet (tget 0 c.qbuf (w.val / 32)) (32 * (w.val % 32)) 32 (qbWord c w.val ^^^ flip.toNat)), qbad := flipParity c.qbad w.val flip }
  | .datapath c e i st d => modCore s c.val fun x => { x with pathErrs := x.pathErrs ++ [{ eng := e.val, index := i.toNat, stage := st.val, delta := d }] }
  | .bslot p t o e => { s with slotBad := s.slotBad ++ [slotAddr p.val t.val o.val e.val] }
  | .fec n c u => bumpBy (bumpBy s (lnkA n.val 0x048) 0 64 c.toNat) (lnkA n.val 0x040) 48 16 u.toNat
  | .lslot n rx e => { s with slotBad := s.slotBad ++ [if rx then lnkA n.val (0x4000 + 8 * e.val) else lnkA n.val (0x1000 + 2 * e.val)] }

/-- The next tick begins: phase 0, and KEL_UPTIME counts (R439). -/
def countUptime (s : State) : State := { setRg s (kelA 0x110) ((rg s (kelA 0x110) + 1) % 2 ^ 64) with phase := 0 }
/-- TT_COUNT counts once it is acquired; until then it stands (R46). -/
def countTick (s : State) : State := if rf s (ttA 0x018) 1 1 = 1 then setRg s (ttA 0x000) ((ttc s + 1) % 2 ^ 64) else s
/-- A reference switch takes effect (R55). -/
def takeRef (s : State) : State :=
  match s.tether.refNext with
  | some r => { setRf s (clkA 0x000) 8 2 r with tether := { s.tether with refNext := none } }
  | none => s

/-- The tick's remaining cycles are carried out. -/
def finishTick (s : State) : State := endCycle (runTo s 7)
/-- The next tick begins, with its pulses. -/
def nextTick (s : State) : State := tsyncPulse (tsyncPulse (takeRef (countTick (countUptime s))) false) true

/-- TSYNC_CAPTURE (R43): a rising edge of a pin in capture mode; the stamp is accurate to one cycle. -/
def execTsyncCapture (b : Bool) (p : Fin 8) (err : Fin 3) (s : State) : Host.Outcome State Fault Refusal :=
  .next (whenAt s p.val fun s =>
    if fld (tsyncCfg s b) 0 2 = 1 then setRg s (ttA (if b then 0x050 else 0x048)) ((stamp s + 2 ^ 64 + err.val - 1) % 2 ^ 64) else s)

/-! ### Votes (R58, R59) -/

/-- The tick offset at which the gather rounds begin. -/
def gatherOfs (s : State) : Nat := frameLen s - cwLen s + voteOfs s
/-- The tick offset at which the decide rounds begin. -/
def decideOfs (s : State) : Nat := gatherOfs s + rounds s * roundLen s
/-- The present tick lies in the gather rounds. -/
def inGather (s : State) : Bool := decide (gatherOfs s ≤ frameTick s ∧ frameTick s < decideOfs s)
/-- The present tick lies in the decide rounds. -/
def inDecide (s : State) : Bool := decide (decideOfs s ≤ frameTick s ∧ frameTick s < decisionOfs s)

/-- The vote messages of a round on every vote link. -/
def sendVotes (s : State) (type flags exchange bitmap : Nat) : State :=
  (voteLinkList s).foldl (fun s n => sendMgmt s n 1 2 (mgmtRows type (myMsg s flags exchange (stepNo s) 0 0 bitmap))) s

/-- The bits of a list of devices in chunk k of the bitmap. -/
def chunkBits (l : List Nat) (k : Nat) : Nat :=
  (List.range 1792).foldl (fun a i => if l.contains (1792 * k + i) then a + 2 ^ i else a) 0

/-- GATHER_ROUND (R58): at each gather round's first tick, VOTE_GATHER on every vote link, one message per chunk. -/
def execGatherRound (s : State) : Host.Outcome State Fault Refusal :=
  .next (
    let r := s.vote.gather + 1
    if planOn s && s.vote.fixed && !alone s && decide (r ≤ rounds s) && frameTick s == gatherOfs s + (r - 1) * roundLen s then
      let s1 := forN (cdiv (rf s (parA 0x030) 16 13 + 1) 1792) s fun k s => sendVotes s 3 (b2n s.vote.seen) k (chunkBits s.vote.bitmap k)
      { s1 with vote := { s1.vote with gather := r } }
    else s)

/-- VOTE_GATHER (R58): a message received within the gather rounds is merged; a later one is ignored. -/
def execVoteGather (_link : Fin 24) (m : TetherMsg) (s : State) : Host.Outcome State Fault Refusal :=
  .next (
    if planOn s && inGather s && fld m.stampA.toNat 0 48 == stepNo s then
      let ds := (List.range 1792).filterMap fun i => if bitAt m.bitmap.toNat i then some (1792 * m.exchange.toNat + i) else none
      { s with vote := { s.vote with bitmap := (s.vote.bitmap ++ ds).eraseDups, seen := s.vote.seen || bitAt m.flags.toNat 0 } }
    else s)

/-- DECIDE_ROUND (R58): after the last gather round a device whose bitmap lacks a device of the plan is void too; in
each decide round it sends its void flag on every vote link. -/
def execDecideRound (s : State) : Host.Outcome State Fault Refusal :=
  .next (
    let r := s.vote.decide + 1
    if planOn s && s.vote.fixed && !alone s && decide (r ≤ rounds s) && frameTick s == decideOfs s + (r - 1) * roundLen s then
      let lack := r == 1 && (planDevices s).any fun d => !s.vote.bitmap.contains d
      let s := { s with vote := { s.vote with seen := s.vote.seen || lack, decide := r } }
      sendVotes s 4 (b2n s.vote.seen) 0 0
    else s)

/-- VOTE_DECIDE (R58): the void flag of a decide-round message is taken by OR. -/
def execVoteDecide (_link : Fin 24) (m : TetherMsg) (s : State) : Host.Outcome State Fault Refusal :=
  .next (
    if planOn s && inDecide s && m.exchange = 0 && fld m.stampA.toNat 0 48 == stepNo s then
      { s with vote := { s.vote with seen := s.vote.seen || bitAt m.flags.toNat 0 } }
    else s)

/-- This device's decision for the step before the present one, if it decided it. -/
def confirmOf (s : State) : Option Bool :=
  match s.vote.confirm with | some (k, b) => if k + 1 = stepNo s then some b else none | none => none

/-- CONFIRM_SEND (R59): in the first ROUND_LEN ticks of step s + 1, the decision for step s, once on a vote link. "Step 0 has
no confirm message" is read as: none is sent during step 0, and the one for step 0 is sent in step 1 (DESIGN CHOICE, log
entry 61). A device that decided no step s, since it was admitted with s + 1, sends none. -/
def execConfirmSend (n : Fin 24) (s : State) : Host.Outcome State Fault Refusal :=
  .next (
    match confirmOf s with
    | some b =>
      if planOn s && !alone s && decide (frameTick s < roundLen s) && bitAt s.voteLinks n.val && !s.vote.confSent.contains n.val then
        sendMgmt { s with vote := { s.vote with confSent := s.vote.confSent ++ [n.val] } } n.val 1 2 (mgmtRows 4 (myMsg s (2 * b2n b) 1 (stepNo s - 1) 0 0 0))
      else s
    | none => s)

/-- A fault of the clock and Tether block; the source classes and the detail places are log entry 8. -/
def raiseTt (s : State) (code sev cls ix : Nat) (d : List (Nat × Nat × Nat)) : State := raise s code sev cls ix 0xFFFF (det d)

/-- CONFIRM_RECEIVE (R59): a device that committed a step its neighbour voided halts; one that voided a step its
neighbour committed records it. -/
def execConfirmReceive (n : Fin 24) (m : TetherMsg) (s : State) : Host.Outcome State Fault Refusal :=
  .next (
    let committed := bitAt m.flags.toNat 1
    match confirmOf s with
    | some b =>
      if planOn s && m.exchange = 1 && decide (frameTick s < roundLen s) && fld m.stampA.toNat 0 48 + 1 == stepNo s then
        if b && !committed then raiseTt s 0x010D 4 0x07 n.val [(0, 6, stepNo s - 1), (6, 1, n.val)]
        else if !b && committed then raiseTt s 0x0110 0 0x07 n.val [(0, 6, stepNo s - 1), (6, 1, n.val)]
        else s
      else s
    | none => s)

/-! ### Synchronisation and acquisition (R47, R51 to R53) -/

/-- The median of a list (R47, R298). -/
def medianOf (l : List Int) : Int :=
  let sorted := l.foldl (fun acc x => (acc.filter fun y => decide (y ≤ x)) ++ x :: acc.filter fun y => decide (x < y)) []
  let n := sorted.length
  let a := sorted.getD ((n - 1) / 2) 0
  let b := sorted.getD (n / 2) 0
  if a = b then a else Config.medianEven a b

/-- TT_SYNC_CFG.UPSTREAM, or in a cold start the start configuration record's (R47, R426); a blank record names none. -/
def upstream (s : State) : Nat :=
  if startKind s = 2 then rf s (ttA 0x028) 0 5 else match s.flash.startCfg with | some c => c.2.1 | none => 30

/-- Acquired (TT_CTRL). -/
def acquired (s : State) : Bool := rf s (ttA 0x018) 1 1 == 1

/-- The sync window of a link opens in this tick and its exchange has not been made: the first tick of every 156,250 from
the sync epoch (R52). -/
def syncEpoch (s : State) (n : Nat) : Bool :=
  bitAt (rg s (ttA 0x028)) (8 + n) && ttc s % 156250 == launchT s % 156250 && (link s n).epochAt != ttc s + 1

/-- The last exchange of a link started at least `gap` ticks ago (R47, R298). -/
def spaced (s : State) (n gap : Nat) : Bool := (link s n).syncAt == 0 || decide ((link s n).syncAt - 1 + gap ≤ uptime s)

/-- A sync exchange is due on a link: upstream while acquiring, every 1,024 tt (R47); after acquisition while the link
ranges, every 16 tt (R290, R298), and at the sync epoch (R52). -/
def syncDue (s : State) (n : Nat) : Bool :=
  if !acquired s then s.tether.acqOn && upstream s == n && spaced s n 1024
  else
    (lnkSt s n == 2 && (link s n).ident.isSome && decide ((link s n).delays.length < 64) && spaced s n 16) ||
    (lnkSt s n == 4 && (link s n).ident.isSome && decide ((link s n).delays.length < 16) && spaced s n 16) ||
    syncEpoch s n

/-- SYNC_EXCHANGE_START (R47, R52, R53): an exchange of the sync epoch that meets a retrain is deferred to the next window,
and one on a link that is down is skipped. -/
def execSyncExchangeStart (n : Fin 24) (p : Fin 8) (s : State) : Host.Outcome State Fault Refusal :=
  .next (whenAt s p.val fun s =>
    if !syncDue s n.val then s
    else
      let st := lnkSt s n.val
      let mark (l : LinkS) : LinkS := if acquired s && syncEpoch s n.val then { l with epochAt := ttc s + 1 } else l
      if acquired s && syncEpoch s n.val && st == 4 then
        raiseTt (bump (modLink s n.val mark) (ttA 0x030) 48 16) 0x0109 0 0x07 n.val [(0, 1, n.val)]
      else if acquired s && st == 5 then setRf (modLink s n.val mark) (ttA (0x100 + 4 * n.val)) 31 1 0
      else
        let k := (link s n.val).syncNo
        let s := modLink s n.val fun l => { mark l with syncNo := (k + 1) % 65536, syncWait := some k, syncAt := uptime s + 1 }
        sendMgmt s n.val 0 3 (mgmtRows 1 (myMsg s 0 k 0 0 0 0)))

/-- The stamp a message is given: the cycle stamp, or before acquisition, while TT_COUNT stands at 0 (R46), the count of
cycles since power-up, to which the median offset is added when the stamp is set (R47; DESIGN CHOICE, log entry 61). -/
def linkStamp (s : State) : Nat := if acquired s then stamp s else now s % 2 ^ 64

/-- SYNC_REQ (R51): the answer carries t2, and t1 in its echo; t3 is stamped as it leaves. A link in search lets no SYNC
message pass (R282). A device that has not acquired answers too, with its own stamp (DESIGN CHOICE, log entry 61). -/
def execSyncReq (n : Fin 24) (p : Fin 8) (m : TetherMsg) (s : State) : Host.Outcome State Fault Refusal :=
  .next (whenAt s p.val fun s =>
    if (link s n.val).search then s
    else sendMgmt s n.val 0 3 (mgmtRows 2 (myMsg s 0 m.exchange.toNat 0 (linkStamp s) m.stampA.toNat 0)))

/-- A 64-bit stamp difference as a signed number. -/
def stampDiff (a b : Nat) : Int := sext 64 ((a + 2 ^ 64 - b % 2 ^ 64) % 2 ^ 64)

/-- TT_SYNC_STAT.WORST_LINK and WORST_OFS: of the links whose result is valid, the one with the largest last |θ|
(Table 2-6). -/
def worstSync (s : State) : State :=
  let o (n : Nat) : Int := sext 16 (rf s (ttA (0x100 + 4 * n)) 0 16)
  let v := (List.range 24).filter fun n => rf s (ttA (0x100 + 4 * n)) 31 1 = 1
  let w := v.foldl (fun b n => if (o b).natAbs < (o n).natAbs then n else b) (v.headD 0)
  setRf (setRf s (ttA 0x030) 8 5 w) (ttA 0x030) 0 8 (if v = [] then 0 else wrapN 8 (max (-127) (min 127 (o w))))

/-- The result of an exchange after acquisition (R52): written, and judged as an offset event. The third consecutive event
records 0x0108; a fourth or later one of the same run records 0x0107 alone (DESIGN CHOICE, log entry 61). -/
def syncResult (s : State) (n : Nat) (θ : Int) : State :=
  let a := ttA (0x100 + 4 * n)
  let s := setRf (setRf s a 0 16 (wrapN 16 θ)) a 31 1 1
  let s := worstSync s
  if θ.natAbs < 8 then modLink (setRf s a 24 4 0) n fun l => { l with offs3 := [] }
  else
    let s := raiseTt (bump (bump s a 24 4) (ttA 0x030) 32 16) 0x0107 2 0x07 n [(0, 1, n), (1, 2, wrapN 16 θ)]
    let l3 := ((link s n).offs3 ++ [θ])
    let s := modLink s n fun l => { l with offs3 := l3 }
    if l3.length = 3 then
      raiseTt s 0x0108 3 0x07 n ((0, 1, n) :: l3.zipIdx.map fun e => (1 + 2 * e.2, 2, wrapN 16 e.1))
    else s

/-- Acquisition ends stage 6 (Table 16-2). -/
def acqEnds (s : State) : State := if stage s = 6 ∧ startKind s ≠ 0 then endStage s else s

/-- An upstream answer while acquiring: after 64 exchanges the stamp is set once by the median offset (R47). -/
def acqResult (s : State) (θ : Int) : State :=
  let s := { s with tether := { s.tether with acqOffs := s.tether.acqOffs ++ [θ], acqFrom := some (s.tether.acqFrom.getD (rg s (kelA 0x110))) } }
  if s.tether.acqOffs.length < 64 then s
  else
    let st := ((linkStamp s : Int) + medianOf s.tether.acqOffs) % (2 ^ 64 : Nat)
    let s := setRg s (ttA 0x000) (st.toNat / 8)
    acqEnds { setRf s (ttA 0x018) 1 1 1 with phase := st.toNat % 8, tether := { s.tether with acqOn := false, acqOffs := [] } }

/-- The 16 exchanges of a retrain attempt are done: the flight is judged, and a good link rejoins at a frame (R290,
R292, R298). -/
def rerange (s : State) (n : Nat) : State :=
  let m := (medianOf (link s n).delays).toNat
  if flightReason s n m = 0 then
    modLink (setRf s (lnkA n 0x018) 0 16 m) n fun l => { l with delays := [], rejoinAt := some (rejoinTick s) }
  else attemptFails s n 2 m

/-- SYNC_RESP (R51): θ and the one-way delay, rounded toward zero. -/
def execSyncResp (n : Fin 24) (p : Fin 8) (m : TetherMsg) (s : State) : Host.Outcome State Fault Refusal :=
  .next (whenAt s p.val fun s =>
    if (link s n.val).syncWait ≠ some m.exchange.toNat ∨ (link s n.val).search = true then s
    else
      let x := stampDiff m.stampB.toNat m.echo.toNat
      let y := stampDiff (linkStamp s) m.stampA.toNat
      let θ := (x - y).tdiv 2
      let st := lnkSt s n.val
      let ranges := acquired s && (st == 2 || st == 4)
      let s := modLink s n.val fun l => { l with syncWait := none, delays := if ranges then l.delays ++ [(x + y).tdiv 2] else l.delays }
      if !acquired s then (if s.tether.acqOn && upstream s == n.val then acqResult s θ else s)
      else if ranges then (if st = 4 ∧ (link s n.val).delays.length = 16 then rerange s n.val else s)
      else syncResult s n.val θ)

/-- ACQ_START (R47): the time master takes the count written to TT_COUNT_SET, in a cold start the record's COUNT0; every
other device begins its exchanges. -/
def execAcqStart (s : State) : Host.Outcome State Fault Refusal :=
  .next (
    if acquired s then s
    else if upstream s = 31 then
      let count0 := match s.flash.startCfg with | some c => if startKind s = 2 then rg s (ttA 0x038) else c.2.2 | none => rg s (ttA 0x038)
      acqEnds (setRf (setRg s (ttA 0x000) count0) (ttA 0x018) 1 1 1)
    else if upstream s = 30 then s
    else { s with tether := { s.tether with acqOn := true, acqOffs := [], acqFrom := none } })

/-- ACQUISITION_TIMEOUT (R47, R422): 64 exchanges not completed within 262,144 tt of the first answer; stage 6 fails. -/
def execAcquisitionTimeout (s : State) : Host.Outcome State Fault Refusal :=
  .next (
    match s.tether.acqFrom with
    | some t =>
      if s.tether.acqOn && decide (t + 262144 ≤ rg s (kelA 0x110)) then
        let s := raiseTt { s with tether := { s.tether with acqOn := false } } 0x010E 4 0x00 0 [(0, 1, upstream s), (1, 1, s.tether.acqOffs.length)]
        if stage s = 6 then failStage s 0x010E else s
      else s
    | none => s)

/-- TT_COUNT_SET_WRITE (R47): the time master's initial count, before acquisition; other writes have no effect. -/
def execTtCountSetWrite (v : BitVec 64) (s : State) : Host.Outcome State Fault Refusal :=
  .next (if upstream s = 31 && !acquired s then setRg s (ttA 0x038) v.toNat else s)

/-! ### Alarms (R49) -/

/-- The ownership table gives alarm comparator n to a feature (R320). -/
def alarmOwned (s : State) (n : Nat) : Bool := s.owners.any fun e => e.1 == 2 && e.2.1 == n

/-- Comparator n holds a value that may still fire, or none. -/
def setArmed (s : State) (n : Nat) (on : Bool) : State :=
  { s with tether := { s.tether with armed := s.tether.armed.filter (fun k => k != n) ++ if on then [n] else [] } }

/-- ALARM_WRITE (R49): a compare value not greater than TT_COUNT never fires, and sets PAST. -/
def execAlarmWrite (n : Fin 16) (v : BitVec 64) (s : State) : Host.Outcome State Fault Refusal :=
  .next (
    let s := setArmed (setRg s (ttA (0x200 + 16 * n.val)) v.toNat) n.val (decide (ttc s < v.toNat))
    if v.toNat ≤ ttc s then setRf s (ttA (0x208 + 16 * n.val)) 2 1 1 else s)

/-- ALARM_FIRE (R49): an enabled comparator fires once, in the tick in which TT_COUNT equals its value: it sets FIRED and
interrupts the Keel. A comparator that the ownership table gives to no feature stays disabled (R320). -/
def execAlarmFire (n : Fin 16) (s : State) : Host.Outcome State Fault Refusal :=
  .next (
    let c := ttA (0x208 + 16 * n.val)
    if rf s c 0 1 == 1 && alarmOwned s n.val && s.tether.armed.contains n.val && rg s (ttA (0x200 + 16 * n.val)) == ttc s then
      emit (setRf (setArmed s n.val false) c 1 1 1) (.keelIrq "alarm" n.val) else s)

/-! ### References, regions, telltales, crossings (R45, R54 to R56) -/

/-- MODE of CLK_MON_CFG. -/
def monMode (s : State) : Nat := rf s (clkA 0x004) 0 2

/-- The root switches reference at the next tick, counting a yaw (R55). -/
def switchRef (s : State) (r : Nat) : State :=
  let s := bump s (clkA 0x008) 0 32
  { s with tether := { s.tether with refNext := some r }, yawRef := s.yawRef + 1 }

/-- No usable reference: holdover (R54, R56). A switch that had not taken effect does not. -/
def holdover (s : State) (last : Nat) : State :=
  let s := raiseTt s 0x0104 3 0x08 18 [(0, 1, last)]
  { setRf s (clkA 0x000) 8 2 3 with tether := { s.tether with refNext := none, holdTtc := ttc s, holdUp := rg s (kelA 0x110), holdDone := false } }

/-- The active source is lost (Table 2-3). MODE 00, which the loader refuses and which the register reads before a load,
acts as mode 11 (DESIGN CHOICE, log entry 61). REFCLK_A is no replacement for REFCLK_B: Table 2-3 names no such switch. -/
def activeLost (s : State) (src : Nat) : State :=
  let rec_ := rf s (clkA 0x004) 16 5
  if monMode s = 2 then holdover s src
  else if src = 0 ∧ rf s (clkA 0x000) 1 1 = 1 ∧ s.tether.lostB = false then
    switchRef (raiseTt s 0x0101 1 0x08 18 [(0, 8, ttc s + 1)]) 1
  else if src < 2 ∧ rec_ ≠ 31 then switchRef (raiseTt s 0x0103 1 0x08 18 [(0, 1, rec_)]) 2
  else holdover s src

/-- REFERENCE_LOSS (R54): sixteen missing edges on an input, judged under the monitor mode. A source whose switch takes
effect at the next tick (R55) counts as active. -/
def execReferenceLoss (i : RefInput) (s : State) : Host.Outcome State Fault Refusal :=
  .next (
    let active := s.tether.refNext.getD (rf s (clkA 0x000) 8 2)
    match i with
    | .a =>
      let s := { setRf s (clkA 0x000) 0 1 0 with tether := { s.tether with lostA := true } }
      if active = 0 then activeLost s 0
      else if monMode s = 2 then s else raiseTt s 0x0102 1 0x08 18 [(0, 1, 0)]
    | .b =>
      let s := { setRf s (clkA 0x000) 1 1 0 with tether := { s.tether with lostB := true } }
      if active = 1 then activeLost s 1
      else if monMode s = 2 then s else raiseTt s 0x0102 1 0x08 18 [(0, 1, 1)]
    | .recovered => if active = 2 then activeLost s 2 else s)

/-- REFERENCE_RESTORED (R55): the input's PRESENT bit; it is used again only from the next start. The recovered clock has
no such bit. -/
def execReferenceRestored (i : RefInput) (s : State) : Host.Outcome State Fault Refusal :=
  .next (match i with | .a => setRf s (clkA 0x000) 0 1 1 | .b => setRf s (clkA 0x000) 1 1 1 | .recovered => s)

/-- HOLDOVER_TIMEOUT (R56): once for each holdover. -/
def execHoldoverTimeout (s : State) : Host.Outcome State Fault Refusal :=
  .next (
    if rf s (clkA 0x000) 8 2 == 3 && !s.tether.holdDone && decide (s.tether.holdUp + 15625000 ≤ rg s (kelA 0x110)) then
      raiseTt { s with tether := { s.tether with holdDone := true } } 0x010F 4 0x08 18 [(0, 8, s.tether.holdTtc)]
    else s)

/-- A start takes a restored reference again (R55): REFCLK_A if it toggles, else REFCLK_B if it does; with neither the
source stays. -/
def startRef (s : State) : State :=
  let t := { s.tether with lostA := false, lostB := false, refNext := none }
  if rf s (clkA 0x000) 0 1 = 1 then { setRf s (clkA 0x000) 8 2 0 with tether := t }
  else if rf s (clkA 0x000) 1 1 = 1 then { setRf s (clkA 0x000) 8 2 1 with tether := t }
  else { s with tether := t }

/-- PLL_UNLOCK (R56). -/
def execPllUnlock (r : Fin 18) (s : State) : Host.Outcome State Fault Refusal :=
  .next (raiseTt s 0x0106 4 0x08 r.val [(0, 1, r.val)])

/-- TELLTALE_SAMPLE (R54): not sampled in mode 01; a margin below the threshold, and a margin of 0, are recorded. -/
def execTelltaleSample (site : Fin 12) (i : Fin 4) (margin : BitVec 3) (s : State) : Host.Outcome State Fault Refusal :=
  .next (
    let a := clkA (0x400 + 4 * (4 * site.val + i.val))
    if monMode s = 1 then setRf s a 3 1 0
    else
      let s := setRf (setRf s a 0 3 margin.toNat) a 3 1 1
      let s := if margin.toNat < rf s (clkA 0x004) 4 3 then raiseTt (bump s a 16 16) 0x010A 1 0x08 site.val [(0, 1, site.val), (1, 1, i.val), (2, 1, margin.toNat)] else s
      if margin = 0 then raiseTt s 0x010B 3 0x08 site.val [(0, 1, site.val), (1, 1, i.val)] else s)

/-- The trials of an alignment in order: attempts 1 to 4, taps 0 and 8; the accepted one with its number (R45). -/
def alignTry : Nat → List TapTrial → Option (Nat × TapTrial)
  | _, [] => none
  | n, t :: ts =>
    if t.hi.val - t.lo.val ≤ 1 ∧ 2 ≤ t.lo.val ∧ t.hi.val ≤ 13 then some (n, t) else alignTry (n + 1) ts

/-- Port p of region r has a neighbour (R44, R45). A site has west and east neighbours, since P1 wraps (R261), one of north
and south (R259), a link group (R260), UCIe if it is S0 or S6 (R260), and the root. Every other region has the root.
Port 7 is reserved. Which further ports of the link group, UCIe and root regions have a neighbour the manual does not say
(log entry 61). -/
def hasPort (r p : Nat) : Bool :=
  match p with
  | 7 => false
  | 6 => decide (r < 18)
  | _ =>
    if 12 ≤ r then Config.crossingPort r p
    else match p with
      | 2 => decide (6 ≤ r)
      | 3 => decide (r < 6)
      | 5 => r == 0 || r == 6
      | _ => true

/-- Every crossing has locked. -/
def allLocked (s : State) : Bool := (List.range 152).all fun i => !hasPort (i / 8) (i % 8) || rf s (clkA (0x100 + 4 * i)) 31 1 == 1

/-- Port p of region r is to be aligned now: the stage is crossing alignment, the port has a neighbour, and it has not
locked (R45). -/
def aligns (s : State) (r p : Nat) : Bool :=
  stage s == 5 && startKind s != 0 && hasPort r p && rf s (clkA (0x100 + 32 * r + 4 * p)) 31 1 == 0

/-- CROSSING_ALIGNMENT (R45, R422): in stage 5, once for a crossing; the last lock ends the stage, a failure fails it. A port
with no neighbour is no crossing. Trials that neither lock nor number eight are no run of the procedure. After a failure
TAP, PHASE, ATTEMPTS and PAD read 0 beside LOCKED (DESIGN CHOICE, log entry 61). -/
def execCrossingAlignment (r : Fin 19) (p : Fin 8) (ts : List TapTrial) (s : State) : Host.Outcome State Fault Refusal :=
  let a := clkA (0x100 + 32 * r.val + 4 * p.val)
  match alignTry 0 (ts.take 8) with
  | some (n, t) =>
    if !aligns s r.val p.val then .next s
    else
      let s := setRg s a (pack [(31, 1, 1), (8, 4, t.lo.val), (4, 1, n % 2), (2, 2, n / 2), (0, 2, 4 - t.edge.val)])
      .next (if allLocked s then endStage s else s)
  | none =>
    if ts.length < 8 then .fault (.illFormed "CROSSING_ALIGNMENT")
    else if !aligns s r.val p.val then .next s
    else
      let l := ts.getD 7 { lo := 0, hi := 0, edge := 0 }
      let s := raiseTt (setRg s a 0) 0x0105 4 0x08 r.val [(0, 1, r.val), (1, 1, p.val), (2, 1, l.lo.val), (3, 1, l.hi.val)]
      .next (failStage s 0x0105)

end Sys2Proof.Machine
end

