-- ==== Sys2Proof/Machine/LinkCmds.lean ====
section
/-!
DEFINITION. Machine/LinkCmds.lean: the commands and events of the Nerique links (chapter 11). MGMT_PACKET, whose
message goes on to another block, is in Machine/Root.lean.
-/
namespace Sys2Proof.Machine
open Sys2Proof

/-! ### Planned starts (R294, R303) -/

/-- The feature that owns a unit of a shareable resource (R319). -/
def ownerOf (s : State) (cls ix unit : Nat) : Nat :=
  match s.owners.find? fun e => e.1 == cls && e.2.1 == ix && decide (e.2.2.1 ≤ unit ∧ unit < e.2.2.1 + e.2.2.2.1) with
  | some e => e.2.2.2.2
  | none => 0

/-- A transmit entry, all zeros with 0x090F where its parity fails (R297). -/
def txEntry (s : State) (n j : Nat) : Nat × State :=
  let a := lnkA n (0x1000 + 2 * j)
  if s.slotBad.contains a then (0, raiseLnk s n 0x090F 3 [(1, 1, 0), (2, 2, j)])
  else (rf s (lnkA n (0x1000 + 4 * (j / 2))) (16 * (j % 2)) 16, s)

/-- The link that carries a start of link n now, with OLINK: the link itself, or its partner from the tick after a
failure in a protected pair (R303, R304). -/
def carrier (s : State) (n : Nat) : Option (Nat × Bool) :=
  let st := lnkSt s n
  if st = 3 then some (n, false)
  else if (st = 4 ∨ st = 5) ∧ isProtected s n ∧ lnkSt s (partner n) = 3 ∧ (link s n).failTick < ttc s then some (partner n, true)
  else none

/-- A management message's type byte. -/
def msgType (p : LPkt) : Nat := rowGet (p.body.headD 0) 0 8

/-- The pending management message that a start takes: the highest priority first; a start that Commit vote owns takes
votes only (R294, R320). -/
def takeMgmt (s : State) (n j : Nat) (olink : Bool) : Option (Nat × LPkt) :=
  let own := ownerOf s 4 n j
  let ok (e : Nat × LPkt) : Bool :=
    decide (e.2.born ≤ now s) && (!olink || e.2.kind != 3) && (own != 0x0010 || (e.2.kind == 2 && (msgType e.2 == 3 || msgType e.2 == 4)))
  (List.range 5).findSome? fun q => (link s n).mq.find? fun e => e.1 == q && ok e

/-- Start b of link n becomes eligible and takes a packet from its source (R294); `only` limits it to one source. -/
def takeStart (s : State) (n : Nat) (b : Bool) (only : Option Nat) : State :=
  if !planOn s || decide (now s < (link s n).started) then s
  else
    let j := frameTick s % 4096
    let (e, s) := txEntry s n j
    let src := if b then fld e 4 4 else fld e 0 4
    if only.any (· != src) then s
    else
      let s := modLink s n fun l => { l with started := now s + 1 }
      match carrier s n with
      | none => s
      | some (m, ol) =>
        let put (s : State) (p : LPkt) : State :=
          modLink s m fun l => { l with elig := l.elig ++ [{ p with stick := if p.kind = 1 ∨ p.kind = 2 then ttc s % 2 ^ 24 else 0, start := b2n b, olink := ol, born := now s }] }
        match src with
        | 1 => match (link s n).fq with
          | p :: t => put (modLink s n fun l => { l with fq := t }) p
          | [] => s
        | 2 => match takeMgmt s n j ol with
          | some e => put (modLink s n fun l => { l with mq := l.mq.erase e }) e.2
          | none => s
        | 3 => match (rop s (n / 2)).sendQ with
          | p :: t => put (modRop s (n / 2) fun r => { r with sendQ := t }) p
          | [] => s
        | 4 => match (punit s n).queue with
          | (r, v) :: t =>
            let cfg := trnA (0x100 + 16 * n)
            let s := bump (modPunit s n fun u => { u with queue := t }) (trnA (0x108 + 16 * n)) 32 16
            put s { kind := 1, units := 8, drow := (rf s cfg 16 16 + r) % 65536, ccnt := rf s cfg 40 6, body := [v] }
          | [] => s
        | _ => s

/-- PLANNED_START (R294): eligible at cycle phase 0 for start 0, at phase 4 for start 1. -/
def execPlannedStart (n : Fin 24) (b : Bool) (s : State) : Host.Outcome State Fault Refusal :=
  .next (whenAt s (if b then 4 else 0) fun s => takeStart s n.val b none)

/-- PARITY_ROW_FORWARD (R387): an SRC 4 start sends a completed FORWARD-mode row. -/
def execParityRowForward (n : Fin 24) (b : Bool) (s : State) : Host.Outcome State Fault Refusal :=
  .next (whenAt s (if b then 4 else 0) fun s => takeStart s n.val b (some 4))

/-! ### Received packets and control units (R282 to R286) -/

/-- The link carries sequenced packets. -/
def lnkUp (s : State) (n : Nat) : Bool := lnkSt s n == 3
/-- The link carries control units (R292). -/
def lnkOn (s : State) (n : Nat) : Bool := decide (1 ≤ lnkSt s n ∧ lnkSt s n ≤ 4)

/-- DATA_PACKET (R297, R299, R301): a packet that passed R282 is judged by its number and placed or discarded. -/
def execDataPacket (n : Fin 24) (p : Fin 8) (h : DataHdr) (r0 : Row) (r1 : Option Row) (s : State) : Host.Outcome State Fault Refusal :=
  .next (whenAt s p.val fun s =>
    if !lnkUp s n.val then s
    else
      let (ok, s) := seqTake s n.val h.seq.toNat
      let body := r0 :: r1.toList
      if ok then
        dataTake s n.val { kind := 1, units := 8 * body.length, seq := h.seq.toNat, stick := h.stick.toNat, start := b2n h.start, olink := h.olink,
                           drow := h.drow.toNat, ccnt := h.ccnt.toNat, body := body }
      else s)

/-- LEHR_RELEASE (R300): the packets whose release cycle it is. -/
def execLehrRelease (n : Fin 24) (p : Fin 8) (s : State) : Host.Outcome State Fault Refusal :=
  .next (whenAt s p.val fun s => lehrRelease s n.val)

/-- LINKCTL (R285, R288). -/
def execLinkctl (n : Fin 24) (p : Fin 8) (ack : BitVec 16) (d m : BitVec 32) (s : State) : Host.Outcome State Fault Refusal :=
  .next (whenAt s p.val fun s => if lnkUp s n.val then ackTake s n.val ack.toNat d.toNat m.toNat else s)

/-- NAK (R286): after what the LINKCTL acknowledges, every unacknowledged packet is replayed. -/
def execNak (n : Fin 24) (p : Fin 8) (ack : BitVec 16) (d m : BitVec 32) (s : State) : Host.Outcome State Fault Refusal :=
  .next (whenAt s p.val fun s =>
    if lnkUp s n.val then
      let s := ackTake s n.val ack.toNat d.toNat m.toNat
      startReplay s n.val (link s n.val).unacked
    else s)

/-- LINKCTL_TIMER (R285): 250 cyc after the oldest acceptance that no LINKCTL covers. -/
def execLinkctlTimer (n : Fin 24) (p : Fin 8) (s : State) : Host.Outcome State Fault Refusal :=
  .next (whenAt s p.val fun s =>
    let l := link s n.val
    if lnkUp s n.val && decide (0 < l.uncov) && decide (l.uncovAt + 250 ≤ now s) then modLink s n.val fun l => { l with ctlDue := true } else s)

/-- REPLAY_TIMEOUT (R286). -/
def execReplayTimeout (n : Fin 24) (p : Fin 8) (s : State) : Host.Outcome State Fault Refusal :=
  .next (whenAt s p.val fun s =>
    let l := link s n.val
    match l.unacked with
    | q :: _ =>
      if lnkUp s n.val && decide (l.lastAdv + rf s (lnkA n.val 0x020) 32 16 ≤ now s) then
        startReplay (modLink (raiseLnk s n.val 0x0902 0 [(2, 2, q.seq)]) n.val fun l => { l with lastAdv := now s }) n.val l.unacked
      else s
    | [] => s)

/-- FAILED_PACKET (R282, R284, R289): 0x0901, a gap, and the search for the next header; a SYNC packet that fails ends
its exchange. What fails during a search is a candidate that is none. Causes: 1 CRC, 2 bad unit, 3 LEN, 4 reserved KIND. -/
def execFailedPacket (n : Fin 24) (p : Fin 8) (cause : BitVec 3) (sync : Option (BitVec 8)) (s : State) : Host.Outcome State Fault Refusal :=
  if cause = 0 ∨ 4 < cause.toNat then .fault (.illFormed "FAILED_PACKET")
  else .next (whenAt s p.val fun s =>
    if !lnkOn s n.val then s
    else
      if (link s n.val).search then s
      else
        let s := match sync with
          | some t => raiseLnk (setRf s (ttA (0x100 + 4 * n.val)) 31 1 0) n.val 0x0910 0 [(1, 1, t.toNat)]
          | none => s
        let l := link s n.val
        let s := bump (raiseLnk s n.val 0x0901 1 [(2, 2, l.rxNext), (4, 1, cause.toNat), (8, 4, frameCyc s)]) (lnkA n.val 0x040) 32 16
        modLink s n.val fun l => { l with search := true, gap := true, nakDue := l.nakDue || !l.gap })

/-! ### Retrain (R290 to R292) -/

/-- RETRAIN (R290): the far end's LANECTL. -/
def execRetrain (n : Fin 24) (p : Fin 8) (s : State) : Host.Outcome State Fault Refusal :=
  .next (whenAt s p.val fun s => enterRetrain s n.val 3 0)

/-- CODEWORD_TIMEOUT (R290): 256 cyc without a codeword that was corrected or free of errors. -/
def execCodewordTimeout (n : Fin 24) (p : Fin 8) (s : State) : Host.Outcome State Fault Refusal :=
  .next (whenAt s p.val fun s => enterRetrain s n.val 2 0)

/-- The far end's identity agrees with LNK_CFG (R290, R298). -/
def identGood (s : State) (n dev num : Nat) : Bool := rf s (lnkA n 0x000) 51 13 == dev && rf s (lnkA n 0x000) 46 5 == num

/-- IDENT (R290, R298): checked against LNK_CFG; in ranging the check comes with RANGING. -/
def execIdent (n : Fin 24) (p : Fin 8) (dev : BitVec 13) (num : BitVec 5) (s : State) : Host.Outcome State Fault Refusal :=
  .next (whenAt s p.val fun s =>
    if !lnkOn s n.val then s
    else
      let s := modLink s n.val fun l => { l with ident := some (dev.toNat, num.toNat) }
      if lnkSt s n.val = 4 && !identGood s n.val dev.toNat num.toNat then attemptFails s n.val 3 0 else s)

/-- RETRAIN_ATTEMPT_TIMEOUT (R290): 3,125 tt. -/
def execRetrainAttemptTimeout (n : Fin 24) (s : State) : Host.Outcome State Fault Refusal :=
  .next (
    if lnkSt s n.val = 4 ∧ (link s n.val).rejoinAt = none ∧ (link s n.val).attempt + 3125 ≤ uptime s then attemptFails s n.val 1 0
    else s)

/-- LINK_REJOIN (R292): at the frame's first tick both ends reset numbers, credits and duplicate records, and the
partner returns the traffic, or gives its own where it has failed. Packets in the lehr stay; a width request that was
abandoned waits no longer (R293). -/
def execLinkRejoin (n : Fin 24) (s : State) : Host.Outcome State Fault Refusal :=
  .next (
    if lnkSt s n.val = 4 ∧ (link s n.val).rejoinAt = some (ttc s) then
      let s := setCarried (setLnkSt s n.val 3) n.val 0
      let p := partner n.val
      let s := if isProtected s p && (lnkSt s p == 4 || lnkSt s p == 5) then setCarried s p 1 else s
      modLink (modLink s p fun l => { l with wHold := false }) n.val fun l => { linkComesUp l with rejoinAt := none, upSince := some (ttc s), wHold := false }
    else s)

/-! ### Width changes (R293) -/

/-- A write of LNK_CTRL that requests a width at a tick (R293, R309). -/
def widthWrite (s : State) (n w sel t : Nat) : State :=
  setRf (setRg (modLink s n fun l => { l with wHold := false }) (lnkA n 0x010) (pack [(30, 2, w), (28, 2, sel), (0, 23, t)])) (lnkA n 0x008) 53 1 1

/-- LNK_CTRL_WIDTH_GO (R293, R309): the Keel's write requests the change at WIDTH_TICK. -/
def execLnkCtrlWidthGo (n : Fin 24) (w sel : BitVec 2) (t : BitVec 23) (s : State) : Host.Outcome State Fault Refusal :=
  .next (widthWrite s n.val w.toNat sel.toNat t.toNat)

/-- A link's width request starts: sequenced packets stop starting until the replay buffer is empty (R293). -/
def widthStart (s : State) (n : Nat) : State :=
  if lnkUp s n && rf s (lnkA n 0x008) 53 1 == 1 && frameTick s == rf s (lnkA n 0x010) 0 23 && (link s n).wStage == 0 && !(link s n).wHold then
    modLink s n fun l => { l with wStage := 1 }
  else s

/-- WIDTH_TICK (R293). -/
def execWidthTick (n : Fin 24) (s : State) : Host.Outcome State Fault Refusal :=
  .next (
    if planOn s then widthStart s n.val else s)

/-- WIDTH_REQ (R293): answered with WIDTH_ACK. -/
def execWidthReq (n : Fin 24) (p : Fin 8) (w sel : BitVec 2) (s : State) : Host.Outcome State Fault Refusal :=
  .next (whenAt s p.val fun s =>
    if lnkUp s n.val then modLink s n.val fun l => { l with lanes := l.lanes ++ [{ op := 3, width := w.toNat, sel := sel.toNat }] } else s)

/-- WIDTH_ACK (R293): this end sends WIDTH_GO. -/
def execWidthAck (n : Fin 24) (p : Fin 8) (s : State) : Host.Outcome State Fault Refusal :=
  .next (whenAt s p.val fun s =>
    if lnkUp s n.val && (link s n.val).wStage == 2 then
      modLink s n.val fun l => { l with wStage := 3, lanes := l.lanes ++ [{ op := 4, width := rf s (lnkA n.val 0x010) 30 2, sel := rf s (lnkA n.val 0x010) 28 2 }] }
    else s)

/-- WIDTH_GO (R293): the lanes change; an end that has not sent its own WIDTH_GO sends it. -/
def execWidthGo (n : Fin 24) (p : Fin 8) (w sel : BitVec 2) (s : State) : Host.Outcome State Fault Refusal :=
  .next (whenAt s p.val fun s =>
    if !lnkUp s n.val then s
    else
      let own := (link s n.val).wStage
      let s := modLink s n.val fun l => { l with wStage := 0, lanes := if own = 3 then l.lanes else l.lanes ++ [{ op := 4, width := w.toNat, sel := sel.toNat }] }
      let s := setRf (setRf s (lnkA n.val 0x008) 58 2 w.toNat) (lnkA n.val 0x008) 56 2 sel.toNat
      if own = 0 then s else setRf s (lnkA n.val 0x008) 53 1 0)

/-! ### Remote operations (R305 to R307) -/

/-- The operation's operands are ones the layout admits (Table 11-8). -/
def ropWf (m : RopMsg) : Bool := m.bytes.toNat % 16 == 0 && decide (m.bytes.toNat ≤ 240) && m.addr.toNat % 16 == 0

/-- The remote window of a pair admits the access (R306). -/
def inWindow (s : State) (k : Nat) (m : RopMsg) : Bool :=
  let w := tget (0, 0) s.rwins (k * 16 + m.env.toNat)
  decide (w.1 ≤ m.addr.toNat ∧ m.addr.toNat + m.bytes.toNat ≤ w.1 + w.2)

/-- Bytes written to DRAM by a unit outside the blowpipes: the touched sectors get fresh check bytes (R206, R223). -/
def storeBytes (s : State) (a : Nat) (bs : List Byte) : State :=
  let s := { s with mem := writeBytes s.mem a bs }
  if bs = [] then s else forN ((a + bs.length - 1) / 64 - a / 64 + 1) s fun i s => { s with sec := tset [] s.sec (a / 64 + i) [] }

/-- The address lies in the twin mirror range (KIND 7), where writes wait for the step's outcome (R381). -/
def inMirror (s : State) (a : Nat) : Bool :=
  let r := tget (0, 0) s.ranges (7 * 65536)
  decide (r.1 ≤ a ∧ a < r.1 + r.2)

/-- A target's write takes effect (R306, R381). -/
def ropWrite (s : State) (m : RopMsg) : State :=
  let bs := leBytes m.bytes.toNat m.data.toNat
  if inMirror s m.addr.toNat then { s with twinPend := s.twinPend ++ [(m.addr.toNat, bs)] } else storeBytes s m.addr.toNat bs

/-- 0x090B (R306). -/
def raise090B (s : State) (n : Nat) (m : RopMsg) (status : Nat) : State :=
  raiseLnk s n 0x090B 2 [(1, 1, status), (2, 2, m.rwseq.toNat), (4, 2, rf s (lnkA n 0x000) 51 13), (8, 6, m.addr.toNat)]

/-- An answer waits for a SRC 3 start. -/
def ropAnswer (s : State) (n : Nat) (m : RopMsg) (status bytes : Nat) (data : BitVec 1920) : State :=
  ropQueue s (n / 2) (ropPkt 3 status m.rwseq.toNat bytes m.env.toNat m.addr.toNat data)

/-- A received ROP packet is accepted in sequence, and its buffer freed on delivery (R283, R288). -/
def ropTake (s : State) (n : Nat) (m : RopMsg) (f : State → State) : State :=
  if !lnkUp s n then s
  else
    let (ok, s) := seqTake s n m.seq.toNat
    if ok then f (freeMgmt s n (1 + m.bytes.toNat / 16)) else s

/-- The window slides up to a later number, which is marked (R306). -/
def markSeq (r : RopS) (q : Nat) : RopS :=
  let h := match r.hi with
    | none => q
    | some h => if (q + 65536 - h) % 65536 < 32768 then q else h
  { r with hi := some h, marks := (r.marks ++ [q]).filter fun x => decide ((h + 65536 - x) % 65536 ≤ 255) }

/-- RWRITE (R306). -/
def execRwrite (n : Fin 24) (p : Fin 8) (m : RopMsg) (s : State) : Host.Outcome State Fault Refusal :=
  if !ropWf m then .fault (.illFormed "RWRITE")
  else .next (whenAt s p.val fun s => ropTake s n.val m fun s =>
    let k := n.val / 2
    let r := rop s k
    let q := m.rwseq.toNat
    if !inWindow s k m then ropAnswer (raise090B s n.val m 2) n.val m 2 0 0
    else if r.marks.contains q then ropAnswer (bump s (lnkA (2 * k) 0x060) 16 16) n.val m 1 0 0
    else if r.hi.any fun h => decide (255 < (h + 65536 - q) % 65536 ∧ (h + 65536 - q) % 65536 ≤ 32768) then ropAnswer (raise090B s n.val m 3) n.val m 3 0 0
    else ropAnswer (ropWrite (modRop s k fun r => markSeq r q) m) n.val m 0 0 0)

/-- RREAD (R306): executed each time it arrives. -/
def execRread (n : Fin 24) (p : Fin 8) (m : RopMsg) (s : State) : Host.Outcome State Fault Refusal :=
  if !ropWf m then .fault (.illFormed "RREAD")
  else .next (whenAt s p.val fun s => ropTake s n.val m fun s =>
    if !inWindow s (n.val / 2) m then ropAnswer (raise090B s n.val m 2) n.val m 2 0 0
    else ropAnswer s n.val m 0 m.bytes.toNat (BitVec.ofNat 1920 (leNat (readBytes s.mem m.addr.toNat m.bytes.toNat))))

/-- RRESP (R307): the first response completes the operation; a later one is discarded and counted. -/
def execRresp (n : Fin 24) (p : Fin 8) (m : RopMsg) (s : State) : Host.Outcome State Fault Refusal :=
  if !ropWf m then .fault (.illFormed "RRESP")
  else .next (whenAt s p.val fun s => ropTake s n.val m fun s =>
    let k := n.val / 2
    match (rop s k).out.find? fun o => o.seq == m.rwseq.toNat with
    | none => bump s (lnkA (2 * k) 0x060) 0 16
    | some o =>
      let s := modRop s k fun r => { r with out := r.out.erase o }
      let s := if o.who = 0 ∧ 2 ≤ m.status.toNat then { s with mirrorBad := s.mirrorBad ++ [(o.env, o.item)] } else s
      emit (ropIssue s k) (.ropDone k m.rwseq.toNat m.status.toNat m.data))

/-- ROP_DEADLINE (R307): reissued with the same number, or failed with 0x090A. -/
def execRopDeadline (k : Fin 12) (q : BitVec 16) (s : State) : Host.Outcome State Fault Refusal :=
  .next (match (rop s k.val).out.find? fun o => o.seq == q.toNat with
    | none => s
    | some o =>
      if ttc s < o.deadline then s
      else if 0 < o.left then
        let s := modRop s k.val fun r => { r with out := r.out.map fun x => if x.seq = o.seq then { x with left := x.left - 1, deadline := x.deadline + ropTimeout s k.val } else x }
        ropQueue (bump s (lnkA (2 * k.val) 0x060) 32 16) k.val (ropPkt o.op 0 o.seq o.bytes o.env o.addr o.data)
      else
        let s := modRop s k.val fun r => { r with out := r.out.erase o }
        let s := if o.who = 0 then { s with mirrorBad := s.mirrorBad ++ [(o.env, o.item)] } else s
        ropIssue (raiseLnk s (2 * k.val) 0x090A 2 [(1, 1, o.op), (2, 2, o.seq), (4, 2, rf s (lnkA (2 * k.val) 0x000) 51 13)]) k.val)

/-! ### Ranging (R298, R323) -/

/-- Ranging fails: 0x090C, then 0x0A0E; the loaded contents stand and launch is never armed (R298, R323). -/
def rangingFails (s : State) (n reason flight : Nat) : State :=
  let seen := (link s n).ident.getD (0, 0)
  let s := raiseLnk s n 0x090C 4 [(1, 1, reason), (2, 2, flight), (4, 2, flightA s n), (6, 2, seen.1), (8, 1, seen.2)]
  failStage (parRefuse (raise s 0x0A0E 4 0x00 0 0xFFFF (det [(0, 1, n)])) 0x0A0E 0xFFFF 0) 0x0A0E

/-- Links the loaded parison uses in its running variant (R479). -/
def usedLinks (s : State) : List Nat := (List.range 24).filter fun n => rf s (lnkA n 0x000) 34 1 == 1

/-- SECCHK to the twin and each member of the train over their routes (R449, Table 17-5). -/
def sendSecchk (s : State) : State :=
  let me := myIx s
  let peers := (s.train.map (·.2) ++ (if rf s 0x020000015008 60 4 = 0 then [] else [rf s 0x020000015000 51 13])).eraseDups.filter fun d => d != me
  peers.foldl (fun s d => match (tget [] s.routes d).head? with
    | some n => sendMgmt s n 2 2 [BitVec.ofNat 1024 (pack [(0, 8, 0x30), (16, 16, me), (32, 16, d), (64, 64, rg s (parA 0x028)), (128, 32, rf s (parA 0x034) 0 32),
        (160, 32, rf s 0x020000018000 0 32)]), 0]
    | none => s) s

/-- RANGING (R298): 64 exchanges after IDENT give FLIGHT_M; when every used link has its flight the stage ends, the links
are up and SECCHK goes out (R437, R449). -/
def execRanging (n : Fin 24) (s : State) : Host.Outcome State Fault Refusal :=
  .next (
    if stage s ≠ 8 then s
    else
      let l := link s n.val
      let s :=
        if !(usedLinks s).contains n.val || lnkSt s n.val != 2 then s
        else match l.ident with
          | none => s
          | some (d, k) =>
            if !identGood s n.val d k then rangingFails s n.val 4 0
            else if l.delays.length < 64 then s
            else
              let m := (medianOf l.delays).toNat
              if flightReason s n.val m ≠ 0 then rangingFails s n.val (flightReason s n.val m) m
              else setLnkSt (modLink (setRf s (lnkA n.val 0x018) 0 16 m) n.val fun l => { linkComesUp l with delays := [], ranged := true }) n.val 3
      if stage s = 8 ∧ (usedLinks s).all fun k => (link s k).ranged then sendSecchk (endStage (setParState s 5)) else s)

end Sys2Proof.Machine
end

