-- ==== Sys2Proof/Machine/Serve.lean ====
section
/-!
DEFINITION. Machine/Serve.lean: the serving block of an envelope (chapter 13): parameters, rings, the intake snapshot,
registrations taken with it, posting, and mirroring to the twin. The requests are in Machine/Requests.lean.
-/
namespace Sys2Proof.Machine
open Sys2Proof

/-! ### Parameters and parts (R331, R367) -/

/-- SRV_ registers of an envelope. -/
def srvA (e off : Nat) : Nat := 0x020000014000 + 0x100 * e + off
/-- An envelope's serving block. -/
def srv (s : State) (e : Nat) : Srv := tget {} s.srvs e
/-- An envelope's serving block as registers show it: until the frame of a commit ends, as it was before (R32). -/
def srvSeen (s : State) (e : Nat) : Srv := match s.shown with | some x => tget {} x.srvs e | none => srv s e
/-- The state with an envelope's serving block changed. -/
def modSrv (s : State) (e : Nat) (f : Srv → Srv) : State := { s with srvs := tset {} s.srvs e (f (srv s e)) }
/-- A ring pair. -/
def ring (s : State) (e k : Nat) : Ring := tget {} (srv s e).rings k
/-- The state with a ring pair changed. -/
def modRing (s : State) (e k : Nat) (f : Ring → Ring) : State :=
  modSrv s e fun v => { v with rings := tset {} v.rings k (f (tget {} v.rings k)) }
/-- A host range. -/
def hrange (s : State) (e r : Nat) : HRange := tget {} (srv s e).hranges r
/-- Records of a submission ring, and of a completion ring. -/
def subSize (r : Ring) : Nat := 2 ^ fld r.cfg 0 5
/-- Records of a completion ring. -/
def cmpSize (r : Ring) : Nat := 2 ^ fld r.cfg 8 5
/-- INTAKE_MAX. -/
def intakeMax (s : State) (e : Nat) : Nat := rf s (srvA e 0x008) 8 10 + 1
/-- MAX_POS. -/
def maxPos (s : State) (e : Nat) : Nat := match rf s (srvA e 0x020) 40 24 with | 0 => 2 ^ 24 | n => n
/-- The stream lies in the envelope's range. -/
def ownsStream (s : State) (e z : Nat) : Bool :=
  decide (rf s (srvA e 0x000) 37 13 ≤ z ∧ z < rf s (srvA e 0x000) 37 13 + rf s (srvA e 0x000) 50 14)
/-- The streams of an envelope. -/
def envStreams (s : State) (e : Nat) : List Nat := (List.range (rf s (srvA e 0x000) 50 14)).map (· + rf s (srvA e 0x000) 37 13)
/-- The cores of an envelope, ascending; the first is its lead core. -/
def envCores (s : State) (e : Nat) : List Nat := (List.range 60).filter fun c => (core s c).present && (core s c).env == e

/-- A serving fault: class 0x0A with the virtual function's index (R368). -/
def raiseSrv (s : State) (e code sev : Nat) (d : List (Nat × Nat × Nat)) : State := raise s code sev 0x0A (e + 1) e (det d)

/-- A word of a stream's entry as committed. -/
def cword (s : State) (z w : Nat) : Nat := (tget 0 s.strmTab (16 * z + w)).toNat
/-- A word of a stream's entry as the step's requests have amended it (R347). -/
def pword (s : State) (z w : Nat) : Nat := ((tget none s.strmPend (16 * z + w)).getD (tget 0 s.strmTab (16 * z + w))).toNat
/-- The state with a pending word. -/
def pendWord (s : State) (z w v : Nat) : State := { s with strmPend := tset none s.strmPend (16 * z + w) (some (BitVec.ofNat 32 v)) }
/-- The state with a field of a pending word. -/
def pendFld (s : State) (z w lo n v : Nat) : State := pendWord s z w (setFld (pword s z w) lo n v)
/-- STATE of a stream as committed: 0 FREE, 1 IDLE, 2 PREFILL, 3 DECODE. -/
def cState (s : State) (z : Nat) : Nat := fld (cword s z 1) 28 4
/-- STATE of a stream as amended. -/
def pState (s : State) (z : Nat) : Nat := fld (pword s z 1) 28 4

/-- Little-endian field of a record: bytes off to off + n - 1. -/
def recNat (r : List Byte) (off n : Nat) : Nat := leNat ((r.drop off).take n)

/-! ### Margins (R340, R345) -/

/-- Open streams whose OUT_RING is k, as committed. -/
def openOn (s : State) (e k : Nat) : Nat := ((envStreams s e).filter fun z => cState s z != 0 && fld (cword s z 1) 16 4 == k).length
/-- Q of a completion ring, as committed before the step. -/
def ringQ (s : State) (e k : Nat) : Nat := rf s (srvA e 0x020) 22 18 - tget 0 (srv s e).q0 k
/-- The streams bound to ring k are held in the step. -/
def ringHeld (s : State) (e k : Nat) : Bool := (ring s e k).reg && decide (ringQ s e k < openOn s e k + 2 * intakeMax s e)
/-- Units of the envelope's ledger. -/
def ledgerCap (s : State) (e : Nat) : Nat := (tget (0, 0) s.ranges (5 * 65536 + e)).2 / 64
/-- Free units, with the units of the snapshot under way counted: units below the export mark and the retention mark are
free (R345, R382). -/
def freeUnits (s : State) (e : Nat) : Nat :=
  let v := srv s e
  ledgerCap s e - (v.units + 2 * v.snap.regs.length + 5 * v.snap.reqs.length - min v.mark v.units)

/-- What a step begins with: each ring's queued records and reservations (R340). A replay runs on those of the voided step, so
that it holds the same streams (R34). -/
def srvFrameStart (s : State) (e : Nat) : State :=
  if s.vote.replay then s
  else modSrv s e fun v => { v with q0 := v.rings.foldl (fun t r => tset 0 t r.1 (r.2.queue.length + r.2.resv)) [] }

/-! ### Mirroring (R344, R381, R383) -/

/-- Paired: TWN_STAT.STATE = 1. -/
def paired (s : State) : Bool := rf s 0x020000015008 60 4 == 1

/-- An item goes to the twin by RWRITEs of at most 240 bytes; `item` is the row of Table 14-4, with 8 times the LSN for a
ledger entry. -/
def mirror (s : State) (item e : Nat) (bs : List Byte) : State :=
  if !paired s then s
  else forN (cdiv bs.length 240) s fun i s =>
    let c := (bs.drop (240 * i)).take 240
    let (n, s) := freshFree s
    ropRequest s (rf s 0x020000015000 46 5 / 2) 1 (cdiv c.length 16 * 16) e ((Config.mirrorAddr n).toNat / 16 * 16) 0 item (BitVec.ofNat 1920 (leNat c))

/-- A request's ledger entry of 320 bytes (Table 13-4). -/
def entryBytes (t : Taken) : List Byte :=
  leBytes 64 (pack [(0, 64, t.lsn), (64, 48, t.step), (112, 8, 1), (120, 8, t.ring), (128, 64, t.rseq), (192, 16, t.status), (208, 16, t.core)]) ++
    leBytes 256 (leNat t.rec_)

/-- A registration entry of 128 bytes (Table 15-4). -/
def regBytes (r : RegEnt) : List Byte :=
  leBytes 64 (pack [(0, 64, r.lsn), (64, 48, r.step), (112, 8, 3), (120, 8, r.obj), (128, 8, r.op), (144, 16, r.status)]) ++
    leBytes 64 (pack (r.vals.zipIdx.map fun e => (64 * e.2, if e.2 = 4 then 32 else 64, e.1)))

/-! ### Registrations (R403) -/

/-- The ranges [a, a + n) and [b, b + m) meet. -/
def spansMeet (a n b m : Nat) : Bool := decide (a < b + m ∧ b < a + n)

/-- Ring fields are good: sizes of 2^6 to 2^16, and nothing overlaps the submission ring. -/
def ringGood (v : List Nat) : Bool :=
  let g (i : Nat) : Nat := v.getD i 0
  let sl := fld (g 4) 0 5
  let cl := fld (g 4) 8 5
  let n := 256 * 2 ^ sl
  decide (6 ≤ sl ∧ sl ≤ 16 ∧ 6 ≤ cl ∧ cl ≤ 16) && !spansMeet (g 0) n (g 1) (64 * 2 ^ cl) && !spansMeet (g 0) n (g 2) 8 && !spansMeet (g 0) n (g 3) 8

/-- A stream's pane-table entry as committed (R237). -/
def paneEntry (s : State) (z i : Nat) : Nat := leNat (readBytes s.mem ((tget (0, 0) s.ranges (65536 + z)).1 + 8 * i) 8)

/-- A range is in use: an unanswered request names it, or an open stream has a tier-4 pane (status 0x0D04). -/
def rangeUsed (s : State) (e r : Nat) : Bool :=
  match fld (hrange s e r).cfg 60 4 with
  | 1 => (srv s e).c.frits.any (fun f => f.2.st == 1) || (srv s e).c.todo.any (fun t => bitAt (recNat t.rec_ 8 2) 9 && recNat t.rec_ 8 1 == 2 || decide (recNat t.rec_ 8 1 = 0x10 ∨ recNat t.rec_ 8 1 = 0x11)) ||
      (srv s e).c.apps != []
  | 3 => (envStreams s e).any fun z => cState s z != 0 && (List.range (cdiv (fld (cword s z 2) 0 24) 256)).any fun i => fld (paneEntry s z i) 61 3 == 4
  | _ => false

/-- The status of a registration request against committed state (Table 15-4). -/
def regStatus (s : State) (e obj op : Nat) (v : List Nat) : Nat :=
  if obj < 16 then
    let r := ring s e obj
    if op = 1 then
      if !ringGood v then 0x0D01 else if r.reg then 0x0D02
      else if !bitAt (rg s (0x020000015040 + 4 * e)) obj then 0x0D05 else 0
    else if !r.reg then 0x0D02
    else if r.queue ≠ [] ∨ r.resv ≠ 0 ∨ openOn s e obj ≠ 0 then 0x0D03 else 0
  else
    let r := hrange s e (obj - 16)
    if op = 1 then
      let k := fld (v.getD 1 0) 60 4
      if k = 0 ∨ 4 < k ∨ fld (v.getD 1 0) 0 36 = 0 then 0x0D01 else if r.reg then 0x0D02 else 0
    else if !r.reg then 0x0D02
    else if rangeUsed s e (obj - 16) then 0x0D04 else 0

/-- REGISTRATION_TAKE (R403): pending requests in order, each with room for 2 units beyond the frame entry. -/
def takeRegs (s : State) (e : Nat) : State :=
  (List.range 24).foldl (fun s obj =>
    match tget none (srv s e).req obj with
    | some (op, v) =>
      if freeUnits s e < 5 then s
      else
        let r : RegEnt := { obj := obj, op := op, status := regStatus s e obj op v, vals := v, step := stepNo s, lsn := (srv s e).nextLsn }
        mirror (modSrv s e fun x => { x with snap := { x.snap with regs := x.snap.regs ++ [r] } }) 0 e (regBytes r)
    | none => s) s

/-! ### The intake snapshot (R334 to R336, R341, R342) -/

/-- The number of a snapshot read: kind 0 HEAD word, 1 export-mark word, 2 VALID word i, 3 record i. -/
def snapTag (e k kind i : Nat) : Nat := 2 ^ 28 + ((e * 16 + k) * 4 + kind) * 1024 + i
/-- The host address of a record slot. -/
def subAddr (r : Ring) (q : Nat) : Nat := r.sub + 256 * (q % max (subSize r) 1)
/-- HST_POD_CFG.ROLE: 1 lead, 2 member. -/
def podRole (s : State) : Nat := rf s (bar 0 0x100) 62 2
/-- The export range of an envelope: a registered range of KIND 2. -/
def exportRange (s : State) (e : Nat) : Option HRange :=
  ((List.range 8).map (hrange s e)).find? fun r => r.reg && fld r.cfg 60 4 == 2

/-- Where a member's ring image holds a ring: a sixteenth of the range each, its HEAD word last; the export-mark
word stands before ring 0's (log entry 13). -/
def imageRing (s : State) (e k : Nat) : Nat × Nat :=
  let r := tget (0, 0) s.ranges (6 * 65536 + e)
  (r.1 + k * (r.2 / 16), r.1 + (k + 1) * (r.2 / 16) - 8)

/-- The part of a snapshot read the fault and the judgement need: ring, kind, index. -/
def tagParts (t : Nat) : Nat × Nat × Nat := (t / 4096 % 16, t / 1024 % 4, t % 1024)

/-- 0x0B02 (R368). -/
def raise0B02 (s : State) (e k phase q : Nat) : State := raiseSrv s e 0x0B02 1 [(0, 1, k), (1, 1, phase), (8, 8, q)]

/-- The registered rings of an envelope in order. -/
def regRings (s : State) (e : Nat) : List Nat := (List.range 16).filter fun k => (ring s e k).reg

/-- The reads of phase 1 (R334): HEAD and VALID words of every ring, the export mark once. -/
def phase1Reads (s : State) (e : Nat) : List (Nat × Nat × Nat) :=
  let mark := match exportRange s e with | some r => [(snapTag e 0 1 0, r.base, 8)] | none => []
  mark ++ (regRings s e).flatMap fun k =>
    let r := ring s e k
    (snapTag e k 0 0, r.headA, 8) :: (List.range (intakeMax s e)).map fun i => (snapTag e k 2 i, subAddr r (r.nextR + i), 8)

/-- What a read of the snapshot returned, as a number; none where it is absent. -/
def gotVal (v : Srv) (t : Nat) : Option Nat := if v.snap.got.any (fun g => g.1 == t) then some (leNat (tget [] v.snap.got t)) else none

/-- Contiguous present records of a ring, phase 1's v (R334). -/
def present (v : Srv) (e k q n : Nat) : Nat :=
  ((List.range n).takeWhile fun i => gotVal v (snapTag e k 2 i) == some (q + i + 1)).length

/-- The HEAD word read for a ring is taken if it is in range (R341). -/
def takeHead (s : State) (e k : Nat) : State :=
  match gotVal (srv s e) (snapTag e k 0 0) with
  | some h =>
    let r := ring s e k
    if h < r.head ∨ r.posted < h then raiseSrv s e 0x0B04 0 [(0, 1, k), (8, 8, h)] else modRing s e k fun r => { r with head := h }
  | none => s

/-- A request of a stream (Table 13-6). -/
def isStreamReq (rec_ : List Byte) : Bool :=
  let k := recNat rec_ 8 1
  k == 1 || k == 2 || k == 3 || k == 4 || k == 6 || k == 7 || (k == 0x20 && recNat rec_ 24 1 == 1)
/-- A KIND of Table 13-6. -/
def knownKind (k : Nat) : Bool := decide (1 ≤ k ∧ k ≤ 7) || decide (0x10 ≤ k ∧ k ≤ 0x12) || k == 0x20

/-- The intake status of a record (Table 13-7). -/
def intakeStatus (s : State) (e : Nat) (rec_ : List Byte) : Nat :=
  if !knownKind (recNat rec_ 8 1) then 0x0B01
  else if isStreamReq rec_ && !ownsStream s e (recNat rec_ 10 2) then 0x0B03 else 0

/-- The core that executes a request taken with status 0. -/
def execCore (s : State) (e : Nat) (rec_ : List Byte) : Nat :=
  if isStreamReq rec_ then tget 0 s.home (recNat rec_ 10 2) - 1 else (envCores s e).headD 0xFFFF

/-- A present record is takeable (R335, R340, R345). -/
def takeable (s : State) (e k : Nat) (rec_ : List Byte) : Bool :=
  let l := (srv s e).snap.reqs
  let ok := l.filter fun t => t.status == 0
  decide (8 ≤ freeUnits s e) && decide (2 * ((l.filter fun t => t.ring == k).length + 1) + openOn s e k ≤ ringQ s e k) &&
  (intakeStatus s e rec_ != 0 ||
    if isStreamReq rec_ then
      decide ((ok.filter fun t => isStreamReq t.rec_ && recNat t.rec_ 10 2 == recNat rec_ 10 2).length < 8) &&
      decide ((ok.filter fun t => t.core == execCore s e rec_).length < rf s (srvA e 0x010) 0 10)
    else decide ((ok.filter fun t => !isStreamReq t.rec_).length < 8))

/-- RECORD_TAKE (R342): the record gets the next LSN of its ring's sequence and a ledger entry. -/
def takeRecord (s : State) (e k q : Nat) (rec_ : List Byte) : State :=
  let v := srv s e
  let tw := (ring s e k).twin
  let n := (v.snap.reqs.filter fun t => (ring s e t.ring).twin == tw).length
  let side := rf s 0x020000015000 40 1
  let lsn := (if tw then v.nextLsnT else v.nextLsn) + n + 2 ^ 63 * (if tw then 1 - side else side)
  let st := intakeStatus s e rec_
  let t : Taken := { lsn := lsn, ring := k, rseq := q, status := st, core := if st = 0 then execCore s e rec_ else 0xFFFF, step := stepNo s, rec_ := rec_ }
  mirror (modSrv s e fun x => { x with snap := { x.snap with reqs := x.snap.reqs ++ [t] } }) (8 * lsn) e (entryBytes t)

/-- The records of a ring, in RSEQ order, up to the first that is absent or not takeable. -/
def takeRing (s : State) (e k : Nat) : State :=
  let v := srv s e
  let q := (ring s e k).nextR
  let recs := (List.range (present v e k q (intakeMax s e))).map fun i => (i, if v.snap.got.any (fun g => g.1 == snapTag e k 3 i) then some (tget [] v.snap.got (snapTag e k 3 i)) else none)
  (recs.foldl (fun (acc : Bool × State) r =>
    match acc.1, r.2 with
    | true, some b => if takeable acc.2 e k b then (true, takeRecord acc.2 e k (q + r.1) b) else (false, acc.2)
    | _, _ => (false, acc.2)) (true, s)).2

/-- Every read has returned: the records are taken, rings ascending. -/
def takeAll (s : State) (e : Nat) : State :=
  let s := (regRings s e).foldl (fun s k => takeRing s e k) s
  modSrv s e fun v => { v with snap := { v.snap with phase := 3, out := [], got := [] } }

/-- The export mark read is taken where it can be one (R345). -/
def takeMark (s : State) (e : Nat) : State :=
  match gotVal (srv s e) (snapTag e 0 1 0) with
  | some m => modSrv s e fun v => { v with mark := if v.mark ≤ m ∧ m ≤ v.exported then m else v.mark }
  | none => s

/-- Phase 1 is complete: HEAD words and the mark are taken, and the bodies of present records are read (R334). -/
def phase2 (s : State) (e : Nat) : State :=
  let s := (regRings s e).foldl (fun s k => takeHead s e k) s
  let s := takeMark s e
  let reads := (regRings s e).flatMap fun k =>
    let r := ring s e k
    (List.range (present (srv s e) e k r.nextR (intakeMax s e))).map fun i => (snapTag e k 3 i, subAddr r (r.nextR + i))
  if reads = [] then takeAll s e
  else
    let s := modSrv s e fun v => { v with snap := { v.snap with phase := 2, at_ := ttc s, out := reads.map (·.1) } }
    reads.foldl (fun s r => emit s (.hostRead r.1 (e + 1) r.2 256)) s

/-- The next phase begins when no read is outstanding. -/
def snapAdvance (s : State) (e : Nat) : State :=
  if (srv s e).snap.out ≠ [] then s
  else match (srv s e).snap.phase with | 1 => phase2 s e | 2 => takeAll s e | _ => s

/-- A read fails: absent, with 0x0B02 (R334). -/
def snapFail (s : State) (e t : Nat) : State :=
  let (k, kind, i) := tagParts t
  let s := modSrv s e fun v => { v with snap := { v.snap with out := v.snap.out.filter fun x => x != t } }
  raise0B02 s e k (if kind = 3 then 2 else 1) ((ring s e k).nextR + i)

/-- A read of the snapshot returns: its data, or an error (R334, R401). -/
def snapRead (s : State) (e t : Nat) (d : Option (List Byte)) : State :=
  if !(srv s e).snap.out.contains t then s
  else match d with
    | some b => snapAdvance (modSrv s e fun v => { v with snap := { v.snap with out := v.snap.out.filter (fun x => x != t), got := tput v.snap.got t b } }) e
    | none => snapAdvance (snapFail (bump s (bar (e + 1) 0x008) 0 16) e t) e

/-- A member reads its ring image in DRAM, at once (R409). -/
def imageSnap (s : State) (e : Nat) : State :=
  let got := (regRings s e).flatMap fun k =>
    let r := ring s e k
    let a := imageRing s e k
    (snapTag e k 0 0, readBytes s.mem a.2 8) :: (snapTag e 0 1 0, readBytes s.mem ((imageRing s e 0).2 - 8) 8) :: (List.range (intakeMax s e)).flatMap fun i =>
      let b := readBytes s.mem (a.1 + 256 * ((r.nextR + i) % max (subSize r) 1)) 256
      [(snapTag e k 2 i, b.take 8), (snapTag e k 3 i, b)]
  let s := modSrv s e fun v => { v with snap := { v.snap with got := got.foldl (fun t g => tput t g.1 g.2) [] } }
  let s := (regRings s e).foldl (fun s k => takeHead s e k) s
  takeAll (takeMark s e) e

/-- RING_HOLD (R340): 0x0B05 and vector 17 at the first step of a hold. -/
def holdRings (s : State) (e : Nat) : State :=
  let held := (regRings s e).filter fun k => ringHeld s e k
  let s := held.foldl (fun s k =>
    if (srv s e).heldPrev.contains k then s
    else msix (raiseSrv s e 0x0B05 0 [(0, 1, k), (4, 4, ringQ s e k), (8, 2, openOn s e k)]) (e + 1) 17) s
  let s := if held = [] then s else bump s (srvA e 0x038) 0 16
  modSrv s e fun v => { v with heldPrev := held }

/-- The snapshot's state as it begins: registrations are taken and the rings to hold are held (R340, R403). -/
def snapBegin (s : State) (e : Nat) : State :=
  holdRings (takeRegs (modSrv s e fun v => { v with snap := { phase := 1, step := stepNo s, at_ := ttc s } }) e) e

/-- The reads of phase 1 are outstanding and go out (R334). -/
def issueReads (s : State) (e : Nat) : State :=
  (phase1Reads s e).foldl (fun s r => emit s (.hostRead r.1 (e + 1) r.2.1 r.2.2))
    (modSrv s e fun v => { v with snap := { v.snap with out := (phase1Reads s e).map (·.1) } })

/-- The snapshot begins (R334). -/
def startSnap (s : State) (e : Nat) : State :=
  let s := snapBegin s e
  if podRole s = 2 then imageSnap s e
  else if !hostReach s (e + 1) then
    takeAll ((regRings s e).foldl (fun s k => raise0B02 s e k 1 (ring s e k).nextR) s) e
  else snapAdvance (issueReads s e) e

/-- INTAKE_SNAPSHOT (R334, R336): at phase 0 of INTAKE_OFS. A replay takes none: the voided step's records keep their
LSNs and go to the twin again (R34). -/
def execIntakeSnapshot (e : Fin 16) (s : State) : Host.Outcome State Fault Refusal :=
  .next (whenAt s 0 fun s =>
    let v := srv s e.val
    if !planOn s || frameTick s != rf s (srvA e.val 0x008) 41 23 || (v.snap.phase != 0 && v.snap.step == stepNo s) then s
    else if s.vote.replay then
      (v.snap.reqs).foldl (fun s t => mirror s (8 * t.lsn) e.val (entryBytes t)) (modSrv s e.val fun v => { v with snap := { v.snap with phase := 3, step := stepNo s } })
    else startSnap s e.val)

/-- SNAPSHOT_READ_TIMEOUT (R334): INTAKE_SPAN / 4 after their issue, the reads still outstanding count as absent. -/
def execSnapshotReadTimeout (e : Fin 16) (s : State) : Host.Outcome State Fault Refusal :=
  .next (
    let n := (srv s e.val).snap
    if n.out = [] ∨ ttc s < n.at_ + rf s (srvA e.val 0x018) 41 23 / 4 then s
    else snapAdvance (n.out.foldl (fun s t => snapFail s e.val t) s) e.val)

/-! ### Posting (R339, R400, R410) -/

/-- A relay message on the first link of its route (Table 15-6A). -/
def sendRelay (s : State) (type b1 dest e k seq addr payload : Nat) : State :=
  let n := pack [(0, 8, type), (8, 8, b1), (16, 16, myIx s), (32, 16, dest), (48, 8, e), (56, 8, k), (64, 64, seq), (128, 64, addr), (256, 1792, payload)]
  match tget [] s.routes dest with
  | l :: _ => sendMgmt s l 3 2 [BitVec.ofNat 1024 n, BitVec.ofNat 1024 (n / 2 ^ 1024)]
  | [] => s

/-- HST_POD_CFG.LEAD. -/
def podLead (s : State) : Nat := rf s (bar 0 0x100) 32 13

/-- A word of 8 bytes goes to the host, or to the lead (R410). -/
def postWord (s : State) (e k kind addr v : Nat) : State :=
  if podRole s = 2 then sendRelay s 0x22 kind (podLead s) e k 0 addr v else hostWrite s (e + 1) addr (leBytes 8 v)

/-- The records of a ring's queue below HEAD + SIZE (R339). -/
def postable (s : State) (e k : Nat) : List (Nat × BitVec 512) :=
  (ring s e k).queue.takeWhile fun q => decide (q.1 < (ring s e k).head + cmpSize (ring s e k))

/-- Records are written to a completion ring: bytes 8 to 63, then VALID (R339); a member relays each in a message. -/
def writeRecs (s : State) (e k : Nat) (l : List (Nat × BitVec 512)) : State :=
  let r := ring s e k
  let slot (q : Nat) : Nat := r.cmp + 64 * (q % max (cmpSize r) 1)
  if podRole s = 2 then l.foldl (fun s q => sendRelay s 0x21 1 (podLead s) e k q.1 (slot q.1) q.2.toNat) s
  else l.foldl (fun s q => hostWrite (hostWrite s (e + 1) (slot q.1 + 8) ((leBytes 64 q.2.toNat).drop 8)) (e + 1) (slot q.1) ((leBytes 64 q.2.toNat).take 8)) s

/-- The records of a ring below HEAD + SIZE are written and leave its queue (R339). -/
def postRing (s : State) (e k : Nat) : State :=
  let go := postable s e k
  let s := writeRecs s e k go
  let s := modRing s e k fun r => { r with queue := r.queue.drop go.length, posted := match go.getLast? with | some q => q.1 + 1 | none => r.posted }
  let s := modSrv s e fun v => { v with posts := v.posts ++ go.map fun q => (k, 0, q.1, q.2) }
  if go = [] ∨ podRole s = 2 then s else msix s (e + 1) k

/-- Ledger units below the committed count go to the export range: the mark word first, then units in a circle (log entry
13). -/
def postExport (s : State) (e : Nat) : State :=
  match exportRange s e with
  | none => s
  | some r =>
    let v := srv s e
    let cap := 64 * fld r.cfg 0 36 - 1
    let n := min (v.units - v.exported) (cap - (v.exported - v.mark))
    let base := (tget (0, 0) s.ranges (5 * 65536 + e)).1
    let s := forN n s fun i s =>
      let u := v.exported + i
      let b := readBytes s.mem (base + 64 * (u % max (ledgerCap s e) 1)) 64
      let a := r.base + 64 * (1 + u % max cap 1)
      if podRole s = 2 then sendRelay s 0x21 1 (podLead s) e 0 u a (leNat b) else hostWrite s (e + 1) a b
    modSrv s e fun v => { v with exported := v.exported + n, posts := v.posts ++ (List.range n).map fun i => (0, 2, v.exported + i, 0) }

/-- POSTING (R339): records ring by ring, consumed words, export units. Where the device may not write, nothing leaves,
with 0x0B03 (R397, R399). -/
def execPosting (e : Fin 16) (s : State) : Host.Outcome State Fault Refusal :=
  .next (whenAt s 0 fun s =>
    if !planOn s || frameTick s != rf s (srvA e.val 0x008) 18 23 then s
    else
      let s := modSrv s e.val fun v => { v with posts := [] }
      if podRole s ≠ 2 ∧ !hostReach s (e.val + 1) then
        match regRings s e.val with
        | k :: _ => raiseSrv s e.val 0x0B03 1 [(0, 1, k), (1, 1, if (ring s e.val k).queue = [] then 1 else 0), (8, 8, ((ring s e.val k).queue.headD (0, 0)).1)]
        | [] => s
      else
        let s := (regRings s e.val).foldl (fun s k => postRing s e.val k) s
        let s := (regRings s e.val).foldl (fun s k => modSrv (postWord s e.val k 1 (ring s e.val k).consA (ring s e.val k).nextR) e.val fun v => { v with posts := v.posts ++ [(k, 1, 0, 0)] }) s
        let s := postExport s e.val
        if (srv s e.val).regPost then msix (modSrv s e.val fun v => { v with regPost := false }) (e.val + 1) 17 else s)

/-- POSTING_TIMEOUT (R339): the writes after the first `n` did not complete within POST_SPAN and are made again at the
next posting. -/
def execPostingTimeout (e : Fin 16) (n : Nat) (s : State) : Host.Outcome State Fault Refusal :=
  .next (
    let lost := (srv s e.val).posts.drop n
    match lost with
    | [] => s
    | (k, kind, q, _) :: _ =>
      if !planOn s || frameTick s < rf s (srvA e.val 0x008) 18 23 + rf s (srvA e.val 0x018) 18 23 then s
      else
        let s := lost.reverse.foldl (fun s w =>
          match w.2.1 with
          | 0 => modRing s e.val w.1 fun r => { r with queue := (w.2.2.1, w.2.2.2) :: r.queue, posted := w.2.2.1 }
          | 2 => modSrv s e.val fun v => { v with exported := min v.exported w.2.2.1 }
          | _ => s) s
        raiseSrv (modSrv s e.val fun v => { v with posts := [] }) e.val 0x0B03 1 [(0, 1, k), (1, 1, kind), (8, 8, q)])

end Sys2Proof.Machine
end

