-- ==== Sys2Proof/Machine/Requests.lean ====
section
/-!
DEFINITION. Machine/Requests.lean: the requests of Table 13-6 as the gaffers execute them (R347, R351), cullet handles
(R353 to R356), frits (R357 to R363) and sampling (R364). Effects are pending until the step commits (R32).
-/
namespace Sys2Proof.Machine
open Sys2Proof

/-! ### Pane tables and change lists (R236 to R239, R347) -/

/-- A stream's pane-table entry as the step's requests have amended it. -/
def paneNow (s : State) (e z i : Nat) : Nat :=
  match (srv s e).panes.reverse.find? fun p => p.1 == z && p.2.1 == i with
  | some p => p.2.2
  | none => paneEntry s z i

/-- A gaffer's store of n bytes in a row, as the marver makes it: the row is read, and written back whole (R185, R186). A
resident row is not written, and records 0x050A (R200). -/
def storeRow (s : State) (c row lo n v : Nat) : State :=
  let x := if auditRow s c row then (0, s) else readChecked s c row
  putRow x.2 c row 8 (rowSet x.1 (8 * lo) (8 * n) v) 255 61

/-- A core's list is begun: its gaffer stores COUNT 0 (R199, R238). -/
def listBegin (s : State) (c : Nat) : State := storeRow s c (rf s (bauA (siteOf c) (0x020 + 8 * (c % 5))) 32 16) 0 4 0

/-- A 16-byte record joins a core's pane change list (R238), by stores of the core's gaffer. The first of a step starts the
list. -/
def listAppend (s : State) (c : Nat) (r : Nat) : State :=
  let base := rf s (bauA (siteOf c) (0x020 + 8 * (c % 5))) 32 16
  let n := if s.listed.contains c then leNat (readBytes s.mem (rowAddr c base) 4) else 0
  let s := storeRow s c (base + 1 + n / 8) (16 * (n % 8)) 16 r
  let s := storeRow s c base 0 4 (n + 1)
  { s with listed := if s.listed.contains c then s.listed else s.listed ++ [c] }

/-- A pane change record (Table 9-2) on a core's list, with the entry it leaves: op 1 SET, 2 FREEZE, 3 REMOVE,
4 FREE_FROZEN. -/
def listPane (s : State) (e c z i op ent : Nat) : State :=
  let after := match op with | 1 => ent | 2 => setFld ent 60 1 1 | 3 => 7 * 2 ^ 61 | _ => ent
  let s := listAppend s c (pack [(0, 16, z), (16, 16, i), (32, 8, op), (64, 64, ent)])
  if op = 4 then s else modSrv s e fun v => { v with panes := v.panes ++ [(z, i, after)] }

/-- A pane of stream z gets storage that the gaffer chooses, not frozen (R252, R254). -/
def listNew (s : State) (e c z i : Nat) : State :=
  let x := freshFree s
  listPane x.2 e c z i 1 (setFld (setFld (Config.newPane x.1).toNat 60 1 0) 0 13 z)

/-- What the stream's gaffer lists for the positions [a, b) that the step appends: SET for a pane without storage (R252), and
REMOVE and SET for a last pane that is frozen and partial, whose copy the appends go to (R254). -/
def listPositions (s : State) (e z a b : Nat) : State :=
  let c := tget 0 s.home z - 1
  if b ≤ a then s
  else forN (cdiv b 256 - a / 256) s fun k s =>
    let i := a / 256 + k
    let ent := paneNow s e z i
    if fld ent 61 3 = 7 then listNew s e c z i
    else if bitAt ent 60 then listNew (listPane s e c z i 3 ent) e c z i
    else s

/-! ### Answers (Table 13-3) -/

/-- A completion record without VALID and STEP, which commit gives. -/
def complRec (type flags status stream kind ring lsn cookie result : Nat) : Nat :=
  pack [(64, 8, type), (72, 8, flags), (80, 16, status), (96, 16, stream), (112, 8, kind), (120, 8, ring), (128, 64, lsn), (192, 64, cookie), (320, 192, result)]

/-- A DONE record of a request. -/
def doneRec (t : Taken) (status result : Nat) : Nat × Nat × Nat :=
  (t.lsn, t.ring, complRec 2 0 status (recNat t.rec_ 10 2) (recNat t.rec_ 8 1) t.ring t.lsn (recNat t.rec_ 16 8) result)

/-- The request completes with a DONE of the status and result. -/
def answer (s : State) (e : Nat) (t : Taken) (status result : Nat) : State :=
  modSrv s e fun v => { v with dones := v.dones ++ [doneRec t status result] }

/-- A request that completes later answers with its own kind, ring and cookie. -/
def answerLater (s : State) (e stream kind ring lsn cookie status result : Nat) : State :=
  modSrv s e fun v => { v with dones := v.dones ++ [(lsn, ring, complRec 2 0 status stream kind ring lsn cookie result)] }

/-- The first failing check's status. -/
def firstFail : List (Bool × Nat) → Option Nat
  | [] => none
  | (ok, code) :: t => if ok then firstFail t else some code

/-- An accepted request is executed in its step, after every earlier one of its gaffer (R347): a failed check answers
with its status and has no effect (R351). -/
def request (s : State) (e lsn kind : Nat) (checks : State → Taken → List (Bool × Nat)) (f : State → Taken → State) : State :=
  let v := srv s e
  match v.c.todo.find? fun t => t.lsn == lsn && recNat t.rec_ 8 1 == kind && !v.executed.contains lsn with
  | none => s
  | some t =>
    if !planOn s || inCommit s || (v.c.todo.takeWhile (fun x => x.lsn != lsn)).any fun x => x.core == t.core && !v.executed.contains x.lsn then s
    else
      let s := modSrv s e fun v => { v with executed := v.executed ++ [lsn] }
      match firstFail (checks s t) with
      | some code => answer s e t code 0
      | none => f s t

/-- A field of the request's record. -/
def arg (t : Taken) (off n : Nat) : Nat := recNat t.rec_ off n
/-- The stream of a request. -/
def zOf (t : Taken) : Nat := arg t 10 2

/-! ### Cullet handles (R353 to R356) -/

/-- TAG of a handle for a tenant (R353). -/
def handleTag (s : State) (e ix gen tenant : Nat) : Nat :=
  leNat ((kmac256 (tget [] s.envKeys e) (leBytes 4 ix ++ leBytes 4 gen ++ leBytes 4 tenant) "DP2 cullet").take 8)
/-- HANDLE_FIRST. -/
def handleFirst (s : State) (e : Nat) : Nat := rf s (srvA e 0x010) 31 16
/-- HANDLE_COUNT. -/
def handleCount (s : State) (e : Nat) : Nat := rf s (srvA e 0x010) 47 17

/-- A handle of 16 bytes is valid for a tenant (R355): in committed state, and for the lead core not ended by an earlier
request of its group. -/
def handleValid (s : State) (e h tenant : Nat) (lead : Bool) : Bool :=
  let ix := fld h 0 32
  let x := tget {} (srv s e).c.handles ix
  decide (handleFirst s e ≤ ix ∧ ix < handleFirst s e + handleCount s e) && x.live && !x.ended && fld h 32 32 == x.gen &&
  fld h 64 64 == handleTag s e ix x.gen tenant && !(lead && (tget {} (srv s e).p.handles ix).ended)

/-- The state with a pending handle changed. -/
def modHandle (s : State) (e ix : Nat) (f : Handle → Handle) : State :=
  modSrv s e fun v => { v with p := { v.p with handles := tset {} v.p.handles ix (f (tget {} v.p.handles ix)) } }
/-- One user fewer of a handle. -/
def dropUser (s : State) (e ix : Nat) : State := modHandle s e ix fun h => { h with users := h.users - 1 }

/-- The stream drops its uses: of the handle it maps and of those it keeps (R354, R356). -/
def dropUses (s : State) (e z : Nat) : State :=
  let s := if bitAt (pword s z 1) 8 then pendFld (dropUser s e (pword s z 10 / 2 ^ 16)) z 1 8 1 0 else s
  ((srv s e).p.handles.filter fun h => h.2.live && h.2.keeper == z && h.2.keeperIn).foldl (fun s h =>
    modHandle s e h.1 fun x => { x with users := x.users - 1, keeperIn := false }) s

/-- The share of the envelope's handle range of a core (R331). -/
def handleShare (s : State) (e c : Nat) : List Nat :=
  let cs := envCores s e
  let n := handleCount s e / max cs.length 1
  let i := (cs.takeWhile fun k => k != c).length
  let hi := if i + 1 = cs.length then handleCount s e else (i + 1) * n
  (List.range (hi - i * n)).map fun k => handleFirst s e + i * n + k

/-! ### Frits (R357 to R363) -/

/-- A frit slot of the envelope with its number, by a test, in a serving state. -/
def fritFind (c : SrvC) (f : Frit → Bool) : Option (Nat × Frit) := c.frits.find? fun x => x.2.st != 0 && f x.2
/-- The family has a slot. -/
def familyIn (c : SrvC) (f : Nat) : Bool := (fritFind c fun x => x.family == f).isSome
/-- The committed default slot of a family. -/
def defaultSlot (c : SrvC) (f : Nat) : Option Nat := (fritFind c fun x => x.family == f && x.dflt).map (·.1)
/-- A committed reference count moves by a delta at commit (R169, R358). -/
def fritRef (s : State) (k : Nat) (d : Int) : State := { s with fritDelta := tset 0 s.fritDelta k (tget 0 s.fritDelta k + d) }
/-- The state with a pending frit slot set. -/
def setFrit (s : State) (e k : Nat) (f : Frit) : State := modSrv s e fun v => { v with p := { v.p with frits := tset {} v.p.frits k f } }

/-! ### OPEN, APPEND, SET (R351) -/

/-- An FP32 in (0, 1]. -/
def topPGood (x : Nat) : Bool := let v := val32 (BitVec.ofNat 32 x); v.isFin && (FV.fin false 0 0).lt v && !(FV.fin false 1 0).lt v
/-- An FP32 that is finite and not below 0. -/
def tempGood (x : Nat) : Bool := let v := val32 (BitVec.ofNat 32 x); v.isFin && !v.lt (.fin false 0 0)
/-- The record's bytes from an offset on, and FLAGS beyond a mask, are 0. -/
def restZero (t : Taken) (flags from_ : Nat) : Bool := arg t 9 1 / flags == 0 && (t.rec_.drop from_).all (· == 0)

/-- The slot an OPEN binds, or the status it fails with (R360). -/
def openFrit (s : State) (e : Nat) (t : Taken) : Option Nat × Nat :=
  let c := (srv s e).c
  let f := arg t 28 4
  if f = 0 then (some 0x1FFF, 0)
  else if !familyIn c f then (none, 0x0B07)
  else if c.retired.contains f then (none, 0x0B14)
  else match (if arg t 32 4 = 0 then defaultSlot c f else (fritFind c fun x => x.family == f && x.st == 2 && x.version == arg t 32 4).map (·.1)) with
    | some k => (some k, 0)
    | none => (none, 0x0B08)

/-- OPEN (R351, R355, R360). -/
def execOpen (e : Fin 16) (lsn : BitVec 64) (modelOk : Bool) (s : State) : Host.Outcome State Fault Refusal :=
  .next (request s e.val lsn.toNat 1
    (fun s t => [
      (pState s (zOf t) == 0 && (srv s e.val).p.handles.all fun h => !(h.2.live && h.2.keeper == zOf t), 0x0B04),
      (modelOk, 0x0B06),
      (decide (arg t 25 1 ≤ 1 ∧ arg t 26 1 ≤ 15 ∧ arg t 27 1 ≤ 8 ∧ arg t 38 1 ≤ 1) && topPGood (arg t 48 4) && tempGood (arg t 52 4) &&
        arg t 39 1 == 0 && restZero t 1 72, 0x0B02),
      ((openFrit s e.val t).1.isSome, (openFrit s e.val t).2),
      (arg t 56 16 == 0 || handleValid s e.val (arg t 56 16) (arg t 12 4) false, 0x0B0C),
      (arg t 56 16 == 0 || (tget {} (srv s e.val).c.handles (arg t 56 4)).model == arg t 24 1, 0x0B0D)])
    fun s t =>
      let z := zOf t
      let k := ((openFrit s e.val t).1).getD 0x1FFF
      let maps := arg t 56 16 != 0
      let ix := arg t 56 4
      let h := tget {} (srv s e.val).c.handles ix
      let len := if maps then h.len else 0
      let ws : List Nat := [pack [(28, 4, 1), (20, 8, arg t 24 1), (16, 4, arg t 26 1), (15, 1, arg t 25 1), (13, 1, arg t 38 1), (9, 4, arg t 27 1), (8, 1, b2n maps)],
        len, k, arg t 28 4, arg t 40 4, arg t 44 4, arg t 48 4, arg t 52 4, 0, (if maps then ix % 2 ^ 16 * 2 ^ 16 else 0) + arg t 36 2, 0]
      let s := ws.zipIdx.foldl (fun s w => pendWord s z (1 + w.2) w.1) s
      let s := if k = 0x1FFF then s else fritRef s k 1
      let s := if maps then
          h.panes.zipIdx.foldl (fun s p => listPane s e.val t.core z p.2 1 p.1.toNat) (modHandle s e.val ix fun x => { x with users := x.users + 1 })
        else s
      let s := modSrv s e.val fun v => { v with p := { v.p with gens := tset {} v.p.gens z {} } }
      answer s e.val t 0 (pack [(0, 16, k), (32, 32, (tget {} (srv s e.val).c.frits k).version), (64, 32, len)]))

/-- The stream is open, as the group has amended it. -/
def isOpen (s : State) (t : Taken) : Bool × Nat := (pState s (zOf t) != 0, 0x0B05)

/-- APPEND (R348, R351, R361): a generation in progress ends; a floating stream moves to its family's committed default.
Its DONE follows its last position. -/
def execAppend (e : Fin 16) (lsn : BitVec 64) (room : Option (BitVec 24)) (s : State) : Host.Outcome State Fault Refusal :=
  .next (request s e.val lsn.toNat 2
    (fun s t => [
      isOpen s t,
      (decide (1 ≤ arg t 24 4) && (bitAt (arg t 9 1) 1 || decide (arg t 24 4 ≤ 56)) && arg t 28 4 == 0 &&
        restZero t 4 (if bitAt (arg t 9 1) 1 then 40 else 32 + 4 * arg t 24 4), 0x0B02),
      (decide (pword s (zOf t) 2 + pword s (zOf t) 9 + arg t 24 4 ≤ maxPos s e.val), 0x0B11)])
    fun s t =>
      let z := zOf t
      let n := arg t 24 4
      let first := pword s z 2 + pword s z 9
      let s := pendWord (pendWord (pendFld (pendFld s z 1 28 4 2) z 1 14 1 (arg t 9 1 % 2)) z 9 (pword s z 9 + n)) z 11 0
      let c := (srv s e.val).c
      let s := if bitAt (pword s z 1) 15 && pword s z 4 != 0 && !c.retired.contains (pword s z 4) then
          match defaultSlot c (pword s z 4) with
          | some k => if k = pword s z 3 then s else pendWord (fritRef (fritRef s (pword s z 3) (-1)) k 1) z 3 k
          | none => s
        else s
      modSrv s e.val fun v => { v with p := { v.p with
        apps := v.p.apps ++ [{ stream := z, lsn := t.lsn, ring := t.ring, cookie := arg t 16 8, first := first, count := n, room := room.map (·.toNat) }]
        gens := tset {} v.p.gens z { lsn := t.lsn, ring := t.ring, cookie := arg t 16 8 } } })

/-- Word, low bit, width of a SET field, and the VALUE it admits (Table 13-2). -/
def setField : Nat → Option (Nat × Nat × Nat × (Nat → Bool))
  | 1 => some (1, 9, 4, fun v => decide (v ≤ 8))
  | 2 => some (7, 0, 32, fun v => decide (v < 2 ^ 32) && topPGood v)
  | 3 => some (8, 0, 32, fun v => decide (v < 2 ^ 32) && tempGood v)
  | 4 => some (10, 0, 16, fun v => decide (v < 2 ^ 16))
  | 5 => some (1, 16, 4, fun v => decide (v ≤ 15))
  | 6 => some (1, 15, 1, fun v => decide (v ≤ 1))
  | 7 => some (1, 13, 1, fun v => decide (v ≤ 1))
  | _ => none

/-- SET (R351): one field changes; the DONE carries its previous value. -/
def execSet (e : Fin 16) (lsn : BitVec 64) (s : State) : Host.Outcome State Fault Refusal :=
  .next (request s e.val lsn.toNat 3
    (fun s t => [isOpen s t,
      ((match setField (arg t 24 1) with | some f => f.2.2.2 (arg t 32 8) | none => false) && arg t 25 7 == 0 && restZero t 1 40, 0x0B02)])
    fun s t => match setField (arg t 24 1) with
      | some (w, lo, n, _) => answer (pendFld s (zOf t) w lo n (arg t 32 8)) e.val t 0 (fld (pword s (zOf t) w) lo n)
      | none => s)

/-! ### KEEP, RELEASE, TRIM, CLOSE (R351, R354, R356) -/

/-- The lowest free index of the core's share. -/
def freeHandle (s : State) (e c : Nat) : Option Nat := (handleShare s e c).find? fun i => !(tget {} (srv s e).p.handles i).live

/-- KEEP (R354). -/
def execKeep (e : Fin 16) (lsn : BitVec 64) (s : State) : Host.Outcome State Fault Refusal :=
  .next (request s e.val lsn.toNat 4
    (fun s t => [isOpen s t, (decide (1 ≤ arg t 24 4 ∧ arg t 24 4 ≤ pword s (zOf t) 2), 0x0B0F), ((freeHandle s e.val t.core).isSome, 0x0B0E)])
    fun s t =>
      let z := zOf t
      let ix := (freeHandle s e.val t.core).getD 0
      let g := (tget {} (srv s e.val).p.handles ix).gen
      let gen := if g + 1 < 2 ^ 32 then g + 1 else 1
      let ents := (List.range (cdiv (arg t 24 4) 256)).map fun i => paneNow s e.val z i
      let frozen (x : Nat) : BitVec 64 := BitVec.ofNat 64 (setFld x 60 1 1)
      let own := (ents.filter fun x => fld x 60 1 == 0 && fld x 61 3 != 7).map frozen
      let uses := ((srv s e.val).p.handles.filter fun h => h.2.live && ents.any fun x => fld x 60 1 == 1 && h.2.own.contains (frozen x)).map (·.1)
      let s := ents.zipIdx.foldl (fun s p => if fld p.1 60 1 = 0 ∧ fld p.1 61 3 ≠ 7 then listPane s e.val t.core z p.2 2 p.1 else s) s
      let s := uses.foldl (fun s h => modHandle s e.val h fun x => { x with users := x.users + 1 }) s
      let s := modHandle s e.val ix fun _ =>
        { gen := gen, live := true, keeper := z, keeperIn := true, len := arg t 24 4, model := fld (pword s z 1) 20 8, panes := ents.map frozen, own := own,
          uses := uses, users := 1, expiry := if arg t 28 4 = 0 then none else some (stepNo s + arg t 28 4) }
      answer s e.val t 0 (pack [(0, 32, ix), (32, 32, gen), (64, 64, handleTag s e.val ix gen (arg t 12 4)), (128, 32, arg t 24 4)]))

/-- RELEASE (R356). -/
def execRelease (e : Fin 16) (lsn : BitVec 64) (s : State) : Host.Outcome State Fault Refusal :=
  .next (request s e.val lsn.toNat 5 (fun s t => [(handleValid s e.val (arg t 24 16) (arg t 12 4) true, 0x0B0C)])
    fun s t => answer (modHandle s e.val (arg t 24 4) fun h => { h with ended := true }) e.val t 0 (tget {} (srv s e.val).c.handles (arg t 24 4)).users)

/-- Unfinished APPENDs of a stream with positions at or beyond a position are discarded with 0x0B13 (R351). -/
def discardApps (s : State) (e z pos : Nat) : State :=
  let (gone, rest) := (srv s e).p.apps.partition fun a => a.stream == z && decide (pos < a.first + a.count)
  gone.foldl (fun s a => answerLater s e z 2 a.ring a.lsn a.cookie 0x0B13 0) (modSrv s e fun v => { v with p := { v.p with apps := rest } })

/-- REMOVE for every entry from a pane on whose LOC is not 7 (R253). -/
def removeFrom (s : State) (e c z from_ : Nat) : State :=
  forN (cdiv (pword s z 2) 256 - from_) s fun k s =>
    let ent := paneNow s e z (from_ + k)
    if fld ent 61 3 = 7 then s else listPane s e c z (from_ + k) 3 ent

/-- TRIM (R253, R351): queued input and positions from POSITION on are discarded; the generation ends. -/
def execTrim (e : Fin 16) (lsn : BitVec 64) (s : State) : Host.Outcome State Fault Refusal :=
  .next (request s e.val lsn.toNat 6
    (fun s t => [isOpen s t, (decide (arg t 24 4 ≤ pword s (zOf t) 2 + pword s (zOf t) 9), 0x0B10)])
    fun s t =>
      let z := zOf t
      let p := arg t 24 4
      let len := pword s z 2
      let s := discardApps s e.val z p
      let s := removeFrom s e.val t.core z (cdiv p 256)
      let s := if p = 0 then dropUses s e.val z else s
      let s := pendWord (pendWord s z 2 (min len p)) z 9 (p - len)
      let s := pendFld (pendFld s z 1 14 1 0) z 1 28 4 (if len < p then 2 else 1)
      let s := modSrv s e.val fun v => { v with p := { v.p with gens := tset {} v.p.gens z {} } }
      answer s e.val t 0 (min len p))

/-- CLOSE (R351). -/
def execClose (e : Fin 16) (lsn : BitVec 64) (s : State) : Host.Outcome State Fault Refusal :=
  .next (request s e.val lsn.toNat 7 (fun s t => [isOpen s t])
    fun s t =>
      let z := zOf t
      let len := pword s z 2
      let s := discardApps s e.val z 0
      let s := removeFrom s e.val t.core z 0
      let s := if pword s z 4 = 0 then s else fritRef s (pword s z 3) (-1)
      let s := dropUses s e.val z
      let s := pendWord (pendFld s z 1 28 4 0) z 9 0
      let s := modSrv s e.val fun v => { v with p := { v.p with gens := tset {} v.p.gens z {} } }
      answer s e.val t 0 len)

/-! ### FRIT_LOAD, FRIT_REPLACE, FRIT_RETIRE (R357 to R363) -/

/-- The lowest frit slot that is FREE in committed state and not taken by an earlier request. -/
def freeFrit (s : State) (e : Nat) : Option Nat :=
  ((List.range (rf s (srvA e 0x000) 24 13)).map (· + rf s (srvA e 0x000) 12 12)).find? fun k =>
    (tget {} (srv s e).c.frits k).st == 0 && (tget {} (srv s e).p.frits k).st == 0

/-- The fields of a load are good: identity and version not 0, unused bytes 0. -/
def fritFields (t : Taken) : Bool :=
  arg t 24 4 != 0 && arg t 28 4 != 0 && arg t 33 7 == 0 && arg t 52 4 == 0 && restZero t 1 72

/-- A slot begins LOADING (R359). -/
def startFrit (s : State) (e : Nat) (t : Taken) (addr : Nat) : State :=
  match freeFrit s e with
  | some k => setFrit s e k { st := 1, family := arg t 24 4, version := arg t 28 4, lsn := t.lsn, ring := t.ring, cookie := arg t 16 8, kind := arg t 8 1,
                              addr := addr, bytes := arg t 48 4, digest := arg t 56 16 }
  | none => s

/-- FRIT_LOAD (R351, R359): its DONE follows residency. -/
def execFritLoad (e : Fin 16) (lsn : BitVec 64) (modelOk : Bool) (slotBytes : BitVec 32) (addr : BitVec 48) (s : State) : Host.Outcome State Fault Refusal :=
  .next (request s e.val lsn.toNat 0x10
    (fun s t => [(!familyIn (srv s e.val).p (arg t 24 4), 0x0B0A), (modelOk, 0x0B06), (decide (arg t 48 4 ≤ slotBytes.toNat) && fritFields t, 0x0B02),
      ((freeFrit s e.val).isSome, 0x0B09)])
    fun s t => startFrit s e.val t addr.toNat)

/-- FRIT_REPLACE (R351, R359): a version above every version of the family. -/
def execFritReplace (e : Fin 16) (lsn : BitVec 64) (modelOk : Bool) (slotBytes : BitVec 32) (addr : BitVec 48) (s : State) : Host.Outcome State Fault Refusal :=
  .next (request s e.val lsn.toNat 0x11
    (fun s t => [(familyIn (srv s e.val).p (arg t 24 4), 0x0B07), (!(srv s e.val).p.retired.contains (arg t 24 4), 0x0B14),
      ((fritFind (srv s e.val).p fun x => x.family == arg t 24 4 && decide (arg t 28 4 ≤ x.version)).isNone, 0x0B08), (modelOk, 0x0B06),
      (decide (arg t 48 4 ≤ slotBytes.toNat) && fritFields t, 0x0B02), ((freeFrit s e.val).isSome, 0x0B09)])
    fun s t => startFrit s e.val t addr.toNat)

/-- FRIT_RETIRE (R363): the default ends, LOADING slots become FREE and their loads answer 0x0B14. -/
def execFritRetire (e : Fin 16) (lsn : BitVec 64) (s : State) : Host.Outcome State Fault Refusal :=
  .next (request s e.val lsn.toNat 0x12 (fun s t => [(familyIn (srv s e.val).p (arg t 24 4), 0x0B07)])
    fun s t =>
      let f := arg t 24 4
      let mine := (srv s e.val).p.frits.filter fun x => x.2.st != 0 && x.2.family == f
      let s := mine.foldl (fun s x =>
        if x.2.st = 1 then answerLater (setFrit s e.val x.1 {}) e.val 0xFFFF x.2.kind x.2.ring x.2.lsn x.2.cookie 0x0B14 0
        else setFrit s e.val x.1 { x.2 with dflt := false }) s
      let s := modSrv s e.val fun v => { v with p := { v.p with retired := (v.p.retired ++ [f]).eraseDups } }
      answer s e.val t 0 ((mine.map fun x => (tget 0 s.fritRefs x.1).toNat).foldl (· + ·) 0))

/-! ### QUERY -/

/-- QUERY (Table 13-6). -/
def execQuery (e : Fin 16) (lsn : BitVec 64) (s : State) : Host.Outcome State Fault Refusal :=
  .next (request s e.val lsn.toNat 0x20
    (fun s t => [(decide (1 ≤ arg t 24 1 ∧ arg t 24 1 ≤ 4), 0x0B15), (arg t 24 1 != 3 || handleValid s e.val (arg t 32 16) (arg t 12 4) true, 0x0B0C)])
    fun s t =>
      let z := zOf t
      let c := (srv s e.val).c
      match arg t 24 1 with
      | 1 => answer s e.val t 0 (pack [(0, 8, pState s z), (16, 16, pword s z 3), (32, 32, pword s z 2), (64, 32, pword s z 9), (96, 32, pword s z 11)])
      | 2 =>
        let l := (srv s e.val).p.frits.filter fun x => x.2.st == 2 && x.2.family == arg t 28 4
        let d := (l.find? fun x => x.2.dflt).elim 0 fun x => x.2.version
        answer s e.val t 0 (pack [(0, 32, d), (32, 16, l.length), (64, 32, (l.map fun x => (tget 0 s.fritRefs x.1).toNat).foldl (· + ·) 0)])
      | 3 =>
        let h := tget {} c.handles (arg t 32 4)
        answer s e.val t 0 (pack [(0, 32, h.len), (32, 32, h.users), (64, 48, h.expiry.getD 0)])
      | _ => answer s e.val t 0 (pack [(0, 64, (srv s e.val).nextLsn + 2 ^ 63 * rf s 0x020000015000 40 1), (64, 32, freeUnits s e.val)]))

/-! ### Sampling (R348, R349, R364) -/

/-- The token of position P (R364): logits times 1/TEMP, TOPK, one uniform, SAMPLE. Answers the token and the chosen
value. -/
def drawToken (seed z e p temp topk topP : Nat) (logits : List W32) : Nat × W32 :=
  let t := BitVec.ofNat 32 temp
  let zero := (val32 t).isZero
  let scaled := if zero then logits else logits.map fun l => fmul l (frecip t)
  let k := if zero then 1 else 2 ^ topk
  let best := topBest k logits.length fun i => scaled.getD i 0
  let entry := pack [(0, 64, seed), (64, 16, z), (80, 8, e), (96, 24, p)]
  let c := best.getD (sampleIx (best.map (·.1)) (uniformOf (rngDraw entry 1 0)) (BitVec.ofNat 32 topP)) (0, 0)
  (c.2, c.1)

/-- A TOKEN record of a stream: with END and its reason (Table 13-3). -/
def tokenRec (s : State) (e z pos tok val reason : Nat) : State :=
  let g := tget {} (srv s e).p.gens z
  let k := fld (pword s z 1) 16 4
  let flags := if reason = 0 then 0 else 2 + 4 * reason
  modSrv s e fun v =>
    { v with toks := v.toks ++ [(z, k, complRec 3 flags 0 z 0 0xFF g.lsn g.cookie (pack [(0, 32, pos), (32, 32, tok), (64, 32, val)]))],
             p := { v.p with gens := tset {} v.p.gens z { g with drawn := true, pos := pos, tok := tok, val := val } } }

/-- Draw the token of position P, post it and end the generation where R349 says. -/
def sampleAt (s : State) (e z p : Nat) (logits : List W32) (stops : List (BitVec 32)) : State :=
  let w1 := pword s z 1
  let r := drawToken (pword s z 5 + 2 ^ 32 * pword s z 6) z e p (pword s z 8) (fld w1 9 4) (pword s z 7) logits
  let n := pword s z 11 + 1
  let maxNew := fld (pword s z 10) 0 16
  let reason := if bitAt w1 13 && stops.contains (BitVec.ofNat 32 r.1) then 1 else if maxNew ≠ 0 ∧ maxNew ≤ n then 2 else if maxPos s e ≤ p then 3 else 0
  let s := pendWord s z 11 n
  let s := tokenRec s e z p r.1 r.2.toNat reason
  if reason = 0 then s
  else if pState s z = 3 then pendFld (pendFld s z 1 14 1 0) z 1 28 4 1 else pendFld s z 1 14 1 0

/-- TOKEN_SAMPLE (R348, R349, R364): in DECODE the last token takes its position and the next is drawn; at the end of
prefill the first is drawn. A held stream draws nothing (R340, R385); without a free pane slot the generation ends with
the last token again. -/
def execTokenSample (e : Fin 16) (z : BitVec 13) (logits stops : List (BitVec 32)) (noPane : Bool) (s : State) : Host.Outcome State Fault Refusal :=
  .next (
    let z := z.toNat
    let v := srv s e.val
    let once := v.toks.any fun t => t.1 == z
    if !planOn s || inCommit s || !ownsStream s e.val z || once || ringHeld s e.val (fld (pword s z 1) 16 4) || s.heldStreams.contains z then s
    else
      let g := tget {} v.p.gens z
      let len := pword s z 2
      match pState s z with
      | 3 =>
        if !g.drawn then sampleAt s e.val z len logits stops
        else if noPane && len % 256 == 0 then pendFld (tokenRec s e.val z g.pos g.tok g.val 4) z 1 28 4 1
        else sampleAt (pendWord (listPositions s e.val z len (len + 1)) z 2 (len + 1)) e.val z (len + 1) logits stops
      | 2 =>
        let q := pword s z 9
        if bitAt (pword s z 1) 14 && decide (q ≤ rf s (srvA e.val 0x010) 18 13) then sampleAt s e.val z (len + q) logits stops else s
      | _ => s)

/-! ### The commit of an envelope's step (R32, R338, R342 to R347, R356, R359, R362) -/

/-- Positions a stream's APPENDs prefill in the step: from a budget, the length and the positions discarded so far, the new
length, the APPENDs done with their status, those left. A position that meets no free pane slot ends its APPEND with
0x0B12 (R349). -/
def prefill : List AppReq → Nat → Nat → Nat → Nat × List (AppReq × Nat) × List AppReq
  | [], _, l, _ => (l, [], [])
  | a :: t, b, l, cut =>
    let first := a.first - cut
    let rem := first + a.count - l
    let want := min rem b
    let fit := match a.room with | some r => min want (first + r - l) | none => want
    if fit < want then
      let r := prefill t (b - fit) (l + fit) (cut + rem - fit)
      (r.1, (a, 0x0B12) :: r.2.1, r.2.2)
    else if want = rem then
      let r := prefill t (b - rem) (l + rem) cut
      (r.1, (a, 0) :: r.2.1, r.2.2)
    else (l + want, [], (a :: t).map fun x => { x with first := x.first - cut })

/-- Input left in APPENDs from a length on. -/
def queuedOf (l : Nat) (as : List AppReq) : Nat := match as.getLast? with | some a => a.first + a.count - l | none => 0

/-- The prefill slots of the step's streams (R348). -/
def commitPrefill (s : State) (e : Nat) : State :=
  (((srv s e).p.apps.map (·.stream)).eraseDups).foldl (fun s z =>
    let mine := (srv s e).p.apps.filter fun a => a.stream == z
    let rest := (srv s e).p.apps.filter fun a => a.stream != z
    if pState s z ≠ 2 ∨ s.heldStreams.contains z then s
    else
      let (l, done, left) := prefill mine (rf s (srvA e 0x010) 18 13) (pword s z 2) 0
      let s := modSrv s e fun v => { v with p := { v.p with apps := left ++ rest } }
      let s := done.foldl (fun s d => answerLater s e z 2 d.1.ring d.1.lsn d.1.cookie d.2 (pack [(0, 32, d.1.first), (32, 32, d.1.count)])) s
      let s := pendWord (pendWord s z 2 l) z 9 (queuedOf l left)
      if left ≠ [] then s
      else pendFld s z 1 28 4 (if bitAt (pword s z 1) 14 && done.all fun d => d.2 == 0 then 3 else 1)) s

/-- The streams that prefill in the step (R348, R385), and the length at which each ends it. -/
def prefilling (s : State) (e : Nat) : List (Nat × Nat) :=
  ((((srv s e).p.apps.map (·.stream)).eraseDups).filter fun z => pState s z == 2 && !s.heldStreams.contains z).map fun z =>
    (z, (prefill ((srv s e).p.apps.filter fun a => a.stream == z) (rf s (srvA e 0x010) 18 13) (pword s z 2) 0).1)

/-- The panes of the positions that the step prefills are on their gaffers' lists by the commit window (R252, R254). -/
def listPrefill (s : State) (e : Nat) : State :=
  (prefilling s e).foldl (fun s x => listPositions s e x.1 (pword s x.1 2) x.2) s

/-- FRIT_DIGEST_CHECK (R359): loads whose last byte has landed, in LSN order. -/
def commitLoads (s : State) (e : Nat) : State :=
  let l := (srv s e).p.frits.filter fun x => x.2.st == 1 && decide (x.2.bytes ≤ x.2.landed)
  let byLsn := l.foldl (fun acc x => (acc.filter fun y => decide (y.2.lsn ≤ x.2.lsn)) ++ x :: acc.filter fun y => decide (x.2.lsn < y.2.lsn)) []
  byLsn.foldl (fun s x =>
    let f := x.2
    if leNat (shake256 (readBytes s.mem f.addr f.bytes) 16) = f.digest then
      let s := modSrv s e fun v => { v with p := { v.p with frits := v.p.frits.map fun y => if y.2.family = f.family then (y.1, { y.2 with dflt := false }) else y } }
      answerLater (setFrit s e x.1 { f with st := 2, dflt := true }) e 0xFFFF f.kind f.ring f.lsn f.cookie 0 (pack [(0, 16, x.1), (32, 32, f.version)])
    else answerLater (setFrit s e x.1 {}) e 0xFFFF f.kind f.ring f.lsn f.cookie 0x0B0B 0) s

/-- FRIT_SLOT_FREE (R362): a RESIDENT slot that is not a default and whose count stayed 0 across two commits. -/
def commitFrits (s : State) (e : Nat) : State :=
  let s := (srv s e).p.frits.foldl (fun s x =>
    if x.2.st ≠ 2 then s
    else
      let idle := !x.2.dflt && tget 0 s.fritRefs x.1 == 0
      if idle && x.2.zero then setFrit s e x.1 {} else setFrit s e x.1 { x.2 with zero := idle }) s
  modSrv s e fun v => { v with p := { v.p with retired := v.p.retired.filter fun f => familyIn v.p f } }

/-- Handles at commit (R356): listed panes free their index, and expiry ends a handle. -/
def commitHandles (s : State) (e : Nat) : State :=
  (srv s e).p.handles.foldl (fun s h =>
    if h.2.freeing then
      h.2.uses.foldl (fun s u => dropUser s e u) (modHandle s e h.1 fun x => { gen := x.gen })
    else if h.2.live && h.2.expiry == some (stepNo s) then modHandle s e h.1 fun x => { x with ended := true }
    else s) s

/-- In the first step that begins with a handle ended and without users, the lead core lists FREE_FROZEN for its panes
(R356). -/
def freeHandles (s : State) (e : Nat) : State :=
  (srv s e).c.handles.foldl (fun s h =>
    if h.2.live && h.2.ended && h.2.users == 0 then
      h.2.own.foldl (fun s p => listPane s e ((envCores s e).headD 0) h.2.keeper 0 4 p.toNat) (modHandle s e h.1 fun x => { x with freeing := true })
    else s) s

/-- A committed registration takes effect (R403). -/
def applyReg (s : State) (e : Nat) (r : RegEnt) : State :=
  let s := modSrv s e fun v =>
    { v with regPost := true, req := tset none v.req r.obj none, ringStatus := if r.obj < 16 ∧ r.status ≠ 0 then tset 0 v.ringStatus r.obj r.status else v.ringStatus,
             rangeStatus := if 16 ≤ r.obj ∧ r.status ≠ 0 then r.status else v.rangeStatus }
  if r.status ≠ 0 then s
  else if r.obj < 16 then
    let g (i : Nat) : Nat := r.vals.getD i 0
    modRing s e r.obj fun x => if r.op = 1 then { reg := true, sub := g 0, cmp := g 1, headA := g 2, consA := g 3, cfg := g 4, twin := x.twin } else { twin := x.twin }
  else modSrv s e fun v =>
    { v with hranges := tset {} v.hranges (r.obj - 16) (if r.op = 1 then { reg := true, base := r.vals.getD 0 0, cfg := r.vals.getD 1 0 } else {}) }

/-- A frame entry of 192 bytes (Table 13-4). -/
def frameBytes (s : State) (e : Nat) : List Byte :=
  leBytes 64 (pack [(0, 64, (srv s e).nextLsn + 2 ^ 63 * rf s 0x020000015000 40 1), (64, 48, stepNo s), (112, 8, 2), (120, 8, rf s (parA 0x000) 56 4),
    (128, 16, s.vote.voidRun), (144, 8, s.yawRef), (152, 8, s.yawCrl), (160, 8, s.yawTake), (168, 1, b2n (!paired s))]) ++
  leBytes 128 (pack ((List.range 16).map fun k => (64 * k, 64, (ring s e k).head)))

/-- An entry is appended to the envelope's ledger in DRAM, unit by unit (R343). -/
def ledgerPut (s : State) (e : Nat) (b : List Byte) : State :=
  let base := (tget (0, 0) s.ranges (5 * 65536 + e)).1
  let u := (srv s e).units
  let s := if ledgerCap s e = 0 then s else forN (b.length / 64) s fun i s => storeBytes s (base + 64 * ((u + i) % ledgerCap s e)) ((b.drop (64 * i)).take 64)
  modSrv s e fun v => { v with units := v.units + b.length / 64 }

/-- A record enters a ring's posting queue with its CSEQ (R338). -/
def enqueue (s : State) (e k r : Nat) : State :=
  modRing s e k fun x => { x with queue := x.queue ++ [(x.nextC, BitVec.ofNat 512 (r + pack [(0, 64, x.nextC + 1), (256, 48, stepNo s)]))], nextC := x.nextC + 1 }

/-- Records in ascending order of their first component. -/
def sortRecs (l : List (Nat × Nat × Nat)) : List (Nat × Nat × Nat) :=
  l.foldl (fun acc x => (acc.filter fun y => decide (y.1 ≤ x.1)) ++ x :: acc.filter fun y => decide (x.1 < y.1)) []

/-- The ACK of a request taken (R337, R344). -/
def ackRec (s : State) (t : Taken) : Nat × Nat × Nat :=
  (t.lsn, t.ring, complRec 1 (b2n (!paired s)) t.status (zOf t) (arg t 8 1) t.ring t.lsn (arg t 16 8) t.rseq)

/-- The first row of a core's request range (R347). -/
def requestRow (s : State) (c : Nat) : Nat := rf s (cruA c (0x200 + 8 * (Config.requestRange c).val)) 0 16

/-- The requests accepted at the commit go to their cores' request ranges, streams in ascending order and the envelope
group last, and each stream's group words are written (R346, R347). -/
def placeGroups (s : State) (e : Nat) : State :=
  let todo := (srv s e).c.todo
  let s := (envStreams s e).foldl (fun s z => if cword s z 14 = 0 then s else { s with strmTab := tset 0 s.strmTab (16 * z + 14) 0 }) s
  (envCores s e).foldl (fun s c =>
    let mine := todo.filter fun t => t.core == c
    let zs := ((mine.filter fun t => isStreamReq t.rec_).map zOf).eraseDups
    let sorted := (sortRecs (zs.map fun z => (z, 0, 0))).map (·.1)
    let order := sorted.flatMap (fun z => mine.filter fun t => isStreamReq t.rec_ && zOf t == z) ++ mine.filter fun t => !isStreamReq t.rec_
    let base := requestRow s c
    let s := order.zipIdx.foldl (fun s t => forN 3 s fun r s => writeRow s c (base + 3 * t.2 + r) (rowOf ((((entryBytes t.1).drop (128 * r)).take 128) ++ List.replicate 64 0 |>.take 128)) 255) s
    sorted.foldl (fun s z =>
      let g := order.filter fun t => isStreamReq t.rec_ && zOf t == z
      let row := base + 3 * (order.takeWhile fun t => !(isStreamReq t.rec_ && zOf t == z)).length
      let l := (g.head?.map (·.lsn)).getD 0
      let put (s : State) (w v : Nat) : State := { s with strmTab := tset 0 s.strmTab (16 * z + w) (BitVec.ofNat 32 v) }
      put (put (put (put s 12 (l % 2 ^ 32)) 13 (l / 2 ^ 32)) 14 (pack [(28, 4, g.length), (0, 16, row)])) 15 (((g.head?.map (·.step)).getD 0) % 2 ^ 32)) s) s

/-- The pending part of an envelope's step before stream words and reference counts commit: prefill, loads, handles. -/
def srvPrepare (s : State) (e : Nat) : State := commitHandles (commitLoads (commitPrefill s e) e) e

/-- An envelope's step commits: frit slots, ledger, sequence numbers, records, accepted requests (R338, R342 to R347). -/
def srvCommit (s : State) (e : Nat) : State :=
  let s := commitFrits s e
  let v := srv s e
  let s := v.snap.regs.foldl (fun s r => applyReg (ledgerPut s e (regBytes r)) e r) s
  let s := v.snap.reqs.foldl (fun s t => ledgerPut s e (entryBytes t)) s
  let tw (t : Taken) : Bool := (tget {} v.rings t.ring).twin
  let s := modSrv s e fun x => { x with nextLsn := x.nextLsn + (v.snap.reqs.filter fun t => !tw t).length, nextLsnT := x.nextLsnT + (v.snap.reqs.filter tw).length }
  let s := ledgerPut s e (frameBytes s e)
  let s := v.snap.reqs.foldl (fun s t => modRing s e t.ring fun r => { r with nextR := t.rseq + 1, resv := r.resv + b2n (t.status == 0) }) s
  let s := (sortRecs (v.snap.reqs.map (ackRec s))).foldl (fun s r => enqueue s e r.2.1 r.2.2) s
  let s := (sortRecs (srv s e).dones).foldl (fun s r => modRing (enqueue s e r.2.1 r.2.2) e r.2.1 fun x => { x with resv := x.resv - 1 }) s
  let s := (sortRecs v.toks).foldl (fun s r => enqueue s e r.2.1 r.2.2) s
  let s := bumpBy (bumpBy s (srvA e 0x038) 32 32 v.snap.reqs.length) (srvA e 0x038) 16 16 (v.snap.reqs.filter fun t => t.status != 0).length
  let s := modSrv s e fun x =>
    { x with c := { x.p with todo := x.p.todo.filter (fun t => !x.executed.contains t.lsn) ++ v.snap.reqs.filter fun t => t.status == 0 },
             p := { x.p with todo := x.p.todo.filter (fun t => !x.executed.contains t.lsn) ++ v.snap.reqs.filter fun t => t.status == 0 },
             snap := {}, dones := [], toks := [], panes := [], executed := [] }
  placeGroups s e

/-- An envelope's step voids: pending effects go, the records taken stay for the replay (R32, R34). -/
def srvVoid (s : State) (e : Nat) : State :=
  modSrv s e fun x =>
    { x with p := x.c, dones := [], toks := [], panes := [], executed := [],
             snap := if x.snap.phase = 0 then {} else { x.snap with phase := 3, out := [], got := [], regs := [] } }

end Sys2Proof.Machine
end

