-- ==== Sys2Proof/Machine/Crown.lean ====
section
/-!
DEFINITION. Machine/Crown.lean: Crownline (R369 to R380), takeover (R384), wear scores (R390), attach (R391) and SECCHK
(R449).
-/
namespace Sys2Proof.Machine
open Sys2Proof

/-! ### Parameters and electorates (R369, R394) -/

/-- CRL_ registers. -/
def crlA (off : Nat) : Nat := 0x020000017000 + off
/-- TWN_ registers. -/
def twnA (off : Nat) : Nat := 0x020000015000 + off
/-- HB_PERIOD. -/
def hbPeriod (s : State) : Nat := rf s (crlA 0) 46 18
/-- MISS_LIMIT. -/
def missLimit (s : State) : Nat := rf s (crlA 0) 42 4
/-- Crownline's ROUNDS. -/
def crlRounds (s : State) : Nat := rf s (crlA 0) 38 4
/-- Crownline's ROUND_LEN. -/
def crlRoundLen (s : State) : Nat := rf s (crlA 0) 24 14
/-- ACT_LEAD. -/
def actLead (s : State) : Nat := rf s (crlA 0) 5 19
/-- The present heartbeat window (R372). -/
def hbWindow (s : State) : Nat := (ttc s - launchT s) / max (hbPeriod s) 1
/-- Devices of the fleet. -/
def fleetSize (s : State) : Nat := rf s (parA 0x030) 16 13 + 1
/-- The twin, if the membership names one. -/
def twinOf (s : State) : Option Nat := if rf s (twnA 0x008) 60 4 = 0 then none else some (rf s (twnA 0) 51 13)

/-- A list in ascending order without repeats. -/
def ascending (l : List Nat) : List Nat :=
  l.foldl (fun acc x => if acc.contains x then acc else (acc.filter fun y => decide (y < x)) ++ x :: acc.filter fun y => decide (x < y)) []

/-- The electorate of a device: its train's other members, its twin, its witnesses (R369). -/
def electorsOf (s : State) (x : Nat) : List Nat :=
  if x = myIx s then
    ascending (((s.train.map (·.2)).filter fun d => d != x) ++ (twinOf s).toList ++ [rf s (crlA 0x008) 46 13, rf s (crlA 0x008) 33 13].filter fun d => d != 0x1FFF)
  else tget [] s.electors x

/-- The devices whose electorate contains this one. -/
def monitored (s : State) : List Nat := (s.electors.filter fun e => e.2.contains (myIx s) && e.1 != myIx s && !s.evicted.contains e.1).map (·.1)
/-- The number of a device in an electorate. -/
def electNo (s : State) (x d : Nat) : Nat := ((electorsOf s x).takeWhile fun y => y != d).length
/-- Ones in 32 bits. -/
def ones (n : Nat) : Nat := ((List.range 32).filter fun i => bitAt n i).length

/-- A Crownline fault: 0x0C02, 0x0C03 and 0x0C0C with the peer as source, the others the device (R395). Those of severity 4
halt the device, which CRL_STAT shows (R379, Table 14-11). -/
def raiseCrl (s : State) (code sev : Nat) (x : Option Nat) (d : List (Nat × Nat × Nat)) : State :=
  let s := raise s code sev (if x.isSome then 0x0C else 0x00) (x.getD 0) 0xFFFF (det d)
  if sev = 4 then setRf s (crlA 0x010) 60 4 3 else s

/-- The state with Crownline changed. -/
def modCrl (s : State) (f : Crl → Crl) : State := { s with crl := f s.crl }

/-! ### Messages (R371) -/

/-- The payload rows of a Crownline message (Table 14-1). -/
def crlRows (type : Nat) (m : CrlMsg) : List Row :=
  let n := pack [(0, 8, type), (8, 8, m.flags.toNat), (16, 16, m.sender.toNat), (32, 16, m.dest.toNat), (48, 16, m.subject.toNat), (64, 64, m.v.toNat),
    (128, 48, m.step.toNat), (176, 8, m.variant.toNat), (184, 8, m.cause.toNat), (192, 32, m.down.toNat), (224, 32, m.up.toNat), (256, 32, m.wear.toNat),
    (288, 8, m.part.toNat), (320, 64, m.aux.toNat), (384, 32, m.secver.toNat)]
  [BitVec.ofNat 1024 n, 0]

/-- The fields of a payload. -/
def crlOf (rows : List Row) : CrlMsg :=
  let n := mgmtNat rows
  let f (lo w : Nat) : BitVec w := BitVec.ofNat w (fld n lo w)
  { flags := f 8 8, sender := f 16 16, dest := f 32 16, subject := f 48 16, v := f 64 64, step := f 128 48, variant := f 176 8, cause := f 184 8,
    down := f 192 32, up := f 224 32, wear := f 256 32, part := f 288 8, aux := f 320 64, secver := f 384 32 }

/-- A message of this device; STEP is the last step it committed. -/
def crlMsg (s : State) (dest subject v cause : Nat) : CrlMsg :=
  { flags := 0, sender := BitVec.ofNat 16 (myIx s), dest := BitVec.ofNat 16 dest, subject := BitVec.ofNat 16 subject, v := BitVec.ofNat 64 v,
    step := BitVec.ofNat 48 (s.vote.last), variant := BitVec.ofNat 8 (rf s (parA 0x000) 56 4), cause := BitVec.ofNat 8 cause, down := 0, up := 0, wear := 0,
    part := 0, aux := 0, secver := BitVec.ofNat 32 (rf s (parA 0x034) 0 32) }

/-- A message goes on the first link of its route, a flood on every vote link. -/
def crlSend (s : State) (type : Nat) (m : CrlMsg) : State :=
  if m.dest = 0xFFFF then (voteLinkList s).foldl (fun s n => sendMgmt s n 2 2 (crlRows type m)) s
  else match tget [] s.routes m.dest.toNat with
    | n :: _ => sendMgmt s n 2 2 (crlRows type m)
    | [] => s

/-- A received message is forwarded, or taken: a flood at its first receipt is both (R371). -/
def crlIn (s : State) (type : Nat) (m : CrlMsg) (f : State → State) : State :=
  if m.dest = 0xFFFF then
    let key := (type, m.sender.toNat, m.subject.toNat, m.v.toNat)
    if s.crl.seen.contains key then s else f (crlSend (modCrl s fun c => { c with seen := c.seen ++ [key] }) type m)
  else if m.dest.toNat ≠ myIx s then crlSend s type m
  else f s

/-- A flood of this device. -/
def crlFlood (s : State) (type : Nat) (m : CrlMsg) : State :=
  crlSend (modCrl s fun c => { c with seen := c.seen ++ [(type, m.sender.toNat, m.subject.toNat, m.v.toNat)] }) type m

/-! ### Decisions and the action table (R375 to R377) -/

/-- T_A of a decision or report at tick d (R377). -/
def actionTickOf (s : State) (d : Nat) : Nat := launchT s + cdiv (d + actLead s + cwLen s - launchT s) (max (frameLen s) 1) * frameLen s

/-- A subject decided DOWN or reported: one per subject, cause and tick. -/
def addDec (s : State) (x : CrlDec) (down : Bool) : State :=
  if s.crl.decs.contains x then s
  else
    let s := modCrl s fun c => { c with decs := c.decs ++ [x] }
    let s := setRg s (crlA 0x020) (pack [(51, 13, x.subject), (48, 3, x.cause), (40, 1, b2n down), (0, 32, min (2 ^ 32 - 1) (rf s (crlA 0x020) 0 32 + 1))])
    let s := setRg (setRf s (crlA 0x010) 60 4 2) (crlA 0x018) x.tick
    if x.subject = myIx s then msix s 0 3 else s

/-- The subjects of an action tick. -/
def subjectsAt (s : State) (t : Nat) : List Nat := ascending ((s.crl.decs.filter fun d => d.tick == t).map (·.subject))

/-- The entry that applies at an action tick: the first that names exactly the subjects, admits every cause and fits the
variant running (R377); a PROMOTE of the Keel needs none (R380). -/
def entryAt (s : State) (t : Nat) : Option ActEnt :=
  let ds := s.crl.decs.filter fun d => d.tick == t
  let v := rf s (parA 0x000) 56 4
  match ds.find? (·.forced) with
  | some d => some { a := d.subject, b := 0xFFFF, causes := 0, from_ := 0xFF, action := 2, variant := v }
  | none => s.actTab.find? fun e =>
      (if e.b = 0xFFFF then [e.a] else ascending [e.a, e.b]) == subjectsAt s t && ds.all (fun d => decide (1 ≤ d.cause) && bitAt e.causes (d.cause - 1)) &&
      (e.from_ == 0xFF || e.from_ == v)

/-- The variant running. -/
def runningVar (s : State) : Nat := rf s (parA 0x000) 56 4

/-- The variant that starts with the next frame, if a swap is scheduled (R377, R378). -/
def scheduled (s : State) : Option Nat :=
  let t := frameStartT s + frameLen s
  if 2 < (subjectsAt s t).length then none
  else match entryAt s t with
    | some e => if e.action ≠ 4 ∧ e.variant ≠ runningVar s then some e.variant else none
    | none => none

/-- A vote on a subject opens here (R374); `own` is this elector's bit, `from_` the first round it sends in. -/
def openVote (s : State) (x v cause from_ : Nat) (down : Bool) : State :=
  if s.crl.votes.any fun y => y.subject == x && y.v == v then s
  else
    let b := 2 ^ electNo s x (myIx s)
    let s := modCrl s fun c =>
      { c with votes := c.votes ++ [{ subject := x, v := v, cause := cause, down := if down then b else 0, up := if down then 0 else b, from_ := from_, sent := 0 }],
               noVote := tset 0 c.noVote x (c.win + missLimit s) }
    setRf s (crlA 0x010) 60 4 1

/-- This elector suspects a device (R373, R36). -/
def suspect (s : State) (x v cause : Nat) : State :=
  openVote (raiseCrl s 0x0C02 0 (some x) [(0, 1, cause), (8, 8, v)]) x v cause 1 true

/-- Crownline decides nothing in a fleet of two, and a device alone has no electorate (R379, R380). -/
def voting (s : State) : Bool := decide (3 ≤ fleetSize s)

/-! ### Heartbeats (R372, R373, R376, R379) -/

/-- HEARTBEAT_SEND (R372): once in each window, to every device whose electorate this device is in or that is in its own. -/
def execHeartbeatSend (s : State) : Host.Outcome State Fault Refusal :=
  .next (
    let w := hbWindow s
    if !planOn s || decide (w < s.crl.hbWin) then s
    else
      let top := s.crl.wear.foldl (fun b e => if b.2 < e.2 then e else b) (0, 0)
      let dests := ascending (electorsOf s (myIx s) ++ monitored s)
      dests.foldl (fun s d => crlSend s 0x10 { crlMsg s d (myIx s) (launchT s + w * hbPeriod s) 0 with wear := BitVec.ofNat 32 top.2, part := BitVec.ofNat 8 top.1 })
        (modCrl s fun c => { c with hbWin := w + 1 }))

/-- HEARTBEAT (R372): counts for its sender in the window of arrival. -/
def execHeartbeat (_link : Fin 24) (m : CrlMsg) (s : State) : Host.Outcome State Fault Refusal :=
  .next (crlIn s 0x10 m fun s => modCrl s fun c => { c with heard := if c.heard.contains m.sender.toNat then c.heard else c.heard ++ [m.sender.toNat] })

/-- Missed windows of a device are counted, and MISS_LIMIT of them make this elector suspect it (R373). -/
def missStep (s : State) (x t : Nat) : State :=
  let n := if s.crl.heard.contains x then 0 else tget 0 s.crl.miss x + 1
  let s := modCrl s fun c => { c with miss := tset 0 c.miss x n }
  if voting s && decide (missLimit s ≤ n) && decide (tget 0 s.crl.noVote x ≤ s.crl.win) then suspect s x t 1 else s

/-- ISOLATION_HALT (R379). -/
def isolation (s : State) : State :=
  let el := electorsOf s (myIx s)
  let n := (el.filter s.crl.heard.contains).length
  let s := modCrl s fun c => { c with iso := if 2 * n ≤ el.length then c.iso + 1 else 0 }
  if voting s && el != [] && decide (missLimit s ≤ s.crl.iso) then raiseCrl s 0x0C06 4 none [(0, 1, n), (1, 1, el.length)] else s

/-- EVENT_REPORT (R376): EVENT is flooded for each cause of the window, and the report counts here too. -/
def eventReport (s : State) (t : Nat) : State :=
  let cs := ascending (s.causes ++ (if s.evacuate then [3] else []) ++ if s.thermal = [] then [] else [5])
  cs.foldl (fun s c =>
    let s := crlFlood s 0x13 (crlMsg s 0xFFFF (myIx s) t c)
    addDec s { subject := myIx s, cause := c, tick := actionTickOf s (t + crlRounds s * crlRoundLen s), forced := false } false)
    { s with causes := [], evacuate := false, thermal := [] }

/-- Every monitored device judged at a window's end in tick `t`, then isolation and the EVENT report (R373, R376, R380). -/
def windowState (s : State) (t : Nat) : State :=
  eventReport (isolation ((monitored s).foldl (fun s x => missStep s x t) (modCrl s fun c => { c with win := c.win + 1 }))) t

/-- A pending claim flooded at the window's end, and the heartbeats of the ended window forgotten (R372, R391). -/
def windowEnd (s : State) (t : Nat) : State :=
  let s := if s.crl.claim then crlFlood (modCrl s fun c => { c with claim := false }) 0x14 { crlMsg s 0xFFFF (myIx s) t 7 with aux := BitVec.ofNat 64 (rg s (parA 0x028)) } else s
  modCrl s fun c => { c with heard := [] }

/-- HEARTBEAT_WINDOW_END (R373, R376, R379, R391): at the window's end tick, once. -/
def execHeartbeatWindowEnd (s : State) : Host.Outcome State Fault Refusal :=
  .next (
    let t := launchT s + (s.crl.win + 1) * hbPeriod s
    if s.crl.claim && !launched s && decide (launchT s ≤ ttc s) && (ttc s - launchT s) % max (hbPeriod s) 1 == 0 then
      crlFlood (modCrl s fun c => { c with claim := false }) 0x14 { crlMsg s 0xFFFF (myIx s) (ttc s) 7 with aux := BitVec.ofNat 64 (rg s (parA 0x028)) }
    else if !planOn s || ttc s != t then s
    else
      windowEnd (windowState s t) t)

/-! ### Votes (R374, R375) -/

/-- The round of a vote in the present tick, from 1; 0 outside. -/
def roundOf (s : State) (v : Nat) : Nat :=
  if ttc s < v ∨ v + crlRounds s * crlRoundLen s ≤ ttc s then 0 else (ttc s - v) / max (crlRoundLen s) 1 + 1

/-- The state with an open vote changed. -/
def modVote (s : State) (x v : Nat) (f : CrlVote → CrlVote) : State :=
  modCrl s fun c => { c with votes := c.votes.map fun y => if y.subject = x ∧ y.v = v then f y else y }

/-- VOTE_ROUND (R374): in round 1, and in later rounds but the last, the OR of every bitmap held goes to every other
elector. -/
def execVoteRound (subject : BitVec 16) (s : State) : Host.Outcome State Fault Refusal :=
  .next (
    let x := subject.toNat
    match s.crl.votes.find? fun y => y.subject == x && decide (y.sent < roundOf s y.v) with
    | none => s
    | some y =>
      let r := roundOf s y.v
      if !planOn s || r = 0 || decide (r < y.from_) || (decide (1 < r) && decide (crlRounds s ≤ r)) then s
      else
        let s := modVote s x y.v fun z => { z with sent := r }
        ((electorsOf s x).filter fun d => d != myIx s).foldl (fun s d =>
          crlSend s 0x11 { crlMsg s d x y.v y.cause with down := BitVec.ofNat 32 y.down, up := BitVec.ofNat 32 y.up }) s)

/-- A cause-7 vote is DOWN ("admit") here (R391). -/
def admits (s : State) (x plan secver : Nat) : Bool :=
  s.evicted.contains x && plan == rg s (parA 0x028) && decide (rf s (parA 0x034) 0 32 ≤ secver) && s.crl.votes.all fun y => y.subject != x

/-- This elector's bit on joining a vote (R374). -/
def joinBit (s : State) (m : CrlMsg) : Bool :=
  let x := m.subject.toNat
  match m.cause.toNat with
  | 1 => decide (missLimit s ≤ tget 0 s.crl.miss x)
  | 2 => decide (s.crl.absent.length = 4) && s.crl.absent.all fun l => l.contains x
  | _ => false

/-- VOTE (R374): merged, or joined; ignored after the round in which it was sent. -/
def execVote (_link : Fin 24) (round : BitVec 3) (m : CrlMsg) (s : State) : Host.Outcome State Fault Refusal :=
  .next (crlIn s 0x11 m fun s =>
    let x := m.subject.toNat
    let v := m.v.toNat
    let r := roundOf s v
    if !planOn s || !voting s || !(electorsOf s x).contains (myIx s) || r ≠ round.toNat + 1 then s
    else
      let s := openVote s x v m.cause.toNat (r + 1) (joinBit s m)
      modVote s x v fun y => { y with down := y.down ||| m.down.toNat, up := y.up ||| m.up.toNat })

/-- CROWNLINE_DECISION (R375): at D, DOWN by more than half of the electorate. -/
def execCrownlineDecision (subject : BitVec 16) (s : State) : Host.Outcome State Fault Refusal :=
  .next (
    let x := subject.toNat
    match s.crl.votes.find? fun y => y.subject == x && decide (ttc s = y.v + crlRounds s * crlRoundLen s) with
    | none => s
    | some y =>
      if !planOn s then s
      else
        let s := modCrl s fun c => { c with votes := c.votes.erase y }
        let s := if s.crl.votes = [] ∧ rf s (crlA 0x010) 60 4 = 1 then setRf s (crlA 0x010) 60 4 (if s.crl.decs = [] then 0 else 2) else s
        if (electorsOf s x).length < 2 * ones y.down then
          let t := actionTickOf s (ttc s)
          let s := crlFlood s 0x12 { crlMsg s 0xFFFF x y.v y.cause with flags := 1, down := BitVec.ofNat 32 y.down, aux := BitVec.ofNat 64 t }
          addDec s { subject := x, cause := y.cause, tick := t, forced := false } true
        else raiseCrl s 0x0C03 0 (some x) [(0, 1, y.cause), (4, 4, y.down), (8, 8, y.v)])

/-- The device takes part in decisions: its plan runs, or it is a claimant that waits for its admission (R48, R391). -/
def takesPart (s : State) (m : CrlMsg) : Bool := planOn s || (!launched s && !s.halted && m.subject.toNat == myIx s)

/-- DECIDE (R375, R379): a DOWN decision is taken, by the claimant of a CLAIM too; one whose action tick has passed halts
the device. -/
def execDecide (_link : Fin 24) (m : CrlMsg) (s : State) : Host.Outcome State Fault Refusal :=
  .next (crlIn s 0x12 m fun s =>
    if !takesPart s m || !bitAt m.flags.toNat 0 then s
    else if m.aux.toNat < ttc s then raiseCrl s 0x0C08 4 none [(0, 2, m.subject.toNat), (8, 8, m.aux.toNat)]
    else addDec s { subject := m.subject.toNat, cause := m.cause.toNat, tick := m.aux.toNat, forced := false } true)

/-- EVENT (R376): a device's report, decided ROUNDS rounds after V. -/
def execEvent (_link : Fin 24) (m : CrlMsg) (s : State) : Host.Outcome State Fault Refusal :=
  .next (crlIn s 0x13 m fun s =>
    if !planOn s then s
    else addDec s { subject := m.subject.toNat, cause := m.cause.toNat, tick := actionTickOf s (m.v.toNat + crlRounds s * crlRoundLen s), forced := false } false)

/-- CLAIM (R391): a vote of cause 7 among the index's electorate; with another vote open on it the bit is UP. -/
def execClaimMessage (_link : Fin 24) (m : CrlMsg) (s : State) : Host.Outcome State Fault Refusal :=
  .next (crlIn s 0x14 m fun s =>
    let x := m.subject.toNat
    if !planOn s || !voting s || !(electorsOf s x).contains (myIx s) then s
    else openVote s x m.v.toNat 7 (roundOf s m.v.toNat + 1) (admits s x m.aux.toNat m.secver.toNat))

/-! ### Takeover (R384, R385) -/

/-- The twin image in the mirror range. -/
def twinImage (s : State) : List Byte := let r := tget (0, 0) s.ranges (7 * 65536); readBytes s.mem r.1 r.2

/-- A ring of the twin as its image gives it. -/
def adoptRing (img : List Byte) (e k : Nat) : Ring :=
  let f (i : Nat) : Nat := Config.twinField img 1 e k i
  { reg := f 0 == 1, sub := f 1, cmp := f 2, headA := f 3, consA := f 4, cfg := f 5 % 2 ^ 13, nextR := f 6, nextC := f 7, head := f 8, posted := f 8, resv := f 9,
    queue := (List.range (f 10)).map fun j => (f 8 + j, BitVec.ofNat 512 (f (16 + j))), twin := true }

/-- A frit slot and a handle of the twin as its image gives them. -/
def adoptFrit (img : List Byte) (e k : Nat) : Frit :=
  let f (i : Nat) : Nat := Config.twinField img 2 e k i
  { st := f 0 % 3, family := f 1, version := f 2, dflt := f 3 == 1 }
/-- A handle of the twin as its image gives it. -/
def adoptHandle (img : List Byte) (e k : Nat) : Handle :=
  let f (i : Nat) : Nat := Config.twinField img 3 e k i
  { gen := f 0, live := f 1 == 1, ended := f 2 == 1, len := f 3, users := f 4, expiry := if f 5 = 0 then none else some (f 5) }

/-- TAKEOVER (R384): the twin image becomes committed state; streams take their homes here and are held (R385); the rings
of the twin join the share; a standby lead becomes lead (R410). -/
def takeover (s : State) (x : Nat) : State :=
  let img := twinImage s
  let s := s.takeHomes.foldl (fun s h =>
    let s := { s with home := tset 0 s.home h.1 (h.2 + 1), heldStreams := s.heldStreams ++ [h.1],
                      heldLeft := tset 0 s.heldLeft h.1 (Config.twinField img 0 h.1 2 0 % 2 ^ 24) }
    forN 16 s fun w s => { s with strmTab := tset 0 s.strmTab (16 * h.1 + w) (BitVec.ofNat 32 (if w = 0 then ((List.range 16).find? fun e => ownsStream s e h.1).getD 0 * 2 ^ 28 else Config.twinField img 0 h.1 w 0)) }) s
  let s := forN 16 s fun e s =>
    let share := rf s (twnA (0x040 + 4 * e)) 0 16
    let s := forN 16 s fun k s => if bitAt share k then s else modRing s e k fun _ => adoptRing img e k
    let slots := (List.range (Config.twinField img 4 e 0 0 % 4097)).map fun i => Config.twinField img 4 e 1 i % 4096
    let hs := (List.range (Config.twinField img 4 e 2 0 % 65537)).map fun i => Config.twinField img 4 e 3 i % 65536
    let add (c : SrvC) : SrvC := { c with frits := slots.foldl (fun t k => tset {} t k (adoptFrit img e k)) c.frits, handles := hs.foldl (fun t k => tset {} t k (adoptHandle img e k)) c.handles }
    let s := if slots = [] ∧ hs = [] ∧ (regRings s e).all (fun k => !(ring s e k).twin) then s
      else modSrv s e fun v => { v with c := add v.c, p := add v.p, nextLsnT := Config.twinField img 4 e 4 0 % 2 ^ 63 }
    if share = 0 ∧ (regRings s e) = [] then s else setRf s (twnA (0x040 + 4 * e)) 0 16 0xFFFF
  let point := rf s (twnA 0x008) 0 48
  let s := setRf (setRf (bump s (twnA 0x010) 56 8) (twnA 0x010) 0 48 point) (twnA 0x008) 59 1 1
  let s := setRf (bump s (crlA 0x028) 0 32) (twnA 0x018) 48 16 s.heldStreams.length
  let s := if podRole s = 3 ∧ podLead s = x then setRf s (bar 0 0x100) 62 2 1 else s
  raiseCrl { s with yawTake := s.yawTake + 1 } 0x0C0C 0 (some x) [(0, 2, x), (2, 6, point)]

/-! ### Actions (R378, R379, R383) -/

/-- CRL_EVICTED bits and the count follow the evicted set. -/
def setEvicted (s : State) (l : List Nat) : State :=
  let s := { s with evicted := l }
  let s := forN 128 s fun w s => setRg s (crlA (0x400 + 8 * w)) (pack ((List.range 64).map fun i => (i, 1, b2n (l.contains (64 * w + i)))))
  setRf s (crlA 0x010) 42 14 l.length

/-- EVICT (R378, R379, R383). -/
def evict (s : State) (xs : List Nat) (cause t : Nat) : State :=
  let s := setEvicted s (ascending (s.evicted ++ xs))
  let s := match twinOf s with
    | some y => if xs.contains y then setRf s (twnA 0x008) 60 4 2 else s
    | none => s
  if xs.contains (myIx s) then raiseCrl s 0x0C05 4 none [(0, 1, cause), (8, 8, t)] else s

/-- ADMIT (R378, R391): the claimant leaves the evicted set; the claimant itself starts at the fleet's step, unpaired: its
STEP is the one before until FRAME_START of this tick advances it. -/
def admitDevices (s : State) (xs : List Nat) (var : Option Nat) : State :=
  let s := setEvicted s (s.evicted.filter fun d => !xs.contains d)
  let s := match twinOf s with
    | some y => if xs.contains y then setRf s (twnA 0x008) 60 4 3 else s
    | none => s
  if xs.contains (myIx s) && !launched s then
    let s := modCrl s fun c => { c with nextVar := var }
    setRf (setRf (setRf s (ttA 0x018) 3 1 1) (ttA 0x008) 0 48 ((ttc s - launchT s) / max (frameLen s) 1 - 1)) (twnA 0x008) 60 4 3
  else s

/-- The decisions of the present tick taken off the list, and the interrupt of a subject (R376, R377). -/
def decsTaken (s : State) : State :=
  let u := modCrl s fun c => { c with decs := c.decs.filter fun d => d.tick != ttc s }
  let u := setRf u (crlA 0x010) 60 4 (if u.crl.decs = [] then 0 else 2)
  if (subjectsAt s (ttc s)).contains (myIx s) then msix u 0 3 else u

/-- No entry for the subjects, or more than two of them (R377). -/
def noEntry (s : State) (xs : List Nat) : State :=
  raiseCrl s 0x0C07 4 none [(0, 6, pack (xs.zipIdx.map fun x => (16 * x.2, 16, x.1))), (6, 1, rf s (parA 0x000) 56 4)]

/-- An action counted, in CRL_YAW and CRL_LAST (R394). -/
def noteAction (s : State) (e : ActEnt) : State :=
  setRf (setRf (bump { s with yawCrl := s.yawCrl + 1 } (crlA 0x028) 32 32) (crlA 0x020) 45 3 e.action) (crlA 0x020) 41 4 e.variant

/-- An entry's ACTION for the subjects (R378). -/
def applyEntry (s : State) (e : ActEnt) (xs : List Nat) (cause t : Nat) : State :=
  match e.action with
  | 1 => evict s xs cause t
  | 2 =>
    let s := evict s xs cause t
    if s.halted then s else match twinOf s with
      | some y => if xs.contains y then takeover s y else s
      | none => s
  | 4 => setRf { s with halted := true } (crlA 0x010) 60 4 3
  | 5 => admitDevices s xs (if e.variant = rf s (parA 0x000) 56 4 then none else some e.variant)
  | _ => s

/-- ACTION_TICK (R377, R378): at phase 0 of the tick, the first matching entry applies; more than two subjects, or none
matching, halts the device. -/
def execActionTick (s : State) : Host.Outcome State Fault Refusal :=
  .next (whenAt s 0 fun s =>
    let xs := subjectsAt s (ttc s)
    let ds := s.crl.decs.filter fun d => d.tick == ttc s
    if s.halted || ds = [] then s
    else if 2 < xs.length then noEntry (decsTaken s) xs
    else match entryAt s (ttc s) with
      | none => noEntry (decsTaken s) xs
      | some e => applyEntry (noteAction (decsTaken s) e) e xs ((ds.map (·.cause)).headD 0) (ttc s))

/-- A write of CRL_CTRL.PROMOTE (R380): in a fleet of two, a PROMOTE decided at the tick of the write. -/
def promote (s : State) : State :=
  match twinOf s with
  | some y => if planOn s && fleetSize s == 2 then addDec s { subject := y, cause := 1, tick := actionTickOf s (ttc s), forced := true } true else s
  | none => s

/-- CRL_CTRL_PROMOTE (R380). -/
def execCrlCtrlPromote (s : State) : Host.Outcome State Fault Refusal := .next (promote s)

/-- A write of CRL_CTRL.CLAIM (R391): CLAIM is flooded at the end of the current window. The Keel's write ends the hold in which
fault 0x010C left a device that has started and not launched (R14, R48; DEDUCED, log entry 62). -/
def claimStart (s : State) : State :=
  modCrl { s with halted := s.halted && (launched s || stage s != 9) } fun c => { c with claim := true }

/-- CRL_CTRL_CLAIM (R391). -/
def execCrlCtrlClaim (s : State) : Host.Outcome State Fault Refusal := .next (claimStart s)

/-! ### Wear scores (R390) -/

/-- The part a fault belongs to. -/
def wearPart (s : State) (f : FaultRec) : Nat :=
  match f.cls with
  | 0x01 => 24 + f.idx
  | 0x02 => 24 + (core s (f.idx / 16)).tile
  | 0x03 => 24 + (core s (f.idx / 16)).tile
  | 0x06 => 24 + f.idx % 72
  | 0x04 => 96 + f.idx / 64
  | 0x05 => 96 + f.idx / 64
  | 0x07 => f.idx
  | 0x08 => 108 + f.idx
  | 0x09 => if f.idx < 72 then 24 + f.idx else 127
  | 0x00 => if f.code / 256 = 0x06 then 96 + fld f.detail.toNat 0 8 else 127
  | _ => 127

/-- The wear class of a fault (Table 14-8). The actions of severities 2 to 4 include that of severity 1 (R15), so a fault of
theirs that no class names counts in class 7 (DEDUCED, log entry 62). -/
def wearClass (f : FaultRec) : Option Nat :=
  if f.code = 0x0407 ∨ f.code = 0x040A ∨ f.code = 0x0506 ∨ f.code = 0x0607 ∨ f.code = 0x060E then some 0
  else match f.code with
    | 0x0901 => some 1 | 0x0903 => some 2 | 0x0904 => some 3 | 0x010A => some 4 | 0x0803 => some 5 | 0x0804 => some 5
    | _ => if 1 ≤ f.sev then some 7 else none

/-- W_k (Table 14-8). -/
def wearW (s : State) (k : Nat) : Nat := rf s (crlA (if k < 4 then 0x040 else 0x048)) (16 * (k % 4)) 16

/-- One part's score at the end of an interval, with the parameters as `s0` holds them (R390). -/
def wearStep (s0 s : State) (add p : Nat) : State :=
  let old := tget 0 s.crl.wear p
  let new := min (2 ^ 32 - 1) (old - old / 2 ^ rf s0 (crlA 0x038) 59 5 + add)
  let warn := 2 ^ rf s0 (crlA 0x038) 54 5
  let evac := 2 ^ rf s0 (crlA 0x038) 49 5
  let s := modCrl s fun c => { c with wear := tset 0 c.wear p new }
  let s := if old < warn ∧ warn ≤ new then raiseCrl s 0x0C09 0 none [(0, 1, p), (4, 4, new)] else s
  if old < evac ∧ evac ≤ new then report s 3 else s

/-- What the events of the ended interval add to part `p` (R390, Table 14-8): class 6 counts 65,536 corrected codewords of a link. -/
def wearAdd (s : State) (p : Nat) : Nat :=
  (((s.faults.drop s.wearMark).filter fun f => wearPart s f == p).filterMap wearClass).foldl (fun a k => a + wearW s k) 0 +
    if p < 24 then wearW s 6 * (rg s (lnkA p 0x048) / 65536 - tget 0 s.crl.fec p) else 0

/-- WEAR_UPDATE (R390): every 156,250 tt after launch, once. -/
def execWearUpdate (s : State) : Host.Outcome State Fault Refusal :=
  .next (
    if !launched s || ttc s - launchT s = 0 || (ttc s - launchT s) % 156250 ≠ 0 || s.crl.wearAt = ttc s then s
    else
      (List.range 128).foldl (fun u p => if wearAdd s p = 0 ∧ tget 0 u.crl.wear p = 0 then u else wearStep s u (wearAdd s p) p)
        (modCrl { s with wearMark := s.faults.length } fun c => { c with wearAt := ttc s, fec := (List.range 24).foldl (fun x n => tset 0 x n (rg s (lnkA n 0x048) / 65536)) c.fec }))

/-! ### SECCHK (R449) -/

/-- SEC_ registers. -/
def secA (off : Nat) : Nat := 0x020000018000 + off

/-- A SECCHK of device `x` that bars the launch (R449). -/
def secBadOf (s : State) (reason peer own x : Nat) : State :=
  bump (modCrl (raise s 0x0F06 4 0x0C x 0xFFFF (det [(0, 1, reason), (4, 4, peer), (8, 4, own)])) fun c => { c with secBad := true }) (secA 0x010) 48 16

/-- SECCHK (R449): compared before launch; the later one of a sender is used. -/
def execSecchk (_link : Fin 24) (sender dest : BitVec 16) (plan : BitVec 64) (par fw : BitVec 32) (s : State) : Host.Outcome State Fault Refusal :=
  .next (
    if dest.toNat ≠ myIx s then
      match tget [] s.routes dest.toNat with
      | n :: _ => sendMgmt s n 2 2 [BitVec.ofNat 1024 (pack [(0, 8, 0x30), (16, 16, sender.toNat), (32, 16, dest.toNat), (64, 64, plan.toNat), (128, 32, par.toNat), (160, 32, fw.toNat)]), 0]
      | [] => s
    else if launched s then s
    else
      let x := sender.toNat
      let s := modCrl (bump s (secA 0x000) 32 8) fun c => { c with secOk := ascending (x :: c.secOk) }
      let ownP := rf s (parA 0x034) 0 32
      let ownF := rf s (secA 0x000) 0 32
      if plan.toNat ≠ rg s (parA 0x028) then secBadOf s 1 par.toNat ownP x
      else if ownP < par.toNat then secBadOf s 2 par.toNat ownP x
      else if ownF < fw.toNat then secBadOf s 3 fw.toNat ownF x
      else s)

/-- SECCHK has arrived from the twin and every train member, and none forbids launch (R449). -/
def secReady (s : State) : Bool :=
  !s.crl.secBad && ((s.train.map (·.2)) ++ (twinOf s).toList).all fun d => d == myIx s || s.crl.secOk.contains d

end Sys2Proof.Machine
end

