-- ==== Sys2Proof/Machine/Sequence.lean ====
section
/-!
DEFINITION. Machine/Sequence.lean: the sequencer's commands (R126 to R138, R141, R142, R152) with their completion
events, and the issue of every engine command: its job, its counters and its paths.
-/
namespace Sys2Proof.Machine
open Sys2Proof

/-! ### Shared issue -/

/-- The job of a command that issues now. -/
def jobOf (s : State) (h : Iss) (i : Instr) (term : Nat) (descs : List (BitVec 64)) : Job :=
  { noJob with
    cmd := i, core := h.core.val, strm := h.strm.val, index := h.index.toNat, t0 := now s, term := term, descs := descs,
    audit := tget 0 (core s h.core.val).audit (32768 * h.strm.val + h.index.toNat) }

/-- A command that addresses memory through the counters of a counter group (e: engine, or 9 for the sequencer; `lo` the
first counter the selections name): the terms of its issue cycle, its meaning, then its increments, which a skipped or
overlapped command makes as well (R92, R94, R124, R151; log entry 9). -/
def issueCmd (h : Iss) (i : Instr) (e lo cuse cinc : Nat) (run : Bool → Nat → State → State) (s : State) : State :=
  whenDue s h i fun skip s =>
    incCtrs (run skip (wrapN 41 (terms s h.core.val e lo cuse)) s) h.core.val e lo cinc

/-- Paths are taken, and a command that executes starts its job (R91, R92). -/
def runOn (h : Iss) (e : Nat) (ps : List (Nat × Nat)) (skip : Bool) (s : State) (go : State → State) : State :=
  let r := takePaths s h.core.val e h.index.toNat ps
  if r.1 && !skip then go r.2 else r.2

/-- The engine a SETC names: 0-6 and the sequencer (9) in the core stream, the stream's own blowpipe in a blowpipe
stream (R142, R151). -/
def setcEng (h : Iss) (tgt : Nat) : Nat := if h.strm = 0 then (if tgt = 15 then 9 else tgt) else 7 + bpOf h.strm.val

/-! ### Segments (R130, R133) -/

/-- SEGMENT_START (R130): cycle phase 0 of the armed tick. -/
def execSegmentStart (c : Fin 60) (k : Fin 5) (s : State) : Host.Outcome State Fault Refusal :=
  .next (if startDue s c.val k.val then startSeg s c.val k.val else s)

/-- NOP (R141) holds nothing. -/
def execNop (h : Iss) (s : State) : Host.Outcome State Fault Refusal :=
  .next (whenDue s h (.nop h) fun _ s => s)

/-- SEG END (R122, R130). -/
def execSegEnd (h : Iss) (s : State) : Host.Outcome State Fault Refusal :=
  .next (whenDue s h (.segEnd h) fun skip s =>
    if skip then s else modStrm s h.core.val h.strm.val fun x => { x with running := false })

/-- The loop register after a SEG LOOP, and whether it jumps (R133). -/
def loopStep (r : LoopReg) (target count : Nat) : LoopReg × Bool :=
  if !r.active then
    if count = 1 then (r, false) else ({ active := true, target := target, remain := count - 2 }, true)
  else if r.remain = 0 then ({ r with active := false }, false)
  else ({ r with remain := r.remain - 1 }, true)

/-- SEG LOOP (R133). -/
def execSegLoop (h : Iss) (level : Bool) (target : BitVec 15) (count : BitVec 16) (s : State) : Host.Outcome State Fault Refusal :=
  .next (whenDue s h (.segLoop h level target count) fun skip s =>
    if skip then s
    else
      let c := h.core.val
      let k := h.strm.val
      let r := loopStep (if level then (strm s c k).loop1 else (strm s c k).loop0) target.toNat (count.toNat + 1)
      modStrm s c k fun x =>
        let x := if level then { x with loop1 := r.1 } else { x with loop0 := r.1 }
        if r.2 then { x with ix := target.toNat } else x)

/-- SEG ARM (R130, R131): judged with the other arms of its cycle. -/
def execSegArm (h : Iss) (nf : Bool) (ix : BitVec 15) (tick : BitVec 23) (s : State) : Host.Outcome State Fault Refusal :=
  .next (whenDue s h (.segArm h nf ix tick) fun skip s =>
    if skip then s
    else addAct s { cyc := now s, core := h.core.val, job := 0, op := .arm h.strm.val false 0 { nextFrame := nf, index := ix.toNat, tick := tick.toNat } })

/-! ### ATTICK and the waits (R135 to R138, R152) -/

/-- A stream starts to wait, and completes in its issue cycle where the condition holds. -/
def startWait (s : State) (h : Iss) (w : WaitFor) : State :=
  waitTry (modStrm s h.core.val h.strm.val fun x => { x with wait := some w }) h.core.val h.strm.val

/-- ATTICK (R138). -/
def execAttick (h : Iss) (tick : BitVec 23) (s : State) : Host.Outcome State Fault Refusal :=
  .next (whenDue s h (.attick h tick) fun skip s =>
    if skip then s
    else if 8 * tick.toNat < frameCyc s then
      let c := h.core.val
      abandon (bump (raiseStrm s c h.strm.val 0x0403 2 [(4, 2, h.index.toNat), (8, 3, tick.toNat), (12, 4, frameCyc s)]) (cmdA c 0x018) 32 16) c h.strm.val
    else startWait s h (.tick tick.toNat))

/-- A completion event of a wait: where the stream waits as the event says, it completes if its condition holds. -/
def tryNow (s : State) (c k : Nat) (p : WaitFor → Bool) : State :=
  match (strm s c k).wait with
  | some w => if p w && !waitOver s w then waitTry s c k else s
  | none => s

/-- A deadline event of a wait. -/
def missNow (s : State) (c k : Nat) (p : WaitFor → Bool) : State :=
  match (strm s c k).wait with
  | some w => if p w && waitOver s w then waitMiss s c k w else s
  | none => s

/-- A wait of WAITC. -/
def WaitFor.isC : WaitFor → Bool
  | .ccnt _ _ _ => true
  | _ => false
/-- A wait of a core-stream WAITQ. -/
def WaitFor.isQ : WaitFor → Bool
  | .ready _ _ _ _ => true
  | _ => false
/-- A wait of a blowpipe-stream WAITQ. -/
def WaitFor.isF : WaitFor → Bool
  | .fill _ _ _ => true
  | _ => false
/-- A wait of ATTICK. -/
def WaitFor.isT : WaitFor → Bool
  | .tick _ => true
  | _ => false

/-- ATTICK_COMPLETE (R138): cycle phase 0 of tick T. -/
def execAttickComplete (c : Fin 60) (k : Fin 5) (s : State) : Host.Outcome State Fault Refusal :=
  .next (tryNow s c.val k.val WaitFor.isT)

/-- WAITC (R135). -/
def execWaitc (h : Iss) (k : BitVec 6) (n : BitVec 32) (d : BitVec 23) (s : State) : Host.Outcome State Fault Refusal :=
  .next (whenDue s h (.waitc h k n d) fun skip s => if skip then s else startWait s h (.ccnt k.toNat n.toNat d.toNat))

/-- WAITC_COMPLETE (R135). -/
def execWaitcComplete (c : Fin 60) (p : Fin 8) (s : State) : Host.Outcome State Fault Refusal :=
  .next (whenAt s p.val fun s => tryNow s c.val 0 WaitFor.isC)

/-- WAITC_MISSED (R137): cycle phase 0 of the deadline tick. -/
def execWaitcMissed (c : Fin 60) (s : State) : Host.Outcome State Fault Refusal :=
  .next (missNow s c.val 0 WaitFor.isC)

/-- WAITQ of the core stream (R136). -/
def execWaitq (h : Iss) (bp : Fin 2) (q : BitVec 2) (n : BitVec 32) (d : BitVec 23) (s : State) : Host.Outcome State Fault Refusal :=
  .next (whenDue s h (.waitq h bp q n d) fun skip s => if skip then s else startWait s h (.ready bp.val q.toNat n.toNat d.toNat))

/-- WAITQ_COMPLETE (R136). -/
def execWaitqComplete (c : Fin 60) (p : Fin 8) (s : State) : Host.Outcome State Fault Refusal :=
  .next (whenAt s p.val fun s => tryNow s c.val 0 WaitFor.isQ)

/-- WAITQ_MISSED (R137, R152): a WAITQ of any stream. -/
def execWaitqMissed (c : Fin 60) (k : Fin 5) (s : State) : Host.Outcome State Fault Refusal :=
  .next (missNow s c.val k.val fun w => w.isQ || w.isF)

/-- WAITQ of a blowpipe stream (R152). -/
def execBpWaitq (h : Iss) (q : BitVec 2) (n : BitVec 7) (d : BitVec 23) (s : State) : Host.Outcome State Fault Refusal :=
  .next (whenDue s h (.bpWaitq h q n d) fun skip s => if skip then s else startWait s h (.fill q.toNat n.toNat d.toNat))

/-- WAITQ_COMPLETE of a blowpipe stream (R152). -/
def execBpWaitqComplete (c : Fin 60) (k : Fin 5) (p : Fin 8) (s : State) : Host.Outcome State Fault Refusal :=
  .next (whenAt s p.val fun s => tryNow s c.val k.val WaitFor.isF)

/-! ### SETC (R142, R151) -/

/-- SETC COUNTER (R94, R142). -/
def execSetcCounter (h : Iss) (tgt : BitVec 4) (j : BitVec 2) (v l st : BitVec 16) (s : State) : Host.Outcome State Fault Refusal :=
  .next (whenDue s h (.setcCounter h tgt j v l st) fun skip s =>
    if skip then s else setCtr s h.core.val (setcEng h tgt.toNat) j.toNat { val := v, lim := l, stride := st })

/-- SETC COMPARATOR (R95, R142). -/
def execSetcComparator (h : Iss) (tgt : BitVec 4) (cmp en : Bool) (k r : BitVec 2) (pred : BitVec 3) (v : BitVec 16) (s : State) : Host.Outcome State Fault Refusal :=
  .next (whenDue s h (.setcComparator h tgt cmp en k r pred v) fun skip s =>
    if skip then s
    else modCore s h.core.val fun x => { x with cmps := tset {} x.cmps (2 * setcEng h tgt.toNat + b2n cmp) { en := en, pred := pred, ctr := k, rel := r, val := v } })

/-- SETC DESCRIPTOR (R142): a vector engine's table or the SE's. -/
def execSetcDescriptor (h : Iss) (tgt : BitVec 4) (ix : BitVec 6) (v : BitVec 64) (s : State) : Host.Outcome State Fault Refusal :=
  .next (whenDue s h (.setcDescriptor h tgt ix v) fun skip s =>
    if skip then s else modCore s h.core.val fun x => { x with descs := tset 0 x.descs (64 * (tgt.toNat - 4) + ix.toNat) v })

/-- SETC CCOUNT (R142, Table 5-6): the increments of its cycle are lost. -/
def execSetcCcount (h : Iss) (k : BitVec 6) (v : BitVec 32) (s : State) : Host.Outcome State Fault Refusal :=
  .next (whenDue s h (.setcCcount h k v) fun skip s =>
    if skip then s else addAct s { cyc := now s, core := h.core.val, job := 0, op := .ccSet k.toNat v.toNat })

/-! ### Command memories' scrub ports (R156) -/

/-- COMMAND_SCRUB_VISIT (R156): every 32nd cycle, the next word in ascending order; a corrected word is rewritten, an
uncorrectable one is recorded and abandons nothing. -/
def execCommandScrubVisit (c : Fin 60) (m : Fin 5) (p : Fin 8) (s : State) : Host.Outcome State Fault Refusal :=
  .next (whenAt s p.val fun s =>
    let size := if m = 0 then 32768 else 2048
    let ix := tget 0 (core s c.val).cmdScrub m.val
    let w := cmdMark s c.val m.val ix
    let s1 :=
      if w = 0 then s
      else if w < 1024 then fixWord s c.val m.val ix
      else bump (raiseStrm s c.val m.val 0x0408 3 [(4, 2, ix)]) (cmdA c.val 0x020) 16 16
    if now s % 32 = 0 then modCore s1 c.val fun x => { x with cmdScrub := tset 0 x.cmdScrub m.val ((ix + 1) % size) } else s)

end Sys2Proof.Machine
end

