-- ==== Sys2Proof/Machine/Blowpipe.lean ====
section
/-!
DEFINITION. Machine/Blowpipe.lean: the blowpipe streams' commands (R150 to R153, R209 to R216, R242 to R245), the
arrivals and deliveries they cause, and the stacks' own events: refresh, activation windows, patrol, temperature.
-/
namespace Sys2Proof.Machine
open Sys2Proof

/-! ### Access stream: DRAM (R209 to R211) -/

/-- The loop-counter selection of a blowpipe command as counter bits from its first counter on. -/
def buSel (x : BitVec 2) : Nat := x.toNat

/-- The blowpipe engine of a command (Table 0-8). -/
def bpEng (h : Iss) : Nat := 7 + bpOf h.strm.val

/-- Entry address k of an RD or WR (R209). -/
def dramEntryAt (o : DramOp) (term k : Nat) : Nat := (((o.addr.toNat : Int) + (k : Int) * sext 16 o.stride.toNat + (term : Int)) % (2 ^ 41 : Nat)).toNat

/-- RD (R209). -/
def execRd (h : Iss) (o : DramOp) (s : State) : Host.Outcome State Fault Refusal :=
  let i := Instr.rd h o
  .next (issueCmd h i (bpEng h) 0 (buSel o.bu.cuse) (buSel o.bu.cinc) (fun skip term s =>
    let n := o.count.toNat + 1
    let t := now s
    runOn h (bpEng h) [(10, cdiv n 4)] skip s fun s =>
      startJob s (jobOf s h i term []) ((List.range n).flatMap fun k =>
        [(t + k / 4, Micro.dReq false (dramEntryAt o term k) k), (t + k / 4 + 104, .qPut (bpOf h.strm.val) o.q.toNat k)])) s)

/-- WR (R210): pops and requests in the same cycles. -/
def execWr (h : Iss) (o : DramOp) (s : State) : Host.Outcome State Fault Refusal :=
  let i := Instr.wr h o
  .next (issueCmd h i (bpEng h) 0 (buSel o.bu.cuse) (buSel o.bu.cinc) (fun skip term s =>
    let n := o.count.toNat + 1
    let t := now s
    runOn h (bpEng h) [(10, cdiv n 4)] skip s fun s =>
      startJob s (jobOf s h i term []) ((List.range n).flatMap fun k =>
        [(t + k / 4, Micro.qPop (bpOf h.strm.val) o.q.toNat k), (t + k / 4, .dReq true (dramEntryAt o term k) k)])) s)

/-- The request cycles of a GATHER from its issue, as (index, entry, cycle) (R215). -/
def gatherReqs (o : GatherOp) (t : Nat) : List (Nat × Nat × Nat) :=
  let rb := o.rb.toNat + 1
  (List.range (o.count.toNat + 1)).flatMap fun m => (List.range rb).map fun e => (m, e, t + 2 + m * (cdiv rb 4 + 47) + e / 4)

/-- A GATHER with a request outside a window of its own blowpipe: the window it meets, or 0xFF (R216). -/
def gatherBreach (s : State) (x : Job) (o : GatherOp) : Option Nat :=
  (gatherReqs o (frameCyc s)).findSome? fun r =>
    match gatherWin s (siteOf x.core) (r.2.2 / 8) with
    | some (w, b) => if b = sitePipe x then none else some w
    | none => some 0xFF

/-- GATHER (R215, R216). -/
def execGather (h : Iss) (o : GatherOp) (s : State) : Host.Outcome State Fault Refusal :=
  let i := Instr.gather h o
  .next (issueCmd h i (bpEng h) 0 (buSel o.bu.cuse) (buSel o.bu.cinc) (fun skip term s =>
    let rb := o.rb.toNat + 1
    let n := o.count.toNat + 1
    let pg := cdiv rb 4 + 47
    let t := now s
    let hold := 2 + (n - 1) * pg + cdiv rb 4
    runOn h (bpEng h) [(10, hold)] skip s fun s =>
      let x := jobOf s h i term []
      let b := gatherBreach s x o
      let s := match b with
        | some w => raiseBreach s { who := sitePipe x, core := x.core, strm := x.strm, index := x.index, job := 0, key := 0, wr := false, entry := siteOf x.core * 2 ^ 28, gather := true } w
        | none => s
      startJob s x
        (((List.range (cdiv n 32)).map fun j => (t + 32 * pg * j, Micro.qPop (bpOf h.strm.val) o.qi.toNat (idxKey + j))) ++
         ((gatherReqs o t).flatMap fun r => (if b.isSome then [] else [(r.2.2, Micro.gReq r.1 r.2.1)]) ++ [(r.2.2 + 104, .qPut (bpOf h.strm.val) o.qo.toNat (r.1 * rb + r.2.1))]) ++
         [(t + hold - 1, .done)])) s)

/-- The job of an act enters entries that RD or GATHER requested. -/
def isFetch (s : State) (a : Act) : Bool :=
  match (job s a.job).cmd with
  | .rd _ _ => true
  | .gather _ _ => true
  | _ => false

/-- The micro-operation is the arrival of an entry at a queue. -/
def isPut (b q : Nat) : Micro → Bool
  | .qPut b' q' _ => b' == b && q' == q
  | _ => false

/-- The arrivals at a queue that a test selects. The pops of the cycle, those of commands that issue later in it too, come
first (Table 5-6): the entry enters the queue as the cycle ends. -/
def arrive (s : State) (c b q : Nat) (sel : Act → Bool) : State :=
  fire s fun a => a.core == c && sel a && isPut b q a.op

/-- RD_ENTRY_ARRIVAL (R209, R215): the entries of RD and GATHER due in this cycle enter their queue. -/
def execRdEntryArrival (c : Fin 60) (b : Fin 2) (q : BitVec 2) (p : Fin 8) (s : State) : Host.Outcome State Fault Refusal :=
  .next (whenAt s p.val fun s => arrive s c.val b.val q.toNat (isFetch s))

/-! ### Access stream: BAUs (R214, R245) -/

/-- BAUQ (R214). -/
def execBauq (h : Iss) (q : BitVec 2) (ch : BitVec 6) (count : BitVec 8) (ofs : BitVec 7) (s : State) : Host.Outcome State Fault Refusal :=
  let i := Instr.bauq h q ch count ofs
  .next (issueCmd h i (bpEng h) 0 0 0 (fun skip term s =>
    let n := count.toNat + 1
    let t := now s
    runOn h (bpEng h) [(10, n)] skip s fun s =>
      startJob s (jobOf s h i term []) ((List.range n).flatMap fun k =>
        [(t + k, Micro.qPop (bpOf h.strm.val) q.toNat k), (t + k + 4, .qbPut (siteOf h.core.val * 64 + ch.toNat) (ofs.toNat + k) k)])) s)

/-- A BAUOP (R245): it holds the request port for one cycle and starts four cycles later. -/
def bauIssue (h : Iss) (i : Instr) (s : State) : Host.Outcome State Fault Refusal :=
  .next (issueCmd h i (bpEng h) 0 0 0 (fun skip term s =>
    runOn h (bpEng h) [(10, 1)] skip s fun s => startJob s (jobOf s h i term []) [(now s + 4, Micro.bauStart)]) s)

/-- BAUOP NOP (R245) holds nothing of the BAU. -/
def execBauNop (h : Iss) (o : BauOp) (s : State) : Host.Outcome State Fault Refusal := bauIssue h (.bauNop h o) s
/-- BAUOP ATTEND (R245 to R247). -/
def execAttend (h : Iss) (o : BauOp) (s : State) : Host.Outcome State Fault Refusal := bauIssue h (.attend h o) s
/-- BAUOP KVPUT (R245, R252). -/
def execKvput (h : Iss) (o : BauOp) (s : State) : Host.Outcome State Fault Refusal := bauIssue h (.kvput h o) s
/-- BAUOP PCOPY (R245, R254). -/
def execPcopy (h : Iss) (o : BauOp) (s : State) : Host.Outcome State Fault Refusal := bauIssue h (.pcopy h o) s
/-- BAUOP PZERO (R245). -/
def execPzero (h : Iss) (o : BauOp) (s : State) : Host.Outcome State Fault Refusal := bauIssue h (.pzero h o) s
/-- BAUOP SLOUT (R245). -/
def execSlout (h : Iss) (o : BauOp) (s : State) : Host.Outcome State Fault Refusal := bauIssue h (.slout h o) s
/-- BAUOP SLIN (R244, R245). -/
def execSlin (h : Iss) (o : BauOp) (s : State) : Host.Outcome State Fault Refusal := bauIssue h (.slin h o) s

/-- ATTEND_DELIVERY (Table 9-7): the entries of ATTEND due in this cycle enter their queue. -/
def execAttendDelivery (c : Fin 60) (b : Fin 2) (q : BitVec 2) (p : Fin 8) (s : State) : Host.Outcome State Fault Refusal :=
  .next (whenAt s p.val fun s => arrive s c.val b.val q.toNat fun a => match (job s a.job).cmd with | .attend _ _ => true | _ => false)

/-! ### Execute stream (R153) -/

/-- DLV (R153). -/
def execDlv (h : Iss) (bu : BU) (q : BitVec 2) (count : BitVec 8) (dst : BitVec 16) (s : State) : Host.Outcome State Fault Refusal :=
  let i := Instr.dlv h bu q count dst
  let b := bpOf h.strm.val
  .next (issueCmd h i (bpEng h) 2 (buSel bu.cuse) (buSel bu.cinc) (fun skip term s =>
    let n := count.toNat + 1
    let t := now s
    runOn h (bpEng h) [(12, cdiv n 4)] skip s fun s =>
      startJob s (jobOf s h i term []) ((List.range n).flatMap fun k =>
        [(t + k / 4, Micro.qPop b q.toNat k), (t + k / 4 + 1, .wrRow 5 (dst.toNat + term + k) k), (t + k / 4 + 1, .qReady b q.toNat k)])) s)

/-- DLVS (R153, R189). -/
def execDlvs (h : Iss) (q : BitVec 2) (count : BitVec 8) (spool : BitVec 5) (s : State) : Host.Outcome State Fault Refusal :=
  let i := Instr.dlvs h q count spool
  let b := bpOf h.strm.val
  .next (issueCmd h i (bpEng h) 2 0 0 (fun skip term s =>
    let n := count.toNat + 1
    let t := now s
    runOn h (bpEng h) [(12, cdiv n 4)] skip s fun s =>
      startJob s (jobOf s h i term []) ((List.range n).flatMap fun k =>
        [(t + k / 4, Micro.qPop b q.toNat k), (t + k / 4 + 1, .spPush spool.toNat k), (t + k / 4 + 1, .qReady b q.toNat k)])) s)

/-- DROP (R150, R153): it names no path, since it writes nothing (log entry 11). -/
def execDrop (h : Iss) (q : BitVec 2) (count : BitVec 8) (s : State) : Host.Outcome State Fault Refusal :=
  let i := Instr.drop h q count
  let b := bpOf h.strm.val
  .next (issueCmd h i (bpEng h) 2 0 0 (fun skip term s =>
    let t := now s
    if skip then s
    else startJob s (jobOf s h i term []) ((List.range (count.toNat + 1)).flatMap fun k =>
        [(t + k / 4, Micro.qPop b q.toNat k), (t + k / 4, .qReady b q.toNat k)])) s)

/-! ### The stacks' own events (R219 to R222, R225) -/

/-- O_c + ⌊b·P/16⌋ of a bank (R219). -/
def refreshOfs (s : State) (k ch b : Nat) : Nat := rf s (drmA k (0x100 + 8 * ch)) 0 6 + b * rf s (drmA k 0x018) 0 10 / 16

/-- A refresh begins: the row closes, and the bank is busy for 160 cycles (R220). -/
def refreshNow (s : State) (k ch b : Nat) : State :=
  modBank s ((k * 64 + ch) * 16 + b) fun x => { x with openRow := none, refUntil := now s + 160 }

/-- REFRESH_START (R219, R220): cycle phase 0 of a planned tick; inside a gather window it is deferred, each
one that falls due there. -/
def execRefreshStart (k : Fin 12) (ch : Fin 64) (b : Fin 16) (s : State) : Host.Outcome State Fault Refusal :=
  .next (
    let t := frameTick s
    let o := refreshOfs s k.val ch.val b.val
    if launched s && s.phase == 0 && decide (o ≤ t) && (t - o) % max 1 (rf s (drmA k.val 0x018) 0 10) == 0 then
      if (gatherWin s k.val t).isSome then
        let x := (k.val * 64 + ch.val) * 16 + b.val
        if (dbank s x).defAt = now s + 1 then s
        else modChan (modBank s x fun x => { x with defAt := now s + 1 }) (k.val * 64 + ch.val) fun c => { c with deferred := c.deferred ++ [b.val] }
      else refreshNow s k.val ch.val b.val
    else s)

/-- DEFERRED_REFRESH (R220): from the window's end tick, in slot order, one of a channel starting per tick. -/
def execDeferredRefresh (k : Fin 12) (ch : Fin 64) (s : State) : Host.Outcome State Fault Refusal :=
  .next (
    let i := k.val * 64 + ch.val
    match (chan s i).deferred with
    | b :: t =>
      if s.phase == 0 && (gatherWin s k.val (frameTick s)).isNone && (chan s i).lastDef != now s + 1 then
        refreshNow (modChan s i fun c => { c with deferred := t, lastDef := now s + 1 }) k.val ch.val b
      else s
    | [] => s)

/-- ACTIVATION_WINDOW_START (R222): at LAUNCH_TTC + i·W_A every bank's count restarts; the channel keeps its highest. -/
def execActivationWindowStart (k : Fin 12) (s : State) : Host.Outcome State Fault Refusal :=
  .next (
    if launched s && s.phase == 0 && (ttc s - launchT s) % max 1 (rf s (drmA k.val 0x020) 0 16) == 0 then
      s.dbanks.foldl (fun s e =>
        if e.1 / 1024 = k.val then
          let s1 := modChan s (e.1 / 16) fun c => { c with actPeak := max c.actPeak (dbank s e.1).acts }
          modBank s1 e.1 fun b => { b with acts := 0 }
        else s) s
    else s)

/-- The bank of channel entry n (R206, R225). -/
def patrolBank (n : Nat) : Nat := n / 16 % 16

/-- A patrol read of channel entry n now, with its write-back two cycles later (R225). -/
def patrolGo (s : State) (i : Instr) (k ch n : Nat) : State :=
  let e := k * 2 ^ 28 + n * 64 + ch
  startJob s { noJob with cmd := i, core := 5 * k, t0 := now s } [(now s, .dReq false e 0), (now s + 2, .dReq true e 0)]

/-- The present cycle and the write-back two cycles later lie in the stack's background window (R39, R225). -/
def patrolFits (s : State) (k : Nat) : Bool := inBackground s k (frameTick s) && (decide (s.phase < 6) || inBackground s k (frameTick s + 1))

/-- PATROL_READ (R225): in the background window, ENTRIES entries of each channel per frame in ascending order; entries
of a bank in refresh are skipped and made up at the end of the share, in a later frame where this one's ends first (R39).
A failed channel is passed over (log entry 64); in the frame before a swap the copy takes the patrol's place (R315). -/
def execPatrolRead (k : Fin 12) (ch : Fin 64) (p : Fin 8) (s : State) : Host.Outcome State Fault Refusal :=
  .next (whenAt s p.val fun s =>
    let i := k.val * 64 + ch.val
    let c := chan s i
    let cmd := Instr.patrolRead k ch p
    let busy (n : Nat) : Bool := decide (now s < (dbank s (i * 16 + patrolBank n)).refUntil)
    let share := rf s (drmA k.val 0x028) 0 20
    if !(planOn s && patrolFits s k.val) || (scheduled s).isSome then s
    else if c.patDone + c.patSkip.length < share then
      let nx (c : Chan) : Chan := { c with patPos := (c.patPos + 1) % 2 ^ 22, patPass := if c.patPos + 1 = 2 ^ 22 then min (2 ^ 32 - 1) (c.patPass + 1) else c.patPass }
      if chanFailed s (k.val * 2 ^ 28 + ch.val) then modChan s i fun c => nx { c with patDone := c.patDone + 1 }
      else if busy c.patPos then modChan s i fun c => nx { c with patSkip := c.patSkip ++ [c.patPos] }
      else patrolGo (modChan s i fun c => nx { c with patDone := c.patDone + 1 }) cmd k.val ch.val c.patPos
    else match c.patSkip with
      | n :: t => if busy n then s else patrolGo (modChan s i fun c => { c with patDone := c.patDone + 1, patSkip := t }) cmd k.val ch.val n
      | [] => s)

/-- STACK_TEMPERATURE_READING (R221, R474). -/
def execStackTemperatureReading (k : Fin 12) (t : BitVec 8) (s : State) : Host.Outcome State Fault Refusal :=
  .next (
    let a := drmA k.val 0x008
    let g := rf s (drmA k.val 0x000) 1 2
    let limit := if g = 2 then 95 else 85
    let n := t.toNat
    let s := setRf (setRf s a 56 8 n) a 48 8 (max n (rf s a 48 8))
    let s := setRf (setRf s a 1 1 (b2n (decide (limit ≤ n)))) a 0 1 (b2n (decide (limit ≤ n + 2)))
    let s := if limit ≤ n + 2 then { raise s 0x060C 1 0x00 0 0xFFFF (det [(0, 1, k.val), (1, 1, n), (2, 1, g)]) with thermal := (s.thermal ++ [k.val]).eraseDups } else s
    let s := if limit ≤ n then raise s 0x060D 3 0x00 0 0xFFFF (det [(0, 1, k.val), (1, 1, n), (2, 1, g)]) else s
    if 105 ≤ n then thermalTrip s 0x00 0 (32 + k.val) n else s)

end Sys2Proof.Machine
end

