-- ==== Sys2Proof/Machine/CoreRegs.lean ====
section
/-!
DEFINITION. Machine/CoreRegs.lean: what the registers of a core's block read (R88, R118, R155, R173, R203): those that
show other state are computed from it, every other one is stored.
-/
namespace Sys2Proof.Machine
open Sys2Proof

/-- A register as it reads: its width in bits and its value. -/
structure RegView where
  w : Nat
  v : Nat
deriving DecidableEq, Repr

/-- A 64-bit register. -/
def r64 (v : Nat) : Option RegView := some ⟨64, v % 2 ^ 64⟩
/-- A 32-bit register. -/
def r32 (v : Nat) : Option RegView := some ⟨32, v % 2 ^ 32⟩

/-- ENG_LC_e: four counter values (Table 4-13). -/
def lcView (s : State) (c e : Nat) : Nat := pack ((List.range 4).map fun j => (16 * j, 16, (ctr s c e j).val.toNat))
/-- ENG_LCCFG_e_j. -/
def lccfgView (s : State) (c e j : Nat) : Nat := pack [(32, 16, (ctr s c e j).stride.toNat), (0, 16, (ctr s c e j).lim.toNat)]
/-- ENG_CMP_e. -/
def cmpView (s : State) (c e : Nat) : Nat :=
  pack ((List.range 2).flatMap fun i =>
    let k := tget {} (core s c).cmps (2 * e + i)
    [(32 * i + 31, 1, b2n k.en), (32 * i + 24, 3, k.pred.toNat), (32 * i + 22, 2, k.ctr.toNat), (32 * i + 20, 2, k.rel.toNat), (32 * i, 16, k.val.toNat)])
/-- ENG_ME_STAT_m: MATMULs in flight and completed loads. -/
def meStatView (s : State) (c m : Nat) : Nat :=
  let x := core s c
  let n := (x.accHolds.filter fun h => h.me == m && !h.meout && decide (now s < h.until_)).length
  pack [(4, 4, min 15 n), (1, 1, b2n (tget {} x.banks (2 * m + 1)).valid), (0, 1, b2n (tget {} x.banks (2 * m)).valid)]
/-- A next-start register (Table 5-22). -/
def nextView (n : Option NextStart) (w : Nat) : Nat :=
  match n with
  | none => 0
  | some x => pack [(63, 1, 1), (62, 1, b2n x.nextFrame), (40, w, x.index), (0, 23, x.tick)]
/-- CMD_LOOP. -/
def loopView (x : Stream) : Nat :=
  let one (r : LoopReg) : Nat := pack [(31, 1, b2n r.active), (16, 15, r.target), (0, 16, r.remain)]
  one x.loop0 + 2 ^ 32 * one x.loop1
/-- A half of BP_STRM_STAT_b. -/
def strmView (x : Stream) : Nat := pack [(31, 1, b2n x.running), (30, 1, b2n x.abandoned), (16, 11, x.pc)]
/-- BP_Q_b_q. -/
def queueView (x : Queue) : Nat := pack [(32, 32, x.ready), (31, 1, b2n x.outbound), (16, 7, x.items.length), (8, 8, x.overrun), (0, 8, x.underrun)]
/-- CRU_STAT: the marver window and the occupied entries (R184, R186). -/
def cruStatView (s : State) (c : Nat) : Nat :=
  let r := rg s (cruA c 0x020)
  let open_ := planOn s && decide (fld r 0 23 ≤ frameTick s ∧ frameTick s < fld r 23 23)
  let ve (v : Nat) : Nat := b2n (s.acts.any fun a => a.core == c && a.op == .done && (match vecOf (job s a.job).cmd with | some (_, o) => o.ve.val == v | none => false))
  pack ([(63, 1, b2n (core s c).audited), (62, 1, b2n open_), (48, 1, ve 0), (49, 1, ve 0), (50, 1, ve 1), (51, 1, ve 1)] ++
    (List.range 4).map fun e => (52 + e, 1, b2n (mentry s c e).isSome))
/-- The least of a list, 0 of none. -/
def minOf (l : List Nat) : Nat := l.tail.foldl min (l.headD 0)
/-- CRU_SCRUB_STAT: passes completed by every bank, and the lowest next row. -/
def scrubStatView (s : State) (c : Nat) : Nat :=
  let x := core s c
  pack [(32, 32, minOf ((List.range 16).map fun b => tget 0 x.scrubPass b)), (0, 12, minOf ((List.range 16).map fun b => tget 0 x.scrubRow b))]

/-- The ENG_ part of a core's block (Tables 3-7, 4-12). -/
def engReg (s : State) (c o : Nat) : Option RegView :=
  if o ∈ [0x000, 0x008, 0x010, 0x028] then r64 (rg s (engA c o))
  else if o ∈ [0x018, 0x030] then r32 (rg s (engA c o))
  else if o = 0x020 then r32 (setFld (core s c).pred.toNat 0 1 1)
  else if 0x040 ≤ o ∧ o < 0x040 + 16 * 9 then
    (if o % 16 = 0 then r64 (lcView s c ((o - 0x040) / 16)) else if o % 16 = 8 then r64 (cmpView s c ((o - 0x040) / 16)) else none)
  else if 0x100 ≤ o ∧ o < 0x110 ∧ o % 4 = 0 then r32 (meStatView s c ((o - 0x100) / 4))
  else if 0x200 ≤ o ∧ o < 0x200 + 8 * 36 ∧ o % 8 = 0 then r64 (lccfgView s c ((o - 0x200) / 32) ((o - 0x200) / 8 % 4))
  else none

/-- The CMD_ part (Table 5-21). -/
def cmdReg (s : State) (c o : Nat) : Option RegView :=
  let x := strm s c 0
  if o = 0x000 then r64 (pack [(63, 1, b2n x.running), (62, 1, b2n x.abandoned), (32, 15, x.pc), (0, 32, x.lastIssue)])
  else if o = 0x008 then r64 (nextView x.next 15)
  else if o = 0x010 then r64 (loopView x)
  else if o = 0x018 then r64 (rg s (cmdA c o))
  else if o = 0x020 then r32 (rg s (cmdA c o))
  else if o = 0x028 then r64 (lcView s c 9)
  else if 0x030 ≤ o ∧ o < 0x050 ∧ o % 8 = 0 then r64 (lccfgView s c 9 ((o - 0x030) / 8))
  else if 0x100 ≤ o ∧ o < 0x200 ∧ o % 4 = 0 then r32 (ccntOf s c ((o - 0x100) / 4))
  else none

/-- The BP_ part, of blowpipe b at offset o of its 0x100 (Table 5-21). -/
def bpReg (s : State) (c b o : Nat) : Option RegView :=
  if o = 0x00 then r64 (strmView (strm s c (2 * b + 2)) + 2 ^ 32 * strmView (strm s c (2 * b + 1)))
  else if o = 0x08 then r64 (nextView (strm s c (2 * b + 1)).next 11)
  else if o = 0x10 then r64 (nextView (strm s c (2 * b + 2)).next 11)
  else if 0x20 ≤ o ∧ o < 0x40 ∧ o % 8 = 0 then r64 (queueView (queue s c b ((o - 0x20) / 8)))
  else none

/-- The GAF_ part (Table 6-6). -/
def gafReg (s : State) (c o : Nat) : Option RegView :=
  let g := (core s c).gaf
  if o = 0x000 then r32 (setFld (rg s (gafA c o)) 1 1 (b2n g.stopped))
  else if o = 0x008 then r64 (pack [(32, 32, if g.waitTick.isSome || decide (now s < g.at_ ∧ !g.stopped) then g.cur else g.pc), (0, 32, g.busy)])
  else if o ∈ [0x010, 0x018] then r32 (rg s (gafA c o))
  else if o = 0x020 then r64 (rg s (gafA c o))
  else none

/-- The CRU_ part (Table 7-6). -/
def cruReg (s : State) (c o : Nat) : Option RegView :=
  if o = 0x000 then r64 (cruStatView s c)
  else if o = 0x030 then r64 (scrubStatView s c)
  else if o ∈ [0x008, 0x010, 0x018, 0x020, 0x028, 0x038] ∨ (0x100 ≤ o ∧ o < 0x280 ∧ o % 8 = 0) then r64 (rg s (cruA c o))
  else none

/-- A register of a core's block by its offset in the 64 KiB. -/
def coreReg (s : State) (c o : Nat) : Option RegView :=
  match o / 0x1000 with
  | 0 => engReg s c o
  | 1 => cmdReg s c (o % 0x1000)
  | 2 => if o % 0x1000 < 0x200 then bpReg s c (o / 0x100 % 2) (o % 0x100) else none
  | 3 => gafReg s c (o % 0x1000)
  | 4 => cruReg s c (o % 0x1000)
  | _ => none

/-- A 32-bit read of a core's block: a 64-bit register is wider, so it reads 0 and the block counts it (R8). An offset
that holds no register reads 0. -/
def coreRead32 (s : State) (c o : Nat) : Nat × State :=
  match coreReg s c o with
  | some ⟨32, v⟩ => (v, s)
  | _ => match coreReg s c (o / 8 * 8) with
    | some _ => (0, { s with narrow := tset 0 s.narrow (engA c 0 + o / 0x1000 * 0x1000) (tget 0 s.narrow (engA c 0 + o / 0x1000 * 0x1000) + 1) })
    | none => (0, s)

end Sys2Proof.Machine
end

