-- ==== Sys2Proof/Machine/Rv32.lean ====
section
/-!
DEFINITION. Machine/Rv32.lean: the gaffer's instruction encodings (R158, R164): RV32I, M, C, Zicsr, Zba, Zbb and the
custom-0 instructions, and what the arithmetic ones compute.
-/
namespace Sys2Proof.Machine
open Sys2Proof

/-- A decoded gaffer instruction. -/
inductive GInst where
  | lui (rd imm : Nat)
  | auipc (rd imm : Nat)
  | jal (rd ofs : Nat)
  | jalr (rd rs1 imm : Nat)
  | branch (f3 rs1 rs2 ofs : Nat)
  | load (f3 rd rs1 imm : Nat)
  | store (f3 rs1 rs2 imm : Nat)
  | opImm (f3 rd rs1 imm : Nat)
  | op (f7 f3 rd rs1 rs2 : Nat)
  | fence
  | csr (f3 csr rd rs1 : Nat)
  | ecall
  | ebreak
  | segarm (rd rs1 rs2 : Nat)
  | predw (rs1 rs2 : Nat)
  | predr (rd : Nat)
  | strld (rd rs1 word : Nat)
  | strst (rs1 rs2 word : Nat)
  | frcadd (rs1 rs2 : Nat)
  | frcld (rd rs1 : Nat)
  | waittk (rs1 : Nat)
  | illegal
deriving DecidableEq, Repr

/-- A signed reading of a 32-bit number. -/
def sw (x : Nat) : Int := sext 32 x
/-- A sign-extended field as a 32-bit number. -/
def sx (w x : Nat) : Nat := wrapN 32 (sext w x)
/-- A rotation left by n. -/
def rol32 (a n : Nat) : Nat := (a * 2 ^ (n % 32) + a / 2 ^ (32 - n % 32)) % 2 ^ 32
/-- Count of ones. -/
def cpop (a : Nat) : Nat := ((List.range 32).filter fun i => bitAt a i).length
/-- Count of leading zeros. -/
def clz32 (a : Nat) : Nat := if a = 0 then 32 else 31 - Nat.log2 a
/-- Count of trailing zeros. -/
def ctz32 (a : Nat) : Nat := (((List.range 32).find? fun i => bitAt a i)).getD 32
/-- The bytes of a word, least first. -/
def bytes4 (a : Nat) : List Nat := (List.range 4).map fun i => fld a (8 * i) 8
/-- A word from bytes. -/
def ofBytes (l : List Nat) : Nat := pack (l.zipIdx.map fun e => (8 * e.2, 8, e.1))

/-- The register operations of RV32I, M, Zba and Zbb by funct7 and funct3; none for a reserved pair. Values are 32-bit
numbers; the result is taken modulo 2^32. -/
def aluOp (f7 f3 a b : Nat) : Option Int :=
  let A := sw a
  let B := sw b
  match f7, f3 with
  | 0x00, 0 => some (A + B)
  | 0x20, 0 => some (A - B)
  | 0x00, 1 => some ((a * 2 ^ (b % 32) : Nat) : Int)
  | 0x00, 2 => some (b2n (decide (A < B)))
  | 0x00, 3 => some (b2n (decide (a < b)))
  | 0x00, 4 => some ((a ^^^ b : Nat) : Int)
  | 0x00, 5 => some ((a / 2 ^ (b % 32) : Nat) : Int)
  | 0x20, 5 => some (A / (2 ^ (b % 32) : Nat))
  | 0x00, 6 => some ((a ||| b : Nat) : Int)
  | 0x00, 7 => some ((a &&& b : Nat) : Int)
  | 0x01, 0 => some (A * B)
  | 0x01, 1 => some (A * B / (2 ^ 32 : Nat))
  | 0x01, 2 => some (A * (b : Int) / (2 ^ 32 : Nat))
  | 0x01, 3 => some ((a * b / 2 ^ 32 : Nat) : Int)
  | 0x01, 4 => some (if b = 0 then -1 else Int.tdiv A B)
  | 0x01, 5 => some (if b = 0 then -1 else ((a / b : Nat) : Int))
  | 0x01, 6 => some (if b = 0 then A else Int.tmod A B)
  | 0x01, 7 => some (if b = 0 then A else ((a % b : Nat) : Int))
  | 0x20, 4 => some (-1 - ((a ^^^ b : Nat) : Int))
  | 0x20, 6 => some ((a ||| (2 ^ 32 - 1 - b) : Nat) : Int)
  | 0x20, 7 => some ((a &&& (2 ^ 32 - 1 - b) : Nat) : Int)
  | 0x10, 2 => some ((2 * a + b : Nat) : Int)
  | 0x10, 4 => some ((4 * a + b : Nat) : Int)
  | 0x10, 6 => some ((8 * a + b : Nat) : Int)
  | 0x05, 4 => some (min A B)
  | 0x05, 5 => some ((min a b : Nat) : Int)
  | 0x05, 6 => some (max A B)
  | 0x05, 7 => some ((max a b : Nat) : Int)
  | 0x30, 1 => some ((rol32 a b : Nat) : Int)
  | 0x30, 5 => some ((rol32 a (32 - b % 32) : Nat) : Int)
  | _, _ => none

/-- The immediate operations by funct3 and the 12-bit immediate field; none for a reserved one. -/
def aluImm (f3 a imm : Nat) : Option Int :=
  match f3 with
  | 1 => match imm / 32, imm % 32 with
    | 0x00, n => aluOp 0 1 a n
    | 0x30, 0 => some (clz32 a)
    | 0x30, 1 => some (ctz32 a)
    | 0x30, 2 => some (cpop a)
    | 0x30, 4 => some (sext 8 a)
    | 0x30, 5 => some (sext 16 a)
    | _, _ => none
  | 5 =>
    if imm = 0x287 then some (ofBytes ((bytes4 a).map fun b => if b = 0 then 0 else 255))
    else if imm = 0x698 then some (ofBytes (bytes4 a).reverse)
    else match imm / 32 with
      | 0x00 => aluOp 0x00 5 a (imm % 32)
      | 0x20 => aluOp 0x20 5 a (imm % 32)
      | 0x30 => aluOp 0x30 5 a (imm % 32)
      | _ => none
  | _ => aluOp 0 f3 a (sx 12 imm)

/-- Decoding of a 32-bit encoding (R158, Table 6-3). -/
def gdecode (w : Nat) : GInst :=
  let rd := fld w 7 5
  let f3 := fld w 12 3
  let rs1 := fld w 15 5
  let rs2 := fld w 20 5
  let f7 := fld w 25 7
  let imm := fld w 20 12
  match w % 128 with
  | 0x37 => .lui rd (w / 4096 * 4096)
  | 0x17 => .auipc rd (w / 4096 * 4096)
  | 0x6F => .jal rd (sx 21 (fld w 31 1 * 2 ^ 20 + fld w 12 8 * 2 ^ 12 + fld w 20 1 * 2 ^ 11 + fld w 21 10 * 2))
  | 0x67 => if f3 = 0 then .jalr rd rs1 (sx 12 imm) else .illegal
  | 0x63 => if f3 = 2 ∨ f3 = 3 then .illegal else .branch f3 rs1 rs2 (sx 13 (fld w 31 1 * 2 ^ 12 + fld w 7 1 * 2 ^ 11 + fld w 25 6 * 2 ^ 5 + fld w 8 4 * 2))
  | 0x03 => if f3 ∈ [0, 1, 2, 4, 5] then .load f3 rd rs1 (sx 12 imm) else .illegal
  | 0x23 => if f3 < 3 then .store f3 rs1 rs2 (sx 12 (f7 * 32 + rd)) else .illegal
  | 0x13 => if (aluImm f3 0 imm).isSome then .opImm f3 rd rs1 imm else .illegal
  | 0x33 =>
    if f7 = 4 ∧ f3 = 4 then (if rs2 = 0 then .op 4 4 rd rs1 0 else .illegal)
    else if (aluOp f7 f3 0 0).isSome then .op f7 f3 rd rs1 rs2 else .illegal
  | 0x0F => if f3 < 2 then .fence else .illegal
  | 0x73 =>
    if w = 0x00000073 then .ecall else if w = 0x00100073 then .ebreak
    else if f3 = 0 ∨ f3 = 4 then .illegal else .csr f3 imm rd rs1
  | 0x0B => match f3 with
    | 0 => if f7 = 0 then .segarm rd rs1 rs2 else .illegal
    | 1 => if f7 = 0 then .predw rs1 rs2 else if f7 = 1 then .predr rd else .illegal
    | 2 => if imm < 16 then .strld rd rs1 imm else .illegal
    | 3 => if f7 < 16 then .strst rs1 rs2 f7 else .illegal
    | 4 => if f7 = 0 then .frcadd rs1 rs2 else .illegal
    | 5 => if imm = 0 then .frcld rd rs1 else .illegal
    | 6 => if imm = 0 then .waittk rs1 else .illegal
    | _ => .illegal
  | _ => .illegal

/-- Decoding of a 16-bit encoding of RV32C as the instruction it stands for. -/
def cdecode (w : Nat) : GInst :=
  let f3 := fld w 13 3
  let r := fld w 7 5
  let rs2 := fld w 2 5
  let a := 8 + fld w 7 3
  let b := 8 + fld w 2 3
  let i6 := fld w 12 1 * 32 + fld w 2 5
  let lw := fld w 10 3 * 8 + fld w 6 1 * 4 + fld w 5 1 * 64
  let j := sx 12 (fld w 12 1 * 2048 + fld w 11 1 * 16 + fld w 9 2 * 256 + fld w 8 1 * 1024 + fld w 7 1 * 64 + fld w 6 1 * 128 + fld w 3 3 * 2 + fld w 2 1 * 32)
  let br := sx 9 (fld w 12 1 * 256 + fld w 10 2 * 8 + fld w 5 2 * 64 + fld w 3 2 * 2 + fld w 2 1 * 32)
  let imm12 (x : Nat) : Nat := wrapN 12 (sext 6 x)
  match w % 4, f3 with
  | 0, 0 =>
    let n := fld w 11 2 * 16 + fld w 7 4 * 64 + fld w 6 1 * 4 + fld w 5 1 * 8
    if n = 0 then .illegal else .opImm 0 b 2 n
  | 0, 2 => .load 2 b a lw
  | 0, 6 => .store 2 a b lw
  | 1, 0 => .opImm 0 r r (imm12 i6)
  | 1, 1 => .jal 1 j
  | 1, 2 => .opImm 0 r 0 (imm12 i6)
  | 1, 3 =>
    if i6 = 0 then .illegal
    else if r = 2 then .opImm 0 2 2 (wrapN 12 (sext 10 (fld w 12 1 * 512 + fld w 6 1 * 16 + fld w 5 1 * 64 + fld w 3 2 * 128 + fld w 2 1 * 32)))
    else .lui r (wrapN 32 (sext 18 (i6 * 4096)))
  | 1, 4 => match fld w 10 2 with
    | 0 => if 32 ≤ i6 then .illegal else .opImm 5 a a i6
    | 1 => if 32 ≤ i6 then .illegal else .opImm 5 a a (0x400 + i6)
    | 2 => .opImm 7 a a (imm12 i6)
    | _ => if fld w 12 1 = 1 then .illegal else match fld w 5 2 with
      | 0 => .op 0x20 0 a a b
      | 1 => .op 0 4 a a b
      | 2 => .op 0 6 a a b
      | _ => .op 0 7 a a b
  | 1, 5 => .jal 0 j
  | 1, 6 => .branch 0 a 0 br
  | 1, 7 => .branch 1 a 0 br
  | 2, 0 => if 32 ≤ i6 then .illegal else .opImm 1 r r i6
  | 2, 2 => if r = 0 then .illegal else .load 2 r 2 (fld w 12 1 * 32 + fld w 4 3 * 4 + fld w 2 2 * 64)
  | 2, 4 =>
    if fld w 12 1 = 0 then
      (if rs2 = 0 then (if r = 0 then .illegal else .jalr 0 r 0) else .op 0 0 r 0 rs2)
    else if rs2 = 0 then (if r = 0 then .ebreak else .jalr 1 r 0)
    else .op 0 0 r r rs2
  | 2, 6 => .store 2 2 rs2 (fld w 9 4 * 4 + fld w 7 2 * 64)
  | _, _ => .illegal

/-- Latency in cycles (Table 6-1); a load or store takes its address's (`Machine/Gaffer.lean`). -/
def GInst.latency : GInst → Nat
  | .branch _ _ _ _ => 2
  | .jal _ _ => 2
  | .jalr _ _ _ => 2
  | .op f7 f3 _ _ _ => if f7 = 1 then (if f3 < 4 then 3 else 34) else 1
  | .csr _ _ _ _ => 2
  | .segarm _ _ _ => 2
  | .strst _ _ _ => 2
  | .frcadd _ _ => 2
  | .strld _ _ _ => 12
  | .frcld _ _ => 12
  | _ => 1

end Sys2Proof.Machine
end

