-- ==== Sys2Proof/Machine/Gaffer.lean ====
section
/-!
DEFINITION. Machine/Gaffer.lean: the gaffer's steps (R158 to R170), its marver accesses (R183 to R187), the scrub events
of the Crucible and the gaffer memories, Keel accesses to the Crucible window, and the injection register (R89).
-/
namespace Sys2Proof.Machine
open Sys2Proof

/-- A gaffer fault (R174). -/
def raiseGaf (s : State) (c code sev : Nat) (d : List (Nat × Nat × Nat)) : State := raiseEng s c 9 code sev d

/-- The state with a gaffer changed. -/
def modGaf (s : State) (c : Nat) (f : Gaffer → Gaffer) : State := modCore s c fun x => { x with gaf := f x.gaf }

/-- A register of the gaffer. -/
def xreg (s : State) (c r : Nat) : Nat := if r = 0 then 0 else (tget 0 (core s c).gaf.x r).toNat

/-! ### Traps and memory errors (R160, R162) -/

/-- A trap: the gaffer stops until the next frame. -/
def gafStop (s : State) (c cause tval : Nat) : State :=
  modGaf s c fun g => { g with stopped := true, mcause := BitVec.ofNat 32 cause, mepc := BitVec.ofNat 32 g.pc, mtval := BitVec.ofNat 32 tval }

/-- A trap with its record 0x0409. -/
def gafTrap (s : State) (c cause tval : Nat) : State :=
  gafStop (bump (raiseGaf s c 0x0409 2 [(4, 4, cause), (8, 4, (core s c).gaf.pc), (12, 4, tval)]) (gafA c 0x020) 48 16) c cause tval

/-- The base address of instruction (false) or data (true) memory. -/
def gafBase (d : Bool) : Nat := if d then 0x00100000 else 0
/-- The key of a memory word's check-bit state. -/
def gafKey (d : Bool) (w : Nat) : Nat := w + if d then 2 ^ 16 else 0

/-- Record and count a word's check-bit error (R162). -/
def noteGaf (s : State) (c : Nat) (d : Bool) (w : Nat) : State :=
  let m := tget 0 (core s c).gaf.bad (gafKey d w)
  let addr := gafBase d + 4 * w
  if m = 0 then s
  else if m < 1024 then
    let s := bump (raiseGaf s c 0x040A 1 [(4, 1, b2n d), (8, 4, addr), (12, 1, m - 1)]) (gafA c 0x018) (if d then 0 else 16) 8
    modGaf s c fun g => { g with bad := tset 0 g.bad (gafKey d w) 0 }
  else bump (raiseGaf s c 0x040B 3 [(4, 1, b2n d), (8, 4, addr)]) (gafA c 0x018) (if d then 8 else 24) 8

/-- The word cannot be corrected. -/
def gafBad (s : State) (c : Nat) (d : Bool) (w : Nat) : Bool := decide (1024 ≤ tget 0 (core s c).gaf.bad (gafKey d w))

/-! ### The Crucible window (R163, R185 to R187) -/

/-- 0x050C (R187). -/
def raise050C (s : State) (c addr n : Nat) : State :=
  bump (raiseTile s c 0x050C 2 [(4, 4, addr), (8, 1, n)]) (cruA c 0x008) 0 16

/-- The first marver cycle of a row's bank at or after a frame cycle. -/
def nextMarver (row fc : Nat) : Nat := fc + (bankOf row % 4 + 4 - fc % 4) % 4

/-- A frame cycle lies in the marver window. -/
def inMarver (s : State) (c fc : Nat) : Bool :=
  let r := rg s (cruA c 0x020)
  planOn s && decide (8 * fld r 0 23 ≤ fc ∧ fc < 8 * fld r 23 23)

/-- The entry that holds a row. -/
def entryOf (s : State) (c row : Nat) : Option Nat :=
  (List.range 4).find? fun e => match mentry s c e with
    | some m => m.row == row
    | none => false

/-- The entry allocated least recently. -/
def oldestEntry (s : State) (c : Nat) : Nat :=
  (((List.range 4).filterMap fun e => (mentry s c e).map fun m => (m.born, e)).foldl
    (fun (b : Option (Nat × Nat)) x => match b with | some y => if x.1 < y.1 then some x else some y | none => some x) none).elim 0 (·.2)

/-- Marks an entry for write-back. -/
def markWb (s : State) (c e : Nat) : State :=
  match mentry s c e with
  | some m => setMentry s c e (some { m with wb := true })
  | none => s

/-- A gaffer store to the Crucible window (R185, R186). -/
def gafStore (s : State) (c addr size v : Nat) : State :=
  let row := addr / 128 % 65536
  if !inMarver s c (frameCyc s) then raise050C s c addr 0
  else match entryOf s c row with
    | some e => match mentry s c e with
      | some m => setMentry s c e (some (storeIn m (addr % 128) size v))
      | none => s
    | none => match (List.range 4).find? fun e => (mentry s c e).isNone with
      | some e => setMentry s c e (some (newEntry s row (addr % 128) size v (now s)))
      | none =>
        if (core s c).mstore.isSome then bump (raiseTile s c 0x050B 2 [(4, 4, addr)]) (cruA c 0x008) 0 16
        else markWb (modCore s c fun x => { x with mstore := some { addr := addr % 0x800000, size := size, value := v } }) c (oldestEntry s c)

/-- A gaffer load from the Crucible window: it reads in its bank's next marver cycle; outside the window it returns 0
(R185, R187). -/
def gafLoad (s : State) (c rd addr size : Nat) (signed : Bool) : State :=
  let row := addr / 128 % 65536
  if inMarver s c (frameCyc s) && inMarver s c (nextMarver row (frameCyc s)) then
    modCore s c fun x => { x with mload := some { row := row, lo := addr % 128, size := size, signed := signed, rd := rd, from_ := now s } }
  else setX (raise050C s c addr 0) c rd 0

/-! ### CSRs (R170) -/

/-- Cycles since the launch tick. -/
def sinceLaunch (s : State) : Nat := (ttc s - launchT s) * 8 + s.phase

/-- A CSR's value; none where the number is not implemented (Table 6-4). -/
def csrGet (s : State) (c n : Nat) : Option Nat :=
  let g := (core s c).gaf
  match n with
  | 0xB00 => some (sinceLaunch s % 2 ^ 32)
  | 0xB80 => some (sinceLaunch s / 2 ^ 32 % 2 ^ 32)
  | 0xB02 => some (g.minstret % 2 ^ 32)
  | 0xB82 => some (g.minstret / 2 ^ 32 % 2 ^ 32)
  | 0xF14 => some c
  | 0x300 => some 0x1800
  | 0x305 => some 0
  | 0x342 => some g.mcause.toNat
  | 0x343 => some g.mtval.toNat
  | 0x341 => some g.mepc.toNat
  | 0xFC0 => some (frameTick s)
  | 0xFC1 => some (stepNo s % 2 ^ 32)
  | 0xFC2 => some g.steph.toNat
  | 0xFC3 => some (ttc s % 2 ^ 32)
  | 0xFC4 => some g.ttch.toNat
  | 0xFC5 => some (core s c).env
  | 0xFC6 => some (rf s (parA 0x000) 56 4)
  | 0x7C0 => some g.gscratch.toNat
  | _ => none

/-- Reading the lower half of a pair latches its upper half (R170). -/
def csrLatch (s : State) (c n : Nat) : State :=
  match n with
  | 0xFC1 => modGaf s c fun g => { g with steph := BitVec.ofNat 32 (stepNo s / 2 ^ 32) }
  | 0xFC3 => modGaf s c fun g => { g with ttch := BitVec.ofNat 32 (ttc s / 2 ^ 32) }
  | _ => s

/-! ### Streams and frits (R167, R169) -/

/-- The words of a stream-table entry that STRST may write (Table 13-5). -/
def strWritable (w : Nat) : Bool := decide (1 ≤ w ∧ w ≤ 11)
/-- The implemented bits of a gaffer-writable word (Table 13-5): reserved bits read 0. -/
def strMask (w v : Nat) : Nat :=
  match w with
  | 1 => v / 256 * 256
  | 2 => v % 2 ^ 24
  | 3 => v % 2 ^ 13
  | 9 => v % 2 ^ 24
  | 11 => v % 2 ^ 24
  | _ => v

/-- The stream is homed on the core. -/
def homed (s : State) (c st : Nat) : Bool := tget 0 s.home st == c + 1

/-- 0x040D or 0x040F with the count (R174). -/
def raiseStr (s : State) (c code st w d : Nat) : State :=
  bump (raiseGaf s c code 2 [(4, 2, st), (6, 1, w), (7, 1, d)]) (gafA c 0x020) 16 16

/-! ### One instruction -/

/-- Completion: the next instruction starts after the latency (R159). -/
def gafNext (s : State) (c nxt lat : Nat) : State :=
  modGaf s c fun g => { g with pc := nxt % 2 ^ 32, at_ := now s + lat, minstret := g.minstret + 1 }

/-- A result in rd, then completion. -/
def gafPut (s : State) (c rd v nxt lat : Nat) : State := gafNext (setX s c rd (BitVec.ofNat 32 v)) c nxt lat

/-- Bytes of a data-memory access. -/
def dmemGet (s : State) (c addr size : Nat) : Nat := fld (tget 0 (core s c).gaf.dmem ((addr - 0x00100000) / 4)).toNat (8 * (addr % 4)) (8 * size)

/-- A load (R160, R161). -/
def gafDoLoad (s : State) (c f3 rd addr nxt : Nat) : State :=
  let size := match f3 % 4 with | 0 => 1 | 1 => 2 | _ => 4
  let signed := decide (f3 < 4)
  if addr % size ≠ 0 then gafTrap s c 4 addr
  else if 0x00100000 ≤ addr ∧ addr < 0x00120000 then
    let w := (addr - 0x00100000) / 4
    if gafBad s c true w then gafStop (noteGaf s c true w) c 5 addr
    else gafPut (noteGaf s c true w) c rd (extend size (dmemGet s c addr size) signed).toNat nxt 2
  else if 0x01000000 ≤ addr ∧ addr < 0x01800000 then gafNext (gafLoad s c rd addr size signed) c nxt 8
  else if 0x02000000 ≤ addr ∧ addr < 0x02010000 then
    if size = 4 then
      let r := coreRead32 s c (addr - 0x02000000)
      gafPut r.2 c rd r.1 nxt 4
    else gafPut { s with narrow := tset 0 s.narrow (engA c 0 + (addr - 0x02000000) / 0x1000 * 0x1000) (tget 0 s.narrow (engA c 0 + (addr - 0x02000000) / 0x1000 * 0x1000) + 1) } c rd 0 nxt 4
  else gafTrap s c 5 addr

/-- A store (R160, R161, R162): a whole word gets fresh check bits; part of a word is read, corrected and written. -/
def gafDoStore (s : State) (c f3 addr v nxt : Nat) : State :=
  let size := 2 ^ f3
  if addr % size ≠ 0 then gafTrap s c 6 addr
  else if 0x00100000 ≤ addr ∧ addr < 0x00120000 then
    let w := (addr - 0x00100000) / 4
    if size < 4 ∧ gafBad s c true w = true then gafStop (noteGaf s c true w) c 7 addr
    else
      let s := if size < 4 then noteGaf s c true w else s
      let s := modGaf s c fun g =>
        { g with dmem := tset 0 g.dmem w (BitVec.ofNat 32 (setFld (tget 0 g.dmem w).toNat (8 * (addr % 4)) (8 * size) v)), bad := tset 0 g.bad (gafKey true w) 0 }
      gafNext s c nxt 1
  else if 0x01000000 ≤ addr ∧ addr < 0x01800000 then gafNext (gafStore s c addr size (v % 2 ^ (8 * size))) c nxt 1
  else gafTrap s c 7 addr

/-- A CSR instruction (R170): a write to a read-only CSR, or a number not implemented, traps. -/
def gafCsr (s : State) (c w f3 n rd rs1 nxt : Nat) : State :=
  let src := if f3 < 4 then xreg s c rs1 else rs1
  let writes := f3 % 4 == 1 || rs1 != 0
  match csrGet s c n with
  | none => gafTrap s c 2 w
  | some old =>
    if writes && n != 0x7C0 then gafTrap s c 2 w
    else
      let s1 := if rd = 0 ∧ f3 % 4 = 1 then s else csrLatch s c n
      let v := match f3 % 4 with | 1 => src | 2 => old ||| src | _ => old &&& (2 ^ 32 - 1 - src)
      let s2 := if writes then modGaf s1 c fun g => { g with gscratch := BitVec.ofNat 32 v } else s1
      gafPut s2 c rd old nxt 2

/-- SEGARM (R165): judged with the other arms of its cycle; the result reaches rd there. -/
def gafSegarm (s : State) (c w rd a b nxt : Nat) : State :=
  let k := a % 8
  let ix := fld a 16 15
  if 5 ≤ k ∨ (0 < k ∧ 2048 ≤ ix) then gafTrap s c 2 w
  else gafNext (addAct s { cyc := now s, core := c, job := 0, op := .arm k true rd { nextFrame := bitAt a 31, index := ix, tick := fld b 0 23 } }) c nxt 2

/-- STRLD (R167). -/
def gafStrld (s : State) (c rd a word nxt : Nat) : State :=
  let st := fld a 0 13
  if homed s c st then gafPut s c rd (seenStrm s (16 * st + word)) nxt 12
  else gafPut (raiseStr s c 0x040D st word 0) c rd 0 nxt 12

/-- STRST (R167). -/
def gafStrst (s : State) (c a v word nxt : Nat) : State :=
  let st := fld a 0 13
  let s :=
    if !homed s c st then raiseStr s c 0x040D st word 1
    else if !strWritable word then raiseStr s c 0x040F st word 0
    else { s with strmPend := tset none s.strmPend (16 * st + word) (some (BitVec.ofNat 32 (strMask word v))) }
  gafNext s c nxt 2

/-- WAITTK (R168): it writes back the marver's entries (R186). -/
def gafWaittk (s : State) (c a nxt : Nat) : State :=
  let t := frameTick s
  let s := forN 4 s fun e s => markWb s c e
  let s := if a = 0x80000000 then modGaf s c fun g => { g with busy := frameCyc s } else s
  let target := frameStartT s + fld a 0 23 + (if bitAt a 31 then frameLen s else 0)
  if target ≤ ttc s then
    gafNext (bump (raiseGaf s c 0x040C 2 [(4, 4, a), (8, 3, t)]) (gafA c 0x020) 32 16) c nxt 1
  else modGaf s c fun g => { g with pc := nxt % 2 ^ 32, waitTick := some target, minstret := g.minstret + 1 }

/-- What an instruction does (R158 to R170). -/
def gafDo (s : State) (c w len : Nat) (i : GInst) : State :=
  let pc := (core s c).gaf.pc
  let nxt := pc + len
  let X := xreg s c
  let lat := i.latency
  let w32 (x : Int) : Nat := wrapN 32 x
  match i with
  | .lui rd imm => gafPut s c rd imm nxt lat
  | .auipc rd imm => gafPut s c rd (pc + imm) nxt lat
  | .jal rd ofs => gafPut s c rd nxt (pc + ofs) lat
  | .jalr rd rs1 imm => gafPut s c rd nxt ((X rs1 + imm) % 2 ^ 32 / 2 * 2) lat
  | .branch f3 rs1 rs2 ofs =>
    let a := X rs1
    let b := X rs2
    let t := match f3 with
      | 0 => decide (a = b) | 1 => decide (a ≠ b) | 4 => decide (sw a < sw b) | 5 => decide (sw b ≤ sw a) | 6 => decide (a < b) | _ => decide (b ≤ a)
    gafNext s c (if t then pc + ofs else nxt) lat
  | .load f3 rd rs1 imm => gafDoLoad s c f3 rd ((X rs1 + imm) % 2 ^ 32) nxt
  | .store f3 rs1 rs2 imm => gafDoStore s c f3 ((X rs1 + imm) % 2 ^ 32) (X rs2) nxt
  | .opImm f3 rd rs1 imm => gafPut s c rd (w32 ((aluImm f3 (X rs1) imm).getD 0)) nxt lat
  | .op f7 f3 rd rs1 rs2 =>
    gafPut s c rd (if f7 = 4 then X rs1 % 65536 else w32 ((aluOp f7 f3 (X rs1) (X rs2)).getD 0)) nxt lat
  | .fence => gafNext s c nxt lat
  | .csr f3 n rd rs1 => gafCsr s c w f3 n rd rs1 nxt
  | .ecall => gafTrap s c 11 0
  | .ebreak => gafTrap s c 3 pc
  | .segarm rd rs1 rs2 => gafSegarm s c w rd (X rs1) (X rs2) nxt
  | .predw rs1 rs2 => gafNext (addAct s { cyc := now s + 1, core := c, job := 0, op := .predw (X rs1 % 8) (bitAt (X rs2) 0) }) c nxt lat
  | .predr rd => gafPut s c rd (setFld (core s c).pred.toNat 0 1 1) nxt lat
  | .strld rd rs1 word => gafStrld s c rd (X rs1) word nxt
  | .strst rs1 rs2 word => gafStrst s c (X rs1) (X rs2) word nxt
  | .frcadd rs1 rs2 =>
    let k := X rs1 % 4096
    gafNext { s with fritDelta := tset 0 s.fritDelta k (tget 0 s.fritDelta k + sw (X rs2)) } c nxt lat
  | .frcld rd rs1 => gafPut s c rd (seenRefs s (X rs1 % 4096)) nxt lat
  | .waittk rs1 => gafWaittk s c (X rs1) nxt
  | .illegal => gafTrap s c 2 w

/-- A halfword of instruction memory. -/
def imemHalf (s : State) (c a : Nat) : Nat := fld (tget 0 (core s c).gaf.imem (a / 4)).toNat (8 * (a % 4)) 16

/-- The encoding at the program counter, with its length. -/
def gafWord (s : State) (c : Nat) : Nat × Nat :=
  let pc := (core s c).gaf.pc
  let h := imemHalf s c pc
  if h % 4 = 3 then (h + 65536 * imemHalf s c (pc + 2), 4) else (h, 2)

/-- The instruction at the program counter. -/
def gafInst (s : State) (c : Nat) : GInst :=
  let w := gafWord s c
  if w.2 = 4 then gdecode w.1 else cdecode w.1

/-- The gaffer starts its next instruction in this cycle; it is held in the commit window before a swap (R315). -/
def gafDue (s : State) (c : Nat) : Bool :=
  let g := (core s c).gaf
  planOn s && bitAt (rg s (gafA c 0x000)) 0 && !g.stopped && g.waitTick.isNone && g.at_ == now s && !(s.crl.nextVar.isSome && inCommit s)

/-- The instruction at the program counter is fetched and executed (R160, R162). -/
def gafStep (s : State) (c : Nat) : State :=
  let pc := (core s c).gaf.pc
  let s := modGaf s c fun g => { g with cur := g.pc }
  let w := gafWord s c
  if 0x10000 < pc + w.2 then gafTrap s c 1 pc
  else
    let ws := ([pc / 4, (pc + w.2 - 1) / 4]).eraseDups
    match ws.find? fun k => gafBad s c false k with
    | some k => gafStop (noteGaf s c false k) c 1 pc
    | none => gafDo (ws.foldl (fun s k => noteGaf s c false k) s) c w.1 w.2 (gafInst s c)

/-- An instruction event: it occurs where the instruction that starts now is one the event names. -/
def gafEvent (c : Fin 60) (p : Fin 8) (f : State → GInst → Bool) (s : State) : Host.Outcome State Fault Refusal :=
  .next (whenAt s p.val fun s => if gafDue s c.val && f s (gafInst s c.val) then gafStep s c.val else s)

/-- GAFFER_INSTRUCTION (R158 to R160): whatever stands at the program counter. -/
def execGafferInstruction (c : Fin 60) (p : Fin 8) (s : State) : Host.Outcome State Fault Refusal :=
  gafEvent c p (fun _ _ => true) s

/-- GAFFER_CRUCIBLE_STORE (R185, R186). -/
def execGafferCrucibleStore (c : Fin 60) (p : Fin 8) (addr : BitVec 32) (size : Fin 3) (value : BitVec 32) (s : State) : Host.Outcome State Fault Refusal :=
  gafEvent c p (fun s i => match i with
    | .store f3 rs1 rs2 imm =>
      let a := (xreg s c.val rs1 + imm) % 2 ^ 32
      a == addr.toNat && f3 == size.val && xreg s c.val rs2 == value.toNat && decide (0x01000000 ≤ a ∧ a < 0x01800000)
    | _ => false) s

/-- GAFFER_CRUCIBLE_LOAD (R185). -/
def execGafferCrucibleLoad (c : Fin 60) (p : Fin 8) (rd : Fin 32) (addr : BitVec 32) (size : Fin 3) (signed : Bool) (s : State) : Host.Outcome State Fault Refusal :=
  gafEvent c p (fun s i => match i with
    | .load f3 r rs1 imm =>
      let a := (xreg s c.val rs1 + imm) % 2 ^ 32
      a == addr.toNat && f3 % 4 == size.val && (size.val == 2 || decide (f3 < 4) == signed) && r == rd.val && decide (0x01000000 ≤ a ∧ a < 0x01800000)
    | _ => false) s

/-- CSR_ACCESS (R170). -/
def execCsrAccess (c : Fin 60) (p : Fin 8) (f3 : BitVec 3) (csr : BitVec 12) (rd rs1 : Fin 32) (s : State) : Host.Outcome State Fault Refusal :=
  gafEvent c p (fun _ i => i == .csr f3.toNat csr.toNat rd.val rs1.val) s

/-- SEGARM (R165). -/
def execSegarm (c : Fin 60) (p : Fin 8) (rd rs1 rs2 : Fin 32) (s : State) : Host.Outcome State Fault Refusal :=
  gafEvent c p (fun _ i => i == .segarm rd.val rs1.val rs2.val) s

/-- PREDW (R166). -/
def execPredw (c : Fin 60) (p : Fin 8) (rs1 rs2 : Fin 32) (s : State) : Host.Outcome State Fault Refusal :=
  gafEvent c p (fun _ i => i == .predw rs1.val rs2.val) s

/-- PREDR (Table 6-3). -/
def execPredr (c : Fin 60) (p : Fin 8) (rd : Fin 32) (s : State) : Host.Outcome State Fault Refusal :=
  gafEvent c p (fun _ i => i == .predr rd.val) s

/-- STRLD (R167). -/
def execStrld (c : Fin 60) (p : Fin 8) (rd rs1 : Fin 32) (word : BitVec 4) (s : State) : Host.Outcome State Fault Refusal :=
  gafEvent c p (fun _ i => i == .strld rd.val rs1.val word.toNat) s

/-- STRST (R167). -/
def execStrst (c : Fin 60) (p : Fin 8) (rs1 rs2 : Fin 32) (word : BitVec 4) (s : State) : Host.Outcome State Fault Refusal :=
  gafEvent c p (fun _ i => i == .strst rs1.val rs2.val word.toNat) s

/-- FRCADD (R169). -/
def execFrcadd (c : Fin 60) (p : Fin 8) (rs1 rs2 : Fin 32) (s : State) : Host.Outcome State Fault Refusal :=
  gafEvent c p (fun _ i => i == .frcadd rs1.val rs2.val) s

/-- FRCLD (R169). -/
def execFrcld (c : Fin 60) (p : Fin 8) (rd rs1 : Fin 32) (s : State) : Host.Outcome State Fault Refusal :=
  gafEvent c p (fun _ i => i == .frcld rd.val rs1.val) s

/-- WAITTK (R168). -/
def execWaittk (c : Fin 60) (p : Fin 8) (rs1 : Fin 32) (s : State) : Host.Outcome State Fault Refusal :=
  gafEvent c p (fun _ i => i == .waittk rs1.val) s

/-- WAITTK_COMPLETE (R168): cycle phase 0 of its tick; the next instruction starts in that cycle. -/
def execWaittkComplete (c : Fin 60) (s : State) : Host.Outcome State Fault Refusal :=
  .next (
    if (core s c.val).gaf.waitTick == some (ttc s) && s.phase == 0 && planOn s && !(core s c.val).gaf.stopped then
      modGaf s c.val fun g => { g with waitTick := none, at_ := now s }
    else s)

/-- GAFFER_SCRUB_VISIT (R162): the next word in ascending order of a memory. -/
def execGafferScrubVisit (c : Fin 60) (d : Bool) (p : Fin 8) (s : State) : Host.Outcome State Fault Refusal :=
  .next (whenAt s p.val fun s =>
    let w := if d then (core s c.val).gaf.scrubD else (core s c.val).gaf.scrubI
    modGaf (noteGaf s c.val d w) c.val fun g => if d then { g with scrubD := (w + 1) % 32768 } else { g with scrubI := (w + 1) % 16384 })

/-! ### The Crucible's own events -/

/-- The marver's access of a bank in this cycle goes to an entry: it takes place with the cycle's other accesses, which it
may meet (R177, R187, R192). -/
def marverTake (s : State) (c bank e : Nat) (wb : Bool) : State :=
  addAct (modCore s c fun x => { x with marAt := tset 0 x.marAt bank (now s + 1) }) { cyc := now s, core := c, job := 0, op := .marver e wb }

/-- SCRUB_PAIR (R195): the first cycle of a pair; every bank reads its next row, and writes it back in the second. -/
def execScrubPair (c : Fin 60) (p : Fin 8) (s : State) : Host.Outcome State Fault Refusal :=
  .next (whenAt s p.val fun s =>
    let first := (frameCyc s - 8 * rf s (cruA c.val 0x028) 23 23) % 2 == 0
    let done := s.acts.any fun a => a.core == c.val && a.cyc == now s && (match a.op with | .scrubRd _ => true | _ => false)
    if planOn s && scrubCycle s c.val (frameCyc s) && first && !done then
      forN 16 s fun b s => addAct s { cyc := now s, core := c.val, job := 0, op := .scrubRd b }
    else s)

/-- MARVER_FILL_READ (R185): the entry's fill read takes its bank's marver cycle. -/
def execMarverFillRead (c : Fin 60) (e : Fin 4) (p : Fin 8) (s : State) : Host.Outcome State Fault Refusal :=
  .next (whenAt s p.val fun s => match mentry s c.val e.val with
    | some m => match marverPick s c.val (bankOf m.row) with
      | some a => if inMarver s c.val (frameCyc s) && marverCycle s c.val (bankOf m.row) (frameCyc s) && a.kind == .mfill e.val then marverTake s c.val (bankOf m.row) e.val false else s
      | none => s
    | none => s)

/-- MARVER_WRITE_BACK (R186). -/
def execMarverWriteBack (c : Fin 60) (e : Fin 4) (p : Fin 8) (s : State) : Host.Outcome State Fault Refusal :=
  .next (whenAt s p.val fun s => match mentry s c.val e.val with
    | some m => match marverPick s c.val (bankOf m.row) with
      | some a => if inMarver s c.val (frameCyc s) && marverCycle s c.val (bankOf m.row) (frameCyc s) && a.kind == .mwb e.val then marverTake s c.val (bankOf m.row) e.val true else s
      | none => s
    | none => s)

/-- MARVER_WINDOW_CLOSE (R187): entries still occupied are discarded with 0x050C; so is a held store. -/
def execMarverWindowClose (c : Fin 60) (s : State) : Host.Outcome State Fault Refusal :=
  .next (
    if planOn s && s.phase == 0 && frameTick s == rf s (cruA c.val 0x020) 23 23 then
      let n := ((List.range 4).filter fun e => (mentry s c.val e).isSome).length
      let s := modCore s c.val fun x => { x with marver := [], mstore := none }
      if n = 0 then s else raise050C s c.val 0 n
    else s)

/-- Table 0-3 lists an address. -/
def listed (a : Nat) : Bool :=
  decide (a < 0x006000000000) || decide (0x020000000000 ≤ a) ||
    (decide (0x010000000000 ≤ a) && decide (a < 0x010000000000 + 60 * 0x1000000) && decide (a % 0x1000000 < 0x800000))

/-- KEEL_CRUCIBLE_ACCESS (R7, R202): the Keel reads or writes the Crucible row at a device address; an address that Table 0-3
does not list is an address fault of the Keel. An address of DRAM or of a register lies in no Crucible window, so nothing
of a Crucible changes. -/
def execKeelCrucibleAccess (addr : BitVec 48) (write : Bool) (data : Row) (s : State) : Host.Outcome State Fault Refusal :=
  .next (
    let a := addr.toNat
    let c := (a - 0x010000000000) / 0x1000000
    let r := a % 0x1000000 / 128
    if !listed a then raise s (0x0D00 + Config.keelAddressFault.1.toNat) Config.keelAddressFault.2.val 0x0B 0 0xFFFF (det [(0, 8, a)])
    else if a < 0x010000000000 ∨ 0x020000000000 ≤ a then s
    else if planOn s && (core s c).present then
      let s := raiseTile s c 0x050E 0 [(4, 2, r)]
      if write then s else emit s (.keelRow c r 0)
    else if write then writeRow s c r data 255
    else
      let x := readChecked s c r
      emit x.2 (.keelRow c r x.1))

/-- ENG_RES_INJECT_WRITE (R89): from the Keel; a host function's write is ignored. -/
def execEngResInjectWrite (c : Fin 60) (host : Bool) (v : BitVec 32) (s : State) : Host.Outcome State Fault Refusal :=
  .next (
    let e := fld v.toNat 16 4
    let ok := e < 4 ∨ (e < 6 ∧ fld v.toNat 0 7 < 64)
    if host then s else setRg s (engA c.val 0x018) (pack [(31, 1, if ok then fld v.toNat 31 1 else 0), (16, 4, e), (0, 7, fld v.toNat 0 7)]))

/-- BRIDLE_FLIT_RECEIVE (R264, R266, R269): the flit due at an input or port end arrives, with the wire errors it took; none of
a halted device (R14). -/
def execBridleFlitReceive (pl : Fin 2) (t : Fin 72) (port : BPort) (p : Fin 8) (flip : BitVec 1024) (side : BitVec 20) (s : State) : Host.Outcome State Fault Refusal :=
  .next (whenAt s p.val fun s =>
    if s.halted then s
    else
    let k := match port with | .input i => i.val | .ejection => 8 | .linkPort => 9 | .sysPort => 10
    let s := fire s fun a => match a.op with | .flit _ => true | _ => false
    match s.flights.find? fun x => decide (x.cyc ≤ now s) && x.plane == pl.val && x.tile == t.val && x.port == k with
    | some x => receive { s with flights := s.flights.erase x } x flip side
    | none => s)

end Sys2Proof.Machine
end

