-- ==== Sys2Proof/Machine/HostCmds.lean ====
section
/-!
DEFINITION. Machine/HostCmds.lean: the commands and events of the host interface (chapter 15): the attachment, host
windows, registration requests, function-level reset, MSI-X, and the relay of a pod. Register reads are in
Machine/RegMap.lean, the Keel in Machine/Keel.lean.
-/
namespace Sys2Proof.Machine
open Sys2Proof

/-! ### Host windows (R404 to R407) -/

/-- HOST_WINDOW_START (R404): at cycle phase 0 of START. -/
def execHostWindowStart (st : Fin 12) (w : Fin 16) (s : State) : Host.Outcome State Fault Refusal :=
  .next (whenAt s 0 fun s =>
    let k := 16 * st.val + w.val
    if planOn s && isHostWin s k && frameTick s == winStart s k then startWindow s k else s)

/-- INBOUND_TRANSFER_START (R406): at the end tick of its descriptor's window. -/
def execInboundTransferStart (st : Fin 12) (w : Fin 16) (d : Fin 128) (s : State) : Host.Outcome State Fault Refusal :=
  .next (
    let k := 16 * st.val + w.val
    match xferOf s k d.val with
    | some x => if planOn s && frameTick s == winEnd s k then startInbound s x else s
    | none => s)

/-- TRANSFER_DEADLINE (R406): what is missing is late; what was not sent is discarded. -/
def execTransferDeadline (st : Fin 12) (w : Fin 16) (d : Fin 128) (s : State) : Host.Outcome State Fault Refusal :=
  .next (whenAt s 0 fun s =>
    match xferOf s (16 * st.val + w.val) d.val with
    | some x => if planOn s && frameTick s == deadlineOf s x then judgeXfer s x else s
    | none => s)

/-! ### Registration requests (R403) -/

/-- A request on an object; a second one replaces the first. -/
def regRequest (s : State) (e obj op : Nat) (vals : List Nat) : State := modSrv s e fun v => { v with req := tset none v.req obj (some (op, vals)) }
/-- The staged values of a ring: SUB_BASE, CMP_BASE, HEAD_ADDR, CONS_ADDR, RING_CFG. -/
def stagedRing (s : State) (e k : Nat) : List Nat := (List.range 5).map fun i => rg s (bar (e + 1) (0x100 + 0x40 * k + 8 * i))
/-- The staged values of a range: BASE, CFG. -/
def stagedRange (s : State) (e r : Nat) : List Nat := [rg s (bar (e + 1) (0x600 + 16 * r)), rg s (bar (e + 1) (0x608 + 16 * r))]

/-- RING_REG. An envelope whose VF is not enabled has no function (R398). -/
def execRingReg (e k : Fin 16) (s : State) : Host.Outcome State Fault Refusal :=
  .next (if vfOn s (e.val + 1) then regRequest s e.val k.val 1 (stagedRing s e.val k.val) else s)
/-- RING_UNREG. -/
def execRingUnreg (e k : Fin 16) (s : State) : Host.Outcome State Fault Refusal :=
  .next (if vfOn s (e.val + 1) then regRequest s e.val k.val 2 [] else s)
/-- RANGE_REG. -/
def execRangeReg (e : Fin 16) (r : Fin 8) (s : State) : Host.Outcome State Fault Refusal :=
  .next (if vfOn s (e.val + 1) then regRequest s e.val (16 + r.val) 1 (stagedRange s e.val r.val) else s)
/-- RANGE_UNREG. -/
def execRangeUnreg (e : Fin 16) (r : Fin 8) (s : State) : Host.Outcome State Fault Refusal :=
  .next (if vfOn s (e.val + 1) then regRequest s e.val (16 + r.val) 2 [] else s)

/-! ### Function-level reset and MSI-X (R399, R408) -/

/-- BAR0 offsets of RW fields and of the MSI-X table, which a function-level reset clears. -/
def flrClears (f off : Nat) : Bool :=
  off == 0x028 || decide (0x8000 ≤ off ∧ off < 0x9000) ||
  (if f = 0 then decide (0x200 ≤ off ∧ off < 0x240) || off == 0x300 || off == 0x308 else decide (0x100 ≤ off ∧ off < 0x680))

/-- FUNCTION_LEVEL_RESET (R399): registrations, streams, handles, frits and the ledger stand; a reset of the PF stops an
image copy, which its command answers as failed, and one of a VF a scoped REPORT (R457). -/
def execFunctionLevelReset (f : Fin 17) (s : State) : Host.Outcome State Fault Refusal :=
  .next (
    let b := bar f.val 0
    let s := { s with regs := s.regs.filter fun r => !(decide (b ≤ r.1 ∧ r.1 < b + 0x10000) && flrClears f.val (r.1 - b)) }
    let s := setRf s (cfgA f.val 0x004) 2 1 0
    if f.val = 0 then (if s.copy.isSome then kelAnswer { s with copy := none } 0x0D13 else s)
    else if s.kcmd.any (fun c => c.cmd == 1 && fld (c.args.getD 1 0) 8 5 == f.val && c.args.getD 1 0 != 0xFF) then kelAnswer s 0x0D13 else s)

/-- MSI_X_UNMASK (R408): a pending vector's message goes out. -/
def execMsiXUnmask (f : Fin 17) (v : Fin 18) (s : State) : Host.Outcome State Fault Refusal :=
  .next (
    let s := setRf s (bar f.val (0x8008 + 16 * v.val)) 32 1 0
    if bitAt (rg s (bar f.val 0x9000)) v.val && hostReach s f.val then msixSend (setRf s (bar f.val 0x9000) v.val 1 0) f.val v.val else s)

/-! ### The attachment (R397) -/

/-- A fault of the UCIe regions, 16 for modules 0 and 1, 17 for 2 and 3 (R420). -/
def raiseUcie (s : State) (code sev region : Nat) (d : List (Nat × Nat × Nat)) : State := raise s code sev 0x08 region 0xFFFF (det d)

/-- UCIE_LANE_REPAIR. -/
def execUcieLaneRepair (m : Fin 4) (lane : BitVec 8) (s : State) : Host.Outcome State Fault Refusal :=
  .next (raiseUcie s 0x0D01 1 (16 + m.val / 2) [(0, 1, m.val), (1, 1, lane.toNat)])

/-- UCIE_PAIR_FAILURE: half rate. -/
def execUciePairFailure (p : Fin 2) (s : State) : Host.Outcome State Fault Refusal :=
  .next (if s.ucie = 0 then msix { raiseUcie s 0x0D02 3 (16 + p.val) [(0, 1, p.val)] with ucie := 1 } 0 5 else s)

/-- UCIE_LINK_DOWN: every host read returns absent data and every host write is lost. -/
def execUcieLinkDown (s : State) : Host.Outcome State Fault Refusal :=
  .next (if s.ucie = 2 then s else msix { raiseUcie s 0x0D03 3 16 [(0, 1, s.ucie)] with ucie := 2 } 0 5)

/-! ### The relay of a pod (R409, R410) -/

/-- The number of a relay read: kind 0 HEAD, 2 VALID word i, 3 record i. -/
def relayTag (key kind i : Nat) : Nat := 2 ^ 40 + (key * 4 + kind) * 1024 + i
/-- A member ring's key. -/
def relayKey (r : Relay) : Nat := (r.member * 16 + r.env) * 16 + r.ring

/-- RELAY_FORWARD (R409): at RELAY_OFS of a frame that is not a replay, the lead reads a member ring's HEAD and VALID words
from the consumed word on. The host addresses are what the member registered. -/
def execRelayForward (member : BitVec 13) (env k : Fin 16) (head sub : BitVec 64) (log2 : BitVec 5) (s : State) : Host.Outcome State Fault Refusal :=
  .next (
    let key := (member.toNat * 16 + env.val) * 16 + k.val
    if podRole s ≠ 1 || !planOn s || s.vote.replay || frameTick s ≠ rf s (bar 0 0x108) 0 23 || s.relays.any (fun r => relayKey r == key) || !hostReach s 0 then s
    else
      let c := tget 0 s.relayC key
      let reads := (relayTag key 0 0, head.toNat, 8) :: (List.range (intakeMax s env.val)).map fun i => (relayTag key 2 i, sub.toNat + 256 * ((c + i) % 2 ^ log2.toNat), 8)
      let r : Relay := { member := member.toNat, env := env.val, ring := k.val, sub := sub.toNat, log2 := log2.toNat, first := c, phase := 1, out := reads.map (·.1), got := [] }
      reads.foldl (fun s x => emit s (.hostRead x.1 0 x.2.1 x.2.2)) { s with relays := s.relays ++ [r] })

/-- A value that a relay read returned. -/
def relayVal (r : Relay) (tag : Nat) : Option Nat := if r.got.any (fun g => g.1 == tag) then some (leNat (tget [] r.got tag)) else none

/-- The bodies have returned: HEAD word and records go to the member, each record in two halves; one forwarded after
RELAY_SPAN reaches the member late (R410). -/
def relayOut (s : State) (r : Relay) : State :=
  let key := relayKey r
  let s := match relayVal r (relayTag key 0 0) with
    | some h => sendRelay s 0x22 0 r.member r.env r.ring 0 0 h
    | none => s
  let s := (List.range 1024).foldl (fun s i =>
    let b := tget [] r.got (relayTag key 3 i)
    if b = [] then s
    else
      let q := r.first + i
      let s := if rf s (bar 0 0x108) 0 23 + rf s (bar 0 0x108) 23 23 < frameTick s then
          bump (raise s 0x0D08 0 0x0A 0 0xFFFF (det [(0, 2, r.member), (2, 1, r.env), (3, 1, r.ring), (8, 8, q)])) (bar 0 0x110) 48 16
        else s
      let s := sendRelay s 0x20 0 r.member r.env r.ring q 0 (leNat (b.take 128))
      sendRelay { s with podFwd := s.podFwd + 1 } 0x20 1 r.member r.env r.ring q 0 (leNat ((b.drop 128).take 128))) s
  { s with relays := s.relays.filter fun x => relayKey x != key }

/-- A relay read returns (R409): after phase 1 the bodies of the present records are read. -/
def relayRead (s : State) (tag : Nat) (d : Option (List Byte)) : State :=
  match s.relays.find? fun r => r.out.contains tag with
  | none => s
  | some r =>
    let s := if d.isNone then bump s (bar 0 0x008) 0 16 else s
    let r := { r with out := r.out.filter fun t => t != tag, got := match d with | some b => tput r.got tag b | none => r.got }
    let key := relayKey r
    let put (s : State) (r : Relay) : State := { s with relays := s.relays.map fun x => if relayKey x = key then r else x }
    if r.out ≠ [] then put s r
    else if r.phase = 2 then relayOut s r
    else
      let n := ((List.range 1024).takeWhile fun i => relayVal r (relayTag key 2 i) == some (r.first + i + 1)).length
      if n = 0 then relayOut s r
      else
        let reads := (List.range n).map fun i => (relayTag key 3 i, r.sub + 256 * ((r.first + i) % 2 ^ r.log2))
        reads.foldl (fun s x => emit s (.hostRead x.1 0 x.2 256)) (put s { r with phase := 2, out := reads.map (·.1) })

/-- A relay message for another device goes on along its route. -/
def relayIn (s : State) (type : Nat) (m : RelayMsg) (f : State → State) : State :=
  if m.dest.toNat = myIx s then f s
  else match tget [] s.routes m.dest.toNat with
    | l :: _ =>
      let n := pack [(0, 8, type), (8, 8, m.b1.toNat), (16, 16, m.sender.toNat), (32, 16, m.dest.toNat), (48, 8, m.env.toNat), (56, 8, m.ring.toNat), (64, 64, m.seq.toNat),
        (128, 64, m.addr.toNat), (256, 1792, m.payload.toNat)]
      sendMgmt s l 3 2 [BitVec.ofNat 1024 n, BitVec.ofNat 1024 (n / 2 ^ 1024)]
    | [] => s

/-- The fields of a relay payload (Table 15-6A). -/
def relayOf (rows : List Row) : RelayMsg :=
  let n := mgmtNat rows
  let f (lo w : Nat) : BitVec w := BitVec.ofNat w (fld n lo w)
  { b1 := f 8 8, sender := f 16 16, dest := f 32 16, env := f 48 8, ring := f 56 8, seq := f 64 64, addr := f 128 64, payload := f 256 1792 }

/-- RELAY_SUB (R409): half a record into the member's ring image. -/
def execRelaySub (_link : Fin 24) (m : RelayMsg) (s : State) : Host.Outcome State Fault Refusal :=
  .next (relayIn s 0x20 m fun s =>
    let e := m.env.toNat % 16
    let k := m.ring.toNat % 16
    let slot := (imageRing s e k).1 + 256 * (m.seq.toNat % max (subSize (ring s e k)) 1)
    storeBytes s (slot + 128 * (m.b1.toNat % 2)) (leBytes 128 m.payload.toNat))

/-- RELAY_POST (R410): the lead writes the records to host memory, VALID last, and fires PF vector 4. -/
def execRelayPost (_link : Fin 24) (m : RelayMsg) (s : State) : Host.Outcome State Fault Refusal :=
  if 3 < m.b1.toNat then .fault (.illFormed "RELAY_POST")
  else .next (relayIn s 0x21 m fun s =>
    let s := forN m.b1.toNat s fun i s =>
      let b := leBytes 64 (fld m.payload.toNat (512 * i) 512)
      let a := m.addr.toNat + 64 * i
      hostWrite (hostWrite s 0 (a + 8) (b.drop 8)) 0 a (b.take 8)
    msix { s with podPost := s.podPost + m.b1.toNat } 0 4)

/-- The word of a RELAY_WORD for this device (R409): a HEAD or export-mark word into the member's image, or a consumed word
from a member into host memory. -/
def relayWordIn (m : RelayMsg) (s : State) : State :=
  let e := m.env.toNat % 16
  let k := m.ring.toNat % 16
  let v := fld m.payload.toNat 0 64
  match m.b1.toNat with
  | 0 => storeBytes s (imageRing s e k).2 (leBytes 8 v)
  | 1 => hostWrite { s with relayC := tset 0 s.relayC ((m.sender.toNat * 16 + e) * 16 + k) v } 0 m.addr.toNat (leBytes 8 v)
  | _ => storeBytes s ((imageRing s e 0).2 - 8) (leBytes 8 v)

/-- RELAY_WORD (R409). -/
def execRelayWord (_link : Fin 24) (m : RelayMsg) (s : State) : Host.Outcome State Fault Refusal :=
  if 2 < m.b1.toNat then .fault (.illFormed "RELAY_WORD") else .next (relayIn s 0x22 m (relayWordIn m))

end Sys2Proof.Machine
end

