-- ==== Sys2Proof/Machine/Image.lean ====
section
/-!
DEFINITION. Machine/Image.lean: the parison as a byte string (R311 to R313, R478): header, directory, sections, items,
which register an item fills, and what writing a section does to the part. The image in State stands for the plan's
active sections, its shadows and the loader's copy of the directory.
-/
namespace Sys2Proof.Machine
open Sys2Proof

/-! ### Header and directory (Tables 12-1, 12-2) -/

/-- n bytes of an image from an offset. -/
def bytesAt (b : List Byte) (o n : Nat) : List Byte := (b.drop o).take n
/-- A little-endian field of an image. -/
def natAt (b : List Byte) (o n : Nat) : Nat := leNat (bytesAt b o n)
/-- DIR_COUNT. -/
def dirCount (b : List Byte) : Nat := natAt b 20 2
/-- BODY_LEN. -/
def bodyLen (b : List Byte) : Nat := natAt b 112 8
/-- PLAN_ID of the header. -/
def planId (b : List Byte) : Nat := natAt b 32 8
/-- FLEET_INDEX of the header. -/
def fleetIx (b : List Byte) : Nat := natAt b 22 2

/-- A directory entry and its place. -/
structure DirEnt where
  ix : Nat
  type : Nat
  inst : Nat
  var : Nat
  ofs : Nat
  len : Nat
  digest : List Byte
deriving DecidableEq, Repr

/-- The directory. -/
def dirEnts (b : List Byte) : List DirEnt :=
  (List.range (dirCount b)).map fun i =>
    let o := 256 + 64 * i
    { ix := i, type := natAt b o 2, inst := natAt b (o + 2) 2, var := natAt b (o + 4) 1, ofs := natAt b (o + 8) 8, len := natAt b (o + 16) 8, digest := bytesAt b (o + 24) 32 }

/-- A section's bytes. -/
def secOf (b : List Byte) (e : DirEnt) : List Byte := bytesAt b e.ofs e.len

/-- The sections of variant v (R313): every VARIANT 0 section, unless a section of variant v replaces it. -/
def inForce (b : List Byte) (v : Nat) : List DirEnt :=
  let es := dirEnts b
  es.filter fun e => e.var == v || (e.var == 0 && !es.any fun x => x.var == v && x.type == e.type && x.inst == e.inst)

/-- The section of a variant by type and instance. -/
def secIn (b : List Byte) (v type inst : Nat) : Option DirEnt := (inForce b v).find? fun e => e.type == type && e.inst == inst
/-- Its bytes, none if there is no such section. -/
def secBytes (b : List Byte) (v type inst : Nat) : List Byte := match secIn b v type inst with | some e => secOf b e | none => []
/-- The variants that have an entry (R313). -/
def variantsOf (b : List Byte) : List Nat := (List.range 16).filter fun v => v == 0 || (dirEnts b).any fun e => e.var == v

/-! ### Items (R478) -/

/-- An item: its header's offset, KEY, LENGTH and value. -/
structure Item where
  ofs : Nat
  key : Nat
  len : Nat
  val : List Byte
deriving DecidableEq, Repr

/-- The items of a section from an offset on. -/
def itemsFrom : Nat → Nat → List Byte → List Item
  | 0, _, _ => []
  | n + 1, o, b =>
    if b.length < 16 then (if b = [] then [] else [{ ofs := o, key := 0, len := 0, val := [] }])
    else
      let l := natAt b 8 8
      let step := 16 + cdiv l 8 * 8
      { ofs := o, key := natAt b 0 8, len := l, val := bytesAt b 16 l } :: itemsFrom n (o + step) (b.drop step)

/-- The items of a section. -/
def itemsOf (b : List Byte) : List Item := itemsFrom (b.length / 16 + 1) 0 b
/-- The KEY of an item of Table 12-16. -/
def itemKey (n : Nat) : Nat := 0xFFFF000000000000 + n
/-- The first item of a section with a key. -/
def itemOf (b : List Byte) (k : Nat) : Option Item := (itemsOf b).find? fun i => i.key == k

/-! ### Registers marked "parison" (R478) -/

/-- A register that the parison fills: its table, width in bytes, distance to the next of its table, the bits that are
the parison's, and the sections in which Table 12-3 places it. -/
structure ParReg where
  table : Nat
  width : Nat
  stride : Nat
  mask : Nat
  places : List (Nat × Nat)
deriving DecidableEq, Repr

/-- A register of 64 bits, all the parison's. -/
def par64 (t : Nat) (ps : List (Nat × Nat)) : Option ParReg := some { table := t, width := 8, stride := 8, mask := 2 ^ 64 - 1, places := ps }
/-- A register of 32 bits. -/
def par32 (t : Nat) (ps : List (Nat × Nat)) : Option ParReg := some { table := t, width := 4, stride := 4, mask := 2 ^ 32 - 1, places := ps }

/-- The parison's registers of a core (sections 0x0011, 0x0012, 0x0014, 0x0021, 0x0060; log entry 20). -/
def parCore (c o : Nat) : Option ParReg :=
  if 0x2020 ≤ o ∧ o < 0x2200 ∧ 0x20 ≤ o % 0x100 ∧ o % 0x100 < 0x40 ∧ o % 8 = 0 then
    let b := (o - 0x2000) / 0x100
    some { table := 1, width := 8, stride := 8, mask := 2 ^ 31, places := [(0x11, 4 * c + 2 * b), (0x11, 4 * c + 2 * b + 1)] }
  else if o = 0x3010 then some { table := 2, width := 4, stride := 4, mask := 0xFFFF, places := [(0x12, c)] }
  else if o = 0x4020 then par64 3 [(0x14, c)]
  else if o = 0x4028 then par64 4 [(0x21, 0), (0x60, c)]
  else if 0x4100 ≤ o ∧ o < 0x4200 ∧ o % 8 = 0 then some { table := 5, width := 8, stride := 8, mask := 2 ^ 32 - 1, places := [(0x60, c)] }
  else if 0x4200 ≤ o ∧ o < 0x4280 ∧ o % 8 = 0 then par64 6 [(0x60, c)]
  else none

/-- The parison's registers of a stack (sections 0x0021, 0x0040 to 0x0044). -/
def parStack (k o : Nat) : Option ParReg :=
  if o = 0x000 then some { table := 7, width := 4, stride := 4, mask := 7, places := [(0x40, k), (0x41, k)] }
  else if o = 0x010 then par64 8 [(0x42, k)]
  else if o = 0x018 then par32 9 [(0x41, k)]
  else if o = 0x020 then some { table := 10, width := 8, stride := 8, mask := 2 ^ 48 - 1, places := [(0x44, k)] }
  else if o = 0x028 then par32 11 [(0x21, 0), (0x42, k)]
  else if 0x100 ≤ o ∧ o < 0x300 ∧ o % 8 = 0 then some { table := 12, width := 8, stride := 8, mask := 63, places := [(0x41, k)] }
  else if 0x400 ≤ o ∧ o < 0x480 ∧ o % 8 = 0 then par64 13 [(0x42, k)]
  else none

/-- The parison's registers of a link (section 0x0030). -/
def parLink (n o : Nat) : Option ParReg :=
  let ps := [(0x30, n)]
  if o = 0x000 then par64 14 ps
  else if o = 0x018 then some { table := 15, width := 8, stride := 8, mask := 0xFFFFFFFF0000, places := ps }
  else if o = 0x020 then par64 16 ps
  else if 0x1000 ≤ o ∧ o < 0x3000 ∧ o % 4 = 0 then par32 17 ps
  else if 0x4000 ≤ o ∧ o < 0xC000 ∧ o % 8 = 0 then par64 18 ps
  else none

/-- The parison's registers of the root (sections 0x0003, 0x0050, 0x0080). -/
def parRoot (o : Nat) : Option ParReg :=
  let f := [(0x03, 0)]
  let m := [(0x80, 0)]
  if o = 0x10010 then par64 20 f
  else if o = 0x1001C then par32 21 f else if o = 0x10020 then par32 22 f else if o = 0x10024 then par32 23 f
  else if o = 0x10028 then par32 24 f else if o = 0x10040 then par32 25 f else if o = 0x11004 then par32 26 f
  else if 0x14000 ≤ o ∧ o < 0x15000 ∧ o % 0x100 < 0x28 ∧ o % 8 = 0 then par64 (27 + (o - 0x14000) / 0x100) f
  else if o = 0x15000 then par64 43 m
  else if 0x15040 ≤ o ∧ o < 0x15080 ∧ o % 4 = 0 then par32 44 m
  else if o = 0x16000 then par64 45 m
  else if 0x16100 ≤ o ∧ o < 0x16280 ∧ o % 16 = 0 then some { table := 46, width := 8, stride := 16, mask := 2 ^ 64 - 1, places := m }
  else if 0x16400 ≤ o ∧ o < 0x16A00 ∧ o % 4 = 0 then par32 47 m
  else if 0x16A00 ≤ o ∧ o < 0x16BE0 ∧ o % 8 = 0 then par64 48 (m ++ [(0x50, (o - 0x16A00) / 40)])
  else if o = 0x17000 ∨ o = 0x17008 then par64 49 m
  else if o = 0x17038 ∨ o = 0x17040 ∨ o = 0x17048 then par64 50 m
  else none

/-- The register at a device address, if it is marked "parison" and an item may fill it. -/
def parReg (a : Nat) : Option ParReg :=
  let o := a % 0x10000
  let k := a / 0x10000 % 0x100
  match a / 0x1000000 with
  | 0x20000 => parRoot (a % 0x1000000)
  | 0x20001 => if k < 60 then parCore k o else none
  | 0x20002 => if k < 12 then parStack k o else none
  | 0x20003 =>
    if k < 12 ∧ o % 8 = 0 then
      (if 0x20 ≤ o ∧ o < 0x48 then par64 51 [(0x50, k)] else if 0x80 ≤ o ∧ o < 0xC0 then par64 52 [(0x50, k)] else if 0xC0 ≤ o ∧ o < 0x100 then par64 53 [(0x50, k)] else none)
    else none
  | 0x20004 => if k < 144 ∧ 0x1000 ≤ o ∧ o < 0x2C00 ∧ o % 4 = 0 then some { table := 19, width := 4, stride := 4, mask := 0x8F8F8F8F, places := [(0x20, k)] } else none
  | 0x20005 => if k < 24 then parLink k o else none
  | _ => none

/-- The bits of a register that a section of a type fills: decoder mode and grade share DRM_CFG (Table 12-3). -/
def maskFor (r : ParReg) (type : Nat) : Nat := if r.table = 7 then (if type = 0x40 then 1 else 6) else r.mask

/-- The item fills a register. -/
def covers (i : Item) (a : Nat) : Bool :=
  match parReg i.key, parReg a with
  | some r, some x => r.table == x.table && decide (i.key ≤ a ∧ a < i.key + r.stride * cdiv i.val.length r.width)
  | _, _ => false

/-- Another section of variant v fills bits of a register that a section may fill too (R478). -/
def filledElse (b : List Byte) (v type inst a : Nat) (r : ParReg) : Bool :=
  r.places.any fun p => p != (type, inst) && maskFor r p.1 &&& maskFor r type != 0 && (itemsOf (secBytes b v p.1 p.2)).any (covers · a)

/-- A register takes the parison's bits; a slot-table entry gets fresh parity (R270, R297). -/
def putPar (s : State) (r : ParReg) (type a v : Nat) : State :=
  let m := maskFor r type
  let s := setRg s a ((rg s a &&& (2 ^ 64 - 1 - m)) ||| (v &&& m))
  let s := if r.table = 1 then
      let q := a % 0x100 / 8 - 4
      modQueue s (a / 0x10000 % 0x100) (a / 0x100 % 2) q fun x => { x with outbound := bitAt v 31 }
    else s
  if r.table = 17 ∨ r.table = 18 ∨ r.table = 19 then { s with slotBad := s.slotBad.filter fun x => !decide (a ≤ x ∧ x < a + r.width) } else s

/-- A register item: one register, or a run of one table. -/
def putRun (s : State) (type key : Nat) (val : List Byte) : State :=
  match parReg key with
  | none => s
  | some r => forN (val.length / r.width) s fun i s =>
      match parReg (key + r.stride * i) with
      | some x => putPar s x type (key + r.stride * i) (natAt val (r.width * i) r.width)
      | none => s

/-! ### Writing a section -/

/-- Words of n bytes from an item's value. -/
def wordsOf (n : Nat) (val : List Byte) : List Nat := (List.range (val.length / n)).map fun i => natAt val (n * i) n

/-- A command memory: the section's commands, then SEG ENDs to the end (R120), with fresh check bits. -/
def putCmds (s : State) (c k : Nat) (val : List Byte) : State :=
  modCore s c fun x =>
    { x with cmds := (wordsOf 16 val).zipIdx.foldl (fun t w => tset segEndWord t (32768 * k + w.2) (BitVec.ofNat 128 w.1)) (x.cmds.filter fun e => e.1 / 32768 != k),
             cmdBad := x.cmdBad.filter fun e => e.1 / 32768 != k }

/-- A gaffer memory: the item's bytes from its start, the rest 0. -/
def putGaf (s : State) (c : Nat) (data : Bool) (val : List Byte) : State :=
  let t : Tbl W32 := (wordsOf 4 (val ++ [0, 0, 0])).zipIdx.foldl (fun t w => tset 0 t w.2 (BitVec.ofNat 32 w.1)) []
  modCore s c fun x =>
    { x with gaf := if data then { x.gaf with dmem := t, bad := x.gaf.bad.filter fun e => e.1 < 2 ^ 16 } else { x.gaf with imem := t, bad := x.gaf.bad.filter fun e => 2 ^ 16 ≤ e.1 } }

/-- The number of commands of a core's stream in a variant. -/
def cmdCount (b : List Byte) (v c k : Nat) : Nat :=
  match itemOf (secBytes b v (if k = 0 then 0x10 else 0x11) (if k = 0 then c else 4 * c + k - 1)) (itemKey (if k = 0 then 1 else 2)) with
  | some i => i.len / 16
  | none => 0

/-- Audit words: the core command memory's, then each blowpipe's execute stream's (item 5). -/
def putAudit (s : State) (b : List Byte) (v c : Nat) (val : List Byte) : State :=
  let n0 := cmdCount b v c 0
  let n2 := cmdCount b v c 2
  let key (i : Nat) : Nat := if i < n0 then i else if i < n0 + n2 then 32768 * 2 + (i - n0) else 32768 * 4 + (i - n0 - n2)
  modCore s c fun x => { x with audit := (wordsOf 4 val).zipIdx.foldl (fun t w => tset 0 t (key w.2) (BitVec.ofNat 32 w.1)) [] }

/-- A descriptor table: 63 entries at a base key (items 6 and 7). -/
def putDescs (s : State) (c base : Nat) (val : List Byte) : State :=
  modCore s c fun x => { x with descs := (wordsOf 8 val).zipIdx.foldl (fun t w => tset 0 t (base + w.2) (BitVec.ofNat 64 w.1)) x.descs }

/-- Bytes of DRAM written with fresh check bytes. -/
def putDram (s : State) (a : Nat) (val : List Byte) : State :=
  { s with mem := writeBytes s.mem a val, sec := s.sec.filter fun e => !decide (a / 64 ≤ e.1 ∧ e.1 ≤ (a + val.length - 1) / 64) }

/-- Resident Crucible rows, which the loader stamps 63 in audit mode (R197, R199). -/
def putResident (s : State) (c n : Nat) (val : List Byte) : State :=
  let base := rf s (cruA c (0x200 + 8 * n)) 0 16
  forN (val.length / 128) s fun i s =>
    let s := writeRow s c (base + i) (rowOf (bytesAt val (128 * i) 128)) 255
    if (core s c).audited then modCore s c fun x => { x with epochs := tset 0 x.epochs (base + i) 63 } else s

/-- The key of a DRAM range: the variant store and the staging range are one per stack (item 9). -/
def rangeKey (stack kind index : Nat) : Nat := kind * 65536 + if kind = 2 ∨ kind = 3 then stack else index

/-- An item of Table 12-16 written. -/
def putItem (s : State) (b : List Byte) (v : Nat) (e : DirEnt) (n : Nat) (val : List Byte) : State :=
  let c := e.inst
  match n with
  | 1 => putCmds s c 0 val
  | 2 => putCmds s (c / 4) (c % 4 + 1) val
  | 3 => putGaf s c false val
  | 4 => putGaf s c true val
  | 5 => if (core s c).audited then putAudit s b v c val else s
  | 6 => putDescs s c (64 * natAt val 0 1) (val.drop 8)
  | 7 => putDescs s c 128 val
  | 8 => { s with rwins := tset (0, 0) s.rwins (c * 16 + natAt val 0 1) (natAt val 8 8, natAt val 16 8) }
  | 9 => { s with ranges := tset (0, 0) s.ranges (rangeKey c (natAt val 0 2) (natAt val 2 2)) (natAt val 8 8, natAt val 16 8) }
  | 10 => { s with hwins := tset {} s.hwins (16 * c + natAt val 0 1 % 16) { env := natAt val 1 1, ndesc := natAt val 2 1, maxent := natAt val 4 4, table := natAt val 8 8, bufOfs := natAt val 16 4, bufLen := natAt val 20 4 } }
  | 11 => putDram s (natAt val 0 8) (val.drop 8)
  | 12 => putResident s (c / 16) (c % 16) val
  | 13 => { s with voteLinks := natAt val 0 4 }
  | 14 => { s with routes := tset [] s.routes (natAt val 0 2) ((List.range (natAt val 2 1)).map fun i => natAt val (8 + i) 1) }
  | 15 => { s with train := s.train ++ [(natAt val 0 1, natAt val 2 2)] }
  | 16 => { s with takeHomes := s.takeHomes ++ [(natAt val 0 2, natAt val 2 1)] }
  | 17 => setRg (setRg s (bar 0 0x100) (natAt val 0 8)) (bar 0 0x108) (natAt val 8 8)
  | _ => s

/-- The registers of a section, cleared: one that no item of the sections in force fills holds 0 (R478). -/
def clearRegs (s : State) (b : List Byte) (v type inst : Nat) : State :=
  s.regs.foldl (fun s e => match parReg e.1 with
    | some r => if r.places.contains (type, inst) && !filledElse b v type inst e.1 r then putPar s r type e.1 0 else s
    | none => s) s

/-- What a section other than a memory holds beside registers, emptied. -/
def clearItems (s : State) (type inst : Nat) : State :=
  match type with
  | 0x31 => { s with rwins := s.rwins.filter fun e => e.1 / 16 != inst }
  | 0x40 => { s with ranges := s.ranges.filter fun e => e.2.1 / 0x800000000 != inst }
  | 0x42 => { s with hwins := s.hwins.filter fun e => e.1 / 16 != inst }
  | 0x03 => { s with voteLinks := 0 }
  | 0x14 => modCore s inst fun x => { x with descs := [] }
  | 0x13 => modCore s inst fun x => { x with audit := [] }
  | 0x80 => { s with routes := [], train := [], takeHomes := [] }
  | _ => s

/-- The envelope section (R445, R451, R452): records, fences, and each core's envelope and audit mode. -/
def putEnvelopes (s : State) (b : List Byte) : State :=
  let s := forN 16 s fun e s =>
    let o := 1280 * e
    let fl := natAt b (o + 1) 1
    setRg (setRg s (0x020000018300 + 8 * e) (pack [(63, 1, fl), (62, 1, fl / 2)])) (0x020000018380 + 8 * e) (natAt b (o + 8) 8 % 2 ^ 60)
  let s := forN 192 s fun j s => setRg s (0x020000018400 + 8 * j) (natAt b (20480 + 8 * j) 8)
  forN 60 s fun c s =>
    match (List.range 16).find? fun e => bitAt (natAt b (1280 * e + 1) 1) 0 && bitAt (natAt b (1280 * e + 8) 8) c with
    | some e => modCore s c fun x => { x with env := e, audited := bitAt (natAt b (1280 * e + 1) 1) 1 }
    | none => modCore s c fun x => { x with env := 0, audited := false }

/-- The tile map (R23): byte c is the tile of core Cc; a byte above 71 places no tile. -/
def putTiles (s : State) (b : List Byte) : State :=
  forN 60 s fun c s => modCore s c fun x => { x with present := decide (natAt b c 1 < 72), tile := natAt b c 1 }

/-- The ownership table (R319), and the tail-queue partitions its class 5 entries make (R414): p = 4q + i. -/
def putOwners (s : State) (b : List Byte) : State :=
  let es := (List.range (natAt b 0 4)).map fun i => let o := 4 + 16 * i; (natAt b o 1, natAt b (o + 2) 2, natAt b (o + 4) 4, natAt b (o + 8) 4, natAt b (o + 12) 2)
  let s := { s with owners := es }
  forN 64 s fun p s =>
    match (es.filter fun e => e.1 == 5 && e.2.1 == p / 4)[p % 4]? with
    | some e => setRg s (0x02000001A000 + 0x40 * p) (pack [(63, 1, 1), (32, 16, e.2.2.2.2), (16, 16, e.2.2.1), (0, 16, e.2.2.2.1)])
    | none => setRg s (0x02000001A000 + 0x40 * p) 0

/-- The Crownline action table (Table 14-3). -/
def putActions (s : State) (b : List Byte) : State :=
  { s with actTab := (List.range (natAt b 0 4)).map fun i =>
      let o := 4 + 16 * i
      { a := natAt b o 2, b := natAt b (o + 2) 2, causes := natAt b (o + 4) 1, from_ := natAt b (o + 5) 1, action := natAt b (o + 6) 1, variant := natAt b (o + 7) 1 } }

/-- A section written into the units it fills (step 14 of R321). -/
def putSection (s : State) (b : List Byte) (v : Nat) (e : DirEnt) : State :=
  let sec := secOf b e
  match e.type with
  | 0x01 => putEnvelopes s sec
  | 0x02 => putTiles s sec
  | 0x70 => s
  | 0x81 => putActions s sec
  | 0x90 => putOwners s sec
  | _ => (itemsOf sec).foldl (fun s i => if itemKey 0 ≤ i.key then putItem s b v e (i.key - itemKey 0) i.val else putRun s e.type i.key i.val) (clearItems (clearRegs s b v e.type e.inst) e.type e.inst)

/-- The fields of the header that registers show (Table 12-14). -/
def putHeader (s : State) (b : List Byte) (digest : List Byte) : State :=
  let s := setRg s (parA 0x018) (pack [(48, 16, natAt b 4 2), (32, 16, natAt b 10 2), (16, 16, natAt b 14 2), (0, 16, natAt b 12 2)])
  let s := setRg s (parA 0x020) (pack [(16, 8, natAt b 9 1), (8, 8, natAt b 8 1), (0, 8, Config.stepping.toNat)])
  let s := setRg (setRg s (parA 0x028) (planId b)) (parA 0x030) (pack [(16, 13, natAt b 24 2), (0, 13, fleetIx b)])
  let s := setRg s (parA 0x034) (natAt b 16 4)
  let s := forN 8 s fun i s => setRg s (parA (0x040 + 8 * i)) (natAt digest (8 * i) 8)
  forN 4 s fun i s => setRg s (parA (0x080 + 8 * i)) (natAt b (48 + 8 * i) 8)

/-- The order in which sections are written: envelopes and tiles first, the spool map before resident contents. -/
def loadOrder (es : List DirEnt) : List DirEnt :=
  let first := es.filter fun e => e.type == 0x01 || e.type == 0x02 || e.type == 0x60
  first ++ es.filter fun e => !(e.type == 0x01 || e.type == 0x02 || e.type == 0x60)

/-- Every "parison" register and table cleared before a load: one no section fills holds 0 (R478). -/
def clearPlan (s : State) : State :=
  let s := { s with regs := s.regs.filter fun e => match parReg e.1 with
    | some r => r.mask != 2 ^ 64 - 1 && r.mask != 2 ^ 32 - 1
    | none => true }
  let s := s.regs.foldl (fun s e => match parReg e.1 with | some r => r.places.foldl (fun s p => putPar s r p.1 e.1 0) s | none => s) s
  let s := { s with ranges := [], rwins := [], hwins := [], routes := [], train := [], takeHomes := [], voteLinks := 0, owners := [], actTab := [], electors := [], home := [] }
  setRg (setRg (forN 60 s fun c s => modCore s c fun x => { x with cmds := [], cmdBad := [], audit := [], descs := [], gaf := { x.gaf with imem := [], dmem := [], bad := [] } }) (bar 0 0x100) 0) (bar 0 0x108) 0

/-- Streams take their home cores, and every stream's ENV word (R167, R346). -/
def putHomes (s : State) (b : List Byte) : State :=
  let s := { s with strmTab := s.strmTab.filter fun w => w.1 % 16 != 0 }
  let s := (Config.electorates (planId b) (fleetIx b)).foldl (fun s x => { s with electors := tset [] s.electors x.1 x.2 }) s
  forN 16 s fun e s =>
    let a := rg s (srvA e 0x000)
    if bitAt (rg s (0x020000018300 + 8 * e)) 63 then
      forN (fld a 50 14) s fun i s => let z := fld a 37 13 + i; { s with home := tset 0 s.home z ((Config.homeCore (planId b) (fleetIx b) z).val + 1), strmTab := tset 0 s.strmTab (16 * z) (BitVec.ofNat 32 (e * 2 ^ 28)) }
    else s

/-- The plan of a variant written over a state, as if it were the main plan: what the loader's checks judge (R313). -/
def putPlan (s : State) (b : List Byte) (v : Nat) (digest : List Byte) : State :=
  putHomes (putHeader ((loadOrder (inForce b v)).foldl (fun s e => putSection s b v e) (clearPlan s)) b digest) b

end Sys2Proof.Machine
end

