-- ==== Sys2Proof/Machine/ShapeOps.lean ====
section
/-!
DEFINITION. Machine/ShapeOps.lean: the shaping engine's commands in their cycles (R113 to R116, R147, R180).
-/
namespace Sys2Proof.Machine
open Sys2Proof

/-- Entry `ix` of the SE's descriptor table (R147). -/
def seDesc (s : State) (c : Nat) (ix : BitVec 6) : BitVec 64 := tget 0 (core s c).descs (128 + ix.toNat)

/-- A shaping command (R91, Table 4-1): it holds the SE's read and write ports for its whole time. -/
def shapeExec (h : Iss) (i : Instr) (cu : CU) (d : State → BitVec 64) (ops : Nat → Nat → Nat → List (Nat × Micro)) (s : State) : Host.Outcome State Fault Refusal :=
  .next (issueCmd h i 6 0 cu.cuse.toNat cu.cinc.toNat (fun skip term s =>
    let n := shapeHold i (d s).toNat
    runOn h 6 [(8, n), (9, n)] skip s fun s => startJob s (jobOf s h i term [d s]) (ops (now s) term (d s).toNat)) s)

/-- TRANSPOSE (R113, Table 7-2). -/
def execTranspose (h : Iss) (cu : CU) (src dst : BitVec 16) (nt : BitVec 12) (w : BitVec 2) (s : State) : Host.Outcome State Fault Refusal :=
  shapeExec h (.transpose h cu src dst nt w) cu (fun _ => 0) (fun t term _ =>
    let E := trE w.toNat
    let n := (nt.toNat + 1) * E
    ((List.range n).map fun i => (t + i, Micro.rdRow 4 (src.toNat + term + i) 0 i)) ++
    (List.range n).map fun i => (t + E + 4 + i, .wrRow 4 (dst.toNat + term + i) i)) s

/-- PERMUTE (R113, R116, R180). -/
def execPermute (h : Iss) (cu : CU) (src dst : BitVec 16) (n : BitVec 12) (idx limit : BitVec 16) (s : State) : Host.Outcome State Fault Refusal :=
  shapeExec h (.permute h cu src dst n idx limit) cu (fun _ => 0) (fun t term _ =>
    let N := n.toNat + 1
    let X := cdiv (2 * N) 128
    ((List.range X).map fun j => (t + j, Micro.rdRow 4 (idx.toNat + term + j) 1 (idxKey + j))) ++
    ((List.range N).flatMap fun i => [(t + X + i, .claim (src.toNat + term) limit.toNat), (t + X + i, .rdSrc i), (t + X + 8 + i, .wrRow 4 (dst.toNat + term + i) i)]) ++
    [(t + N + X + 7, .done)]) s

/-- IM2COL (R113, R147). -/
def execIm2col (h : Iss) (cu : CU) (src dst : BitVec 16) (param : BitVec 6) (s : State) : Host.Outcome State Fault Refusal :=
  shapeExec h (.im2col h cu src dst param) cu (fun s => seDesc s h.core.val param) (fun t term d =>
    let p := im2Of d
    (List.range p.rows).flatMap fun q =>
      (match p.src q with | some r => [(t + q, Micro.rdRow 4 (src.toNat + term + r) 0 q)] | none => []) ++ [(t + 8 + q, .wrRow 4 (dst.toNat + term + q) q)]) s

/-- TOPK (R114). -/
def execTopk (h : Iss) (cu : CU) (src dst : BitVec 16) (r : BitVec 12) (nb : BitVec 13) (logk : BitVec 4) (param : BitVec 6) (s : State) : Host.Outcome State Fault Refusal :=
  shapeExec h (.topk h cu src dst r nb logk param) cu (fun s => seDesc s h.core.val param) (fun t term _ =>
    let n := nb.toNat + 1
    let w := cdiv (8 * 2 ^ logk.toNat) 128
    let m := max n w
    (List.range (r.toNat + 1)).flatMap fun ρ =>
      ((List.range n).map fun q => (t + ρ * m + q, Micro.rdRow 4 (src.toNat + term + ρ * n + q) 0 (ρ * n + q))) ++
      (List.range w).map fun u => (t + ρ * m + 96 + (m - w) + u, .wrRow 4 (dst.toNat + term + ρ * w + u) (ρ * w + u))) s

/-- The claims of a hold: every range in every cycle, and the end (R180). -/
def claimOps (t n : Nat) (ranges : List (Nat × Nat)) : List (Nat × Micro) :=
  ((List.range n).flatMap fun k => ranges.map fun r => (t + k, Micro.claim r.1 r.2)) ++ [(t + n - 1, .done)]

/-- DISPATCH (R115). -/
def execDispatch (h : Iss) (o : RouteOp) (s : State) : Host.Outcome State Fault Refusal :=
  let i := Instr.dispatch h o
  shapeExec h i o.cu (fun s => seDesc s h.core.val o.param) (fun t term d =>
    let p := routeOf d
    claimOps t (shapeHold i d)
      [(o.src.toNat + term, p.t * p.trows), (o.dst.toNat + term, p.x * p.c * p.trows), (o.route.toNat + term, cdiv (8 * p.t * p.e) 128), (o.assign.toNat + term, cdiv (p.t * p.e) 64)]) s

/-- COMBINE (R116). -/
def execCombine (h : Iss) (o : RouteOp) (s : State) : Host.Outcome State Fault Refusal :=
  let i := Instr.combine h o
  shapeExec h i o.cu (fun s => seDesc s h.core.val o.param) (fun t term d =>
    let p := routeOf d
    claimOps t (shapeHold i d)
      [(o.src.toNat + term, p.x * p.c * p.xrows), (o.dst.toNat + term, p.t * p.outRows), (o.route.toNat + term, cdiv (8 * p.t * p.e) 128), (o.assign.toNat + term, cdiv (p.t * p.e) 64)]) s

end Sys2Proof.Machine
end

