-- ==== Sys2Proof/Machine/VectorOps.lean ====
section
/-!
DEFINITION. Machine/VectorOps.lean: the issue of every vector operation (R106, R145, R146, R179, R250) and one meaning
per operation.
-/
namespace Sys2Proof.Machine
open Sys2Proof

/-- The descriptors D, A, B, C, X that a vector command names (R145); index 63 is the immediate. -/
def vecDescs (s : State) (c : Nat) (o : VecOp) : List (BitVec 64) :=
  [o.d, o.a, o.b, o.c, o.x].map fun i => if i.toNat = 63 then 0 else tget 0 (core s c).descs (64 * o.ve.val + i.toNat)

/-- Tr of R179: the hold less Λ. -/
def vecTr (x : Job) (k : VKind) (o : VecOp) : Nat := vecHold x k o - (k.lat - 1)

/-- The register operands of an operation, as (letter, register, broadcast). -/
def vecRegs (x : Job) (k : VKind) (o : VecOp) : List (Nat × Nat × Bool) :=
  k.ins.filterMap fun l => match jobOpd x o l with
    | .reg r b => some (l, r, b)
    | _ => none

/-- Vectors of a register operand that are read: h₋₁ of SCAN is read for its first step alone (R106, R110). -/
def regVectors (k : VKind) (o : VecOp) (l : Nat) : Nat :=
  match k with
  | .rsum => vecN o
  | .rmax => vecN o
  | .scan => if l = 3 then vecAux8 o else vecCount k o
  | _ => vecCount k o

/-- Vectors over which the read cycles of a register operand are spread (R106). -/
def regSpread (k : VKind) (o : VecOp) : Nat :=
  match k with
  | .rsum => vecN o
  | .rmax => vecN o
  | _ => vecCount k o

/-- The number of an operand among the operation's Crucible operands (R198). -/
def memNumber (x : Job) (k : VKind) (o : VecOp) (l : Nat) : Nat :=
  ((k.ins.filter fun m => decide (m < l)).filter fun m => (jobOpd x o m).isMem).length

/-- The accesses of an operation in their cycles from issue t (R106, R179, R250). -/
def vecActs (x : Job) (k : VKind) (o : VecOp) (t : Nat) : List (Nat × Micro) :=
  let tr := vecTr x k o
  let lam := k.lat - 1
  let rs := vecReads x k o
  let nr := rs.length
  let ws := vecWrites x k o
  let nw := ws.length
  let n := vecCount k o
  let rd := rs.zipIdx.map fun e => (t + (if k = .amerge then e.2 / 2 else e.2 * tr / nr), Micro.rdRow 3 e.1.2 (memNumber x k o e.1.1) (65536 * e.1.1 + e.1.2))
  let rr := (vecRegs x k o).flatMap fun e => (List.range (regVectors k o e.1)).map fun v =>
    (t + v * tr / regSpread k o, Micro.regRd o.ve.val ((if e.2.2 then e.2.1 else e.2.1 + v) % 16) e.1 v)
  let wr := ws.zipIdx.map fun e => (t + (if k = .amerge then cdiv nr 2 + 32 + e.2 / 2 else lam + cdiv ((e.2 + 1) * tr) nw - 1), Micro.wrRow 3 e.1 e.2)
  let rw := match jobOpd x o 0 with
    | .reg r b => (List.range n).map fun v => (t + lam + cdiv ((v + 1) * tr) n - 1, Micro.regWr o.ve.val ((if b then r else r + v) % 16) v)
    | _ => []
  rd ++ rr ++ wr ++ rw ++ [(t + vecHold x k o - 1, .done)]

/-- A vector command (R106, R145): it holds the vector port and the lanes for T. -/
def vecExec (h : Iss) (i : Instr) (k : VKind) (o : VecOp) (s : State) : Host.Outcome State Fault Refusal :=
  .next (issueCmd h i (4 + o.ve.val) 0 o.cu.cuse.toNat o.cu.cinc.toNat (fun skip term s =>
    let x := jobOf s h i term (vecDescs s h.core.val o)
    let T := vecHold x k o
    runOn h (4 + o.ve.val) [(6, T), (7, T)] skip s fun s => startJob s x (vecActs x k o (now s))) s)

/-- ADD (R106). -/
def execVadd (h : Iss) (o : VecOp) (s : State) : Host.Outcome State Fault Refusal := vecExec h (.vadd h o) .add o s
/-- SUB (R106). -/
def execVsub (h : Iss) (o : VecOp) (s : State) : Host.Outcome State Fault Refusal := vecExec h (.vsub h o) .sub o s
/-- MUL (R106). -/
def execVmul (h : Iss) (o : VecOp) (s : State) : Host.Outcome State Fault Refusal := vecExec h (.vmul h o) .mul o s
/-- FMA (R106, one rounding). -/
def execVfma (h : Iss) (o : VecOp) (s : State) : Host.Outcome State Fault Refusal := vecExec h (.vfma h o) .fma o s
/-- MAX (R108). -/
def execVmax (h : Iss) (o : VecOp) (s : State) : Host.Outcome State Fault Refusal := vecExec h (.vmax h o) .max o s
/-- MIN (R108). -/
def execVmin (h : Iss) (o : VecOp) (s : State) : Host.Outcome State Fault Refusal := vecExec h (.vmin h o) .min o s
/-- IADD (R106). -/
def execViadd (h : Iss) (o : VecOp) (s : State) : Host.Outcome State Fault Refusal := vecExec h (.viadd h o) .iadd o s
/-- ISUB (R106). -/
def execVisub (h : Iss) (o : VecOp) (s : State) : Host.Outcome State Fault Refusal := vecExec h (.visub h o) .isub o s
/-- IMUL: the low 32 bits (Table 4-8). -/
def execVimul (h : Iss) (o : VecOp) (s : State) : Host.Outcome State Fault Refusal := vecExec h (.vimul h o) .imul o s
/-- AND (Table 4-8). -/
def execVand (h : Iss) (o : VecOp) (s : State) : Host.Outcome State Fault Refusal := vecExec h (.vand h o) .and o s
/-- OR (Table 4-8). -/
def execVor (h : Iss) (o : VecOp) (s : State) : Host.Outcome State Fault Refusal := vecExec h (.vor h o) .or o s
/-- XOR (Table 4-8). -/
def execVxor (h : Iss) (o : VecOp) (s : State) : Host.Outcome State Fault Refusal := vecExec h (.vxor h o) .xor o s
/-- SHL (R146). -/
def execVshl (h : Iss) (o : VecOp) (s : State) : Host.Outcome State Fault Refusal := vecExec h (.vshl h o) .shl o s
/-- SHR (R146). -/
def execVshr (h : Iss) (o : VecOp) (s : State) : Host.Outcome State Fault Refusal := vecExec h (.vshr h o) .shr o s
/-- CMPSEL (R146). -/
def execVcmpsel (h : Iss) (o : VecOp) (s : State) : Host.Outcome State Fault Refusal := vecExec h (.vcmpsel h o) .cmpsel o s
/-- EXP (R109). -/
def execVexp (h : Iss) (o : VecOp) (s : State) : Host.Outcome State Fault Refusal := vecExec h (.vexp h o) .exp o s
/-- RECIP (R109). -/
def execVrecip (h : Iss) (o : VecOp) (s : State) : Host.Outcome State Fault Refusal := vecExec h (.vrecip h o) .recip o s
/-- RSQRT (R109). -/
def execVrsqrt (h : Iss) (o : VecOp) (s : State) : Host.Outcome State Fault Refusal := vecExec h (.vrsqrt h o) .rsqrt o s
/-- CVT (R68, R106). -/
def execVcvt (h : Iss) (o : VecOp) (s : State) : Host.Outcome State Fault Refusal := vecExec h (.vcvt h o) .cvt o s
/-- TOMX (R70). -/
def execVtomx (h : Iss) (o : VecOp) (s : State) : Host.Outcome State Fault Refusal := vecExec h (.vtomx h o) .tomx o s
/-- ACOMB (R81, R145). -/
def execVacomb (h : Iss) (o : VecOp) (s : State) : Host.Outcome State Fault Refusal := vecExec h (.vacomb h o) .acomb o s
/-- AMERGE (R249, R250). -/
def execVamerge (h : Iss) (o : VecOp) (s : State) : Host.Outcome State Fault Refusal := vecExec h (.vamerge h o) .amerge o s
/-- RSUM (R107). -/
def execVrsum (h : Iss) (o : VecOp) (s : State) : Host.Outcome State Fault Refusal := vecExec h (.vrsum h o) .rsum o s
/-- RMAX (R107, R108). -/
def execVrmax (h : Iss) (o : VecOp) (s : State) : Host.Outcome State Fault Refusal := vecExec h (.vrmax h o) .rmax o s
/-- SCAN (R110). -/
def execVscan (h : Iss) (o : VecOp) (s : State) : Host.Outcome State Fault Refusal := vecExec h (.vscan h o) .scan o s
/-- RNG (R111). -/
def execVrng (h : Iss) (o : VecOp) (s : State) : Host.Outcome State Fault Refusal := vecExec h (.vrng h o) .rng o s
/-- SAMPLE (R112). -/
def execVsample (h : Iss) (o : VecOp) (s : State) : Host.Outcome State Fault Refusal := vecExec h (.vsample h o) .sample o s

end Sys2Proof.Machine
end

