-- ==== Sys2Proof/Machine/Checks.lean ====
section
/-!
DEFINITION. Machine/Checks.lean: every statement of the manual that "the loader refuses" with no fault of its own: the
content checks of step 12 (R321, R322), over the plan of a variant as `putPlan` would write it. A check answers the
places that fail; the loader reports the first in directory order.
-/
namespace Sys2Proof.Machine
open Sys2Proof

/-! ### Where a check fails (R322, R478) -/

/-- The place of a failing item or field: the item that holds a register, an item of Table 12-16, the one of a repeated
item whose field has a value, or a byte offset. -/
inductive Spot where
  | reg (a : Nat)
  | item (n : Nat)
  | rep (n lo w v : Nat)
  | at_ (o : Nat)
deriving DecidableEq, Repr

/-- A failing place: section type, instance, and spot. -/
structure Ref where
  type : Nat
  inst : Nat
  spot : Spot
deriving DecidableEq, Repr

/-- The directory index and byte offset of a failing place. -/
def locate (b : List Byte) (v : Nat) (r : Ref) : Nat × Nat :=
  match secIn b v r.type r.inst with
  | none => (dirCount b, 0)
  | some e =>
    let its := itemsOf (secOf b e)
    let o := match r.spot with
      | .reg a => ((its.find? fun i => covers i a).map (·.ofs)).getD 0
      | .item n => ((its.find? fun i => i.key == itemKey n).map (·.ofs)).getD 0
      | .rep n lo w x => ((its.find? fun i => i.key == itemKey n && natAt i.val lo w == x).map (·.ofs)).getD 0
      | .at_ o => o
    (e.ix, o)

/-- A place that fails if a condition holds. -/
def failIf (c : Bool) (type inst : Nat) (spot : Spot) : List Ref := if c then [{ type := type, inst := inst, spot := spot }] else []
/-- A check that concerns several sections: each is a failing place, and the loader names the lowest directory index
(R322). -/
def failAll (c : Bool) (rs : List (Nat × Nat × Spot)) : List Ref := if c then rs.map fun r => { type := r.1, inst := r.2.1, spot := r.2.2 } else []
/-- Pairs i < j below n. -/
def pairsOf (n : Nat) : List (Nat × Nat) := (List.range n).flatMap fun j => (List.range j).map fun i => (i, j)
/-- Two ranges overlap: first and count. -/
def meets (a b : Nat × Nat) : Bool := decide (0 < a.2 ∧ 0 < b.2 ∧ a.1 < b.1 + b.2 ∧ b.1 < a.1 + a.2)

/-! ### Item lists (R478) -/

/-- The section and the length an item of Table 12-16 admits. -/
def itemFits (b : List Byte) (t : State) (v : Nat) (e : DirEnt) (n : Nat) (x : List Byte) : Bool :=
  let l := x.length
  match n with
  | 1 => e.type == 0x10 && l % 16 == 0 && decide (16 ≤ l ∧ l ≤ 524288)
  | 2 => e.type == 0x11 && l % 16 == 0 && decide (16 ≤ l ∧ l ≤ 32768)
  | 3 => e.type == 0x12 && decide (l ≤ 65536)
  | 4 => e.type == 0x12 && decide (l ≤ 131072)
  | 5 => e.type == 0x13 && l == 4 * (cmdCount b v e.inst 0 + cmdCount b v e.inst 2 + cmdCount b v e.inst 4)
  | 6 => e.type == 0x14 && l == 512 && decide (natAt x 0 1 < 2)
  | 7 => e.type == 0x14 && l == 504
  | 8 => e.type == 0x31 && l == 24 && decide (natAt x 0 1 < 16)
  | 9 => e.type == 0x40 && l == 24 && decide (1 ≤ natAt x 0 2 ∧ natAt x 0 2 ≤ 8)
  | 10 => e.type == 0x42 && l == 24 && decide (natAt x 0 1 < 16 ∧ natAt x 1 1 < 16 ∧ natAt x 2 1 ≤ 16)
  | 11 => e.type == 0x43 && decide (8 < l ∧ natAt x 0 8 / 0x800000000 = e.inst ∧ (natAt x 0 8 + l - 9) / 0x800000000 = e.inst)
  | 12 => e.type == 0x61 && l == 128 * rf t (cruA (e.inst / 16) (0x200 + 8 * (e.inst % 16))) 16 17
  | 13 => e.type == 0x03 && l == 8
  | 14 => e.type == 0x80 && l == 16 && decide (1 ≤ natAt x 2 1 ∧ natAt x 2 1 ≤ 8)
  | 15 => e.type == 0x80 && l == 8
  | 16 => e.type == 0x80 && l == 8 && decide (natAt x 2 1 < 60)
  | 17 => e.type == 0x80 && l == 16
  | _ => false

/-- The order of a repeated item (Table 12-16): a key of its ordering field, 0 for an item that may stand once. -/
def itemOrder (n : Nat) (x : List Byte) : Nat :=
  match n with
  | 6 => natAt x 0 1 + 1 | 8 => natAt x 0 1 + 1 | 9 => natAt x 0 2 * 65536 + natAt x 2 2 + 1 | 10 => natAt x 0 1 + 1
  | 11 => natAt x 0 8 + 1 | 14 => natAt x 0 2 + 1 | 15 => natAt x 0 1 + 1 | 16 => natAt x 0 2 + 1
  | _ => 0

/-- A slot-table register exists only where its router has the output (R259). -/
def slotThere (t : State) (a : Nat) (r : ParReg) : Bool :=
  r.table != 19 || (let k := a / 0x10000 % 0x100; portAt t (k / 72) (k % 72) ((a % 0x10000 - 0x1000) / 0x400))

/-- An item's KEY and LENGTH are admitted in its section. -/
def itemOk (b : List Byte) (t : State) (v : Nat) (e : DirEnt) (i : Item) : Bool :=
  i.val.length == i.len &&
  if itemKey 0 ≤ i.key then itemFits b t v e (i.key - itemKey 0) i.val
  else match parReg i.key with
    | none => false
    | some r => decide (r.width ≤ i.len) && i.len % r.width == 0 &&
        (List.range (i.len / r.width)).all fun j => match parReg (i.key + r.stride * j) with
          | some x => x.table == r.table && x.places.contains (e.type, e.inst) && slotThere t (i.key + r.stride * j) x
          | none => false

/-- Items in ascending order, none twice. -/
def itemsRise : List Item → Bool
  | a :: b :: t =>
    (decide (a.key < b.key) || (a.key == b.key && itemKey 0 ≤ a.key && decide (0 < itemOrder (a.key - itemKey 0) a.val ∧ itemOrder (a.key - itemKey 0) a.val < itemOrder (b.key - itemKey 0) b.val)))
    && itemsRise (b :: t)
  | _ => true

/-- The items of a section that fail, by offset. -/
def itemFails (b : List Byte) (t : State) (v : Nat) (e : DirEnt) : List Ref :=
  let its := itemsOf (secOf b e)
  its.zipIdx.flatMap fun x =>
    failIf (!itemOk b t v e x.1 || !itemsRise ((its.drop (x.2 - 1)).take (min x.2 1 + 1))) e.type e.inst (.at_ x.1.ofs)

/-- The types of Table 12-3. -/
def sectionTypes : List Nat := [0x01, 0x02, 0x03, 0x10, 0x11, 0x12, 0x13, 0x14, 0x20, 0x21, 0x30, 0x31, 0x40, 0x41, 0x42, 0x43, 0x44, 0x50, 0x60, 0x61, 0x70, 0x80, 0x81, 0x90]
/-- The instances of a type (Table 12-3). -/
def instances (type : Nat) : Nat :=
  match type with
  | 0x10 => 60 | 0x11 => 240 | 0x12 => 60 | 0x13 => 60 | 0x14 => 60 | 0x20 => 144 | 0x30 => 24 | 0x31 => 12
  | 0x40 => 12 | 0x41 => 12 | 0x42 => 12 | 0x43 => 12 | 0x44 => 12 | 0x50 => 12 | 0x60 => 60 | 0x61 => 960
  | _ => 1
/-- The types of fixed layout. -/
def fixedTypes : List Nat := [0x01, 0x02, 0x70, 0x81, 0x90]

/-- The form of every section: a known type and instance, items or the length of its fixed layout. -/
def formFails (b : List Byte) (t : State) (v : Nat) : List Ref :=
  (inForce b v).flatMap fun e =>
    let x := secOf b e
    failIf (decide (instances e.type ≤ e.inst)) e.type e.inst (.at_ 0) ++
    if e.type ∈ fixedTypes then
      failIf (match e.type with
        | 0x01 => x.length != 22016
        | 0x02 => x.length != 64
        | 0x70 => x.length != 194 + 186 * natAt x 0 2
        | _ => x.length != 4 + 16 * natAt x 0 4) e.type e.inst (.at_ 0)
    else failIf (!sectionTypes.contains e.type) e.type e.inst (.at_ 0) ++ itemFails b t v e

/-! ### Envelopes, tiles, frame (R23, R54, R57, R331, R445, R452) -/

/-- An envelope's record is valid. -/
def envValid (t : State) (e : Nat) : Bool := rf t (0x020000018300 + 8 * e) 63 1 == 1
/-- A fence register. -/
def fenceReg (t : State) (j : Nat) : Nat := rg t (0x020000018400 + 8 * j)

/-- R445 and R452: cores of two envelopes, placed cores of none; fence entries that overlap or run backwards. -/
def envFails (t : State) : List Ref :=
  let owns (e c : Nat) : Bool := envValid t e && rf t (0x020000018380 + 8 * e) c 1 == 1
  ((List.range 60).flatMap fun c =>
    let n := ((List.range 16).filter fun e => owns e c).length
    failIf (decide (1 < n)) 0x01 0 (.at_ (1280 * (((List.range 16).find? fun e => owns e c).getD 0) + 8)) ++
    failAll (n == 0 && (core t c).present) [(0x01, 0, .at_ 8), (0x02, 0, .at_ c)]) ++
  (List.range 192).flatMap fun j =>
    let f := fenceReg t j
    failIf (bitAt f 63 && (decide (fld f 32 18 < fld f 0 18) || (List.range (j % 16)).any fun i =>
      let g := fenceReg t (16 * (j / 16) + i)
      bitAt g 63 && decide (fld g 0 18 ≤ fld f 32 18 ∧ fld f 0 18 ≤ fld g 32 18))) 0x01 0 (.at_ (20480 + 8 * j))

/-- The site of a tile (R22). -/
def tileSite (x : Nat) : Nat := x % 18 / 3 + 6 * (x / 36)
/-- The repair record in force: the copy with more WRITES whose signature verified. -/
def tileDefective (rec_ : List Byte) (x : Nat) : Bool := bitAt (natAt rec_ 48 16) x

/-- R23: each core on a distinct sound tile of its site. -/
def tileFails (t : State) (rec_ b : List Byte) : List Ref :=
  ((List.range 60).flatMap fun c =>
    let x := (core t c).tile
    failIf (!(core t c).present || tileSite x != c / 5 || tileDefective rec_ x || (List.range c).any fun d => (core t d).tile == x) 0x02 0 (.at_ c)) ++
  failIf (natAt (secBytes b 0 0x02 0) 60 4 != 0) 0x02 0 (.at_ 60)

/-- LNK_CFG.USED. -/
def linkUsed (t : State) (n : Nat) : Bool := rf t (lnkA n 0x000) 34 1 == 1
/-- The streams of an envelope: first and count. -/
def streamsOf (t : State) (e : Nat) : Nat × Nat := (rf t (srvA e 0x000) 37 13, rf t (srvA e 0x000) 50 14)

/-- R54, R57, R331: vote timing, monitor mode and serving parameters. R57 gives ranges for C, VOTE_OFS, ROUND_LEN, ROUNDS
and no refusal of a plan outside them: such a plan is loaded, and runs by its values (DESIGN CHOICE, log entry 63). -/
def frameFails (t : State) : List Ref :=
  let F := frameLen t
  let C := cwLen t
  failIf (decide (C < voteOfs t + 2 * rounds t * roundLen t + 3072)) 0x03 0 (.reg (ttA 0x024)) ++
  ((List.range 24).flatMap fun n => failAll (bitAt t.voteLinks n && decide (roundLen t < cdiv (flightA t n) 8 + 128)) [(0x03, 0, .reg (ttA 0x024)), (0x30, n, .reg (lnkA n 0x018))]) ++
  failIf (rf t (clkA 0x004) 0 2 == 0) 0x03 0 (.reg (clkA 0x004)) ++
  ((List.range 16).filter (envValid t)).flatMap fun e =>
    let B := rg t (srvA e 0x008)
    let D := rg t (srvA e 0x018)
    let E := rg t (srvA e 0x020)
    let intake := fld B 41 23
    let post := fld B 18 23
    let z := streamsOf t e
    let fr (e : Nat) : Nat × Nat := (rf t (srvA e 0x000) 12 12, rf t (srvA e 0x000) 24 13)
    let hd (e : Nat) : Nat × Nat := (rf t (srvA e 0x010) 31 16, rf t (srvA e 0x010) 47 17)
    failIf (decide (F < C + intake + fld D 41 23) || decide (intake < post + fld D 18 23) || decide (post < roundLen t)) 0x03 0 (.reg (srvA e 0x008)) ++
    failIf (((List.range e).filter (envValid t)).any fun d => meets (streamsOf t d) z || meets (fr d) (fr e)) 0x03 0 (.reg (srvA e 0x000)) ++
    failIf (((List.range e).filter (envValid t)).any fun d => meets (hd d) (hd e)) 0x03 0 (.reg (srvA e 0x010)) ++
    failIf ((List.range z.2).any fun i => tget 0 t.home (z.1 + i) == 0 || (core t (tget 0 t.home (z.1 + i) - 1)).env != e) 0x03 0 (.reg (srvA e 0x000)) ++
    failIf (decide (fld E 22 18 < 2 * (fld B 8 10 + 1) + z.2)) 0x03 0 (.reg (srvA e 0x020))

/-! ### Commands (R95 to R153, R196, R242) -/

/-- The commands that need no least DELTA of 1 before the next (R126). -/
def quick : Instr → Bool
  | .waitc .. => true | .waitq .. => true | .bpWaitq .. => true | .attick .. => true
  | .segEnd h => h.psel == 0 && h.pol
  | _ => false

/-- A command of a stream's memory. -/
def cmdAt (t : State) (c k i : Nat) : Option Instr := decodeCmd (Fin.ofNat 60 c) (Fin.ofNat 5 k) (BitVec.ofNat 15 i) 0 (cmdWord t c k i)
/-- The header of a command. -/
def hdrOf (i : Instr) : Option Iss := (encOf i).map (·.1)

/-- A SEG LOOP's body that R133 refuses. -/
def loopBad (t : State) (c k i : Nat) (level : Bool) (target : Nat) : Bool :=
  decide (i < target) || (List.range (i - target)).any fun j => match cmdAt t c k (target + j) with
    | some (.segEnd _) => true
    | some (.segLoop _ l _ _) => l == level || (!level && l)
    | _ => false

/-- A queue's planned direction: true outbound. -/
def outQ (t : State) (c b q : Nat) : Bool := rf t (bpA c b (0x20 + 8 * q)) 31 1 == 1
/-- A vector descriptor of a core. -/
def vdesc (t : State) (c ve ix : Nat) : Nat := (tget 0 (core t c).descs (64 * ve + ix)).toNat
/-- The job that a vector command would be with every counter term at 0. -/
def vjob (t : State) (c : Nat) (o : VecOp) : Job :=
  { noJob with core := c, descs := [o.d, o.a, o.b, o.c, o.x].map fun ix => if ix = 63 then 0 else BitVec.ofNat 64 (vdesc t c o.ve.val ix.toNat) }

/-- The formats that D may name (R106, R125); none: the operation writes a layout of its own. -/
def destFmts : VKind → Option (List Nat)
  | .cvt => some [0, 1, 2, 3, 4, 11, 12]
  | .tomx => some [5, 6, 7, 8, 9, 10]
  | .acomb => some [14]
  | .amerge => none
  | .rng => some [0, 13] | .sample => some [0, 13]
  | k => if k.integer then some [13, 11, 12] else some [0, 1, 2, 3, 4]

/-- A vector operation that the loader refuses (R106, R111, R125, R145). -/
def vecBad (t : State) (c : Nat) (k : VKind) (o : VecOp) : Bool :=
  let desc (l : Nat) : Nat := vdesc t c o.ve.val (letterIx o l)
  let bad (l : Nat) : Bool := letterIx o l != 63 && (desc l / 2 ^ 62 == 0 || desc l / 2 ^ 62 == 3)
  let mem (l : Nat) : Option Nat := if letterIx o l ≠ 63 ∧ desc l / 2 ^ 62 = 1 then some (fld (desc l) 48 4) else none
  let uses := (0 :: k.ins) ++ if k = .tomx then [4] else []
  uses.any bad || letterIx o 0 == 63 ||
  (match mem 0, destFmts k with | some f, some l => !l.contains f | _, _ => false) ||
  (match k with
   | .rng => uses.any (fun l => letterIx o l == 63) || desc 1 / 2 ^ 62 == 2
   | .sample => uses.any (fun l => letterIx o l == 63) || desc 1 / 2 ^ 62 == 2
   | .tomx => (mem 4).elim false (· != 15)
   | .acomb => [1, 2].any fun l => (mem l).elim false (· != 14)
   | .amerge => false
   | .cmpsel => fld o.aux.toNat 0 2 == 3 || k.ins.any fun l => (mem l).elim false fun f => f == 14 || f == 15
   | _ => k.ins.any fun l => (mem l).elim false fun f => f == 14 || f == 15)

/-- An SE command's PARAM that names no parameter entry (R147). -/
def paramBad (t : State) (c : Nat) (p : BitVec 6) : Bool := p == 63 || (tget 0 (core t c).descs (128 + p.toNat)).toNat / 2 ^ 62 != 3

/-- A BAU operation that R242 refuses; CLASS, LAYER, HEAD, START and COUNT are judged in every one. -/
def bauBad (t : State) (c bop : Nat) (o : BauOp) : Bool :=
  let r := rg t (bauA (c / 5) (0x080 + 8 * o.cls.toNat))
  let e := if fld r 61 2 = 2 then 2 else 1
  let q := o.qofs.toNat
  let n := o.count.toNat + 1
  (!bitAt r 63 || decide (fld r 54 7 < o.layer.toNat) || decide (fld r 50 4 < o.head.toNat) ||
    (bop == 1 && decide (128 < q + (o.lanes.toNat + 1) * e)) || (bop == 2 && decide (128 < q + 2 * e)) || (bop == 6 && decide (128 < q + n)) ||
    decide (512 * e < o.start.toNat + n))

/-- A predicate that SEG, ATTICK and the waits may not carry (R122). -/
def predBad (h : Iss) : Bool := h.psel != 0
/-- A DESCRIPTOR write that changes KIND or FMT (R142). -/
def descBad (t : State) (c tgt ix v : Nat) : Bool :=
  let old := (tget 0 (core t c).descs (64 * (tgt - 4) + ix)).toNat
  ix == 63 || old / 2 ^ 62 != v / 2 ^ 62 || (old / 2 ^ 62 == 1 && fld old 48 4 != fld v 48 4)

/-- A command that the loader refuses in itself: stream k of core c. -/
def instrBad (t : State) (c k i : Nat) (x : Instr) : Bool :=
  let lim := frameLen t - cwLen t
  let b := (k - 1) / 2
  match x with
  | .segEnd h => predBad h
  | .segLoop h l g _ => predBad h || loopBad t c k i l g.toNat
  | .segArm h _ _ g => predBad h || decide (lim ≤ g.toNat)
  | .attick h g => predBad h || decide (lim ≤ g.toNat)
  | .waitc h _ n d => predBad h || n == 0 || decide (lim < d.toNat)
  | .waitq h p q n d => predBad h || n == 0 || decide (lim < d.toNat) || outQ t c p.val q.toNat
  | .bpWaitq h _ n d => predBad h || n == 0 || decide (64 < n.toNat) || decide (lim < d.toNat)
  | .setcCounter _ g j _ _ _ => if k = 0 then !(decide (g.toNat ≤ 6) || g == 15) else g != 0 || (j.toNat / 2 != (k + 1) % 2)
  | .setcComparator _ g m _ j _ p _ => p == 0 || if k = 0 then !(decide (g.toNat ≤ 6) || g == 15) else g != 0 || b2n m != (k + 1) % 2 || j.toNat / 2 != (k + 1) % 2
  | .setcDescriptor _ g ix v => !(decide (4 ≤ g.toNat ∧ g.toNat ≤ 6)) || descBad t c g.toNat ix.toNat v.toNat
  | .matmul _ o => mclass o.wfmt.toNat o.sfmt.toNat == none || decide (512 < o.u.toNat + mmUnits o) || (mmAnch o && o.u.toNat % 4 != 0)
  | .moveW _ _ _ _ _ w => w == 0 || decide (13 ≤ w.toNat)
  | .moveMein _ _ _ _ u _ y => y == 3 || (y == 2 && u.toNat % 4 != 0)
  | .moveMeout _ _ _ _ _ _ _ f _ => f == 3
  | .transpose _ _ _ _ _ w => w == 3
  | .im2col _ _ _ _ p => paramBad t c p
  | .topk _ _ _ _ _ _ g p => decide (8 < g.toNat) || paramBad t c p
  | .dispatch _ o => paramBad t c o.param || fld (tget 0 (core t c).descs (128 + o.param.toNat)).toNat 25 12 == 0
  | .combine _ o => paramBad t c o.param || fld (tget 0 (core t c).descs (128 + o.param.toNat)).toNat 25 12 == 0
  | .send _ o => o.rows == 0 || (match o.dkind.toNat with | 0 => decide (60 ≤ o.dest.toNat) || !(core t o.dest.toNat).present | 1 => decide (24 ≤ o.dest.toNat) | _ => true)
  | .bpipe _ p _ _ _ q _ _ => !outQ t c p.val q.toNat
  | .rd _ o => outQ t c b o.q.toNat
  | .wr _ o => !outQ t c b o.q.toNat
  | .gather _ o => !outQ t c b o.qi.toNat || outQ t c b o.qo.toNat
  | .bauq _ q _ _ _ => !outQ t c b q.toNat
  | .bauNop _ o => outQ t c b o.q.toNat
  | .attend _ o => outQ t c b o.q.toNat || bauBad t c 1 o
  | .kvput _ o => outQ t c b o.q.toNat || bauBad t c 2 o
  | .pcopy _ o => outQ t c b o.q.toNat || bauBad t c 3 o
  | .pzero _ o => outQ t c b o.q.toNat || bauBad t c 4 o
  | .slout _ o => outQ t c b o.q.toNat || bauBad t c 5 o
  | .slin _ o => outQ t c b o.q.toNat || bauBad t c 6 o
  | .dlv _ _ q _ _ => outQ t c b q.toNat
  | .dlvs _ q _ _ => outQ t c b q.toNat
  | .drop _ q _ => outQ t c b q.toNat
  | x => match vecOf x with | some (kd, o) => vecBad t c kd o | none => false

/-- The row extents a command's fields give, with every counter term at 0: first row and rows (R196). -/
def extents (t : State) (c : Nat) (x : Instr) : List (Nat × Nat) :=
  let se (p : BitVec 6) : Nat := (tget 0 (core t c).descs (128 + p.toNat)).toNat
  match x with
  | .bpipe _ _ _ s n _ sp _ => if sp then [] else [(s.toNat, n.toNat + 1)]
  | .send _ o => (o.src.toNat, o.rows.toNat) :: if o.dkind = 0 then [(o.drow.toNat, o.rows.toNat)] else []
  | .fill _ _ d n _ => [(d.toNat, n.toNat + 1)]
  | .copy _ _ s d n => [(s.toNat, n.toNat + 1), (d.toNat, n.toNat + 1)]
  | .moveW _ _ _ s _ w => [(s.toNat, loadRows w.toNat)]
  | .moveMein _ _ _ s _ n y => [(s.toNat, (n.toNat + 1) * match y.toNat with | 0 => 4 | 1 => 2 | _ => 17)]
  | .moveMeout _ _ _ d _ m w f _ => [(d.toNat, (m.toNat + 1) * (b2n w + 1) * match f.toNat with | 0 => 4 | 1 => 2 | _ => 17)]
  | .moveVld _ _ _ r _ n => [(r.toNat, 2 * (n.toNat + 1))]
  | .moveVst _ _ _ r _ n => [(r.toNat, 2 * (n.toNat + 1))]
  | .matmul _ o => (o.sbase.toNat, o.m.toNat * o.sstride.toNat + 1) :: if isMx o.sfmt.toNat then [(o.scale.toNat, mmP o)] else []
  | .transpose _ _ s d n w => [(s.toNat, (n.toNat + 1) * trE w.toNat), (d.toNat, (n.toNat + 1) * trE w.toNat)]
  | .permute _ _ s d n i l => [(s.toNat, l.toNat), (d.toNat, n.toNat + 1), (i.toNat, cdiv (2 * (n.toNat + 1)) 128)]
  | .im2col _ _ s d p => let q := im2Of (se p); [(s.toNat, q.tin * q.fin_ * q.rin), (d.toNat, q.rows)]
  | .topk _ _ s d r n k _ => [(s.toNat, (r.toNat + 1) * (n.toNat + 1)), (d.toNat, (r.toNat + 1) * cdiv (8 * 2 ^ k.toNat) 128)]
  | .dispatch _ o => let p := routeOf (se o.param); [(o.src.toNat, p.t * p.trows), (o.dst.toNat, p.x * p.c * p.trows), (o.route.toNat, cdiv (8 * p.t * p.e) 128), (o.assign.toNat, cdiv (p.t * p.e) 64)]
  | .combine _ o => let p := routeOf (se o.param); [(o.src.toNat, p.x * p.c * p.xrows), (o.dst.toNat, p.t * p.outRows), (o.route.toNat, cdiv (8 * p.t * p.e) 128), (o.assign.toNat, cdiv (p.t * p.e) 64)]
  | .dlv _ _ _ n d => [(d.toNat, n.toNat + 1)]
  | x => match vecOf x with
    | some (k, o) => ((vecReads (vjob t c o) k o).map fun r => (r.2, 1)) ++ (vecWrites (vjob t c o) k o).map fun r => (r, 1)
    | none => []

/-- A command memory of a core that fails: some command is refused, the last is no SEG END, a DELTA is too small, or an
audited core's rows reach the epoch store (R120, R123, R126, R196). -/
def streamBad (b : List Byte) (t : State) (v c k : Nat) : Bool :=
  let n := cmdCount b v c k
  let loops := (List.range n).filterMap fun i => match cmdAt t c k i with | some (.segLoop _ _ g _) => some g.toNat | _ => none
  n == 0 || (match cmdAt t c k (n - 1) with | some (.segEnd h) => !(h.psel == 0 && h.pol) | _ => true) ||
  (List.range n).any fun i => match cmdAt t c k i with
    | none => true
    | some x =>
      let least := if i ≠ 0 ∧ (cmdAt t c k (i - 1)).elim false (fun y => !quick y) then true else loops.contains i
      instrBad t c k i x || (least && (hdrOf x).elim false fun h => h.delta == 0) ||
      ((core t c).audited && (extents t c x).any fun r => decide (0 < r.2 ∧ 0xF000 < r.1 + r.2))

/-- Every command memory that fails, with the audit words (R197). -/
def cmdFails (b : List Byte) (t : State) (v : Nat) : List Ref :=
  ((List.range 60).filter fun c => (core t c).present).flatMap fun c =>
    failIf (streamBad b t v c 0) 0x10 c (.item 1) ++
    ((List.range 4).flatMap fun k => failIf (streamBad b t v c (k + 1)) 0x11 (4 * c + k) (.item 2)) ++
    failIf ((core t c).audited && (match itemOf (secBytes b v 0x13 c) (itemKey 5) with
      | some i => (wordsOf 4 i.val).any fun w => w / 2 ^ 26 == 0 || decide (61 ≤ w / 2 ^ 26)
      | none => true)) 0x13 c (.item 5)

/-! ### Crucible (R188, R195, R196) -/

/-- The ranges of rows that a spool's rows lie in: its span wraps at the Crucible's end (R188). -/
def wrapped (r : Nat × Nat) : List (Nat × Nat) := if 65536 < r.1 + r.2 then [(r.1, 65536 - r.1), (0, r.1 + r.2 - 65536)] else [r]
/-- Two row ranges overlap, each wrapped. -/
def meetsWrapped (x y : Nat × Nat) : Bool := (wrapped x).any fun p => (wrapped y).any fun q => meets p q

/-- The sections, of those that may fill a register, that do; all of them where none does. -/
def holders (b : List Byte) (v : Nat) (ps : List (Nat × Nat)) (a : Nat) : List (Nat × Nat × Spot) :=
  let l := ps.filter fun p => (itemsOf (secBytes b v p.1 p.2)).any (covers · a)
  (if l = [] then ps else l).map fun p => (p.1, p.2, Spot.reg a)

/-- Spools, resident ranges, scrub pairs. -/
def crucibleFails (b : List Byte) (t : State) (v : Nat) : List Ref :=
  ((List.range 60).filter fun c => (core t c).present).flatMap fun c =>
    let sp (n : Nat) : Nat × Nat := (rf t (cruA c (0x100 + 8 * n)) 0 16, rf t (cruA c (0x100 + 8 * n)) 16 16)
    let rs (n : Nat) : Nat × Nat := let r := rg t (cruA c (0x200 + 8 * n)); if bitAt r 63 then (fld r 0 16, fld r 16 17) else (0, 0)
    let aud (r : Nat × Nat) : Bool := (core t c).audited && (wrapped r).any fun p => decide (0 < p.2 ∧ 0xF000 < p.1 + p.2)
    let sc := rg t (cruA c 0x028)
    let a := 8 * fld sc 23 23
    let z := a + 2 * fld sc 0 13
    let mv := rg t (cruA c 0x020)
    let W := frameLen t - cwLen t
    let inTicks (x y : Nat) : Bool := decide (a < z ∧ a < 8 * y ∧ 8 * x < z)
    ((List.range 32).flatMap fun n => failIf ((sp n).2 % 16 != 0 || aud (sp n) || (List.range n).any (fun m => meetsWrapped (sp m) (sp n)) || (List.range 16).any fun m => meetsWrapped (rs m) (sp n)) 0x60 c (.reg (cruA c (0x100 + 8 * n)))) ++
    ((List.range 16).flatMap fun n => failIf (aud (rs n) || decide (65536 < (rs n).1 + (rs n).2)) 0x60 c (.reg (cruA c (0x200 + 8 * n)))) ++
    let scrub := holders b v [(0x21, 0), (0x60, c)] (cruA c 0x028)
    failAll (decide (8 * frameLen t < z)) ((0x03, 0, .reg (ttA 0x01C)) :: scrub) ++
    failAll (inTicks (fld mv 0 23) (fld mv 23 23)) ((0x14, c, .reg (cruA c 0x020)) :: scrub) ++
    failAll (inTicks W (W + voteOfs t) || inTicks (decisionOfs t) (decisionOfs t + 3072)) ((0x03, 0, .reg (ttA 0x020)) :: scrub)

/-! ### DRAM and BAUs (R207, R216, R219, R222, R234, R404, R452) -/

/-- A range of DRAM lies in the fence of an envelope, or of any for an envelope of 16. -/
def fenced (t : State) (env base len : Nat) : Bool :=
  len == 0 || (List.range (len / 131072 + 2)).all fun i =>
    let a := min (base + 131072 * i) (base + len - 1)
    inFence t env (a / 128)

/-- The envelope whose range holds a stream. -/
def envOfStream (t : State) (z : Nat) : Nat := ((List.range 16).find? fun e => envValid t e && decide ((streamsOf t e).1 ≤ z ∧ z < (streamsOf t e).1 + (streamsOf t e).2)).getD 16

/-- The channel is failed (R207). -/
def chFailed (s : State) (k c : Nat) : Bool := rf s (drmA k (0x100 + 8 * c)) 63 1 == 1

/-- Refreshes of a bank of channel c in a frame (R219). -/
def refreshes (t : State) (k c bank : Nat) : Nat :=
  let P := rf t (drmA k 0x018) 0 10
  let o := rf t (drmA k (0x100 + 8 * c)) 0 6 + bank * P / 16
  if frameLen t ≤ o then 0 else cdiv (frameLen t - o) (max P 1)

/-- The stacks' checks. `s` is the part, for its failed channels. R216 also names BAU configuration that falls inside a
gather window: no field of the parison gives it a time, so there is nothing to judge (DEDUCED, log entry 64). -/
def dramFails (b : List Byte) (s t : State) (v : Nat) : List Ref :=
  (List.range 12).flatMap fun k =>
    let g := rf t (drmA k 0x000) 1 2
    let P := rf t (drmA k 0x018) 0 10
    let act := rg t (drmA k 0x020)
    let bg := rg t (drmA k 0x010)
    let win (w : Nat) : Nat × Nat := let r := rg t (drmA k (0x400 + 8 * w)); if bitAt r 63 then (fld r 0 23, fld r 32 10 + 1) else (0, 0)
    let area (n : Nat) : Nat × Nat × Nat := let r := rg t (bauA k (0x0C0 + 8 * n)); (fld r 0 14, fld r 16 13, fld r 32 13)
    let need (n : Nat) : Nat :=
      let cl := rg t (bauA k (0x080 + 8 * n))
      (area n).2.1 * cdiv ((fld cl 54 7 + 1) * (fld cl 50 4 + 1)) 64 * 512 * if fld cl 61 2 = 2 then 2 else 1
    failIf (!(g == 1 || g == 2) || P == 0 || decide ((if g = 1 then 610 else 305) < P)) 0x41 k (.reg (drmA k 0x018)) ++
    ((List.range 64).flatMap fun c => failIf (decide (P < rf t (drmA k (0x100 + 8 * c)) 0 6 + 1 + 15 * P / 16) ||
      (List.range 16).any fun bank => decide (refreshes t k c bank < cdiv (8192 * g * frameLen t) 5000000)) 0x41 k (.reg (drmA k (0x100 + 8 * c)))) ++
    failIf (decide (fld act 0 16 < 1024) || decide (62500 < fld act 0 16) || decide (rf s (drmA k 0x020) 48 16 * fld act 0 16 / 15625 < fld act 32 16)) 0x44 k (.reg (drmA k 0x020)) ++
    ((List.range 16).flatMap fun w =>
      let h := tget {} t.hwins (16 * k + w)
      let host := rf t (drmA k (0x400 + 8 * w)) 56 4 == 15
      failAll (meets (win w) (fld bg 0 23, fld bg 23 23)) ((0x42, k, .reg (drmA k (0x400 + 8 * w))) :: holders b v [(0x42, k)] (drmA k 0x010)) ++
      failIf (decide (512 < (win w).2) || (List.range w).any fun x => meets (win x) (win w)) 0x42 k (.reg (drmA k (0x400 + 8 * w))) ++
      failIf (host && decide (0 < (win w).2) && decide (8 * (win w).2 < h.ndesc + 104 + cdiv h.maxent 2)) 0x42 k (.rep 10 0 1 w) ++
      failIf (host && decide (0 < h.ndesc) && !fenced t h.env h.table (128 * h.ndesc)) 0x42 k (.rep 10 0 1 w)) ++
    ((List.range 8).flatMap fun n =>
      failIf (decide (0 < (area n).2.1) && (decide (4194304 < (area n).1 * 256 + need n) || (List.range 64).any (chFailed s k) || decide (8192 < (area n).2.2 + (area n).2.1) ||
        (List.range n).any fun m => meets ((area m).1 * 256, need m) ((area n).1 * 256, need n) || meets ((area m).2.2, (area m).2.1) ((area n).2.2, (area n).2.1))) 0x50 k (.reg (bauA k (0x0C0 + 8 * n)))) ++
    ((itemsOf (secBytes b v 0x40 k)).flatMap fun i =>
      if i.key = itemKey 9 then
        let kind := natAt i.val 0 2
        let ix := natAt i.val 2 2
        let base := natAt i.val 8 8
        let len := natAt i.val 16 8
        let env := if kind = 1 ∨ kind = 8 then envOfStream t ix else ix
        failIf (base / 0x800000000 != k || decide ((k + 1) * 0x800000000 < base + len) || ((kind == 1 || kind == 8 || kind == 4 || kind == 5 || kind == 6) && !fenced t env base len)) 0x40 k (.at_ i.ofs)
      else []) ++
    (itemsOf (secBytes b v 0x43 k)).flatMap fun i =>
      let a := natAt i.val 0 8 / 128
      failIf ((List.range (min 64 (cdiv (natAt i.val 0 8 % 128 + (i.len - 8)) 128))).any fun j => chFailed s k ((a + j) % 64)) 0x43 k (.at_ i.ofs)

/-! ### Bridle and links (R258, R270, R287, R295, R299, R302, R424, R469, R479) -/

/-- A slot-table entry: INPUT and BG. -/
def bslotOf (t : State) (r o j : Nat) : Nat × Bool :=
  let x := rf t (brdA (r / 72) (r % 72) (0x1000 + 0x400 * o + j / 4 * 4)) (8 * (j % 4)) 8
  (x % 16, bitAt x 7)

/-- Slot tables, and failed routers: each output has the background share's BG entries (R38, R270). -/
def bridleFails (b : List Byte) (t : State) (rec_ : List Byte) (v : Nat) : List Ref :=
  (List.range 144).flatMap fun r =>
    failIf (bitAt (natAt rec_ 64 32) r) 0x20 r (.at_ 0) ++
    ((List.range 7).filter (portAt t (r / 72) (r % 72))).flatMap fun o =>
      failIf (decide (((List.range 1024).filter fun j => (bslotOf t r o j).2).length < Config.bridleShare (planId b) (fleetIx b) v)) 0x20 r (.reg (brdA (r / 72) (r % 72) (0x1000 + 0x400 * o))) ++
      (List.range 1024).flatMap fun j =>
        let e := bslotOf t r o j
        failIf ((e.1 != 15 && !portAt t (r / 72) (r % 72) e.1) || (e.2 && (e.1 == 4 || e.1 == 15))) 0x20 r (.reg (brdA (r / 72) (r % 72) (0x1000 + 0x400 * o + j / 4 * 4)))

/-- A transmit entry: BALLAST, SRC1, SRC0. -/
def txOf (t : State) (n j : Nat) : Bool × Nat × Nat :=
  let x := rf t (lnkA n (0x1000 + 4 * (j / 2))) (16 * (j % 2)) 16
  (bitAt x 15, fld x 4 4, fld x 0 4)
/-- Planned starts of an entry. -/
def startsOf (t : State) (n j : Nat) : Nat := b2n ((txOf t n j).2.1 != 0) + b2n ((txOf t n j).2.2 != 0)
/-- Starts that Table 11-1 admits at a width. -/
def startsAt (width j : Nat) : Nat := match width with | 0 => 2 | 1 => 1 | _ => if j % 2 = 0 then 1 else 0
/-- A management start in ticks [a, a + n) of a frame. -/
def mgmtIn (t : State) (l a n : Nat) : Bool := (List.range n).any fun i => (txOf t l ((a + i) % 4096)).2.1 == 2 || (txOf t l ((a + i) % 4096)).2.2 == 2
/-- The lanes a width and a selection use (Table 11-4). -/
def lanesOf (width sel : Nat) : List Nat := match width with | 0 => [0, 1, 2, 3] | 1 => [2 * (sel % 2), 2 * (sel % 2) + 1] | _ => [sel]
/-- The places outside link n's own section where the parison names it (R479). -/
def namedLink (t : State) (n : Nat) : List Ref :=
  failIf (bitAt (rf t (ttA 0x028) 8 24) n || rf t (ttA 0x028) 0 5 == n) 0x03 0 (.reg (ttA 0x028)) ++
  failIf (bitAt t.voteLinks n) 0x03 0 (.item 13) ++
  failIf (rf t (clkA 0x004) 16 5 == n) 0x03 0 (.reg (clkA 0x004)) ++
  (t.routes.flatMap fun r => failIf (r.2.contains n) 0x80 0 (.rep 14 0 2 r.1)) ++
  failIf (rg t (twnA 0) != 0 && (rf t (twnA 0) 46 5 == n || rf t (twnA 0) 41 5 == n)) 0x80 0 (.reg (twnA 0))

/-- Partners of a protected pair (R302): both marked, the same FLIGHT_A, starts that fit the width of either together, and
ballast in common. -/
def pairFails (t : State) (k : Nat) : List Ref :=
  let a := 2 * k
  let b := 2 * k + 1
  let used := linkUsed t a && linkUsed t b
  let mark (n : Nat) : Bool := linkUsed t n && bitAt (rg t (lnkA n 0)) 35
  let w (n : Nat) : Nat := rf t (lnkA n 0) 32 2
  let both (o : Nat) : List (Nat × Nat × Spot) := [(0x30, a, .reg (lnkA a o)), (0x30, b, .reg (lnkA b o))]
  failAll (used && rf t (lnkA a 0) 51 13 != rf t (lnkA b 0) 51 13) (both 0x000) ++
  if !mark a && !mark b then []
  else
    failAll (!mark a || !mark b) (both 0x000) ++
    failAll (flightA t a != flightA t b) (both 0x018) ++
    ((List.range 4096).flatMap fun j =>
      let n := startsOf t a j + startsOf t b j
      failAll (decide (startsAt (w a) j < n) || decide (startsAt (w b) j < n)) (both (0x1000 + 4 * (j / 2)))) ++
    (List.range 256).flatMap fun g => failAll ((List.range 16).all fun i => !((txOf t a (16 * g + i)).1 && (txOf t b (16 * g + i)).1)) (both (0x1000 + 32 * g))

/-- The links' checks. `s` is the part, for its power domains. -/
def linkFails (s t : State) (rec_ : List Byte) : List Ref :=
  let lane (n d l : Nat) : Bool := bitAt (natAt rec_ 96 24) (8 * n + 4 * d + l)
  (List.range 24).flatMap fun n =>
    let cfg := rg t (lnkA n 0x000)
    let w := fld cfg 32 2
    let any := (List.range 4096).any fun j => startsOf t n j != 0 || bitAt (rg t (lnkA n (0x4000 + 8 * j))) 31 || bitAt (rg t (lnkA n (0x4000 + 8 * j))) 63
    let tm := rg t (lnkA n 0x020)
    (if n % 2 = 0 then pairFails t (n / 2) else []) ++
    if !linkUsed t n then failIf any 0x30 n (.reg (lnkA n 0x000)) ++ namedLink t n
    else
      failIf (decide (flightA t n > 1280) || decide (fld tm 32 16 < 2 * flightA t n + 314) || decide (4095 < cdiv (flightA t n + 16) 8 + fld tm 16 16)) 0x30 n (.reg (lnkA n 0x020)) ++
      failIf (w == 3 || (lanesOf w (fld cfg 30 2)).any (fun l => lane n 0 l || lane n 1 l) || rf s 0x02000001B010 (8 + n / 6) 1 == 0) 0x30 n (.reg (lnkA n 0x000)) ++
      ((List.range 4096).flatMap fun j =>
        let x := txOf t n j
        failIf (decide (startsAt w j < startsOf t n j) || decide (4 < x.2.1) || decide (4 < x.2.2) || (x.1 && startsOf t n j != 0)) 0x30 n (.reg (lnkA n (0x1000 + 4 * (j / 2))))) ++
      ((List.range 256).flatMap fun g => failIf ((List.range 16).all fun i => !(txOf t n (16 * g + i)).1) 0x30 n (.reg (lnkA n (0x1000 + 32 * g)))) ++
      ((List.range 128).flatMap fun g => failIf (!mgmtIn t n (32 * g) 32) 0x30 n (.reg (lnkA n (0x1000 + 64 * g)))) ++
      failIf (bitAt t.voteLinks n && !mgmtIn t n 0 128) 0x30 n (.reg (lnkA n 0x1000)) ++
      failAll (bitAt t.voteLinks n && (List.range (2 * rounds t)).any fun r => !mgmtIn t n (frameLen t - cwLen t + voteOfs t + r * roundLen t) 128) [(0x30, n, .reg (lnkA n 0x1000)), (0x03, 0, .reg (ttA 0x024))]

/-! ### Membership, pod, tail queues (R369, R410, R414) -/

/-- The longest route in hops. -/
def maxHops (t : State) : Nat := (t.routes.map fun r => r.2.length).foldl max 0

/-- The membership's checks. -/
def memberFails (b : List Byte) (t : State) : List Ref :=
  let m := secBytes b 0 0x80 0
  let twin := (itemsOf m).any fun i => covers i (twnA 0)
  let la := rf t (twnA 0) 46 5
  let lb := rf t (twnA 0) 41 5
  let fact (i : Nat) : Nat := Config.fleetFact (planId b) (fleetIx b) i
  let n := rf t (0x020000016000) 44 4 + 1
  let K := rf t (0x020000016000) 36 4
  let pod := rg t (bar 0 0x100)
  let ofs := rg t (bar 0 0x108)
  failIf (twin && (la / 2 != lb / 2 || la == lb || fact 0 == 1 || fact 1 == 1)) 0x80 0 (.reg (twnA 0)) ++
  ([la, lb].flatMap fun n => failAll (twin && rf t (lnkA n 0) 35 1 == 0) [(0x80, 0, .reg (twnA 0)), (0x30, n, .reg (lnkA n 0))]) ++
  failAll (twin && rf t (lnkA la 0) 51 13 != rf t (twnA 0) 51 13) [(0x80, 0, .reg (twnA 0)), (0x30, la, .reg (lnkA la 0))] ++
  failIf (t.train != [] && (decide (n < 6) || decide (16 < n) || decide (K < 4) || decide (14 < K) || decide (n < K + 2))) 0x80 0 (.reg 0x020000016000) ++
  failIf (decide (3 ≤ fleetSize t) && decide ((electorsOf t (myIx t)).length < 2)) 0x80 0 (.reg (crlA 0x008)) ++
  failIf (decide (crlRoundLen t < 256 * maxHops t) || decide (312500 < (missLimit t - 1) * hbPeriod t + crlRounds t * crlRoundLen t)) 0x80 0 (.reg (crlA 0x000)) ++
  failAll (decide (actLead t < 256 * rounds t)) [(0x80, 0, .reg (crlA 0x000)), (0x03, 0, .reg (ttA 0x024))] ++
  failIf (fld pod 62 2 == 1 && (decide (fact 2 < fld ofs 0 23 + fld ofs 23 23 + 256 * (maxHops t + 1)) || (twin && fld pod 16 13 != rf t (twnA 0) 51 13))) 0x80 0 (.item 17)

/-- Tail-queue partitions: at least 16 words, at most four per queue. -/
def partitionFails (b : List Byte) : List Ref :=
  let x := secBytes b 0 0x90 0
  let ent (i : Nat) : Nat × Nat × Nat := (natAt x (4 + 16 * i) 1, natAt x (6 + 16 * i) 2, natAt x (12 + 16 * i) 4)
  (List.range (natAt x 0 4)).flatMap fun i =>
    failIf ((ent i).1 == 5 && (decide ((ent i).2.2 < 16) || decide (4 ≤ ((List.range i).filter fun j => (ent j).1 == 5 && (ent j).2.1 == (ent i).2.1).length))) 0x90 0 (.at_ (4 + 16 * i))

/-! ### All content checks -/

/-- Every place of a variant's plan that fails a content check, as directory index and offset. -/
def contentFails (b : List Byte) (s : State) (rec_ : List Byte) (v : Nat) (digest : List Byte) : List (Nat × Nat) :=
  let t := putPlan s b v digest
  (formFails b t v ++ envFails t ++ tileFails t rec_ b ++ frameFails t ++ cmdFails b t v ++ crucibleFails b t v ++ dramFails b s t v ++ bridleFails b t rec_ v ++
    linkFails s t rec_ ++ memberFails b t ++ partitionFails b).map (locate b v)

/-- The first of places in directory order. -/
def firstPlace (l : List (Nat × Nat)) : Option (Nat × Nat) :=
  match l with
  | [] => none
  | x :: t => some (t.foldl (fun a y => if y.1 < a.1 ∨ (y.1 = a.1 ∧ y.2 < a.2) then y else a) x)

end Sys2Proof.Machine
end

