-- ==== Sys2Proof/Machine/Loader.lean ====
section
/-!
DEFINITION. Machine/Loader.lean: the loader's procedure (R321): its checks 1 to 13 in order, each of which answers what
it refuses, and step 14, which writes the units.
-/
namespace Sys2Proof.Machine
open Sys2Proof

/-- What a check refuses: fault code, source class and index, PAR_REFUSE's section and offset, detail. -/
structure LoadFail where
  code : Nat
  cls : Nat := 0
  ix : Nat := 0
  sec : Nat := 0xFFFF
  off : Nat := 0
  det : List (Nat × Nat × Nat) := []
deriving DecidableEq, Repr

/-- A refusal under a condition. -/
def refuseIf (c : Bool) (f : LoadFail) : Option LoadFail := if c then some f else none

/-! ### Keys and signatures (R442 to R444) -/

/-- The seed of the device signing key. -/
def signSeed (s : State) : List Byte := shake256 (s.keys.getD [] ++ ascii "DP2 sign") 32
/-- (d, z) of the device KEM key. -/
def kemSeed (s : State) : List Byte := shake256 (s.keys.getD [] ++ ascii "DP2 kem") 64
/-- The device public key. -/
def devicePublic (s : State) : List Byte := Config.mldsaPublic (signSeed s)
/-- The device's signature over the SHAKE256 digest of bytes. -/
def deviceSign (s : State) (b : List Byte) : List Byte := Config.mldsaSign (signSeed s) (shake256 b 64)

/-- A certificate is valid for a use: KIND and a SCOPE bit (R443). -/
def certOk (s : State) (c : List Byte) (kind scope : Nat) : Bool :=
  bytesAt c 0 4 == ascii "DPCT" && natAt c 4 2 == kind && bitAt (natAt c 6 2) scope && bytesAt c 16 32 == Config.rootHash &&
    Config.mldsaVerify s.flash.rootKey (shake256 (c.take 2000) 64) (bytesAt c 2000 3309)

/-- A copy of the repair record: its length without the signature, and whether the signature verifies (R425). -/
def repairOk (s : State) (r : List Byte) : Bool :=
  let n := 1016 + 8 * natAt r 1008 4
  bytesAt r 0 4 == ascii "DPRR" && r.length == n + 3309 && Config.mldsaVerify (devicePublic s) (shake256 (r.take n) 64) (r.drop n)

/-- The repair record in force: the copy with the higher WRITES whose signature verifies (R425). -/
def repairRec (s : State) : Option (List Byte) :=
  match s.flash.repair.filter (repairOk s) with
  | [] => none
  | r :: t => some (t.foldl (fun a b => if natAt a 1012 4 < natAt b 1012 4 then b else a) r)

/-- The firmware image that booted, and its fields: 0 version, 1 ABI, 2 SECVER, 3 version of its compatibility table. -/
def fwImage (s : State) : List Byte := match s.flash.booted with | some k => s.flash.slots.getD k [] | none => []
/-- A field of the booted firmware. -/
def fw (s : State) (i : Nat) : Nat := Config.fwField (fwImage s) i

/-! ### Steps 1 to 8 -/

/-- Step 1 (R311). -/
def failHeader (b : List Byte) : Option LoadFail :=
  refuseIf (bytesAt b 0 4 != ascii "DPRS" || natAt b 6 2 != 256 || dirCount b == 0 || decide (4096 < dirCount b) || b.length != bodyLen b + 8618)
    { code := 0x0A01, det := [(0, 4, natAt b 0 4), (4, 2, natAt b 6 2), (6, 2, dirCount b), (8, 8, bodyLen b), (16, 8, b.length)] }

/-- The body digest (R311). -/
def bodyDigest (b : List Byte) : List Byte := shake256 (b.take (bodyLen b)) 64

/-- Step 2 (R311, R443). -/
def failOwner (s : State) (b : List Byte) : Option LoadFail :=
  let c := bytesAt b (bodyLen b) 5309
  refuseIf (!certOk s c 1 0 || bytesAt b 80 32 != shake256 (bytesAt c 48 1952) 32) { code := 0x0A06, det := [(0, 1, 0)] } <|>
  refuseIf (!Config.mldsaVerify (bytesAt c 48 1952) (bodyDigest b) (bytesAt b (bodyLen b + 5309) 3309)) { code := 0x0A06, det := [(0, 1, 1)] }

/-- A pair of versions has no entry with VERDICT 1: reason 1 where an entry says incompatible, else 2 (R436). -/
def pairReason (s : State) (pair a b : Nat) : Nat :=
  let es := (Config.fwList (fwImage s) 2).filter fun e => fld e 60 4 == pair && fld e 32 16 == a && fld e 16 16 == b
  if es.any (fun e => fld e 56 4 == 1) then 0 else if es.any (fun e => fld e 56 4 == 2) then 1 else 2

/-- A refused pair, with the running stage in byte 0 (R440). -/
def failPair (s : State) (code pair a b : Nat) : Option LoadFail :=
  let r := pairReason s pair a b
  refuseIf (r != 0) { code := code, det := [(0, 1, stage s), (1, 1, r), (2, 2, a), (4, 2, b), (6, 2, fw s 3)] }

/-- Steps 3 to 8 (R448, R436, R425). -/
def failVersions (s : State) (b : List Byte) : Option LoadFail :=
  let fmt := natAt b 4 2
  let abi := natAt b 10 2
  let st := Config.stepping.toNat
  let kabi := fw s 1
  let rd := shake256 (((repairRec s).getD []).take 1008) 32
  refuseIf (decide (natAt b 16 4 < s.flash.parFloor)) { code := 0x0F04, det := [(0, 1, 0), (4, 4, natAt b 16 4), (8, 4, s.flash.parFloor)] } <|>
  refuseIf (!(Config.fwList (fwImage s) 0).contains fmt) { code := 0x0A02, det := [(0, 2, fmt)] } <|>
  refuseIf (decide (st < natAt b 8 1 ∨ natAt b 9 1 < st)) { code := 0x0A03, det := [(0, 1, st), (1, 1, natAt b 8 1), (2, 1, natAt b 9 1)] } <|>
  refuseIf (decide (kabi < natAt b 12 2 ∨ natAt b 14 2 < kabi)) { code := 0x0A04, det := [(0, 2, kabi), (2, 2, natAt b 12 2), (4, 2, natAt b 14 2)] } <|>
  refuseIf (!(Config.fwList (fwImage s) 1).contains abi) { code := 0x0A05, det := [(0, 2, abi)] } <|>
  failPair s 0x0E11 2 st abi <|> failPair s 0x0E12 3 st fmt <|> failPair s 0x0E13 4 kabi abi <|> failPair s 0x0E14 5 kabi fmt <|> failPair s 0x0E15 6 abi fmt <|>
  refuseIf (bytesAt b 48 32 != rd) { code := 0x0A07, det := [(0, 8, natAt b 48 8), (8, 8, leNat (rd.take 8))] }

/-! ### Steps 9 and 10 -/

/-- 0x0A08 for a directory index. -/
def dirFail (ix reason type inst : Nat) : LoadFail := { code := 0x0A08, sec := ix, det := [(0, 2, ix), (2, 1, reason), (4, 2, type), (6, 2, inst)] }

/-- An entry's own reason: bounds, alignment, overlap with or repetition of an earlier one. -/
def dirReason (b : List Byte) (es : List DirEnt) (e : DirEnt) : Nat :=
  let before := es.take e.ix
  if e.ofs < 256 + 64 * dirCount b ∨ bodyLen b < e.ofs + e.len then 1
  else if e.ofs % 4096 ≠ 0 then 2
  else if before.any (fun x => meets (x.ofs, x.len) (e.ofs, e.len)) then 3
  else if before.any (fun x => x.type == e.type && x.inst == e.inst && x.var == e.var) then 4
  else 0

/-- The plans of every variant, as `putPlan` would write them. -/
def plansOf (s : State) (b : List Byte) : List (Nat × State) := (variantsOf b).map fun v => (v, putPlan s b v (bodyDigest b))

/-- The links that any variant uses (R479). -/
def anyUsed (ts : List (Nat × State)) : List Nat := (List.range 24).filter fun n => ts.any fun t => linkUsed t.2 n

/-- The sections that must be present with VARIANT 0 (R312). -/
def requiredSecs (ts : List (Nat × State)) : List (Nat × Nat) :=
  let t := (ts.map (·.2)).headD State.reset
  let cores := (List.range 60).filter fun c => (core t c).present
  let pairs := (List.range 12).filter fun k =>
    (rg t (twnA 0) != 0 && rf t (twnA 0) 46 5 / 2 == k) || ts.any fun x => (List.range 8192).any fun i => let e := txOf x.2 (2 * k + i / 4096) (i % 4096); e.2.1 == 3 || e.2.2 == 3
  [(0x01, 0), (0x02, 0), (0x03, 0), (0x21, 0), (0x70, 0), (0x80, 0), (0x81, 0), (0x90, 0)] ++
  cores.flatMap (fun c => [(0x10, c), (0x11, 4 * c), (0x11, 4 * c + 1), (0x11, 4 * c + 2), (0x11, 4 * c + 3), (0x12, c), (0x14, c), (0x60, c)] ++
    (if (core t c).audited then [(0x13, c)] else []) ++
    ((List.range 16).filter fun n => rf t (cruA c (0x200 + 8 * n)) 63 1 == 1).map fun n => (0x61, 16 * c + n)) ++
  (List.range 144).map (fun r => (0x20, r)) ++ (anyUsed ts).map (fun n => (0x30, n)) ++ pairs.map (fun k => (0x31, k)) ++
  (List.range 12).flatMap fun k => [(0x40, k), (0x41, k), (0x42, k), (0x44, k), (0x50, k)]

/-- Step 9 (R311, R312). A missing section is reported at the index after the last (log entry 21). -/
def failDirectory (s : State) (b : List Byte) : Option LoadFail :=
  let es := dirEnts b
  match es.find? fun e => dirReason b es e != 0 with
  | some e => some (dirFail e.ix (dirReason b es e) e.type e.inst)
  | none =>
    let last := es.foldl (fun a e => if a.ofs + a.len < e.ofs + e.len then e else a) { ix := 0, type := 0, inst := 0, var := 0, ofs := 0, len := 0, digest := [] }
    if last.ofs + last.len ≠ bodyLen b then some (dirFail last.ix 1 last.type last.inst)
    else match (requiredSecs (plansOf s b)).find? fun r => !es.any fun e => e.type == r.1 && e.inst == r.2 && e.var == 0 with
      | some r => some (dirFail (dirCount b) 5 r.1 r.2)
      | none => none

/-- The entry of an image with a type, instance and variant. -/
def entOf (b : List Byte) (type inst var : Nat) : Option DirEnt := (dirEnts b).find? fun e => e.type == type && e.inst == inst && e.var == var

/-- Step 10 (R312, R454). -/
def failDigests (s : State) (b : List Byte) : Option LoadFail :=
  match (dirEnts b).find? fun e => shake256 (secOf b e) 32 != e.digest with
  | some e => some { code := 0x0A09, sec := e.ix, det := [(0, 2, e.ix), (2, 2, e.type), (4, 2, e.inst), (6, 1, e.var)] }
  | none =>
    let env (x : List Byte) : Option (List Byte) := (entOf x 0x01 0 0).map (·.digest)
    refuseIf (startKind s == 2 && s.ran != [] && env b != env s.ran) { code := 0x0F05, sec := ((entOf b 0x01 0 0).map (·.ix)).getD 0xFFFF }

/-! ### Step 11: ownership (R320) -/

/-- Units of a resource, 0 where INDEX names none (Table 12-6). -/
def resUnits (cls ix : Nat) : Nat :=
  match cls with
  | 1 => if ix ≤ 1 then 1 else 0
  | 2 => if ix ≤ 15 then 1 else 0
  | 3 => if ix ≤ 23 then 16384 else 0
  | 4 => if ix ≤ 23 then 4096 else 0
  | 5 => if ix ≤ 15 then 4096 else 0
  | 6 => if ix ≤ 11 then 128 else 0
  | _ => 0

/-- The feature may hold the resource. -/
def featureOk (t : State) (cls ix f : Nat) : Bool :=
  match cls with
  | 1 => match fld (tsyncCfg t (ix == 1)) 0 2 with | 1 => f == 0x0003 | 0 => f == 0x0002 || f == 0x0003 | _ => f == 0x0002
  | 2 => f == 0x0012 || f == 0x0040 || f == 0x0041
  | 3 => f == 0x0020
  | 4 => f == 0x0010 || f == 0x0011
  | 5 => f == 0x0012 || f == 0x0040 || f == 0x0041
  | 6 => f == 0x0033 || f == 0x0030 || f == 0x0041
  | _ => false

/-- The units the plan uses: class, index and unit, each needing an entry. Tail-queue partitions are the table's own
entries. -/
def usedUnits (b : List Byte) (ts : List (Nat × State)) : List (Nat × Nat × Nat) :=
  let t := (ts.map (·.2)).headD State.reset
  ((List.range 2).filter fun i => fld (tsyncCfg t (i == 1)) 0 2 != 0).map (fun i => (1, i, 0)) ++
  (anyUsed ts).flatMap (fun n => (List.range 16384).map fun u => (3, n, u)) ++
  (List.range 24).flatMap (fun n => ((List.range 4096).filter fun j => ts.any fun x => let e := txOf x.2 n j; e.2.1 == 2 || e.2.2 == 2).map fun j => (4, n, j)) ++
  ((List.range 12).filter fun k => (dirEnts b).any fun e => e.type == 0x31 && e.inst == k).flatMap fun k => (List.range 128).map fun u => (6, k, u)

/-- Step 11. -/
def failOwnership (s : State) (b : List Byte) : Option LoadFail :=
  let ts := plansOf s b
  let t := (ts.map (·.2)).headD s
  let sec := ((entOf b 0x90 0 0).map (·.ix)).getD 0xFFFF
  let es := t.owners
  let bad (i cls ix unit f1 f2 : Nat) : LoadFail := { code := 0x0A0A, sec := sec, off := 4 + 16 * i, det := [(0, 1, cls), (2, 2, ix), (4, 4, unit), (8, 2, f1), (10, 2, f2)] }
  let ov := (es.zipIdx.findSome? fun y => (es.take y.2).findSome? fun x =>
    if x.1 = y.1.1 ∧ x.2.1 = y.1.2.1 ∧ meets (x.2.2.1, x.2.2.2.1) (y.1.2.2.1, y.1.2.2.2.1) then some (bad y.2 x.1 x.2.1 (max x.2.2.1 y.1.2.2.1) x.2.2.2.2 y.1.2.2.2.2) else none)
  ov <|>
  (es.zipIdx.findSome? fun y => let n := resUnits y.1.1 y.1.2.1
    if n < y.1.2.2.1 + y.1.2.2.2.1 then some (bad y.2 y.1.1 y.1.2.1 (max n y.1.2.2.1) y.1.2.2.2.2 0) else none) <|>
  ((usedUnits b ts).findSome? fun u => if es.any fun x => x.1 == u.1 && x.2.1 == u.2.1 && decide (x.2.2.1 ≤ u.2.2 ∧ u.2.2 < x.2.2.1 + x.2.2.2.1) then none else some { bad 0 u.1 u.2.1 u.2.2 0 0 with off := 0 }) <|>
  (es.zipIdx.findSome? fun y => if featureOk t y.1.1 y.1.2.1 y.1.2.2.2.2 then none else some (bad y.2 y.1.1 y.1.2.1 y.1.2.2.1 y.1.2.2.2.2 0))

/-! ### Step 12: content, keys, composition, ledger -/

/-- An envelope's key unwrapped, if its tag agrees (R445). -/
def unwrapKey (s : State) (rec_ : List Byte) (plan : Nat) : Option (List Byte) :=
  let ss := Config.mlkemDecaps (kemSeed s) (bytesAt rec_ 16 1088)
  let k := shake256 (ss ++ ascii "DP2 envelope" ++ rec_.take 1 ++ leBytes 8 plan) 64
  let key := List.zipWith (fun x y => x ^^^ y) (bytesAt rec_ 1104 32) (k.take 32)
  if (kmac256 (k.drop 32) key "DP2 wrap").take 16 = bytesAt rec_ 1136 16 then some key else none

/-- The envelope keys of an image, by valid envelope. -/
def keysOf (s : State) (b : List Byte) : List (Nat × Option (List Byte)) :=
  let x := secBytes b 0 0x01 0
  ((List.range 16).filter fun e => bitAt (natAt x (1280 * e + 1) 1) 0).map fun e => (e, unwrapKey s (bytesAt x (1280 * e) 1280) (planId b))

/-- The types that may have variants (Table 12-3). -/
def variantTypes : List Nat := [0x10, 0x11, 0x12, 0x13, 0x14, 0x20, 0x21, 0x30, 0x41, 0x42, 0x44, 0x70]

/-- Variant composition (R312, R315); a VARIANT above 15 is one that no section may have. -/
def failComposition (b : List Byte) (t : State) (v : Nat) : Option LoadFail :=
  let bad (e : Option DirEnt) (off reason : Nat) : LoadFail := { code := 0x0A0C, sec := (e.map (·.ix)).getD 0xFFFF, off := off, det := [(0, 1, v), (1, 1, reason)] }
  if v = 0 then
    match (dirEnts b).find? fun e => decide (15 < e.var) with
    | some e => some { bad (some e) 0 1 with det := [(0, 1, e.var), (1, 1, 1)] }
    | none =>
      match t.actTab.zipIdx.find? fun a => !(variantsOf b).contains a.1.variant with
      | some a => some { bad (entOf b 0x81 0 0) (4 + 16 * a.2) 2 with det := [(0, 1, a.1.variant), (1, 1, 2)] }
      | none => none
  else
    match (dirEnts b).find? fun e => e.var == v && !variantTypes.contains e.type with
    | some e => some (bad (some e) 0 1)
    | none => refuseIf (decide (voteOfs t + 2 * rounds t * roundLen t < 512)) (bad (entOf b 0x03 0 0) 0 3)

/-- Account limits (Table 18-6). -/
def acctLimit (a : Nat) : Nat :=
  if a < 72 then 576 else if a < 76 then 1441 else if a < 78 then 524 else if a = 78 then 52 else if a = 79 then 78 else if a = 80 then 786 else 419

/-- Tile domains that R24 keeps off: spares and defective tiles. -/
def tileOff (t : State) (rec_ : List Byte) (x : Nat) : Bool := tileDefective rec_ x || !(List.range 60).any fun c => (core t c).present && (core t c).tile == x

/-- The power ledger (R317). -/
def failLedger (b : List Byte) (t : State) (rec_ : List Byte) (v : Nat) : Option LoadFail :=
  match secIn b v 0x70 0 with
  | none => none
  | some e =>
    let x := secOf b e
    let W := natAt x 0 2
    let budget := natAt x 4 2
    let ofs (w a : Nat) : Nat := 194 + 2 * (93 * w + a)
    let E (w a : Nat) : Nat := natAt x (ofs w a) 2
    let ceil (a : Nat) : Nat := natAt x (8 + 2 * a) 2
    let all := (List.range W).flatMap fun w => (List.range 93).map fun a => (w, a)
    let bad (reason w a off : Nat) : LoadFail := { code := 0x0A0D, sec := e.ix, off := off, det := [(0, 1, v), (1, 1, reason), (2, 2, w), (4, 1, a)] }
    refuseIf (decide (47185 < budget)) (bad 1 0 0 4) <|>
    ((all.find? fun p => decide (ceil p.2 < E p.1 p.2)).map fun p => bad 2 p.1 p.2 (ofs p.1 p.2)) <|>
    (((List.range 93).find? fun a => decide (acctLimit a < ceil a)).map fun a => bad 2 0 a (8 + 2 * a)) <|>
    (((List.range W).find? fun w =>
      decide (budget * (min (1024 * (w + 1)) (frameLen t) - 1024 * w) / 1024 < ((List.range 93).map (E w)).sum)).map fun w => bad 3 w 0 (ofs w 0)) <|>
    ((all.find? fun p => decide (p.2 < 72) && tileOff t rec_ p.2 && decide (0 < E p.1 p.2)).map fun p => bad 4 p.1 p.2 (ofs p.1 p.2))

/-- Step 12 for one variant. -/
def failVariant (s : State) (b : List Byte) (rec_ : List Byte) (v : Nat) : Option LoadFail :=
  let d := bodyDigest b
  let t := putPlan s b v d
  match firstPlace (contentFails b s rec_ v d) with
  | some p => some { code := 0x0A0B, cls := 0x0D, ix := p.1, sec := p.1, off := p.2, det := [(0, 2, p.1), (2, 1, v), (4, 8, p.2)] }
  | none =>
    (if v = 0 then ((keysOf s b).find? fun k => k.2.isNone).map fun k => { code := 0x0F03, sec := ((entOf b 0x01 0 0).map (·.ix)).getD 0xFFFF, off := 1280 * k.1, det := [(0, 1, k.1)] } else none) <|>
    failComposition b t v <|> failLedger b t rec_ v

/-! ### Step 13: the start configuration (R426) -/

/-- UPSTREAM of the start configuration record; a blank record has none. -/
def cfgUpstream (s : State) : Option Nat := s.flash.startCfg.map (·.2.1)

/-- Step 13. -/
def failStartCfg (s : State) (b : List Byte) : Option LoadFail :=
  let ts := plansOf s b
  let t := (ts.map (·.2)).headD s
  let up := cfgUpstream s
  let bad (reason link : Nat) : LoadFail := { code := 0x0E16, det := [(0, 1, stage s), (1, 1, reason), (2, 1, link), (3, 1, up.getD 0)] }
  if startKind s = 2 then none
  else if up ≠ some (rf t (ttA 0x028) 0 5) then some (bad 1 (rf t (ttA 0x028) 0 5))
  else ((anyUsed ts).find? fun n => lnkSt s n != 2).map fun n => bad 2 n

/-! ### The checks together -/

/-- Steps 1 to 13: the first check that fails. -/
def loadCheck (s : State) (b : List Byte) : Option LoadFail :=
  let rec_ := (repairRec s).getD []
  failHeader b <|> failOwner s b <|> failVersions s b <|> failDirectory s b <|> failDigests s b <|> failOwnership s b <|>
  (variantsOf b).findSome? (failVariant s b rec_) <|> failStartCfg s b

/-- A refusal: its fault with severity 4, PAR_REFUSE, and in stage 7 the start fails (R321, R422). -/
def refuseLoad (s : State) (f : LoadFail) : State :=
  let s := raise s f.code 4 f.cls f.ix 0xFFFF (det f.det)
  let s := if 0x0F03 ≤ f.code ∧ f.code ≤ 0x0F05 then bump s (secA 0x010) 48 16 else s
  let s := parRefuse s f.code f.sec f.off
  if stage s = 7 then failStage s f.code else s

/-! ### Step 14 (R314, R427, R446) -/

/-- The stack whose variant store holds a memory section. -/
def storeStack (e : DirEnt) : Nat := (if e.type = 0x11 then e.inst / 4 else e.inst) / 5
/-- The memory sections that a swap may have to copy (R313, R314), in directory order: those of the variants, and the
VARIANT 0 sections that a variant replaces and another one takes again. -/
def storeEnts (b : List Byte) : List DirEnt :=
  (dirEnts b).filter fun e => decide (0x10 ≤ e.type ∧ e.type ≤ 0x14) && (e.var != 0 || (dirEnts b).any fun x => x.var != 0 && x.type == e.type && x.inst == e.inst)
/-- Where a memory section lies in its stack's variant store: in directory order, each at a multiple of 128 bytes (log
entry 20). -/
def storeAddr (s : State) (b : List Byte) (e : DirEnt) : Nat :=
  (tget (0, 0) s.ranges (2 * 65536 + storeStack e)).1 + (((storeEnts b).filter fun x => x.ix < e.ix && storeStack x == storeStack e).map fun x => cdiv x.len 128 * 128).sum

/-- The variant stores filled. -/
def fillStores (s : State) (b : List Byte) : State := (storeEnts b).foldl (fun s e => putDram s (storeAddr s b e) (secOf b e)) s

/-- A measurement slot written and locked (R446). -/
def measure (s : State) (m : Nat) (d : List Byte) : State :=
  setRf (forN 8 s fun i s => setRg s (secA (0x100 + 64 * m + 8 * i)) (natAt d (8 * i) 8)) (secA 0x000) (57 + m) 1 1

/-- The ranging stage opens on a link of the plan: it has the plan's width and lanes (R276), and sends its IDENT (R298). -/
def openRanging (s : State) (n : Nat) : State :=
  let c := rg s (lnkA n 0x000)
  modLink (setRf (setRf s (lnkA n 0x008) 58 2 (fld c 32 2)) (lnkA n 0x008) 56 2 (fld c 30 2)) n fun l => { l with lanes := l.lanes ++ [{ op := 5, width := 0, sel := 0 }] }

/-- The image in force, with its measurements and PAR_STAT (R329, R446). -/
def loadShown (s : State) (b : List Byte) : State :=
  setParState (measure (measure { s with img := b } 1 (bodyDigest b)) 3 (shake256 (secBytes b 0 0x01 0) 32)) 3

/-- After the units are written: keys, twin state, power of unused link groups and spare tiles (R24, R469), alarm comparators
without an owner disabled (R320), an empty evicted set, measurements, and stage 7 ends. -/
def loadEnds (s : State) (b : List Byte) : State :=
  let s := fillStores s b
  let s := (keysOf s b).foldl (fun s k => match k.2 with
    | some key => setRf { s with envKeys := tset [] s.envKeys k.1 key } (secA (0x300 + 8 * k.1)) 61 1 1
    | none => s) { s with envKeys := [] }
  let s := setRg s (twnA 0x008) (if rg s (twnA 0) = 0 then 0 else pack [(60, 4, 1)])
  let used := anyUsed (plansOf s b)
  let s := ((List.range 24).filter fun n => linkUsed s n && lnkSt s n == 2).foldl openRanging s
  let s := forN 4 s fun g s => if (List.range 6).any fun i => used.contains (6 * g + i) then s else setRf s 0x02000001B010 (8 + g) 1 0
  let s := forN 72 s fun x s => if (List.range 60).any fun c => (core s c).present && (core s c).tile == x then s else setRf s (if x < 64 then 0x02000001B008 else 0x02000001B010) (x % 64) 1 0
  let s := forN 16 s fun n s => if alarmOwned s n then s else setRf s (ttA (0x208 + 16 * n)) 0 1 0
  let s := setEvicted { s with crl := { wear := s.crl.wear } } []
  let s := setRg s (parA 0x000) (pack [(60, 4, rf s (parA 0) 60 4), (24, 16, ((variantsOf b).map fun v => 2 ^ v).sum), (0, 16, dirCount b)])
  endStage (loadShown s b)

/-- Bytes of DRAM read through the decoders, and whether a sector was uncorrectable. -/
def readRange (s : State) (a n : Nat) : List Byte × Bool × State :=
  let r := (List.range (cdiv (a % 128 + n) 128)).foldl (fun (acc : List (List Byte) × Bool × State) i =>
    let x := readSectors acc.2.2 (a / 128 + i) false
    (rowBytes x.1 :: acc.1, acc.2.1 || x.2.1, x.2.2)) ([], false, s)
  (((r.1.reverse.flatMap id).drop (a % 128)).take n, r.2.1, r.2.2)

/-- The load staging ranges that the last image loaded gave the stacks (KIND 3), in ascending stack order. -/
def stagingRanges (s : State) : List (Nat × Nat) := (List.range 12).map (fun k => tget (0, 0) s.ranges (3 * 65536 + k)) |>.filter fun r => r.2 != 0

/-- An image fills the ranges in order. -/
def fillRanges (s : State) : List (Nat × Nat) → List Byte → State
  | r :: t, b => fillRanges (if b = [] then s else putDram s r.1 (b.take r.2)) t (b.drop r.2)
  | [], _ => s

/-- n bytes of an image from the ranges in order, through the decoders. -/
def drainRanges (s : State) : List (Nat × Nat) → Nat → List Byte × State
  | r :: t, n =>
    let x := readRange s r.1 (min r.2 n)
    let y := drainRanges x.2.2 t (n - r.2)
    (x.1 ++ y.1, y.2)
  | [], _ => ([], s)

/-- The Keel receives an image into the load staging range (R321). Before any parison has named a range, or where the
ranges do not hold it, the Keel holds the image (log entry 21). -/
def stageImage (s : State) (b : List Byte) : State :=
  let s := { s with staged := b }
  if b.length ≤ ((stagingRanges s).map (·.2)).sum then fillRanges s (stagingRanges s) b else s

/-- The staged image as the loader reads it. -/
def takeStaged (s : State) : State :=
  let n := s.staged.length
  if n ≤ ((stagingRanges s).map (·.2)).sum then (let x := drainRanges s (stagingRanges s) n; { x.2 with staged := x.1 }) else s

/-- Every pane table without storage: LOC 7, all other fields 0 (R236). -/
def emptyPanes (s : State) : State :=
  s.ranges.foldl (fun s r => if r.1 / 65536 = 1 then putDram s r.2.1 ((List.range (r.2.2 / 8)).flatMap fun _ => leBytes 8 (7 * 2 ^ 61)) else s) s

/-- The checks of R321: STATE 2 while they run. In stage 7 a cold start then writes every unit, and a reheat goes on to
compare sections (R433). In any other state a refusal is recorded, and an image that passes stays staged, since only a
start may load it (R27): STATE is what it was (DESIGN CHOICE, log entry 21). -/
def runChecks (s : State) : State :=
  let was := rf s (parA 0x000) 60 4
  let s := takeStaged (setParState s 2)
  match loadCheck s s.staged with
  | some f => refuseLoad s f
  | none =>
    if stage s ≠ 7 then setParState s was
    else if startKind s = 2 then s
    else loadEnds (emptyPanes (putPlan s s.staged 0 (bodyDigest s.staged))) s.staged

/-- PAR_CTRL_CHECK (R321, R329). -/
def execParCtrlCheck (s : State) : Host.Outcome State Fault Refusal := .next (runChecks s)

/-- DISCARD: the staging range is emptied and STATE is 0 (R329). -/
def discardStaged (s : State) : State := setParState { s with staged := [] } 0

/-- PAR_CTRL_DISCARD. -/
def execParCtrlDiscard (s : State) : Host.Outcome State Fault Refusal := .next (discardStaged s)

/-! ### Reheat (R433, R434) -/

/-- The site that holds a section. -/
def siteOfSec (e : DirEnt) : Nat :=
  if 0x10 ≤ e.type ∧ e.type ≤ 0x14 then storeStack e
  else match e.type with
    | 0x20 => tileSite (e.inst % 72)
    | 0x60 => e.inst / 5 | 0x61 => e.inst / 80
    | 0x40 => e.inst | 0x41 => e.inst | 0x42 => e.inst | 0x43 => e.inst | 0x44 => e.inst | 0x50 => e.inst
    | _ => 0

/-- A DRAM range holds an uncorrectable sector. -/
def dramBad (s : State) (a n : Nat) : Bool :=
  s.sec.any fun e => decide (a / 64 ≤ e.1 ∧ 64 * e.1 < a + n) && (decodeSector (rf s (drmA (eStack (e.1 / 2)) 0x000) 0 1 == 1) 0 e.2).unc
/-- A Crucible range holds an uncorrectable word. -/
def cruBad (s : State) (a n : Nat) : Bool := s.ecc.any fun e => decide (a / 16 ≤ e.1 ∧ 16 * e.1 < a + n ∧ 1024 < e.2)

/-- What a section fills does not agree with it: reading the section's contents back finds another value, or an entry
that cannot be read. Errors the decoders correct are no disagreement. -/
def keptBad (s : State) (b : List Byte) (e : DirEnt) : Bool :=
  let t := putSection s b 0 e
  let c := if e.type = 0x11 then e.inst / 4 else e.inst
  decide ({ t with sec := s.sec, ecc := s.ecc } ≠ s) ||
  match e.type with
  | 0x43 => (itemsOf (secOf b e)).any fun i => dramBad s (natAt i.val 0 8) (i.len - 8)
  | 0x61 => cruBad s (rowAddr (e.inst / 16) (rf s (cruA (e.inst / 16) (0x200 + 8 * (e.inst % 16))) 0 16)) (secOf b e).length
  | 0x10 => (core s c).cmdBad.any fun x => x.1 / 32768 == 0
  | 0x11 => (core s c).cmdBad.any fun x => x.1 / 32768 == e.inst % 4 + 1
  | 0x12 => (core s c).gaf.bad != []
  | _ => false

/-- One section of the staged image: written in full where the last image's entry differs, verified in place where it
does not (R433). -/
def reheatSection (s : State) (b : List Byte) (e : DirEnt) : State :=
  if (entOf s.img e.type e.inst e.var).map (·.digest) ≠ some e.digest then putSection s b 0 e
  else if keptBad s b e then putSection (raiseStart s 0x0E0B 0 0x00 0 [(1, 2, e.ix), (3, 1, siteOfSec e)]) b 0 e
  else s

/-- Every slot of a stack's areas as DIRTY. -/
def dirtyTags (s : State) (k : Nat) : Tbl (BitVec 32) :=
  (List.range 8).foldl (fun t n =>
    let a := bauArea s k n
    (List.range (fld a 16 13)).foldl (fun t z => tset 0 t (fld a 32 13 + z) (mkTag 4 0 0)) t) []
/-- The slots that a committed pane entry holds here: LOC 1 and 2, and LOC 3 hosted by this device (R237). -/
def refHere (s : State) (e : Nat) : Bool := fld e 61 3 == 1 || fld e 61 3 == 2 || (fld e 61 3 == 3 && fld e 27 13 == myIx s)
/-- Every entry of the pane tables in DRAM. -/
def paneRefs (s : State) : List Nat :=
  (s.ranges.filter fun r => r.1 / 65536 == 1).flatMap fun r => (List.range (min 65536 (r.2.2 / 8))).map fun i => leNat (readBytes s.mem (r.2.1 + 8 * i) 8)
/-- The tags of a stack from the committed pane tables: slots referenced OWNED or FROZEN, every other slot DIRTY (R241). -/
def stackTags (s : State) (k : Nat) : Tbl (BitVec 32) :=
  ((paneRefs s).filter fun e => refHere s e && fld e 40 4 == k).foldl (fun t e =>
    tset 0 t (fld (bauArea s k (fld e 57 3)) 32 13 + fld e 44 13) (mkTag (if bitAt e 60 then 3 else 2) (envOfStream s (fld e 0 13)) (fld e 0 13))) (dirtyTags s k)

/-- Each channel of a stack holds the stack's tags. -/
def setTags (s : State) (k : Nat) (t : Tbl (BitVec 32)) : State := forN 64 s fun c u => modChan u (64 * k + c) fun x => { x with tags := t }

/-- Tags rebuilt (R241). -/
def rebuildTags (s : State) : State := forN 12 s fun k u => setTags u k (stackTags s k)

/-- Committed serving state is set empty: every stream FREE, no ring or range registered, pane tables without storage,
ledgers and stripe tables zero (R236, R434). -/
def emptyServing (s : State) : State :=
  let s := { s with srvs := [], strmTab := s.strmTab.filter fun w => w.1 % 16 == 0, fritRefs := [], heldStreams := [], heldLeft := [], relays := [], relayC := [] }
  s.ranges.foldl (fun s r =>
    if r.1 / 65536 = 5 ∨ r.1 / 65536 = 8 then putDram s r.2.1 (List.replicate r.2.2 0)
    else s) (emptyPanes s)

/-- Serving state is kept: the same PLAN_ID as the last image launched, and its DRAM layout and BAU sections (R434). -/
def keepsServing (s : State) (b : List Byte) : Bool :=
  s.ran != [] && planId b == planId s.ran &&
    (List.range 12).all fun k => (entOf b 0x40 k 0).map (·.digest) == (entOf s.ran 0x40 k 0).map (·.digest) && (entOf b 0x50 k 0).map (·.digest) == (entOf s.ran 0x50 k 0).map (·.digest)

/-- Pending serving effects are discarded: each block's pending state is its committed one. -/
def dropPending (s : State) : State :=
  { s with strmPend := [], fritDelta := [], twinPend := [], srvs := s.srvs.map fun e => (e.1, { e.2 with p := e.2.c, snap := {}, req := e.2.req, posts := [], dones := [], toks := [], panes := [], executed := [] }) }

/-- A Crucible row of a core lies in a valid resident range. -/
def residentRow (s : State) (c r : Nat) : Bool :=
  (List.range 16).any fun n => let x := rg s (cruA c (0x200 + 8 * n)); bitAt x 63 && decide (fld x 0 16 ≤ r ∧ r < fld x 0 16 + fld x 16 17)

/-- A byte of device memory that the fill of a reheat leaves: anything but a scratch row (R201). -/
def fillKeeps (s : State) (a : Nat) : Bool :=
  !decide (0x010000000000 ≤ a ∧ a < 0x010000000000 + 60 * 0x1000000) || residentRow s ((a - 0x010000000000) / 0x1000000) ((a - 0x010000000000) % 0x1000000 / 128)

/-- Scratch rows are zero-filled with their check bits set (R201, R433). -/
def scratchFill (s : State) : State :=
  { s with mem := s.mem.filter fun x => fillKeeps s x.1, ecc := s.ecc.filter fun x => fillKeeps s (16 * x.1) }

/-- A section of a reheat's load; a range whose core moved to another tile is written in full (R201). -/
def reheatEntry (old : List Nat) (b : List Byte) (s : State) (e : DirEnt) : State :=
  if e.type = 0x61 ∧ (core s (e.inst / 16)).tile ≠ old.getD (e.inst / 16) 0 then putSection s b 0 e else reheatSection s b e

/-- A section of the last image that the new one lacks: the registers it filled hold 0 (R478). -/
def clearGone (b : List Byte) (s : State) (e : DirEnt) : State := clearItems (clearRegs s b 0 e.type e.inst) e.type e.inst

/-- The sections of the last image that the new one lacks. -/
def goneSecs (s : State) : List DirEnt := (inForce s.img 0).filter fun e => !(inForce s.staged 0).any fun x => x.type == e.type && x.inst == e.inst

/-- The units of a reheat's load, after the checks (R433, R478). -/
def reheatUnits (s : State) : State :=
  let u := (goneSecs s).foldl (clearGone s.staged) s
  putHomes (putHeader ((loadOrder (inForce s.staged 0)).foldl (reheatEntry ((List.range 60).map fun c => (core u c).tile) s.staged) u) s.staged (bodyDigest s.staged)) s.staged

/-- Serving state is kept or set empty (R434), then the tags are rebuilt from the committed pane tables (R241). -/
def reheatServing (s : State) (b : List Byte) : State := rebuildTags (if keepsServing s b then s else emptyServing s)

/-- REHEAT_VERIFY (R433, R434): after the checks of a reheat's stage 7, the units, then the rows that the new parison
leaves scratch are filled (R201, R433). -/
def execReheatVerify (s : State) : Host.Outcome State Fault Refusal :=
  .next (
    if stage s ≠ 7 ∨ startKind s ≠ 2 ∨ rf s (parA 0) 60 4 ≠ 2 then s
    else loadEnds (reheatServing (dropPending (scratchFill (reheatUnits s))) s.staged) s.staged)

end Sys2Proof.Machine
end

