-- ==== Sys2Proof/Machine/Keel.lean ====
section
/-!
DEFINITION. Machine/Keel.lean: the Keel's mailbox, watchdog and tail queues (R411 to R418), the attestation report (R447)
and the requests for a start (R421, R430, R435).
-/
namespace Sys2Proof.Machine
open Sys2Proof

/-- KEL_STAT.STATE: 0 boot ROM, 1 firmware, 2 restarting. -/
def kelState (s : State) : Nat := rf s (bar 0 0x280) 60 4
/-- A start is running: stages 0 to 9 of a start that has begun. -/
def starting (s : State) : Bool := startKind s != 0 && decide (stage s ≤ 9)
/-- The period of the watchdog (KEL_WDOG_CFG). -/
def wdogPeriod (s : State) : Nat := s.flash.wdog % 2 ^ 23

/-! ### The repair record (R25, R425) -/

/-- Bytes of a list replaced from an offset on. -/
def setBytes (b : List Byte) (o : Nat) (v : List Byte) : List Byte := b.take o ++ v ++ b.drop (o + v.length)
/-- A bit of a byte string set. -/
def setBit (b : List Byte) (o i : Nat) : List Byte := setBytes b (o + i / 8) [b.getD (o + i / 8) 0 ||| BitVec.ofNat 8 (2 ^ (i % 8))]
/-- A record without its signature. -/
def recBody (r : List Byte) : List Byte := r.take (1016 + 8 * natAt r 1008 4)
/-- The record that this start builds on: the one in force, or a blank one. -/
def baseRecord (s : State) : List Byte :=
  match repairRec s with
  | some r => recBody r
  | none => ascii "DPRR" ++ leBytes 4 0 ++ shake256 (devicePublic s) 32 ++ List.replicate 976 0

/-- A record signed and written over the copy with the lower WRITES (R425). -/
def storeRecord (s : State) (r : List Byte) : State :=
  let a := natAt (s.flash.repair.getD 0 []) 1012 4
  let b := natAt (s.flash.repair.getD 1 []) 1012 4
  let r := setBytes r 1012 (leBytes 4 (max a b + 1))
  { s with flash := { s.flash with repair := s.flash.repair.set (if a ≤ b then 0 else 1) (r ++ deviceSign s r) } }

/-- The tile that a fault of severity 3 names as its source: the tile, or the one of its core (Table 0-8). -/
def faultTile (s : State) (f : FaultRec) : Option Nat :=
  if f.sev ≠ 3 then none
  else match f.cls with
    | 0x01 => some f.idx
    | 0x02 => some (core s (f.idx / 16)).tile
    | 0x03 => some (core s (f.idx / 16)).tile
    | _ => none

/-- The Keel adds the tiles that have failed since it last looked to the repair record (R25), which it writes as R425 says. -/
def recordTiles (s : State) : State :=
  let fs := (s.faults.drop s.tileMark).zipIdx.filterMap fun f => if Config.tileFailed (s.tileMark + f.2) then faultTile s f.1 else none
  let s := { s with tileMark := s.faults.length }
  match repairRec s with
  | none => s
  | some r =>
    let new := fs.eraseDups.filter fun x => decide (x < 72) && !tileDefective r x
    if !launched s ∨ new = [] then s else storeRecord s (new.foldl (fun r x => setBit r 48 x) (recBody r))

/-! ### Mailbox (R412) -/

/-- The request in the mailbox is taken: the boot ROM refuses all but FWIMG and COLD (R423), and an unknown command is
answered (Table 15-6). -/
def pollTake (s : State) : State :=
  let q := rg s (bar 0 0x200)
  let cmd := fld q 40 8
  let t := { s with kcmd := some { seq := fld q 48 16, cmd := cmd, args := fld q 0 40 :: (List.range 7).map fun i => rg s (bar 0 (0x208 + 8 * i)) } }
  if kelState s = 0 ∧ cmd ≠ 0x0B ∧ cmd ≠ 0x04 then kelAnswer t 0x0D12
  else if cmd = 0 ∨ 0x0C < cmd then kelAnswer t 0x0D10
  else t

/-- MAILBOX_POLL (R412): every 1,024 tt; `torn` is what the second read of REQ_0 gave if the host wrote it between the
reads. The firmware, as it polls, adds failed tiles to the repair record (R25; DESIGN CHOICE, log entry 68: the rule does not
say when). -/
def execMailboxPoll (torn : Option (BitVec 64)) (s : State) : Host.Outcome State Fault Refusal :=
  .next (
    if s.kcmd.isSome || s.stall.isSome || decide (2 ≤ kelState s) || s.polled.any (fun t => decide (uptime s < t + 1024)) then s
    else
      let u := if kelState s = 1 then recordTiles { s with polled := some (uptime s) } else { s with polled := some (uptime s) }
      if torn.any (fun v => v.toNat != rg u (bar 0 0x200)) || fld (rg u (bar 0 0x200)) 48 16 == rf u (bar 0 0x240) 48 16 then u
      else pollTake u)

/-- A mailbox command's own effect, if it is the one under way and has not started. -/
def kelDo (s : State) (n : Nat) (f : List Nat → State) : State :=
  match s.kcmd with
  | some c => if c.cmd = n ∧ s.copy.isNone then f c.args else s
  | none => s

/-- An argument. -/
def karg (l : List Nat) (i : Nat) : Nat := l.getD i 0

/-! ### Attestation (R447, Table 17-4) -/

/-- The first bytes of a measurement slot. -/
def slotBytes (s : State) (m n : Nat) : List Byte := (List.range (n / 8)).flatMap fun i => leBytes 8 (rg s (secA (0x100 + 64 * m + 8 * i)))

/-- A report without its signature: scope `none` is the device. -/
def reportBody (s : State) (scope : Option Nat) (nonce : List Byte) : List Byte :=
  let m3 := match scope with
    | none => slotBytes s 3 32
    | some e =>
      let fences := ((List.range 192).map fun j => fenceReg s j).filter fun f => bitAt f 63 && fld f 56 4 == e
      shake256 (bytesAt (secBytes s.img 0 0x01 0) (1280 * e) 1280 ++ fences.flatMap (leBytes 8)) 32
  let audit := scope.any fun e => rf s (secA (0x300 + 8 * e)) 62 1 == 1
  ascii "DPAT" ++ leBytes 2 1 ++ leBytes 2 (scope.getD 0xFFFF) ++ leBytes 8 (ttc s) ++ leBytes 6 (stepNo s) ++ leBytes 1 (stage s) ++
    leBytes 1 (rf s (parA 0) 56 4) ++ leBytes 4 (rf s (parA 0x034) 0 32) ++ leBytes 4 (fw s 2) ++ nonce ++ shake256 (devicePublic s) 32 ++
    slotBytes s 0 32 ++ slotBytes s 1 64 ++ (bytesAt s.img 80 32 ++ List.replicate (32 - (bytesAt s.img 80 32).length) 0) ++ slotBytes s 2 32 ++ m3 ++
    leBytes 8 (rg s (parA 0x028)) ++ leBytes 2 (myIx s) ++ leBytes 2 (b2n (paired s) + 2 * b2n audit) ++ List.replicate 212 0

/-- A report with its signature. -/
def reportOf (s : State) (scope : Option Nat) (nonce : List Byte) : List Byte :=
  let b := reportBody s scope nonce
  b ++ deviceSign s b

/-- BAR2 of a function, beside BAR0 above the device address space (R398). -/
def bar2 (f : Nat) : Nat := 0x3000000000000 + f * 0x400000

/-- REPORT's effect: the PF's BAR2, or the input range of an envelope's function (R447, Table 15-6). -/
def reportDo (s : State) (a : List Nat) : State :=
  let nonce := (List.range 4).flatMap fun i => leBytes 8 (karg a (2 + i))
  let x := karg a 1
  if x = 0xFF then kelAnswer { s with mem := writeBytes s.mem (bar2 0 + 0x10) (reportOf s none nonce) } 0
  else
    let f := fld x 8 5
    let r := hrange s (f - 1) (fld x 0 3)
    if f = 0 ∨ 16 < f then kelAnswer s 0x0D11
    else if !r.reg || !busMaster s f || !vfOn s f then kelAnswer s 0x0D12
    else if fld r.cfg 60 4 ≠ 1 then kelAnswer s 0x0D11
    else kelAnswer (hostWrite s f r.base (reportOf s (some (f - 1)) nonce)) 0

/-- REPORT (R447). -/
def execReport (s : State) : Host.Outcome State Fault Refusal := .next (kelDo s 0x01 fun a => reportDo s a)

/-! ### LOAD and FWIMG (R412, R423) -/

/-- The number of an image copy's read. -/
def copyTag (i : Nat) : Nat := 2 ^ 42 + i
/-- Reads of 4,096 bytes in an image. -/
def copyReads (len : Nat) : Nat := cdiv len 4096

/-- One read of an image copy. -/
def copyRead (s : State) (i : Nat) : State :=
  let len := rf s (bar 0 0x308) 0 40
  emit s (.hostRead (copyTag i) 0 (rg s (bar 0 0x300) / 4096 * 4096 + 4096 * i) (min 4096 (len - 4096 * i)))

/-- The image has arrived: LOAD stages it and writes PAR_CTRL.CHECK; FWIMG writes the slot that did not boot. -/
def copyDone (s : State) (kind : Nat) (b : List Byte) : State :=
  let s := kelAnswer { s with copy := none } 0
  if kind = 1 then runChecks (stageImage s b)
  else { s with flash := { s.flash with slots := s.flash.slots.set (match s.flash.booted with | some k => 1 - k | none => 0) b } }

/-- An image copy begins. -/
def startCopy (s : State) (kind : Nat) : State :=
  let len := rf s (bar 0 0x308) 0 40
  let n := copyReads len
  if !hostReach s 0 then kelAnswer s 0x0D13
  else if n = 0 then copyDone s kind []
  else
    let m := min n 1024
    let s := forN m { s with copy := some { kind := kind, len := len, out := (List.range m).map copyTag, got := [] } } fun i s => copyRead s i
    if kind = 1 ∧ stage s = 7 then setParState s 1 else s

/-- LOAD. -/
def execLoad (s : State) : Host.Outcome State Fault Refusal := .next (kelDo s 0x02 fun _ => startCopy s 1)
/-- FWIMG. -/
def execFwimg (s : State) : Host.Outcome State Fault Refusal := .next (kelDo s 0x0B fun _ => startCopy s 2)

/-- A read of an image copy returns. -/
def copyIn (s : State) (tag : Nat) (d : Option (List Byte)) : State :=
  match s.copy with
  | none => s
  | some c =>
    if !c.out.contains tag then s
    else match d with
      | none => bump (kelAnswer { s with copy := none } 0x0D13) (bar 0 0x008) 0 16
      | some b =>
        let n := copyReads c.len
        let got := tput c.got (tag - copyTag 0) b
        let next := got.length + c.out.length - 1
        let out := c.out.filter (· != tag)
        if got.length = n then copyDone s c.kind (got.flatMap (·.2))
        else if next < n then copyRead { s with copy := some { c with got := got, out := out ++ [copyTag next] } } next
        else { s with copy := some { c with got := got, out := out } }

/-! ### Starts (R421, R430, R435, R438) -/

/-- REHEAT's effect (R430, R435): refused during a start; after three failures within 10 min a cold start. -/
def reheatDo (s : State) : State :=
  if starting s then kelAnswer s 0x0D12
  else
    let s := kelAnswer s 0
    if s.flash.fails = 3 ∧ uptime s - s.flash.first < 93750000000 then
      coldStart (raiseStart s 0x0E0A 0 0x00 0 [(1, 1, s.flash.fails), (4, 8, s.flash.first)]) 3 true
    else
      let s := showStartRec { s with flash := { s.flash with reheats := min 65535 (s.flash.reheats + 1) }, stageAt := uptime s }
      setRg s (kelA 0x100) (pack [(60, 4, 2), (56, 4, 1)])

/-- REHEAT. -/
def execReheat (s : State) : Host.Outcome State Fault Refusal := .next (kelDo s 0x03 fun _ => reheatDo s)

/-- COLD's effect (R421, R438): during a start it waits for the end of the running stage. -/
def coldDo (s : State) : State :=
  let s := kelAnswer s 0
  if starting s then { s with coldDue := true } else coldStart s 1 true

/-- COLD. -/
def execCold (s : State) : Host.Outcome State Fault Refusal := .next (kelDo s 0x04 fun _ => coldDo s)

/-! ### The other commands (Table 15-6) -/

/-- DISCARD. -/
def execDiscard (s : State) : Host.Outcome State Fault Refusal := .next (kelDo s 0x05 fun _ => kelAnswer (discardStaged s) 0)

/-- WIDTH writes LNK_CTRL (R293). -/
def execWidth (s : State) : Host.Outcome State Fault Refusal :=
  .next (kelDo s 0x06 fun a =>
    let n := Config.widthArg (karg a 0) 0
    let w := Config.widthArg (karg a 0) 1
    let t := Config.widthArg (karg a 0) 3
    if 24 ≤ n ∨ 3 ≤ w ∨ frameLen s ≤ t then kelAnswer s 0x0D11
    else kelAnswer (widthWrite s n w (Config.widthArg (karg a 0) 2) t) 0)

/-- PROMOTE's effect (R380): not with a live twin heartbeat. -/
def promoteDo (s : State) : State :=
  match twinOf s with
  | some y => if tget 0 s.crl.miss y < missLimit s then kelAnswer s 0x0D12 else kelAnswer (promote s) 0
  | none => kelAnswer s 0x0D12

/-- PROMOTE. -/
def execPromote (s : State) : Host.Outcome State Fault Refusal := .next (kelDo s 0x07 fun _ => promoteDo s)

/-- CLAIM (R391). -/
def execClaim (s : State) : Host.Outcome State Fault Refusal :=
  .next (kelDo s 0x08 fun _ => kelAnswer (claimStart s) 0)

/-- REPAIR writes the signed repair record to host memory. -/
def execRepair (s : State) : Host.Outcome State Fault Refusal :=
  .next (kelDo s 0x09 fun a => kelAnswer (hostWrite s 0 (karg a 1) ((repairRec s).getD [])) 0)

/-- LOGCFG: the level of PF vector 1. -/
def execLogcfg (s : State) : Host.Outcome State Fault Refusal :=
  .next (kelDo s 0x0A fun a => if karg a 0 = 0 ∨ 65472 < karg a 0 then kelAnswer s 0x0D11 else kelAnswer { s with logLevel := karg a 0 } 0)

/-- STARTCFG (R426): GROUPS, UPSTREAM and COUNT0. -/
def execStartcfg (s : State) : Host.Outcome State Fault Refusal :=
  .next (kelDo s 0x0C fun a =>
    let up := fld (karg a 0) 4 5
    if 24 ≤ up ∧ up ≠ 31 then kelAnswer s 0x0D11
    else kelAnswer { s with flash := { s.flash with startCfg := some (fld (karg a 0) 0 4, up, karg a 1) } } 0)

/-! ### Watchdog (R413) -/

/-- KEL_WDOG_KICK: a write of KEL_WDOG.KICK by the running firmware. -/
def execKelWdogKick (s : State) : Host.Outcome State Fault Refusal := .next (if kelState s = 1 && s.stall.isNone then { s with kick := uptime s } else s)

/-- The watchdog resets the Keel (R413): 0x0D06, a request under way, a copy and a stalled read given up, RESTARTS, STATE 2. -/
def keelRestarts (s : State) (mepc : BitVec 64) : State :=
  let s := raise s 0x0D06 1 0x0B 0 0xFFFF (det [(0, 8, mepc.toNat)])
  setRf (bump { s with kcmd := none, copy := none, stall := none } (bar 0 0x280) 0 16) (bar 0 0x280) 60 4 2

/-- WATCHDOG_EXPIRY (R413, R438): the Keel restarts; a request under way is taken again; a running start fails. -/
def execWatchdogExpiry (mepc : BitVec 64) (s : State) : Host.Outcome State Fault Refusal :=
  .next (
    if kelState s ≠ 1 ∨ uptime s < s.kick + wdogPeriod s then s
    else
      let s := keelRestarts s mepc
      if starting s then failStage (raiseStart s 0x0E09 4 0x00 0 [(1, 1, stage s), (4, 8, uptime s)]) 0x0E09 else s)

/-- KEEL_RESTART_COMPLETE: the firmware runs again and polls. -/
def execKeelRestartComplete (s : State) : Host.Outcome State Fault Refusal :=
  .next (if kelState s = 2 then setRf { s with kick := uptime s } (bar 0 0x280) 60 4 1 else s)

/-! ### Tail queues (R414 to R418) -/

/-- KEL_TQ_ registers of a partition. -/
def tqA (p off : Nat) : Nat := 0x02000001A000 + 0x40 * p + off
/-- A partition. -/
def tqPart (s : State) (p : Nat) : TqPart := tget {} s.tqs p
/-- The state with a partition changed, and its COUNT. -/
def modTq (s : State) (p : Nat) (f : TqPart → TqPart) : State :=
  let x := f (tqPart s p)
  setRf { s with tqs := tset {} s.tqs p x } (tqA p 0x08) 51 13 (x.recs.map fun r => r.2.length).sum
/-- COUNT of a partition. -/
def tqCount (s : State) (p : Nat) : Nat := rf s (tqA p 0x08) 51 13

/-- The queue that takes a fault record, by its source (R411, chapter 15): sites 0 to 11, link groups 12, the UCIe region
and host functions 13, the root 15. -/
def tqOf (f : FaultRec) : Nat :=
  match f.cls with
  | 0x01 => tileSite f.idx
  | 0x02 => f.idx / 80 | 0x03 => f.idx / 80
  | 0x04 => f.idx / 64 | 0x05 => f.idx / 64
  | 0x06 => tileSite (f.idx % 72)
  | 0x07 => 12
  | 0x08 => if f.idx < 12 then f.idx else if f.idx < 16 then 12 else if f.idx < 18 then 13 else 15
  | 0x09 => if f.idx < 72 then tileSite f.idx else if f.idx < 76 then 12 else if f.idx < 78 then 13 else 15
  | 0x0A => 13
  | _ => 15

/-- A fault record's eight words (Table 0-5). -/
def recWords (f : FaultRec) : List (BitVec 64) :=
  let b := leBytes 2 f.code ++ leBytes 1 f.sev ++ leBytes 1 f.cls ++ leBytes 2 f.idx ++ leBytes 2 0 ++ leBytes 8 f.ttc ++ leBytes 6 f.step ++ leBytes 2 f.env ++ leBytes 40 f.detail.toNat
  (List.range 8).map fun i => BitVec.ofNat 64 (natAt b (8 * i) 8)

/-- The partition of a queue whose feature owns records of a kind (R414). -/
def tqFor (s : State) (q kind : Nat) : Option Nat :=
  let f := match kind with | 0 => 0x0041 | 3 => 0x0040 | _ => 0x0012
  ((List.range 4).map (4 * q + ·)).find? fun p => rf s (tqA p 0) 63 1 == 1 && rf s (tqA p 0) 32 16 == f

/-- The partition's head record discarded for a new one (R416): LOST, and 0x0D05 once in each 156,250 tt. -/
def tqDrop (s : State) (p : Nat) : State :=
  let s := bump (modTq s p fun x => { x with recs := x.recs.drop 1 }) (tqA p 0x08) 32 16
  let i := uptime s / 156250 + 1
  if (tqPart s p).lastOver = i then s
  else modTq (raise s 0x0D05 0 0x08 18 0xFFFF (det [(0, 1, p), (2, 2, rf s (tqA p 0x08) 32 16)])) p fun x => { x with lastOver := i }

/-- Whole records are discarded from the head until n words are free. -/
def tqRoom : Nat → State → Nat → Nat → State
  | 0, s, _, _ => s
  | k + 1, s, p, n => if rf s (tqA p 0) 0 16 < tqCount s p + n && (tqPart s p).recs != [] then tqRoom k (tqDrop s p) p n else s

/-- The head record moves into the read buffer (R417). -/
def tqTake (s : State) (p : Nat) : State :=
  match (tqPart s p).recs with
  | [] => s
  | r :: t =>
    let s := modTq s p fun x => { x with recs := t, bufKind := r.1, buf := r.2, pos := 0 }
    setRg s (tqA p 0x18) (pack [(63, 1, 1), (60, 3, r.2.length - 1), (56, 4, r.1)])

/-- A record at the tail of its partition, COUNT raised, and LEVEL_HIT at a rise through LEVEL (R416, R418). -/
def tqPut (s : State) (p kind : Nat) (ws : List (BitVec 64)) : State :=
  let u := modTq s p fun x => { x with recs := x.recs ++ [(kind, ws)] }
  if rf u (tqA p 0x10) 29 1 = 1 ∧ tqCount s p < rf u (tqA p 0x10) 0 13 ∧ rf u (tqA p 0x10) 0 13 ≤ tqCount u p then emit (setRf u (tqA p 0x10) 30 1 1) (.keelIrq "LEVEL_HIT" p) else u

/-- A NEXT read stalled on the partition takes its head record (R417, Table 15-7). -/
def tqServe (s : State) (p : Nat) : State :=
  match s.stall with
  | some (q, _) => if q = p then tqTake { s with stall := none } p else s
  | none => s

/-- A record is held (R416, R417), and a stalled read takes it. -/
def tqHold (s : State) (p kind : Nat) (ws : List (BitVec 64)) : State := tqServe (tqPut (tqRoom 4096 s p ws.length) p kind ws) p

/-- The record that a queue may store: an unstored fault of the queue with these words, a packet at the root system port
for queue 14, or telemetry. The state has the record taken. -/
def tqSource (s : State) (q kind : Nat) (ws : List (BitVec 64)) : Option State :=
  if q = 14 then
    (if s.sysIn.any fun x => x.1 == 2 then some { s with sysIn := s.sysIn.eraseP fun x => x.1 == 2 } else none)
  else if kind = 0 then
    match s.faults.findIdx? fun f => !f.stored && tqOf f == q && recWords f == ws with
    | some i => some { s with faults := s.faults.modify i fun f => { f with stored := true } }
    | none => none
  else some s

/-- TQ_RECORD_STORE (R414 to R416): a record reaches its queue's storage, or was dropped before the crossing. -/
def execTqRecordStore (q : Fin 16) (kind : Fin 4) (words : List (BitVec 64)) (dropped : Bool) (s : State) : Host.Outcome State Fault Refusal :=
  if words = [] ∨ 8 < words.length ∨ (kind = 0 ∧ words.length ≠ 8) ∨ (kind = 3 ∧ words.length ≠ 2) then .fault (.illFormed "TQ_RECORD_STORE")
  else .next (
    match tqSource s q.val kind.val words with
    | none => s
    | some s =>
      if dropped then forN 4 s fun i s => bump s (tqA (4 * q.val + i) 0x08) 8 8
      else match tqFor s q.val kind.val with
        | some p => tqHold s p kind.val words
        | none => bump s (tqA (4 * q.val) 0x08) 32 16)

/-- KEL_TQ_NEXT_READ (R417): stalls the Keel on an empty partition. -/
def execKelTqNextRead (p : Fin 64) (s : State) : Host.Outcome State Fault Refusal :=
  .next (
    if kelState s ≠ 1 ∨ s.stall.isSome then s
    else
      let s := modTq s p.val fun x => { x with buf := [], pos := 0 }
      if (tqPart s p.val).recs = [] then { s with stall := some (p.val, now s) } else tqTake s p.val)

/-- A fault record into a BAR2 log or a fault-log range: count at 0, record i at its place (R411). -/
def logRecord (s : State) (f base cap : Nat) (ws : List (BitVec 64)) : State :=
  let n := leNat (readBytes s.mem (bar2 f) 8)
  let b := ws.flatMap fun w => leBytes 8 w.toNat
  { s with mem := writeBytes (writeBytes s.mem (bar2 f + base + 64 * (n % cap)) b) (bar2 f) (leBytes 8 (n + 1)) }

/-- The Keel writes a fault record it has read into the PF's BAR2, and a record with an envelope into the envelope's BAR2
and fault-log ranges (R411, Table 15-5). -/
def logFault (s : State) (ws : List (BitVec 64)) : State :=
  let e := fld (ws.getD 2 0).toNat 48 16
  let s := logRecord s 0 0x1000 65472 ws
  let s := if s.logLevel ≠ 0 ∧ leNat (readBytes s.mem (bar2 0) 8) = s.logLevel then msix s 0 1 else s
  if 16 ≤ e then s
  else
    let i := leNat (readBytes s.mem (bar2 (e + 1)) 8)
    let s := logRecord s (e + 1) 0x100 1020 ws
    let s := forN 8 s fun r s =>
      let h := hrange s e r
      let cap := (4096 * fld h.cfg 0 36 - 0x100) / 64
      if h.reg && fld h.cfg 60 4 == 4 then
        hostWrite (hostWrite s (e + 1) (h.base + 0x100 + 64 * (i % cap)) (ws.flatMap fun w => leBytes 8 w.toNat)) (e + 1) h.base (leBytes 8 (i + 1))
      else s
    msix s (e + 1) 16

/-- KEL_TQ_DATA_READ (R417): the next word of the read buffer, 0 beyond the record; with a fault record's last word the
Keel has read it (R411). -/
def execKelTqDataRead (p : Fin 64) (s : State) : Host.Outcome State Fault Refusal :=
  .next (
    if kelState s ≠ 1 ∨ s.stall.isSome then s
    else
      let x := tqPart s p.val
      let s := setRg s (tqA p.val 0x20) (x.buf.getD x.pos 0).toNat
      if x.buf.length ≤ x.pos then s
      else
        let s := modTq s p.val fun y => { y with pos := y.pos + 1 }
        if x.pos + 1 = x.buf.length ∧ x.bufKind = 0 ∧ x.buf.length = 8 then logFault s x.buf else s)

/-- TQ_STALL_TIMEOUT (R417): after 65,536 cyc the read returns VALID 0. -/
def execTqStallTimeout (s : State) : Host.Outcome State Fault Refusal :=
  .next (
    match s.stall with
    | some (p, t) => if t + 65536 ≤ now s then raise (setRg { s with stall := none } (tqA p 0x18) 0) 0x0D07 0 0x08 18 0xFFFF (det [(0, 1, p)]) else s
    | none => s)

/-- TQ_FLUSH (R418): a store is one step of the model, so a flush acts at once. -/
def execTqFlush (p : Fin 64) (s : State) : Host.Outcome State Fault Refusal :=
  .next (bumpBy (modTq s p.val fun x => { x with recs := [] }) (tqA p.val 0x08) 16 16 (tqPart s p.val).recs.length)

end Sys2Proof.Machine
end

