-- ==== Sys2Proof/Machine/Start.lean ====
section
/-!
DEFINITION. Machine/Start.lean: the stages of cold starts and reheats (chapter 16), with boot, self-test, the repair
record, training, the fill, power domains, and the pins that begin and end a start (R421 to R440, R466 to R469).
-/
namespace Sys2Proof.Machine
open Sys2Proof

/-- A cold start is in a stage. -/
def coldIn (s : State) (n : Nat) : Bool := (startKind s == 1 || startKind s == 3) && stage s == n
/-- A reheat is in a stage. -/
def reheatIn (s : State) (n : Nat) : Bool := startKind s == 2 && stage s == n

/-! ### Pins (R421, R438, R467, R468, R474) -/

/-- RESET_N is low: everything but what a cold start keeps is gone, and the next start is cold. -/
def holdReset (s : State) : State := { wiped s false with rstn := false }

/-- RESET_N_ASSERT; after a trip RESET_N has no effect (R474). -/
def execResetNAssert (s : State) : Host.Outcome State Fault Refusal := .next (if s.thermtrip || !s.rstn then s else holdReset s)

/-- RESET_N_RELEASE: a cold start; PWR_GOOD is high by then (R466). EXTEST ends (R464). -/
def execResetNRelease (s : State) : Host.Outcome State Fault Refusal :=
  .next (if s.thermtrip || s.rstn then s else coldStart { s with rstn := true, pwrGood := true, jtagDrive := none } 1 false)

/-- PWR_GOOD_FALL (R468, R474): as if RESET_N had been asserted; a trip ends. -/
def execPwrGoodFall (s : State) : Host.Outcome State Fault Refusal := .next (holdReset { s with pwrGood := false, thermtrip := false })

/-! ### Power domains (R24, R26, R469) -/

/-- A domain's state in PWR_DOM_STAT. -/
def setDomain (s : State) (d : Nat) (on : Bool) : State := setRf s (if d < 64 then 0x02000001B008 else 0x02000001B010) (d % 64) 1 (b2n on)
/-- A domain is on. -/
def domainOn (s : State) (d : Nat) : Bool := rf s (if d < 64 then 0x02000001B008 else 0x02000001B010) (d % 64) 1 == 1

/-- GROUPS of the start configuration record; a blank record powers all four (R426). -/
def startGroups (s : State) : Nat := match s.flash.startCfg with | some c => c.1 | none => 15

/-- The domain may turn on in the running stage (R429, R469): 76 to 79 in stage 0; link groups in stage 3, named by the
record, or in a reheat used by the last parison; sound tiles from self-test to the fill, and in a reheat the spare of a site
with a defective tile, which the recompiled parison uses (R25; DESIGN CHOICE, log entry 68: its stage is not given). -/
def mayRamp (s : State) (d : Nat) : Bool :=
  if 76 ≤ d then coldIn s 0
  else if 72 ≤ d then (coldIn s 3 && bitAt (startGroups s) (d - 72)) || (reheatIn s 3 && (anyUsed (plansOf s s.img)).any fun n => n / 6 == d - 72)
  else (coldIn s 1 || coldIn s 2 || coldIn s 3 || coldIn s 4 || ((reheatIn s 3 || reheatIn s 4) &&
    (List.range 72).any fun x => tileSite x == tileSite d && tileDefective ((repairRec s).getD []) x)) && !tileDefective ((repairRec s).getD []) d

/-- DOMAIN_RAMP (R469): the end of a domain's ramp of 1,024 tt. -/
def execDomainRamp (d : Fin 80) (good : Bool) (s : State) : Host.Outcome State Fault Refusal :=
  .next (
    if !mayRamp s d.val || domainOn s d.val then s
    else if good then setDomain s d.val true
    else failStage (raise s 0x1005 4 0x09 d.val 0xFFFF (det [(0, 1, d.val), (1, 1, stage s)])) 0x1005)

/-! ### Stage 0 (R423, R436, R441, R442, R446, R448) -/

/-- The body of a firmware image: all but its certificate and signature. -/
def fwBody (b : List Byte) : Nat := b.length - 8618

/-- A firmware slot verifies: a firmware certificate, the signature under its key, SECVER not below the floor. -/
def slotOk (s : State) (b : List Byte) : Bool :=
  let c := bytesAt b (fwBody b) 5309
  decide (8618 < b.length) && certOk s c 3 1 && Config.mldsaVerify (bytesAt c 48 1952) (shake256 (b.take (fwBody b)) 64) (b.drop (fwBody b + 5309)) &&
    decide (s.flash.fwFloor ≤ Config.fwField b 2)

/-- The slots in the order tried: the higher version first. -/
def slotOrder (s : State) : List Nat :=
  if Config.fwField (s.flash.slots.getD 0 []) 0 < Config.fwField (s.flash.slots.getD 1 []) 0 then [1, 0] else [0, 1]

/-- The registers that show the keys and the booted firmware. -/
def showBoot (s : State) : State :=
  let s := setRg s (secA 0x000) (pack [(63, 1, 1), (62, 1, 1), (0, 32, fw s 2)])
  let s := forN 4 s fun i s => setRg (setRg s (secA (0x040 + 8 * i)) (natAt (shake256 (devicePublic s) 32) (8 * i) 8)) (secA (0x060 + 8 * i)) (natAt (shake256 (Config.mlkemPublic (kemSeed s)) 32) (8 * i) 8)
  setRg s (bar 0 0x280) (pack [(60, 4, 1), (32, 16, fw s 0), (16, 16, fw s 1), (0, 16, rf s (bar 0 0x280) 0 16)])

/-- A stage-0 failure. -/
def bootFails (s : State) (code : Nat) (d : List (Nat × Nat × Nat)) : State := failStage (raise s code 4 0x00 0 0xFFFF (det d)) code

/-- The key store as the boot ROM finds it: the PUF is read at package power-up only, which clears the failure count (R441, R435). -/
def bootKeys (s : State) (seed : Option (List (BitVec 8))) : State :=
  if s.keys.isNone then showStartRec { s with keys := seed, flash := { s.flash with fails := 0 } } else s

/-- The first slot in order that verifies. -/
def bootSlot (s : State) : Option Nat := (slotOrder s).find? fun k => slotOk s (s.flash.slots.getD k [])

/-- Neither slot verifies (R423): each one below the floor is recorded (R448), and the boot ROM stays. -/
def bootNone (s : State) : State :=
  let low := (List.range 2).filter fun k => s.flash.slots.getD k [] != [] && decide (Config.fwField (s.flash.slots.getD k []) 2 < s.flash.fwFloor)
  let s := low.foldl (fun s k => bump (raise s 0x0F04 4 0x00 0 0xFFFF (det [(0, 1, 1), (4, 4, Config.fwField (s.flash.slots.getD k []) 2), (8, 4, s.flash.fwFloor)])) (secA 0x010) 48 16) s
  failStage (raiseStart { s with flash := { s.flash with booted := none } } 0x0E0D 4 0x00 0 [(1, 1, 3)]) 0x0E0D

/-- A slot boots: the firmware's ABI against the stepping (R436), then the registers that show it and its measurements. -/
def bootFrom (s : State) (k : Nat) : State :=
  let s := { s with flash := { s.flash with booted := some k }, kick := uptime s, polled := none }
  let st := Config.stepping.toNat
  let r := pairReason s 1 st (fw s 1)
  if r ≠ 0 then failStage (raiseStart s 0x0E10 4 0x00 0 [(1, 1, r), (2, 2, st), (4, 2, fw s 1), (6, 2, fw s 3)]) 0x0E10
  else
    let s := showBoot s
    endStage (measure (measure s 0 (shake256 (fwImage s) 32)) 4 (shake256 s.flash.rootKey 32))

/-- BOOT (R423, R441): the first slot that verifies boots, once domains 76 to 79 are on. -/
def execBoot (seed : Option (List (BitVec 8))) (attempts : BitVec 8) (s : State) : Host.Outcome State Fault Refusal :=
  if seed.any (fun x => x.length != 32) then .fault (.illFormed "BOOT")
  else .next (
    if !coldIn s 0 || !([76, 77, 78, 79].all (domainOn s)) then s
    else
      let s := bootKeys s seed
      if s.keys.isNone then bootFails s 0x0F01 [(0, 1, attempts.toNat)]
      else if shake256 s.flash.rootKey 32 ≠ Config.rootHash then bootFails s 0x0F02 []
      else match bootSlot s with
        | none => bootNone s
        | some k => bootFrom s k)

/-! ### The repair record (R424, R425, R226, R432) -/

/-- The remaps of a record. -/
def remapsOf (r : List Byte) : List Nat := (List.range (natAt r 1008 4)).map fun i => natAt r (1016 + 8 * i) 8
/-- Spare rows of a bank in use. -/
def rowsUsed (r : List Byte) (k c b : Nat) : Nat := ((remapsOf r).filter fun x => fld x 60 4 == k && fld x 54 6 == c && fld x 50 4 == b).length

/-- A DRAM row repaired (R226, Table 16-3): a spare row (0), the spare bank (1), or the channel failed (2). -/
def repairRow (r : List Byte) (k c b row : Nat) : List Byte × Nat :=
  let n := rowsUsed r k c b
  if n < 32 then
    (setBytes r 1008 (leBytes 4 (natAt r 1008 4 + 1)) ++ leBytes 8 (pack [(60, 4, k), (54, 6, c), (50, 4, b), (36, 14, row), (31, 5, n)]), 0)
  else if natAt r (216 + 64 * k + c) 1 < 128 then (setBytes r (216 + 64 * k + c) [BitVec.ofNat 8 (128 + b)], 1)
  else (setBit r 120 (64 * k + c), 2)

/-- One finding recorded, with its fault. -/
def takeFinding (s : State) (f : Finding) : State :=
  let put (s : State) (r : List Byte) : State := { s with boot := { s.boot with record := r } }
  let r := s.boot.record
  match f with
  | .tile t u b => setDomain (raiseStart (put s (setBit r 48 t.val)) 0x0E01 1 0x01 t.val [(1, 1, t.val), (2, 1, u.val), (3, 1, b.toNat)]) t.val false
  | .router p t =>
    let s := raiseStart (put s (setBit r 64 (72 * p.val + t.val))) 0x0E03 4 0x06 (72 * p.val + t.val) [(1, 1, p.val), (2, 1, t.val)]
    { s with boot := { s.boot with bad := 0x0E03 } }
  | .dramRow k c b row =>
    let x := repairRow r k.val c.val b.val row.toNat
    raiseStart (put s x.1) 0x0E04 1 0x04 (64 * k.val + c.val) [(1, 1, k.val), (2, 1, c.val), (3, 1, b.val), (4, 2, row.toNat), (6, 1, x.2)]
  | .lane n rx l => raiseStart (put s (setBit r 96 (8 * n.val + 4 * b2n rx + l.val))) 0x0E05 1 0x07 n.val [(1, 1, n.val), (2, 1, b2n rx), (3, 1, l.val)]

/-- The tiles of a site, ascending. -/
def siteTiles (k : Nat) : List Nat := (List.range 72).filter fun x => tileSite x == k

/-- Two or more defective tiles in a site (R424); the mask's bit i is the site's i-th tile. -/
def judgeSite (k : Nat) (s : State) : State :=
  let bad := (siteTiles k).map fun x => tileDefective s.boot.record x
  if 2 ≤ (bad.filter id).length then
    let s := raiseStart s 0x0E02 4 0x00 0 [(1, 1, k), (2, 8, pack (bad.zipIdx.map fun x => (x.2, 1, b2n x.1)))]
    { s with boot := { s.boot with bad := 0x0E02 } }
  else s

/-- SELF_TEST (R424): defects go into the record; two defective tiles in a site stop the start after stage 2. -/
def execSelfTest (found : List Finding) (s : State) : Host.Outcome State Fault Refusal :=
  .next (
    if !coldIn s 1 then s
    else endStage (forN 12 (found.foldl takeFinding { s with boot := { s.boot with record := baseRecord s, bad := 0 } }) judgeSite))

/-- What a record sets in the stacks' registers: failed channels, spare banks and rows, CEIL (Table 8-6). -/
def applyRecord (s : State) (r : List Byte) : State :=
  let s := { s with spareRows := [] }
  forN 12 s fun k s =>
    let s := forN 64 s fun c s =>
      let b := natAt r (216 + 64 * k + c) 1
      let s := setRf s (drmA k (0x100 + 8 * c)) 58 6 (pack [(5, 1, b2n (bitAt (natAt r 120 96) (64 * k + c))), (4, 1, b / 128), (0, 4, b)])
      forN 16 s fun bank s => { s with spareRows := tset 0 s.spareRows ((64 * k + c) * 16 + bank) (rowsUsed r k c bank) }
    let s := setRf s (drmA k 0x020) 48 16 (natAt r (984 + 2 * k) 2)
    let n := ((remapsOf r).filter fun x => fld x 60 4 == k).length
    let banks := ((List.range 64).filter fun c => decide (128 ≤ natAt r (216 + 64 * k + c) 1)).length
    let failed := ((List.range 64).filter fun c => bitAt (natAt r 120 96) (64 * k + c)).length
    setRg s (drmA k 0x050) (pack [(48, 16, n), (34, 7, banks), (27, 7, failed), (0, 16, rf s (drmA k 0x050) 0 16)])

/-- The soft-repair candidates applied to a record (R226, R432): a row's contents go to its spare, so what was correctable
is sound there. -/
def applyCandidates (s : State) : State :=
  let s1 := s.repairCand.foldl (fun s x =>
    let e := x.1 / 16
    let r := (repairRow s.boot.record (e / 64) (e % 64) (x.1 % 16) x.2).1
    { s with boot := { s.boot with record := r },
             sec := s.sec.filter fun y => !(eBankIx (y.1 / 2) == x.1 && eRow (y.1 / 2) == x.2 && !(decodeSector (rf s (drmA (e / 64) 0) 0 1 == 1) 0 y.2).unc) }) s
  { s1 with repairCand := [], candSecs := [] }

/-- The record that this start stores: the self-test's, or in a reheat the one in force, with the candidates applied. -/
def repaired (s : State) : State :=
  applyCandidates (if reheatIn s 2 || s.boot.record = [] then { s with boot := { s.boot with record := baseRecord s } } else s)

/-- A cold start writes the record, and a reheat with pending repairs (R425, R432). -/
def repairWrites (s : State) : Bool := coldIn s 2 || s.repairCand != []

/-- The copy with the lower WRITES, which the write replaces. -/
def repairCopy (s : State) : Nat := if natAt (s.flash.repair.getD 0 []) 1012 4 ≤ natAt (s.flash.repair.getD 1 []) 1012 4 then 0 else 1

/-- REPAIR_RECORD_STORE (R425, R432, R446): stage 2 of a cold start, or of a reheat with pending repairs; `readBack` is
whether the write verifies on read-back. -/
def execRepairRecordStore (readBack : Bool) (s : State) : Host.Outcome State Fault Refusal :=
  .next (
    if !(coldIn s 2 || reheatIn s 2) then s
    else if (repairRec s).isNone then failStage (raiseStart s 0x0E06 4 0x00 0 [(2, 1, 1)]) 0x0E06
    else
      let u := repaired s
      if repairWrites s && !readBack then failStage (raiseStart u 0x0E06 4 0x00 0 [(1, 1, repairCopy s), (2, 1, 2)]) 0x0E06
      else
        let u := if repairWrites s then storeRecord u u.boot.record else u
        let u := measure (applyRecord u u.boot.record) 2 (shake256 (u.boot.record.take 1008) 32)
        if u.boot.bad ≠ 0 then failStage u u.boot.bad else endStage u)

/-! ### Stage 3 (R427, R428) -/

/-- The reason a stack's record is not reused (Table 16-12), 0 for none. -/
def retrainReason (s : State) (t : Trained) (k : Nat) : Nat :=
  let r := tget {} s.flash.stackTrain k
  let x := (t.temps.getD k 0).toNat
  if !r.valid then 1 else if x + 10 < r.temp ∨ r.temp + 10 < x then 2 else if !t.clean.getD k false then 3 else 0

/-- A link may train: its group is powered, and some lane of each direction passed self-test. -/
def trainable (s : State) (rec_ : List Byte) (n : Nat) : Bool :=
  domainOn s (72 + n / 6) && (List.range 2).all fun d => (List.range 4).any fun l => !bitAt (natAt rec_ 96 24) (8 * n + 4 * d + l)

/-- The stacks that are trained in full. -/
def fullTrained (s : State) (t : Trained) : List Nat := (List.range 12).filter fun k => retrainReason s t k != 0
/-- The channels that fail full training. -/
def trainFailed (s : State) (t : Trained) : List (Fin 12 × Fin 64) := (t.failed.filter fun f => (fullTrained s t).contains f.1.val).eraseDups

/-- A stack trained in full, with its new settings and the reason (R427). -/
def trainStack (t : Trained) (why : Nat → Nat) (s : State) (k : Nat) : State :=
  raiseStart { s with boot := { s.boot with trainStack := tput s.boot.trainStack k { valid := true, temp := (t.temps.getD k 0).toNat } } } 0x0E07 0 0x00 0 [(1, 1, k), (2, 1, why k)]

/-- The stacks of a cold start's stage 3: each reuses its record or trains in full, and failed channels are marked. -/
def trainStacks (s : State) (t : Trained) : State :=
  let u := (fullTrained s t).foldl (trainStack t (retrainReason s t)) s
  let bad := trainFailed s t
  if bad = [] then u
  else
    let r := bad.foldl (fun r f => setBit r 120 (64 * f.1.val + f.2.val)) (baseRecord u)
    applyRecord (storeRecord (bad.foldl (fun s f => raiseStart s 0x0E08 1 0x04 (64 * f.1.val + f.2.val) [(1, 1, f.1.val), (2, 1, f.2.val)]) u) r) r

/-- A link that may train and whose far end answers is trained and waits for ranging. -/
def trainLink (rec_ : List Byte) (up : List (Fin 24)) (n : Nat) (s : State) : State :=
  if trainable s rec_ n && up.any (fun x => x.val == n) then
    setLnkSt { s with boot := { s.boot with trainLink := tput s.boot.trainLink n { valid := true } } } n 2
  else s

/-- TRAINING (R427): the stacks, then the links. A reheat trains links only. -/
def execTraining (t : Trained) (s : State) : Host.Outcome State Fault Refusal :=
  if t.temps.length ≠ 12 ∨ t.clean.length ≠ 12 then .fault (.illFormed "TRAINING")
  else .next (
    if !(coldIn s 3 || reheatIn s 3) then s
    else
      let u := if reheatIn s 3 then s else trainStacks s t
      endStage (forN 24 u (trainLink ((repairRec u).getD []) t.up)))

/-! ### Stage 4 (R201, R429) -/

/-- Every memory and its check bits as the zero-fill leaves them (R429). -/
def coldFill (s : State) : State :=
  { s with
    mem := s.mem.filter fun x => decide (0x1000000000000 ≤ x.1), sec := [], ecc := [], uncSec := [], patCorr := [],
    cores := s.cores.map fun e => (e.1, { e.2 with cmds := [], cmdBad := [], audit := [], epochs := [], gaf := { e.2.gaf with imem := [], dmem := [], bad := [] } }),
    chans := s.chans.map fun e => (e.1, { e.2 with tags := [] }) }

/-- ZERO_FILL (R201, R241, R429): a cold start fills everything once every sound tile is powered, and sets every tag CLEAN;
a reheat fills scratch rows and rebuilds the tags. -/
def execZeroFill (s : State) : Host.Outcome State Fault Refusal :=
  .next (
    if coldIn s 4 then
      if (List.range 72).any fun x => !domainOn s x && !tileDefective ((repairRec s).getD []) x then s
      else endStage (coldFill s)
    else if reheatIn s 4 then
      endStage (rebuildTags (scratchFill s))
    else s)

/-! ### Reheat: stages 1 and 2 (R430, R431) -/

/-- SELF_REFRESH_ENTRY (R430, R431): within 2,048 tt of the stop each stack confirms; one that does not makes the start a
cold start (Table 16-1). -/
def execSelfRefreshEntry (k : Fin 12) (confirmed : Bool) (s : State) : Host.Outcome State Fault Refusal :=
  .next (
    if !reheatIn s 1 || planOn s then s
    else if confirmed then { s with boot := { s.boot with asleep := (k.val :: s.boot.asleep).eraseDups } }
    else coldStart s 1 true)

/-- Registers that the reheat reset keeps: those of the root region and the functions, the parison's, and what the repair
record sets. -/
def reheatKeeps (a : Nat) : Bool :=
  decide (0x1000000000000 ≤ a) || a / 0x1000000 == 0x20000 || (a / 0x1000000 == 0x20002 && (a % 0x10000 == 0x20 || a % 0x10000 == 0x50 || decide (0x100 ≤ a % 0x10000 ∧ a % 0x10000 < 0x300))) || (parReg a).isSome

/-- A register of the crossings of R45, or of a measurement slot. -/
def reheatDrops (a : Nat) : Bool := decide (clkA 0x100 ≤ a ∧ a < clkA 0x100 + 608) || decide (secA 0x100 ≤ a ∧ a < secA 0x240) || a == ttA 0x000 || a == ttA 0x008
/-- What the reheat reset leaves of a register: a "parison" one keeps the bits the load fills. -/
def reheatMask (a : Nat) : Nat := match parReg a with
  | some r => if a / 0x1000000 = 0x20002 ∨ a / 0x1000000 = 0x20000 then 2 ^ 64 - 1 else r.mask
  | none => 2 ^ 64 - 1
/-- What the reheat reset leaves of a core: its memories, with the check bits of its resident rows (R431). -/
def reheatCore (s : State) (c : Nat) (y : Core) : Core :=
  { ({} : Core) with
    present := y.present, tile := y.tile, env := y.env, audited := y.audited, cmds := y.cmds, cmdBad := y.cmdBad, audit := y.audit, descs := y.descs,
    epochs := y.epochs.filter fun x => residentRow s c x.1, queues := (y.queues.map fun q => (q.1, { ({} : Queue) with outbound := q.2.outbound })).filter fun q => decide (q.2 ≠ {}),
    gaf := { imem := y.gaf.imem, dmem := y.gaf.dmem, bad := y.gaf.bad } }

/-- The control state of every domain but the root's is reset. -/
def resetControl (s : State) : State :=
  { s with
    regs := (s.regs.filter fun e => reheatKeeps e.1 && !reheatDrops e.1).foldr (fun e t => tset 0 t e.1 (e.2 &&& BitVec.ofNat 64 (reheatMask e.1))) [],
    cores := s.cores.map fun e => (e.1, reheatCore s e.1 e.2),
    chans := [], dbanks := [], acts := [], jobs := [], flights := [], bins := [], bbusy := [], bseq := [], brx := [], sysIn := [],
    links := [], rops := [], punits := [], tether := { holdTtc := s.tether.holdTtc, holdUp := s.tether.holdUp, holdDone := s.tether.holdDone, armed := s.tether.armed },
    vote := {}, shown := none, halted := false, evacuate := false, xfers := [], hfull := [], thermal := [], uncSec := [],
    narrow := [], fired := [], listed := [] }

/-- The reheat reset: link groups off, the reference of R55 and R56 taken, measurement slots and TT_CTRL open. -/
def reheatReset (s : State) : State :=
  let s1 := startRef (forN 4 (resetControl s) fun g s => setDomain s (72 + g) false)
  let s1 := setRg (setRf (setRf s1 (secA 0) 57 5 0) (secA 0) 32 8 0) (ttA 0x018) 0
  { modCrl s1 fun c => { c with secOk := [], secBad := false } with boot := { s1.boot with asleep := [], record := [], bad := 0 } }

/-- REHEAT_RESET (R431, R446): once every stack is in self-refresh, the control state of every domain but the root's is
reset; memories, slot tables and "parison" registers stay; TT_COUNT, TT_STEP (R46) and TT_CTRL are 0; measurement slots open. The root takes a
restored reference again (R55); without one a holdover goes on (R56). -/
def execReheatReset (s : State) : Host.Outcome State Fault Refusal :=
  .next (if !reheatIn s 1 || planOn s || s.boot.asleep.length ≠ 12 then s else endStage (reheatReset s))

/-! ### Bounds (R422, Table 16-2) -/

/-- Bytes of the sections of a site that a reheat verifies in place: V_s. -/
def verifyBytes (s : State) (site : Nat) : Nat :=
  (((dirEnts s.staged).filter fun e => siteOfSec e == site && (entOf s.img e.type e.inst e.var).map (·.digest) == some e.digest).map (·.len)).sum

/-- The bound of the running stage in tt; none where another rule takes its place. -/
def stageBound (s : State) : Option Nat :=
  let re := startKind s == 2
  match stage s with
  | 0 => some 3125000
  | 1 => some (if re then frameLen s + 17673 else 12500000)
  | 2 => some (if re then (s.repairCand.map fun x => if tget 0 s.spareRows x.1 < 32 then 16 else 15625).sum else 3125000)
  | 3 => some (if re then 3125 * ((usedLinks s).map (replayLimit s)).foldl max 0 else if (List.range 12).all fun k => (tget {} s.flash.stackTrain k).valid then 3125000 else 62500000)
  | 4 => some (if re then 156250 else 1562500)
  | 5 => some 2560
  | 6 => if s.tether.acqFrom.isSome then none else some (156250 * if s.flash.acqWait = 0 then 64 else s.flash.acqWait)
  | 7 => some (1562500 + if re then ((List.range 12).map fun k => cdiv (verifyBytes s k) 128).foldl max 0 else cdiv s.staged.length 409)
  | 8 => some 1200
  | _ => none

/-- STAGE_BOUND_EXCEEDED (R4, R422): a stage that has not ended in the tick of its bound. -/
def execStageBoundExceeded (s : State) : Host.Outcome State Fault Refusal :=
  .next (
    match stageBound s with
    | some b => if startKind s ≠ 0 ∧ s.stageAt + b ≤ uptime s then failStage (raiseStart s 0x0E09 4 0x00 0 [(1, 1, stage s), (4, 8, uptime s)]) 0x0E09 else s
    | none => s)

end Sys2Proof.Machine
end

