-- ==== Sys2Proof/Machine/Power.lean ====
section
/-!
DEFINITION. Machine/Power.lean: energy accounts, die temperatures and rails (R316, R318, R468, R471 to R477), and the JTAG
port (R464).
-/
namespace Sys2Proof.Machine
open Sys2Proof

/-- PWR_ registers. -/
def pwrA (off : Nat) : Nat := 0x02000001B000 + off

/-! ### Energy accounts (R316, R318, R471) -/

/-- An entry of the running variant's ledger, with its MARGIN. -/
def ledgerEntry (s : State) (w a : Nat) : Nat × Nat :=
  let x := secBytes s.img (rf s (parA 0) 56 4) 0x70 0
  (natAt x (194 + 2 * (93 * w + a)) 2, natAt x 6 1)

/-- One account's window: the results, and an overdraw (R318). -/
def account (s : State) (w a m : Nat) : State :=
  let (e, margin) := ledgerEntry s w a
  let old := (tget 0 s.accts a).toNat
  let ov := decide (e + max (margin * e / 16) 8 < m)
  let s := { s with accts := tset 0 s.accts a (BitVec.ofNat 64 (pack [(48, 16, m), (32, 16, max m (fld old 32 16)), (16, 16, min 65535 (fld old 16 16 + b2n ov)), (0, 16, w)])) }
  if ov then
    report (bump (raise s 0x1001 0 (if a < 80 then 0x09 else 0x00) (if a < 80 then a else 0) 0xFFFF (det [(0, 1, a), (2, 2, w), (4, 2, m), (6, 2, e)])) (pwrA 0x018) 48 16) 4
  else s

/-- ENERGY_WINDOW_END (R316, R318): at the end of each window of the frame, once; the measurements are the accounts'. -/
def execEnergyWindowEnd (measured : List (BitVec 16)) (s : State) : Host.Outcome State Fault Refusal :=
  if measured.length ≠ 93 then .fault (.illFormed "ENERGY_WINDOW_END")
  else .next (
    let t := frameTick s
    if !planOn s || t = 0 || !(t % 1024 = 0 || t = frameLen s) || frameLen s < t || s.acctAt = ttc s + 1 then s
    else
      let w := cdiv t 1024 - 1
      measured.zipIdx.foldl (fun s m => account s w m.2 m.1.toNat) { s with acctAt := ttc s + 1 })

/-! ### Temperatures (R473, R474) -/

/-- PWR_STAT after a reading: maximum, hottest sensor, HOT and WARN of any sensor (Table 18-12). -/
def dieSummary (s : State) (t : Nat) : State :=
  let temp (r : Nat) : Nat := rf s (pwrA (0x080 + 4 * r)) 24 8
  let h := (List.range 19).foldl (fun b r => if temp b < temp r then r else b) 0
  let any (i : Nat) : Nat := b2n ((List.range 19).any fun r => rf s (pwrA (0x080 + 4 * r)) i 1 == 1)
  setRg s (pwrA 0) (pack [(56, 8, max t (rf s (pwrA 0) 56 8)), (40, 5, h), (32, 8, temp h), (2, 1, rf s (pwrA 0) 2 1), (1, 1, any 1), (0, 1, any 0)])

/-- A reading in its sensor's register: CELSIUS, MAX, HOT and WARN, and PWR_STAT after it (R473, Table 18-12). -/
def dieShown (s : State) (r t : Nat) : State :=
  let a := pwrA (0x080 + 4 * r)
  dieSummary (setRg s a (pack [(24, 8, t), (16, 8, max t (rf s a 16 8)), (1, 1, b2n (decide (105 ≤ t))), (0, 1, b2n (decide (100 ≤ t)))])) t

/-- DIE_TEMPERATURE_READING (R473 to R475): warning, limit and trip; a limit reading records 0x1003 only. -/
def execDieTemperatureReading (r : Fin 19) (c : BitVec 8) (s : State) : Host.Outcome State Fault Refusal :=
  .next (
    let t := c.toNat
    let s := dieShown s r.val t
    let d := det [(0, 1, r.val), (1, 1, t)]
    let s := if 105 ≤ t then bump (raise s 0x1003 3 0x08 r.val 0xFFFF d) (pwrA 0x018) 16 16
      else if 100 ≤ t then report (bump (raise s 0x1002 1 0x08 r.val 0xFFFF d) (pwrA 0x018) 32 16) 5
      else s
    if 115 ≤ t then thermalTrip s 0x08 r.val r.val t else s)

/-! ### Rails (R468) -/

/-- RAIL_OUT_OF_TOLERANCE (R468): for 16 cycles while PWR_GOOD is high. -/
def execRailOutOfTolerance (k : Fin 6) (mv : BitVec 16) (s : State) : Host.Outcome State Fault Refusal :=
  .next (
    let a := pwrA (0x040 + 4 * k.val)
    if !s.pwrGood then s
    else
      let was := rf s a 0 1
      let s := setRf (setRg s a (pack [(16, 16, mv.toNat), (0, 1, 1)])) (pwrA 0) 2 1 1
      if was = 1 then s else bump (raise s 0x1006 3 0x00 0 0xFFFF (det [(0, 1, k.val), (2, 2, mv.toNat)])) (pwrA 0x018) 0 16)

/-- RAIL_IN_TOLERANCE: OUT clears, and RAIL_FAULT when no rail is out. -/
def execRailInTolerance (k : Fin 6) (mv : BitVec 16) (s : State) : Host.Outcome State Fault Refusal :=
  .next (
    let s := setRg s (pwrA (0x040 + 4 * k.val)) (pack [(16, 16, mv.toNat)])
    setRf s (pwrA 0) 2 1 (b2n ((List.range 6).any fun i => rf s (pwrA (0x040 + 4 * i)) 0 1 == 1)))

/-! ### JTAG (R464) -/

/-- JTAG_BYPASS. -/
def execJtagBypass (s : State) : Host.Outcome State Fault Refusal := .next { s with jtag := 1, jtagDrive := none }
/-- JTAG_IDCODE. -/
def execJtagIdcode (s : State) : Host.Outcome State Fault Refusal := .next { s with jtag := 0, jtagDrive := none }
/-- JTAG_SAMPLE_PRELOAD. -/
def execJtagSamplePreload (s : State) : Host.Outcome State Fault Refusal := .next { s with jtag := 2, jtagDrive := none }
/-- JTAG_EXTEST: only while RESET_N is low; the boundary cells drive the pins. -/
def execJtagExtest (drive : List Bool) (s : State) : Host.Outcome State Fault Refusal :=
  .next (if s.rstn then s else { s with jtag := 3, jtagDrive := some drive })

end Sys2Proof.Machine
end

