-- ==== Sys2Proof/Machine/Commit.lean ====
section
/-!
DEFINITION. Machine/Commit.lean: what brackets a step: launch and frame start (R46, R48, R134, R191, R265, R448), the
commit window with the pane and stripe change lists (R58, R238, R239, R386, R387), the variant swap (R313 to R315), the
vote and the commit or void of the step (R31 to R36, R59, R381).
-/
namespace Sys2Proof.Machine
open Sys2Proof

/-! ### Arming (R48, R323, R449) -/

/-- TT_LAUNCH_WRITE (R48, R323, R449): written only once the SECCHKs have arrived; arms launch, or records 0x010C. A
launched plan keeps its LAUNCH_TTC (R27). -/
def execTtLaunchWrite (v : BitVec 64) (s : State) : Host.Outcome State Fault Refusal :=
  .next (
    if launched s || !secReady s then s
    else
      let s := setRg s (ttA 0x010) v.toNat
      if rf s (parA 0x000) 60 4 ≠ 5 then s
      else if acquired s && decide (ttc s + 156250 ≤ v.toNat) then setRf s (ttA 0x018) 2 1 1
      else raiseTt s 0x010C 4 0x00 0 [(0, 8, ttc s), (8, 8, v.toNat)])

/-! ### Variant swaps (R313 to R315) -/

/-- Section types that a variant may replace: memories, then tables (R314). -/
def memTypes : List Nat := [0x10, 0x11, 0x12, 0x13, 0x14]
/-- The table types. -/
def tableTypes : List Nat := [0x20, 0x21, 0x30, 0x41, 0x42, 0x44, 0x70]
/-- The sections of variant v, of some types, that are not the running variant's. -/
def swapEnts (s : State) (v : Nat) (types : List Nat) : List DirEnt :=
  (inForce s.img v).filter fun e => types.contains e.type && !((inForce s.img (runningVar s)).any fun x => x.ix == e.ix)

/-- One memory section copied from its stack's variant store (R315): its items but gaffer data memory; a copy that met an
uncorrectable sector or fails its digest records 0x0A0F, and what was copied stays. Registers that a memory section
carries (the marver window, the queues' directions, GAF_ENTRY) take the variant's values with the copy, not at the swap
tick (DESIGN CHOICE, log entry 72: R27 and R315 place only tables and memories). -/
def copySection (s : State) (v : Nat) (e : DirEnt) : State :=
  let c := if e.type = 0x11 then e.inst / 4 else e.inst
  let (b, unc, s) := readRange s (storeAddr s s.img e) e.len
  let s := if unc || shake256 b 32 != e.digest then raise s 0x0A0F 3 0x00 0 (core s c).env (det [(0, 1, v), (1, 2, c), (3, 1, e.type - 0x10)]) else s
  let t := clearItems (clearRegs s s.img v e.type e.inst) e.type e.inst
  (itemsOf b).foldl (fun s i =>
    if itemKey 0 ≤ i.key then (if i.key = itemKey 4 then s else putItem s s.img v e (i.key - itemKey 0) i.val) else putRun s e.type i.key i.val) t

/-- The bits of a register that belong to a table with a shadow (R314). -/
def tableBits (a : Nat) : Nat :=
  match parReg a with
  | some r => (r.places.filter fun p => tableTypes.contains p.1).foldl (fun m p => m ||| maskFor r p.1) 0
  | none => 0

/-- Crownline writes a variant's tables into the shadows (R314). -/
def fillShadow (s : State) (v : Nat) : State :=
  let t := putPlan s s.img v []
  { s with shadow := { regs := (t.regs.map fun e => (e.1, e.2 &&& BitVec.ofNat 64 (tableBits e.1))).filter fun e => e.2 != 0, hwins := t.hwins } }

/-- Every active table and its shadow exchange (R315); a bad entry goes with its table, and a shadow is written anew before
it is used again. -/
def exchange (s : State) : State :=
  let mine := (s.regs.map fun e => (e.1, e.2 &&& BitVec.ofNat 64 (tableBits e.1))).filter fun e => e.2 != 0
  let rest := (s.regs.map fun e => (e.1, e.2 &&& ~~~BitVec.ofNat 64 (tableBits e.1))).filter fun e => e.2 != 0
  { s with regs := s.shadow.regs.foldl (fun t e => tset 0 t e.1 (tget 0 t e.1 ||| e.2)) rest, hwins := s.shadow.hwins, slotBad := [],
           shadow := { regs := mine, hwins := s.hwins } }

/-- What the frame before a swap does (R314, R315): the variant's memory sections are copied in [W, W + 512), and its tables
fill the shadows. -/
def copyVariant (s : State) (v : Nat) : State := fillShadow ((swapEnts s v memTypes).foldl (fun s e => copySection s v e) s) v

/-- A link whose new table assumes another width or other lanes has the Keel's request for them at the swap tick (R328). -/
def swapWidth (s : State) (n : Nat) : State :=
  let c := rg s (lnkA n 0x000)
  if !linkUsed s n || (fld c 32 2 == rf s (lnkA n 0x008) 58 2 && fld c 30 2 == rf s (lnkA n 0x008) 56 2) then s
  else widthStart (widthWrite s n (fld c 32 2) (fld c 30 2) 0) n

/-- A gaffer starts at GAF_ENTRY with its registers 0 and its data memory unchanged (R160, R315). -/
def gafStart (s : State) (c : Nat) : State :=
  modGaf s c fun g => { g with pc := rf s (gafA c 0x010) 0 16, cur := rf s (gafA c 0x010) 0 16, x := [], stopped := false, at_ := now s, waitTick := none }

/-- The cores the tile map places. -/
def presentCores (s : State) : List Nat := (List.range 60).filter fun c => (core s c).present

/-- The swap at a frame's first tick (R315, R328): tables exchange, link widths are requested, gaffers start,
PAR_STAT.VARIANT and PAR_SWAP change. -/
def swapTo (s : State) (v : Nat) : State :=
  let from_ := runningVar s
  let s := (List.range 24).foldl swapWidth (exchange s)
  let s := setRf s (parA 0x000) 56 4 v
  let s := (presentCores s).foldl gafStart s
  let s := setRg s (parA 0x038) (pack [(56, 8, min 255 (rf s (parA 0x038) 56 8 + 1)), (52, 4, from_), (48, 4, v), (0, 48, stepNo s)])
  raise s 0x0A10 0 0x00 0 0xFFFF (det [(0, 1, from_), (1, 1, v), (2, 6, stepNo s)])

/-- A scheduled swap takes effect. -/
def swapIfDue (s : State) : State :=
  match s.crl.nextVar with
  | some v => modCrl (swapTo s v) fun c => { c with nextVar := none }
  | none => s

/-! ### Launch (R48, R173, R428, R433, R435, R448) -/

/-- Counter bits that are cleared at the launch tick (R60, R88, R118, R155, R173, R203, R231, R256, R274, R309, R329, R367,
R394, R419, R458, R476). -/
def launchBits (a : Nat) : Nat :=
  let o := a % 0x10000
  let all := 2 ^ 64 - 1
  let w (lo n : Nat) : Nat := (2 ^ n - 1) * 2 ^ lo
  match a / 0x1000000 with
  | 0x20000 =>
    if a = ttA 0x058 ∨ a = clkA 0x008 ∨ a = parA 0x038 ∨ a = crlA 0x028 ∨ a = secA 0x010 ∨ a = pwrA 0x018 then all
    else if srvA 0 0 ≤ a ∧ a < srvA 16 0 ∧ a % 0x100 = 0x38 then all
    else if a = twnA 0x010 then w 56 8
    else if a = twnA 0x018 then w 0 48
    else if trnA 0x108 ≤ a ∧ a < trnA 0x288 ∧ a % 16 = 8 then all
    else if a = crlA 0x020 then w 0 32
    else if tqA 0 0 ≤ a ∧ a < tqA 64 0 ∧ a % 0x40 = 8 then w 8 40
    else if a = pwrA 0 then w 56 8
    else if pwrA 0x080 ≤ a ∧ a < pwrA 0x0CC then w 16 8
    else 0
  | 0x20001 =>
    if o ∈ [0x0000, 0x0008, 0x0028, 0x0030, 0x1018, 0x1020, 0x3018, 0x3020, 0x4008, 0x4010] then all else if o = 0x4038 then w 32 16 else 0
  | 0x20002 => if o = 0x038 ∨ o = 0x048 then all else if o = 0x050 then w 0 16 else if o = 0x008 then w 48 8 else 0
  | 0x20003 => if o = 0x000 ∨ o = 0x008 then all else 0
  | 0x20004 => if o = 0x008 then all else 0
  | 0x20005 => if o = 0x040 ∨ o = 0x048 ∨ o = 0x050 then all else if o = 0x008 then w 32 16 else if o = 0x058 then w 32 32 else if o = 0x060 then w 0 48 else 0
  | _ => 0

/-- The counters cleared. -/
def clearCounters (s : State) : State :=
  let keep (e : Nat × Reg) : Nat × Reg := (e.1, e.2 &&& BitVec.ofNat 64 (2 ^ 64 - 1 - launchBits e.1))
  { s with
    regs := (s.regs.map keep).filter fun e => e.2 != 0
    accts := [], acctAt := 0
    chans := (s.chans.map fun e => (e.1, { e.2 with patPass := 0, actPeak := 0, ops := 0 })).filter fun e => decide (e.2 ≠ {})
    cores := s.cores.map fun e => (e.1, { e.2 with scrubPass := [], queues := (e.2.queues.map fun q => (q.1, { q.2 with overrun := 0, underrun := 0 })).filter fun q => decide (q.2 ≠ {}) })
    crl := { s.crl with fec := [], wearAt := 0, miss := [], heard := [], iso := 0, hbWin := 0, win := (ttc s - launchT s) / max 1 (hbPeriod s) } }

/-- A floor rises to a SECVER, and records it (R448). -/
def raiseFloor (s : State) (which old new : Nat) : State :=
  if new ≤ old then s
  else
    let s := bump (raise s 0x0F07 0 0x00 0 0xFFFF (det [(0, 1, which), (4, 4, old), (8, 4, new)])) (secA 0x010) 32 16
    { s with flash := if which = 0 then { s.flash with parFloor := new } else { s.flash with fwFloor := new } }

/-- The start reaches stage 10 (R426, R435, R448): floors, start configuration, start record. -/
def stageTen (s : State) : State :=
  let s := raiseFloor (raiseFloor s 0 s.flash.parFloor (rf s (parA 0x034) 0 32)) 1 s.flash.fwFloor (fw s 2)
  let used := anyUsed (plansOf s s.img)
  let groups := ((List.range 4).filter fun g => used.any fun n => n / 6 == g).foldl (fun a g => a + 2 ^ g) 0
  let cfg := (groups, rf s (ttA 0x028) 0 5, match s.flash.startCfg with | some c => c.2.2 | none => 0)
  showStartRec (endStage { s with ran := s.img, flash := { s.flash with startCfg := some cfg, fails := 0, first := 0 } })

/-- The TSYNC pulse of the first frame start, which TICK, coming before launch, has not given (R43). -/
def launchPulse (s : State) (b : Bool) : State := if fld (tsyncCfg s b) 0 2 = 2 then emit s (.tsync b (ttc s)) else s

/-- What launch does in every region at once: counters cleared, gaffers run, accumulator units FP32 with zeros (R102),
PAR_STAT reads launched. -/
def launch (s : State) : State :=
  let s := setRf (clearCounters (launchPulse (launchPulse s false) true)) (ttA 0x018) 3 1 1
  let s := (presentCores s).foldl (fun s c => modCore s c fun x => { x with acc := [] }) s
  let s := (presentCores s).foldl (fun s c =>
    gafStart (modGaf (setRf s (gafA c 0x000) 0 1 1) c fun g => { g with gscratch := 0, minstret := 0, mcause := 0, mtval := 0, mepc := 0, busy := 0 }) c) s
  setParState (stageTen { s with vote := {} }) 6

/-! ### Frame start (R46, R134, R191, R198, R265, R340, R430) -/

/-- A stream's part of a frame start: loop registers idle, ABANDONED clear, NEXT_FRAME starts of the current frame. -/
def strmFrame (x : Stream) : Stream :=
  { x with abandoned := false, loop0 := { x.loop0 with active := false }, loop1 := { x.loop1 with active := false }, next := x.next.map fun n => { n with nextFrame := false } }

/-- A core's part of a frame start: counters, READY counts, streams, spools, epochs of scratch rows, a stopped gaffer. -/
def coreFrame (s : State) (c : Nat) : State :=
  let s := modCore s c fun x =>
    { x with ccnt := [], queues := (x.queues.map fun q => (q.1, { q.2 with ready := 0 })).filter fun q => decide (q.2 ≠ {}),
             strms := (x.strms.map fun k => (k.1, strmFrame k.2)).filter fun k => decide (k.2 ≠ {}),
             epochs := x.epochs.filter fun e => residentRow s c e.1 }
  let s := forN 32 s fun n s => if spoolReg s c n = 0 then s else setSpool s c n 0 0
  if (core s c).gaf.stopped then gafStart s c else s

/-- The serving blocks' part: what the step begins with, ended handles' panes listed. A gaffer that listed records in the last
step stores COUNT 0 first (DESIGN CHOICE, log entry 65: R199 clears nothing, and R238 does not say who resets COUNT). -/
def srvFrame (s : State) : State :=
  let s := { s.listed.foldl listBegin s with listed := [] }
  (List.range 16).foldl (fun s e => if envValid s e then freeHandles (srvFrameStart s e) e else s) s

/-- What every frame's first tick does in the units. -/
def frameUnits (s : State) : State :=
  let s := forN 24 ((presentCores s).foldl coreFrame s) fun n s => fullFrame s n
  let pod := bar 0 0x110
  let s := setRf (setRf s pod 32 16 (min 65535 s.podFwd)) pod 16 16 (min 65535 s.podPost)
  let s := forN 24 s fun n s => if rg s (trnA (0x108 + 16 * n)) = 0 then s else setRf s (trnA (0x108 + 16 * n)) 32 32 0
  let stale (o : RopOp) : RopOp := if o.who = 0 then { o with who := 3 } else o
  { s with
    bseq := [], brx := (s.brx.map fun e => (e.1, e.2 / 65536 * 65536)).filter fun e => e.2 != 0
    chans := (s.chans.map fun e => (e.1, { e.2 with patDone := 0 })).filter fun e => decide (e.2 ≠ {})
    rops := s.rops.map fun e => (e.1, { e.2 with out := e.2.out.map stale, wait := e.2.wait.map stale })
    xfers := [], hfull := [], podFwd := 0, podPost := 0, fired := [], mirrorBad := [] }

/-- The next step's vote: faults found after the last one was cast, and whether it replays (R16, R34). -/
def nextVote (v : Vote) : Vote :=
  { void := v.nextVoid, confirm := v.confirm, lastCommit := v.lastCommit, replay := if v.decided then !v.lastCommit else v.replay, voidRun := v.voidRun, last := v.last }

/-- A step begins: a swap if one is scheduled, then the units, then the serving blocks. -/
def beginStep (s : State) : State := srvFrame (frameUnits (swapIfDue { s with vote := nextVote s.vote }))

/-- A launched device stops for the reheat that waits (R430): no segment starts, RUN is 0 and holds the gaffers at GAF_ENTRY (R173), no swap (Table 12-13). -/
def stopForReheat (s : State) : State :=
  let s := (presentCores s).foldl (fun s c => modGaf (setRf s (gafA c 0x000) 0 1 0) c fun g =>
    { g with pc := rf s (gafA c 0x010) 0 16, cur := rf s (gafA c 0x010) 0 16, waitTick := none }) s
  modCrl { s with halted := true } fun c => { c with nextVar := none }

/-- FRAME_START (R46, R134): at cycle phase 0 of a frame's first tick TT_STEP advances and the step begins; a device
admitted by Crownline launches here (R391). Step 0 begins at LAUNCH_TICK. -/
def execFrameStart (s : State) : Host.Outcome State Fault Refusal :=
  .next (
    if !launched s || s.phase != 0 || ttc s != frameStartT s + frameLen s then s
    else
      let s := { setRf s (ttA 0x008) 0 48 (stepNo s + 1) with shown := none }
      if startKind s = 2 ∧ stage s = 1 then stopForReheat s
      else if s.halted then s
      else if stage s = 9 then beginStep (launch (match s.crl.nextVar with | some v => copyVariant s v | none => s))
      else beginStep s)

/-- LAUNCH_TICK (R48): an armed device starts step 0 at phase 0 of tick TT_LAUNCH. -/
def execLaunchTick (s : State) : Host.Outcome State Fault Refusal :=
  .next (
    if launched s || rf s (ttA 0x018) 2 1 != 1 || s.halted || s.phase != 0 || ttc s != launchT s then s
    else beginStep (launch (setRg s (ttA 0x008) 0)))

/-! ### Pane change lists (R238, R239) -/

/-- The tags of slot index t in every copy of a stack satisfy a test. -/
def everyCopy (s : State) (k t : Nat) (f : Nat → Bool) : Bool := (List.range 64).all fun c => f (tget 0 (chan s (64 * k + c)).tags t).toNat
/-- Every copy of a tag changed. -/
def setCopies (s : State) (k t : Nat) (f : Nat → Nat) : State :=
  forN 64 s fun c s => modChan s (64 * k + c) fun x => { x with tags := tset 0 x.tags t (BitVec.ofNat 32 (f (tget 0 x.tags t).toNat)) }

/-- Fields of a pane-table entry (Table 9-1). -/
def eLoc (e : Nat) : Nat := fld e 61 3
/-- SITE. -/
def eSite (e : Nat) : Nat := fld e 40 4
/-- OWNER. -/
def eOwner (e : Nat) : Nat := fld e 0 13
/-- The tag index of the entry's slot in its stack. -/
def eTag (s : State) (e : Nat) : Nat := fld (bauArea s (eSite e) (fld e 57 3)) 32 13 + fld e 44 13

/-- The record's slot lies in this device's own stacks: tiers 1 and 2, and as the peer tier 3. -/
def ownSlot (s : State) (e : Nat) : Bool := eLoc e == 1 || eLoc e == 2 || (eLoc e == 3 && fld e 27 13 == myIx s)

/-- The field ranges of an entry (reason 5). -/
def entryRange (s : State) (home e : Nat) : Bool :=
  let cls := fld e 57 3
  if eLoc e = 0 then decide (fld e 35 6 < 60) && bitAt (bauClass s home cls) 63
  else if 4 < eLoc e then false
  else if ownSlot s e then decide (eSite e < 12) && bitAt (bauClass s (eSite e) cls) 63 && decide (fld e 44 13 < fld (bauArea s (eSite e) cls) 16 13)
  else bitAt (bauClass s home cls) 63

/-- The tag check of a record (Table 9-3). -/
def tagCheck (op : Nat) (frozen : Bool) (env owner t : Nat) : Bool :=
  let st := tagState t
  let mine := tagOwned t env owner
  match op with
  | 1 => if frozen then st == 3 && mine else st == 0 || (st == 1 && mine)
  | 2 => st == 2 && mine
  | 3 => (st == 2 || st == 3) && mine
  | _ => st == 3 && mine

/-- Why a change record fails its check, against the state as amended so far: 2 OP, 3 envelope, 5 range, 4 tag state. -/
def paneReason (s : State) (c r : Nat) : Option Nat :=
  let op := fld r 32 8
  let e := fld r 64 64
  let env := (core s c).env
  if op = 0 ∨ 4 < op then some 2
  else if envOfStream s (fld r 0 16) ≠ env then some 3
  else if !entryRange s (siteOf c) e then some 5
  else if ownSlot s e && !everyCopy s (eSite e) (eTag s e) (tagCheck op (bitAt e 60) env (eOwner e)) then some 4
  else none

/-- A tag after a record (Table 9-3). -/
def tagAfter (op : Nat) (frozen : Bool) (env owner t : Nat) : Nat :=
  match op with
  | 1 => if frozen then t else (mkTag 2 env owner).toNat
  | 2 => setFld t 29 3 3
  | 3 => if tagState t = 2 then setFld t 29 3 4 else t
  | _ => setFld t 29 3 4

/-- A change record applied (Table 9-3): the committed entry, and every copy of the tag. -/
def paneApply (s : State) (c r : Nat) : State :=
  let op := fld r 32 8
  let e := fld r 64 64
  let g := tget (0, 0) s.ranges (65536 + fld r 0 16)
  let a := g.1 + 8 * fld r 16 16
  let put (v : Nat) : State := if 8 * fld r 16 16 + 8 ≤ g.2 then storeBytes s a (leBytes 8 v) else s
  let s1 := match op with
    | 1 => put e
    | 2 => put (setFld (leNat (readBytes s.mem a 8)) 60 1 1)
    | 3 => put (7 * 2 ^ 61)
    | _ => s
  if ownSlot s e then setCopies s1 (eSite e) (eTag s e) (tagAfter op (bitAt e 60) (core s c).env (eOwner e)) else s1

/-! ### Stripe change lists (R386) -/

/-- The tag index of a parity location in a class. -/
def locTag (s : State) (cls loc : Nat) : Nat := fld (bauArea s (fld loc 13 4) cls) 32 13 + fld loc 0 13
/-- The parity locations of a stripe record in this device's stacks. -/
def ownLocs (s : State) (r : Nat) : List Nat := [fld r 64 32, fld r 96 32].filter fun l => fld l 17 13 == myIx s

/-- Why a stripe record fails: 2 OP, 3 envelope, 4 tag state. A shard of fewer than 64 slices leaves copies CLEAN (log entry
32). -/
def stripeReason (s : State) (c r : Nat) : Option Nat :=
  let z := fld r 0 16
  let cls := fld r 32 8
  let env := (core s c).env
  let good (l : Nat) : Bool :=
    let k := fld l 13 4
    decide (k < 12 ∧ cls < 8 ∧ fld l 0 13 < fld (bauArea s k cls) 16 13) &&
      (if fld r 40 8 = 1 then
        everyCopy s k (locTag s cls l) (fun t => tagState t == 0 || (tagState t == 1 && tagOwned t env z)) && !everyCopy s k (locTag s cls l) (fun t => tagState t == 0)
      else everyCopy s k (locTag s cls l) fun t => tagState t == 3 && tagOwned t env z)
  if fld r 40 8 ≠ 1 ∧ fld r 40 8 ≠ 2 then some 2
  else if envOfStream s z ≠ env then some 3
  else if (ownLocs s r).all good then none else some 4

/-- A stripe record applied: the stripe table's entry, FROZEN or DIRTY parity slots. -/
def stripeApply (s : State) (c r : Nat) : State :=
  let set := fld r 40 8 = 1
  let g := tget (0, 0) s.ranges (8 * 65536 + fld r 0 16)
  let s1 := if 16 * fld r 16 16 + 16 ≤ g.2 then storeBytes s (g.1 + 16 * fld r 16 16) (leBytes 16 (if set then setFld r 40 8 0 else 0)) else s
  (ownLocs s r).foldl (fun t l => setCopies t (fld l 13 4) (locTag s (fld r 32 8) l) fun x => if set then (mkTag 3 (core s c).env (fld r 0 16)).toNat else setFld x 29 3 4) s1

/-! ### Reading and judging the lists (R238) -/

/-- BASE and CAP of a core's list: pane changes, or stripe changes. -/
def listCfg (s : State) (stripe : Bool) (c : Nat) : Nat × Nat :=
  let a := if stripe then trnA (0xA00 + 8 * c) else bauA (siteOf c) (0x020 + 8 * (c % 5))
  (rf s a 32 16, rf s a 0 11)
/-- COUNT of a list: every core has one, of CAP 0 where its register names none (R238). -/
def listCount (s : State) (stripe : Bool) (c : Nat) : Nat := leNat (readBytes s.mem (rowAddr c (listCfg s stripe c).1) 4)
/-- Record r of a list. -/
def listRec (s : State) (stripe : Bool) (c r : Nat) : Nat :=
  leNat (readBytes s.mem (rowAddr c ((listCfg s stripe c).1 + 1 + r / 8) + 16 * (r % 8)) 16)

/-- A record that fails: core, reason, record index or COUNT, record. -/
structure Refused where
  core : Nat
  reason : Nat
  index : Nat
  rcd : Nat
deriving DecidableEq, Repr

/-- The change records of the device in order, each judged against the state that the earlier ones leave: that state, the
records refused, and how many of each site were applied. -/
def judgeLists (s : State) (stripe : Bool) : State × List Refused × List Nat :=
  let reason := if stripe then stripeReason else paneReason
  let apply := if stripe then stripeApply else paneApply
  (presentCores s).foldl (fun (acc : State × List Refused × List Nat) c =>
    let n := listCount acc.1 stripe c
    if (listCfg acc.1 stripe c).2 < n then (acc.1, acc.2.1 ++ [{ core := c, reason := 1, index := n, rcd := 0 }], acc.2.2)
    else (List.range n).foldl (fun (acc : State × List Refused × List Nat) i =>
      let r := listRec acc.1 stripe c i
      match reason acc.1 c r with
      | some k => (acc.1, acc.2.1 ++ [{ core := c, reason := k, index := i, rcd := r }], acc.2.2)
      | none => (apply acc.1 c r, acc.2.1, acc.2.2 ++ [siteOf c])) acc) (s, [], [])

/-- 0x0706 and 0x0C0D (R257, R395). -/
def raiseRefused (s : State) (stripe : Bool) (x : Refused) : State :=
  if stripe then raise s 0x0C0D 2 0x00 0 (core s x.core).env (det [(0, 1, x.core % 5), (1, 1, x.reason), (4, 4, x.index), (8, 16, x.rcd)])
  else bump (raise s 0x0706 2 0x01 (core s x.core).tile (core s x.core).env (det [(0, 1, siteOf x.core), (1, 1, x.core % 5), (2, 1, x.reason), (4, 4, x.index), (8, 16, x.rcd)])) (bauA (siteOf x.core) 0x000) 32 16

/-- The check bits of the rows a list occupies (R193). -/
def noteList (s : State) (stripe : Bool) (c : Nat) : State :=
  let l := listCfg s stripe c
  let n := listCount s stripe c
  if l.2 < n then (readChecked s c l.1).2 else forN (1 + cdiv n 8) s fun i s => (readChecked s c (l.1 + i)).2

/-- The commit engines check every list (R238, R386). -/
def checkLists (s : State) (stripe : Bool) : State :=
  let s := (presentCores s).foldl (fun s c => noteList s stripe c) s
  (judgeLists s stripe).2.1.foldl (fun s x => raiseRefused s stripe x) s

/-- The commit engines apply every list; BAU_CHG_STAT.APPLIED counts each site's records. -/
def applyLists (s : State) : State :=
  let p := judgeLists s false
  let s := forN 12 p.1 fun k s => setRf s (bauA k 0x000) 48 16 (p.2.2.filter (· == k)).length
  (judgeLists s true).1

/-! ### The commit window (R58, R150, R315, R381, R387) -/

/-- Entries left in a queue are discarded with 0x0683, whose stream is the one that fills the queue (R150, R157). -/
def leftQueues (s : State) (c : Nat) : State :=
  forN 8 s fun i s =>
    let n := (queue s c (i / 4) (i % 4)).items.length
    if n = 0 then s
    else modQueue (raiseQueue s c (if (queue s c (i / 4) (i % 4)).outbound then 0 else 2 * (i / 4) + 1) (i / 4) (i % 4) 0x0683 [(8, 1, n)]) c (i / 4) (i % 4) fun q => { q with items := [] }

/-- Parity rows left in a unit are zeroed with 0x0C0B (R387). -/
def leftParity (s : State) (n : Nat) : State :=
  let u := punit s n
  let rows := (u.counts.filter fun e => e.2 != 0).length
  if rows = 0 ∧ u.queue = [] then s
  else
    let s := bump (raise s 0x0C0B 2 0x07 n 0xFFFF (det [(2, 2, rows), (4, 2, u.queue.length)])) (trnA (0x108 + 16 * n)) 0 16
    modPunit s n fun u => { u with rows := [], counts := [], due := [], queue := [] }

/-- The token log of a stream: 4 bytes for each position the step adds (Table 14-4). -/
def tokenLog (s t : State) (e z : Nat) : List Byte :=
  (List.range (pword t z 2 - cword s z 2)).flatMap fun i =>
    let p := cword s z 2 + i
    let g := tget {} (srv s e).c.gens z
    if g.drawn && g.pos == p then leBytes 4 g.tok else (leBytes 48 (Config.mirrorItem 6 [z, p]).toNat).take 4

/-- The items of an envelope that the step's end adds to its mirror (Table 14-4). `t` is the envelope's step prepared, `u`
the same committed. -/
def mirrorEnv (s : State) (e : Nat) : State :=
  let t := srvPrepare s e
  let u := srvCommit t e
  let item (row size : Nat) (fs : List Nat) : List Byte := (leBytes 48 (Config.mirrorItem row fs).toNat).take size
  let words := (t.strmPend.filter fun x => x.2.isSome && ownsStream s e (x.1 / 16)).flatMap fun x => item 1 8 [x.1 / 16, x.1 % 16, (x.2.getD 0).toNat]
  let slots := (((t.fritDelta.map (·.1)) ++ (srv t e).p.frits.map (·.1) ++ (srv s e).c.frits.map (·.1)).eraseDups).filter fun k =>
    decide (rf s (srvA e 0x000) 12 12 ≤ k ∧ k < rf s (srvA e 0x000) 12 12 + rf s (srvA e 0x000) 24 13)
  let frits := (slots.filter fun k => tget 0 t.fritDelta k != 0 || decide (tget {} (srv t e).p.frits k ≠ tget {} (srv s e).c.frits k)).flatMap fun k =>
    item 2 8 [k, (tget {} (srv t e).p.frits k).st, wrapN 32 (tget 0 t.fritDelta k)]
  let hs := ((((srv t e).p.handles.map (·.1)) ++ (srv s e).c.handles.map (·.1)).eraseDups).filter fun k => decide (tget {} (srv t e).p.handles k ≠ tget {} (srv s e).c.handles k)
  let handles := hs.flatMap fun k => let h := tget {} (srv t e).p.handles k; item 3 48 [k, h.gen, h.len, h.users, h.expiry.getD 0]
  let lists (b : Bool) : List Byte := (envCores s e).flatMap fun c => if (listCfg s b c).2 < listCount s b c then [] else (List.range (listCount s b c)).flatMap fun i => leBytes 16 (listRec s b c i)
  let recs := (List.range 16).flatMap fun k => ((ring u e k).queue.drop (ring s e k).queue.length).flatMap fun q => leBytes 64 q.2.toNat
  let toks := (envStreams s e).flatMap fun z => tokenLog s t e z
  [(0, frameBytes s e), (1, words), (2, frits), (3, handles), (4, lists false ++ lists true), (5, recs), (6, toks)].foldl (fun s x => mirror s x.1 e x.2) s

/-- What a device does as its commit window opens (R150, R238, R296, R315, R381, R387): its gaffers have listed the panes of
what they prefill (DESIGN CHOICE, log entry 65: the rule says in the step, and not when), and it judges what is left in queues,
checks the change lists, sends its mirror and copies a scheduled variant. -/
def openWindow (s : State) : State :=
  let s := { s with vote := { s.vote with opened := true } }
  let s := (presentCores s).foldl leftQueues s
  let s := forN 24 s fun n s => leftForeground (leftParity s n) n
  let s := (List.range 16).foldl (fun s e => if envValid s e then listPrefill s e else s) s
  let s := checkLists (checkLists s false) true
  let s := (List.range 16).foldl (fun s e => if envValid s e then mirrorEnv s e else s) s
  match scheduled s with
  | some v => copyVariant (modCrl s fun c => { c with nextVar := some v }) v
  | none => s

/-- COMMIT_WINDOW_OPEN (R58, R150, R238, R315, R381, R387): at phase 0 of tick W, once. -/
def execCommitWindowOpen (s : State) : Host.Outcome State Fault Refusal :=
  .next (whenAt s 0 fun s =>
    if !planOn s || s.vote.opened || frameTick s != frameLen s - cwLen s then s else openWindow s)

/-! ### The vote (R31, R58, R344, R381) -/

/-- Mirrored items whose remote writes have not completed: envelope and item. -/
def unmirrored (s : State) : List (Nat × Nat) :=
  s.mirrorBad ++ s.rops.flatMap fun e => ((e.2.out ++ e.2.wait).filter fun o => o.who == 0).map fun o => (o.env, o.item)

/-- The faults of an incomplete mirror: 0x0B01 for ledger entries, 0x0C01 for each other item (R344, R381). -/
def raiseMirror (s : State) : State :=
  let l := unmirrored s
  let s := (List.range 16).foldl (fun s e =>
    let ls := ((l.filter fun x => x.1 == e && x.2 % 8 == 0).map fun x => x.2 / 8).eraseDups
    if ls = [] then s else raiseSrv s e 0x0B01 2 [(0, 8, minOfList ls), (8, 2, ls.length)]) s
  (List.range 8).foldl (fun s r =>
    let n := (l.filter fun x => x.2 % 8 == r).length
    if r = 0 ∨ n = 0 then s else raise s 0x0C01 2 0x00 0 0xFFFF (det [(0, 1, r), (4, 4, n)])) s
where
  /-- The least of a list. -/
  minOfList (l : List Nat) : Nat := l.tail.foldl min (l.headD 0)

/-- The vote as it stands is cast (R58). -/
def fixVote (s : State) : State :=
  let v := s.vote
  { s with vote := { v with fixed := true, castVoid := v.void, seen := v.seen || v.void, bitmap := if v.void then v.bitmap else (myIx s :: v.bitmap).eraseDups } }

/-- VOTE_FIX (R58): at W + VOTE_OFS the vote is fixed; a commit vote sets this device's bit, a void one its void flag. -/
def execVoteFix (s : State) : Host.Outcome State Fault Refusal :=
  .next (
    if !planOn s || s.vote.fixed || frameTick s != gatherOfs s then s
    else
      fixVote (raiseMirror s))

/-! ### Commit and void (R32, R34 to R36, R59, R169, R385) -/

/-- The sum of a frit slot's count and deltas (R169): below zero it becomes 0, with 0x040E at the lead core of the slot's
envelope. -/
def commitRef (s : State) (k : Nat) (d : Int) : State :=
  let n := ((tget 0 s.fritRefs k).toNat : Int) + d
  if 0 ≤ n then { s with fritRefs := tset 0 s.fritRefs k (BitVec.ofNat 32 n.toNat) }
  else
    let e := ((List.range 16).find? fun e => envValid s e && decide (rf s (srvA e 0x000) 12 12 ≤ k ∧ k < rf s (srvA e 0x000) 12 12 + rf s (srvA e 0x000) 24 13)).getD 0
    let c := (envCores s e).headD 0
    bump (raiseGaf { s with fritRefs := tset 0 s.fritRefs k 0 } c 0x040E 3 [(4, 2, k), (8, 4, wrapN 32 n)]) (gafA c 0x020) 0 16

/-- Pending words and counts become committed (R167, R169). -/
def commitTables (s : State) : State :=
  let s := { s.strmPend.foldl (fun s w => match w.2 with | some v => { s with strmTab := tset 0 s.strmTab w.1 v } | none => s) s with strmPend := [] }
  { s.fritDelta.foldl (fun s d => commitRef s d.1 d.2) s with fritDelta := [] }

/-- The twin's mirrored writes of the step are applied to its image (R381). -/
def commitTwin (s : State) : State :=
  let s := { s.twinPend.foldl (fun s w => storeBytes s w.1 w.2) s with twinPend := [] }
  if paired s then setRf s (twnA 0x008) 0 48 (stepNo s) else s

/-- Held streams recover positions in a committed step; one with none left resumes (R385). -/
def recoverHeld (s : State) : State :=
  let s := s.heldStreams.foldl (fun s z =>
    let (i, s) := freshFree s
    let n := min (tget 0 s.heldLeft z) (Config.recovered i)
    bumpBy { s with heldLeft := tset 0 s.heldLeft z (tget 0 s.heldLeft z - n) } (twnA 0x018) 0 32 n) s
  let left := s.heldStreams.filter fun z => tget 0 s.heldLeft z != 0
  if left = s.heldStreams then s else setRf { s with heldStreams := left } (twnA 0x018) 48 16 left.length

/-- Pairing commits once the images have been transferred (R391). -/
def commitPairing (s : State) (transfersDone : Bool) : State :=
  if transfersDone && rf s (twnA 0x008) 60 4 == 3 then setRf s (twnA 0x008) 60 4 1 else s

/-- The envelopes whose records are valid. -/
def validEnvs (s : State) : List Nat := (List.range 16).filter fun e => envValid s e

/-- The step commits. Until its frame ends the tables read as before (R32, R167). -/
def commitStep (s : State) (transfersDone : Bool) : State :=
  let s := { s with shown := some { strmTab := s.strmTab, fritRefs := s.fritRefs, srvs := s.srvs } }
  let s := (validEnvs s).foldl (fun s e => srvPrepare s e) s
  let s := commitTables (applyLists s)
  let s := (validEnvs s).foldl (fun s e => srvCommit s e) s
  let s := commitPairing (recoverHeld (commitTwin s)) transfersDone
  modCrl { s with vote := { s.vote with decided := true, lastCommit := true, voidRun := 0, last := stepNo s, confirm := some (stepNo s, true) }, yawRef := 0, yawCrl := 0, yawTake := 0 } fun c => { c with absent := [] }

/-- The devices of the plan that did not vote commit, as this device knows. -/
def absentees (s : State) : List Nat := (planDevices s).filter fun d => !s.vote.bitmap.contains d

/-- After four voids of the same inputs, the devices that voted void in all four are suspected, as for a missed heartbeat:
not in a fleet of two (R36, R380). -/
def suspectVoters (s : State) : State :=
  if !voting s || s.crl.absent.length < 4 then s
  else (monitored s).foldl (fun s x => if s.crl.absent.all (fun l => l.contains x) && decide (tget 0 s.crl.noVote x ≤ s.crl.win) then suspect s x (ttc s) 2 else s) s

/-- The step voids: pending effects go (R32), and the void is counted. -/
def voidStep (s : State) : State :=
  let s := (validEnvs s).foldl (fun s e => srvVoid s e) { s with strmPend := [], fritDelta := [], twinPend := [] }
  let s := bump s (ttA 0x058) 0 64
  let s := { s with vote := { s.vote with decided := true, lastCommit := false, voidRun := s.vote.voidRun + 1, confirm := some (stepNo s, false) } }
  suspectVoters (modCrl s fun c => { c with absent := (absentees s :: c.absent).take 4 })

/-- The device holds a void at the decision tick (R31, R58). -/
def holdsVoid (s : State) : Bool := s.vote.void || s.vote.seen || (absentees s).any fun _ => true

/-- DECISION_TICK (R58, R59): at W + VOTE_OFS + 2·ROUNDS·ROUND_LEN, the step commits only if the device holds no void.
`transfersDone` is whether the transfers of an attaching twin are complete (R391). -/
def execDecisionTick (transfersDone : Bool) (s : State) : Host.Outcome State Fault Refusal :=
  .next (
    if !planOn s || !s.vote.fixed || s.vote.decided || frameTick s != decisionOfs s then s
    else if holdsVoid s then voidStep s else commitStep s transfersDone)

end Sys2Proof.Machine
end

