-- ==== Sys2Proof/Machine/Moves.lean ====
section
/-!
DEFINITION. Machine/Moves.lean: the matrix engines' commands, the register moves, the memory unit, SEND and BPIPE
(R97 to R105, R144, R148, R149, R178, R181, R182).
-/
namespace Sys2Proof.Machine
open Sys2Proof

/-! ### Accumulator lines as a path (R91, R104) -/

/-- The cycles that remain of a hold of another kind on lines of a region: of MATMULs in flight for MEOUT and MEIN, of an
MEOUT that still reads them for a MATMUL. -/
def accLeft (s : State) (c me u len : Nat) (meout : Bool) : Nat :=
  ((core s c).accHolds.filter fun h => h.me == me && h.meout == meout && decide (h.u < u + len ∧ u < h.u + h.len ∧ now s < h.until_)).foldl
    (fun m h => max m (h.until_ - now s)) 0

/-- Paths and the lines of a region are taken (R91): the first path still held, or the lines, is the overlap. -/
def takeLines (s : State) (c me ix : Nat) (ps : List (Nat × Nat)) (left : Nat) : Bool × State :=
  let r := takePaths s c me ix ps
  if r.1 && decide (0 < left) then (false, raiseOverlap r.2 c me 5 ix left) else r

/-- A hold on lines is added; holds that have ended go. -/
def addHold (s : State) (c : Nat) (h : AccHold) : State :=
  modCore s c fun x => { x with accHolds := (x.accHolds.filter fun y => decide (now s < y.until_)) ++ [h] }

/-! ### Matrix engines -/

/-- MOVE.W (R98, R99): one row per cycle into a weight bank. -/
def execMoveW (h : Iss) (me : Fin 4) (cu : CU) (src : BitVec 16) (bank : Bool) (wfmt : BitVec 4) (s : State) : Host.Outcome State Fault Refusal :=
  let i := Instr.moveW h me cu src bank wfmt
  .next (issueCmd h i me.val 0 cu.cuse.toNat cu.cinc.toNat (fun skip term s =>
    let l := loadRows wfmt.toNat
    let t := now s
    runOn h me.val [(1, l), (3 + b2n bank, l)] skip s fun s =>
      startJob s (jobOf s h i term [])
        (((List.range l).map fun j => (t + j, Micro.rdRow 1 (src.toNat + term + j) 0 j)) ++ [(t + l - 1, .done)])) s)

/-- MOVE.MEIN (R104, R144): its lines take the rows in its last cycle. -/
def execMoveMein (h : Iss) (me : Fin 4) (cu : CU) (src : BitVec 16) (u lines : BitVec 9) (layout : BitVec 2) (s : State) : Host.Outcome State Fault Refusal :=
  let i := Instr.moveMein h me cu src u lines layout
  .next (issueCmd h i me.val 0 cu.cuse.toNat cu.cinc.toNat (fun skip term s =>
    let L := lines.toNat + 1
    let n := L * layoutRows layout.toNat
    let t := now s
    let r := takeLines s h.core.val me.val h.index.toNat [(0, n)] (accLeft s h.core.val me.val u.toNat (L * if layout.toNat < 2 then 1 else 4) false)
    if !r.1 || skip then r.2
    else startJob r.2 (jobOf s h i term [])
      (((List.range n).map fun j => (t + j, Micro.rdRow 0 (src.toNat + term + j) 0 j)) ++ (List.range L).map fun l => (t + n + 7, .meinLine l))) s)

/-- Crucible rows of one line in an output form (R104). -/
def formRows (form : Nat) : Nat := match form with | 0 => 4 | 1 => 2 | _ => 17

/-- MOVE.MEOUT (R104): the lines as they stand at its issue, one row written per cycle from issue + 4. A skipped or overlapped one
holds its write-back port alone: it reads no accumulator line, and so holds none (DESIGN CHOICE, log entry 70: R92 names a skipped
MATMUL's lines, and R104 an MEOUT that is still reading). -/
def execMoveMeout (h : Iss) (me : Fin 4) (cu : CU) (dst : BitVec 16) (u m : BitVec 9) (nw : Bool) (form : BitVec 2) (sat : Bool) (s : State) : Host.Outcome State Fault Refusal :=
  let i := Instr.moveMeout h me cu dst u m nw form sat
  .next (issueCmd h i me.val 0 cu.cuse.toNat cu.cinc.toNat (fun skip term s =>
    let c := h.core.val
    let L := (m.toNat + 1) * if nw then 2 else 1
    let n := L * formRows form.toNat
    let w := L * if (accUnit (core s c) me.val u.toNat).anch then 4 else 1
    let t := now s
    let r := takeLines s c me.val h.index.toNat [(2, n)] (accLeft s c me.val u.toNat w false)
    if !r.1 || skip then r.2
    else
      let j := r.2.nextJob
      let s := startJob r.2 (jobOf s h i term []) ((List.range n).map fun k => (t + 4 + k, Micro.wrRow 2 (dst.toNat + term + k) k))
      meoutPrepare (addHold s c { me := me.val, u := u.toNat, len := w, until_ := t + n, meout := true, job := j }) j) s)

/-- The weight-bank words a MATMUL reads whose parity disagrees: 0x0304, and the output tile is poisoned (R105). -/
def bankParity (s : State) (j : Nat) (o : MatmulOp) : State :=
  let x := job s j
  (x.bank.bad.filter fun w => decide (w / 32 < loadRows o.wfmt.toNat)).foldl (fun s w =>
    modJob (raise0304 s x.core o.me.val 0 w) j fun x => markCol x 1000) s

/-- MATMUL (R97 to R103): scale rows, then stream rows, one a cycle; a skipped or overlapped one is in flight too. -/
def execMatmul (h : Iss) (o : MatmulOp) (s : State) : Host.Outcome State Fault Refusal :=
  let i := Instr.matmul h o
  .next (issueCmd h i o.me.val 0 o.cu.cuse.toNat o.cu.cinc.toNat (fun skip term s =>
    let c := h.core.val
    let M := o.m.toNat + 1
    let P := mmP o
    let t := now s
    let r := takeLines s c o.me.val h.index.toNat [(0, P + M), (3 + b2n o.bank, P + M)] (accLeft s c o.me.val o.u.toNat (mmUnits o) true)
    let run := r.1 && !skip
    let j := r.2.nextJob
    let x := { jobOf s h i term [] with skip := !run, bank := tget {} (core s c).banks (2 * o.me.val + b2n o.bank) }
    let ops := if run then
        ((List.range P).map fun j => (t + j, Micro.rdRow 0 (o.scale.toNat + term + j) 1 (65536 + j))) ++
        ((List.range M).map fun i => (t + P + i, .rdRow 0 (o.sbase.toNat + term + i * o.sstride.toNat) 0 i)) ++
        (List.range M).map fun i => (t + P + i + 140, .accRow i)
      else []
    let s := startJob r.2 x (ops ++ [(t + P + M + 139, .done)])
    let s := addHold s c { me := o.me.val, u := o.u.toNat, len := mmUnits o, until_ := t + P + M + 140, meout := false, job := j }
    if run then bankParity s j o else s) s)

/-- The job of an act is a MATMUL of an engine. -/
def isMatmul (s : State) (me : Nat) (a : Act) : Bool :=
  match (job s a.job).cmd with
  | .matmul _ o => o.me.val == me
  | _ => false

/-- MATMUL_COMPLETE (R103): the last products of the tile reach their lines in this cycle. -/
def execMatmulComplete (c : Fin 60) (me : Fin 4) (p : Fin 8) (s : State) : Host.Outcome State Fault Refusal :=
  .next (whenAt s p.val fun s =>
    let mine (a : Act) : Bool := a.core == c.val && isMatmul s me.val a
    if dueAct s (fun a => mine a && a.op == .done) then fire s (fun a => mine a && (a.op == .done || match a.op with | .accRow _ => true | _ => false)) else s)

/-! ### Vector register moves (R144) -/

/-- MOVE.VLD. -/
def execMoveVld (h : Iss) (ve : Fin 2) (cu : CU) (row : BitVec 16) (reg count : BitVec 4) (s : State) : Host.Outcome State Fault Refusal :=
  let i := Instr.moveVld h ve cu row reg count
  .next (issueCmd h i (4 + ve.val) 0 cu.cuse.toNat cu.cinc.toNat (fun skip term s =>
    let n := count.toNat + 1
    let t := now s
    runOn h (4 + ve.val) [(6, n)] skip s fun s =>
      startJob s (jobOf s h i term [])
        (((List.range (2 * n)).map fun k => (t + k / 2, Micro.rdRow 3 (row.toNat + term + k) 0 k)) ++
         (List.range n).map fun k => (t + n + 1, .regWr ve.val ((reg.toNat + k) % 16) k))) s)

/-- MOVE.VST. -/
def execMoveVst (h : Iss) (ve : Fin 2) (cu : CU) (row : BitVec 16) (reg count : BitVec 4) (s : State) : Host.Outcome State Fault Refusal :=
  let i := Instr.moveVst h ve cu row reg count
  .next (issueCmd h i (4 + ve.val) 0 cu.cuse.toNat cu.cinc.toNat (fun skip term s =>
    let n := count.toNat + 1
    let t := now s
    runOn h (4 + ve.val) [(6, n)] skip s fun s =>
      startJob s (jobOf s h i term [])
        (((List.range n).map fun k => (t + k, Micro.regRd ve.val ((reg.toNat + k) % 16) 0 k)) ++
         (List.range (2 * n)).map fun k => (t + k / 2 + 2, .wrRow 3 (row.toNat + term + k) k))) s)

/-! ### Memory unit (R181, R182) -/

/-- The memory unit is taken for a time: 0x0503 where it is held. -/
def takeUnit (s : State) (c ix n : Nat) : Bool × State :=
  let left := freeAt s c 11 0 - now s
  let s1 := if 0 < left then bump (raiseTile s c 0x0503 2 [(4, 2, ix), (6, 2, left)]) (cruA c 0x008) 0 16 else s
  (decide (left = 0), holdPath s1 c 11 0 (now s + n))

/-- FILL (R182). -/
def execFill (h : Iss) (cu : CU) (dst rows : BitVec 16) (pattern : BitVec 32) (s : State) : Host.Outcome State Fault Refusal :=
  let i := Instr.fill h cu dst rows pattern
  .next (issueCmd h i 9 0 cu.cuse.toNat cu.cinc.toNat (fun skip term s =>
    let n := rows.toNat + 1
    let t := now s
    let r := takeUnit s h.core.val h.index.toNat (cdiv n 4)
    if !r.1 || skip then r.2
    else startJob r.2 (jobOf s h i term []) ((List.range n).map fun k => (t + k / 4, Micro.wrRow 6 (dst.toNat + term + k) k))) s)

/-- COPY (R182). -/
def execCopy (h : Iss) (cu : CU) (src dst rows : BitVec 16) (s : State) : Host.Outcome State Fault Refusal :=
  let i := Instr.copy h cu src dst rows
  .next (issueCmd h i 9 0 cu.cuse.toNat cu.cinc.toNat (fun skip term s =>
    let n := rows.toNat + 1
    let t := now s
    let r := takeUnit s h.core.val h.index.toNat (cdiv n 4 + 2)
    if !r.1 || skip then r.2
    else startJob r.2 (jobOf s h i term [])
      (((List.range n).map fun k => (t + k / 4, Micro.rdRow 6 (src.toNat + term + k) 0 k)) ++
       (List.range n).map fun k => (t + k / 4 + 2, .wrRow 6 (dst.toNat + term + k) k))) s)

/-! ### SEND and BPIPE (R148, R149) -/

/-- SEND (R148): the head flit in its issue cycle, then a row a cycle. -/
def execSend (h : Iss) (o : SendOp) (s : State) : Host.Outcome State Fault Refusal :=
  let i := Instr.send h o
  .next (issueCmd h i 9 0 o.cu.cuse.toNat o.cu.cinc.toNat (fun skip term s =>
    let n := o.rows.toNat
    let t := now s
    runOn h 10 [(13, n + 1)] skip s fun s =>
      startJob s (jobOf s h i term [])
        (((List.range n).map fun k => (t + k, Micro.rdRow 7 (o.src.toNat + term + k) 0 k)) ++
         (List.range (n + 1)).map fun k => (t + k, .flit k))) s)

/-- BPIPE (R149, R189). -/
def execBpipe (h : Iss) (bp : Fin 2) (cu : CU) (src : BitVec 16) (rows : BitVec 8) (q : BitVec 2) (spl : Bool) (spool : BitVec 5) (s : State) : Host.Outcome State Fault Refusal :=
  let i := Instr.bpipe h bp cu src rows q spl spool
  .next (issueCmd h i 9 0 cu.cuse.toNat cu.cinc.toNat (fun skip term s =>
    let n := rows.toNat + 1
    let t := now s
    runOn h (7 + bp.val) [(11, cdiv n 4)] skip s fun s =>
      startJob s (jobOf s h i term [])
        (((List.range n).map fun k => (t + k / 4, if spl then Micro.spPop spool.toNat k else .rdRow 5 (src.toNat + term + k) 0 k)) ++
         (List.range n).map fun k => (t + k / 4 + 2, .qPut bp.val q.toNat k))) s)

end Sys2Proof.Machine
end

