-- ==== Sys2Proof/Machine/RegMap.lean ====
section
/-!
DEFINITION. Machine/RegMap.lean: the register map (R7 to R11): what every register reads, which bits a plain write
changes, narrow and misaligned accesses, and the read window of the host functions (R402).
-/
namespace Sys2Proof.Machine
open Sys2Proof

/-! ### What the registers of each block read -/

/-- A stored 64-bit register. -/
def stored64 (s : State) (a : Nat) : Option RegView := r64 (rg s a)
/-- A stored 32-bit register. -/
def stored32 (s : State) (a : Nat) : Option RegView := r32 (rg s a)

/-- The registers of the Tether (R60). TT_COUNT_SET is write-only. -/
def ttReg (s : State) (o : Nat) : Option RegView :=
  if o ∈ [0x000, 0x008, 0x010, 0x030, 0x048, 0x050, 0x058] then stored64 s (ttA o)
  else if o = 0x038 then r64 0
  else if o ∈ [0x018, 0x01C, 0x020, 0x024, 0x028, 0x040] ∨ (0x100 ≤ o ∧ o < 0x160 ∧ o % 4 = 0) then stored32 s (ttA o)
  else if 0x200 ≤ o ∧ o < 0x300 ∧ o % 16 = 0 then stored64 s (ttA o)
  else if 0x200 ≤ o ∧ o < 0x300 ∧ o % 16 = 8 then stored32 s (ttA o)
  else none

/-- The clock registers (R60). -/
def clkReg (s : State) (o : Nat) : Option RegView :=
  if o ∈ [0x000, 0x004, 0x008] ∨ (0x100 ≤ o ∧ o < 0x100 + 32 * 19 ∧ o % 4 = 0) ∨ (0x400 ≤ o ∧ o < 0x4C0 ∧ o % 4 = 0) then stored32 s (clkA o) else none

/-- The PAR_ registers (R329). STEPPING is fixed; PAR_CTRL is write-only. -/
def parRegView (s : State) (o : Nat) : Option RegView :=
  if o ∈ [0x000, 0x010, 0x018, 0x028, 0x038] ∨ (0x040 ≤ o ∧ o < 0x0A0 ∧ o % 8 = 0) then stored64 s (parA o)
  else if o = 0x020 then r32 (setFld (rg s (parA o)) 0 8 Config.stepping.toNat)
  else if o = 0x008 then r32 0
  else if o ∈ [0x030, 0x034] then stored32 s (parA o)
  else none

/-- SRV_STAT: open streams, live handles, resident and loading frit versions, as committed. -/
def srvStatView (s : State) (e : Nat) : Nat :=
  let c := (srvSeen s e).c
  pack [(50, 14, ((envStreams s e).filter fun z => fld (seenStrm s (16 * z + 1)) 28 4 != 0).length), (33, 17, (c.handles.filter fun h => h.2.live).length),
    (20, 13, (c.frits.filter fun f => f.2.st == 2).length), (7, 13, (c.frits.filter fun f => f.2.st == 1).length)]

/-- The SRV_ registers of an envelope (R367). -/
def srvReg (s : State) (e o : Nat) : Option RegView :=
  if o < 0x028 ∧ o % 8 = 0 then stored64 s (srvA e o)
  else if o = 0x028 then r64 (srvStatView s e)
  else if o = 0x030 then r64 (srvSeen s e).nextLsn
  else if o = 0x038 then stored64 s (srvA e o)
  else if 0x040 ≤ o ∧ o < 0x0C0 ∧ o % 8 = 0 then
    let r := tget {} (srvSeen s e).rings ((o - 0x040) / 8)
    r64 (pack [(32, 32, r.nextR), (0, 32, r.nextC)])
  else none

/-- The TWN_, TRN_ and CRL_ registers (R394). -/
def twnReg (s : State) (o : Nat) : Option RegView :=
  if o < 0x020 ∧ o % 8 = 0 then stored64 s (twnA o)
  else if 0x040 ≤ o ∧ o < 0x080 ∧ o % 4 = 0 then stored32 s (twnA o) else none
/-- TRN_ registers. -/
def trnReg (s : State) (o : Nat) : Option RegView :=
  if o = 0x000 ∨ (0x100 ≤ o ∧ o < 0x280 ∧ o % 8 = 0) ∨ (0xA00 ≤ o ∧ o < 0xBE0 ∧ o % 8 = 0) then stored64 s (trnA o)
  else if 0x400 ≤ o ∧ o < 0xA00 ∧ o % 4 = 0 then stored32 s (trnA o) else none

/-- CRL_WEAR_DATA: the score of the part CRL_WEAR_SEL names, against the two thresholds (R390). -/
def wearView (s : State) : Nat :=
  let x := tget 0 s.crl.wear (rf s (crlA 0x050) 0 7)
  pack [(32, 32, x), (1, 1, b2n (decide (2 ^ rf s (crlA 0x038) 49 5 < x))), (0, 1, b2n (decide (2 ^ rf s (crlA 0x038) 54 5 < x)))]

/-- CRL_ registers. CRL_CTRL is write-only; NEXT_VARIANT is the variant that starts with the next frame. -/
def crlReg (s : State) (o : Nat) : Option RegView :=
  if o = 0x010 then r64 (setFld (rg s (crlA o)) 56 4 (s.crl.nextVar.getD (rf s (parA 0x000) 56 4)))
  else if o ∈ [0x000, 0x008, 0x018, 0x020, 0x028, 0x038, 0x040, 0x048] ∨ (0x400 ≤ o ∧ o < 0x800 ∧ o % 8 = 0) then stored64 s (crlA o)
  else if o = 0x030 then r32 0
  else if o = 0x050 then stored32 s (crlA o)
  else if o = 0x058 then r64 (wearView s)
  else none

/-- The bytes that SEC_PK_SEL.KEY selects: device public key, encapsulation key, device certificate (R458). -/
def pkBytes (s : State) (k : Nat) : List Byte :=
  match k with
  | 0 => if s.keys.isSome then devicePublic s else []
  | 1 => if s.keys.isSome then Config.mlkemPublic (kemSeed s) else []
  | 2 => s.flash.devCert
  | _ => []

/-- A field loaded from the package flash: 0 until its load completes (R11), which the model sets where a start begins (DESIGN
CHOICE, log entry 66). -/
def flashField (s : State) (v : Nat) : Nat := if startKind s = 0 then 0 else v

/-- The SEC_ registers (R458). -/
def secReg (s : State) (o : Nat) : Option RegView :=
  if o = 0x008 then r64 (pack [(32, 32, flashField s s.flash.parFloor), (0, 32, rg s (parA 0x034))])
  else if o = 0x018 then stored32 s (secA o)
  else if o = 0x020 then r64 (natAt (pkBytes s (rf s (secA 0x018) 14 2)) (8 * rf s (secA 0x018) 0 10) 8)
  else if o = 0x028 then r32 (flashField s s.flash.fwFloor)
  else if o ∈ [0x000, 0x010] ∨ (0x040 ≤ o ∧ o < 0x080 ∧ o % 8 = 0) ∨ (0x100 ≤ o ∧ o < 0x240 ∧ o % 8 = 0) ∨ (0x300 ≤ o ∧ o < 0xA00 ∧ o % 8 = 0) then stored64 s (secA o)
  else none

/-- KEL_START_CFG, from the package flash (R426, R439). -/
def startCfgView (s : State) : Nat :=
  let c := s.flash.startCfg.getD (0, 0, 0)
  pack [(16, 16, s.flash.acqWait), (12, 4, c.1), (0, 5, c.2.1)]

/-- The KEL_ registers of the root (R419, R439). -/
def kelReg (s : State) (o : Nat) : Option RegView :=
  if o = 0x000 then r32 0
  else if o = 0x008 then r32 (flashField s (wdogPeriod s))
  else if o ∈ [0x100, 0x108, 0x110] then stored64 s (kelA o)
  else if o = 0x118 then r32 (flashField s (startCfgView s))
  else if 0x180 ≤ o ∧ o < 0x1A8 ∧ o % 4 = 0 then stored32 s (kelA o)
  else none

/-- The tail-queue registers (R419); NEXT and DATA act by being read and have rows of their own. -/
def tqReg (s : State) (o : Nat) : Option RegView :=
  let p := o / 0x40
  if o % 0x40 ∈ [0x00, 0x08, 0x18] then stored64 s (tqA p (o % 0x40))
  else if o % 0x40 = 0x10 then stored32 s (tqA p 0x10)
  else if o % 0x40 = 0x20 then r64 ((tqPart s p).buf.getD (tqPart s p).pos 0).toNat
  else none

/-- The PWR_ registers (R476). -/
def pwrReg (s : State) (o : Nat) : Option RegView :=
  if o < 0x020 ∧ o % 8 = 0 then stored64 s (pwrA o)
  else if o = 0x020 then stored32 s (pwrA o)
  else if o = 0x028 then r64 (tget 0 s.accts (rf s (pwrA 0x020) 0 7)).toNat
  else if (0x040 ≤ o ∧ o < 0x058 ∧ o % 4 = 0) ∨ (0x080 ≤ o ∧ o < 0x0CC ∧ o % 4 = 0) then stored32 s (pwrA o)
  else none

/-- The root's registers. -/
def rootReg (s : State) (o : Nat) : Option RegView :=
  match o / 0x1000 with
  | 0x10 => ttReg s (o % 0x1000)
  | 0x11 => clkReg s (o % 0x1000)
  | 0x12 => parRegView s (o % 0x1000)
  | 0x14 => srvReg s (o % 0x1000 / 0x100) (o % 0x100)
  | 0x15 => twnReg s (o % 0x1000)
  | 0x16 => trnReg s (o % 0x1000)
  | 0x17 => crlReg s (o % 0x1000)
  | 0x18 => secReg s (o % 0x1000)
  | 0x19 => kelReg s (o % 0x1000)
  | 0x1A => tqReg s (o % 0x1000)
  | 0x1B => pwrReg s (o % 0x1000)
  | _ => none

/-- The DRM_ registers of a stack (R231). -/
def drmReg (s : State) (k o : Nat) : Option RegView :=
  let chs := List.range 64
  if o ∈ [0x000, 0x018, 0x028] then stored32 s (drmA k o)
  else if o = 0x030 then
    r64 (pack [(32, 32, minOf (chs.map fun c => (chan s (64 * k + c)).patPass)), (0, 22, minOf (chs.map fun c => (chan s (64 * k + c)).patPos))])
  else if 0x100 ≤ o ∧ o < 0x300 ∧ o % 8 = 0 then r64 (setFld (rg s (drmA k o)) 32 16 (min 65535 (chan s (64 * k + (o - 0x100) / 8)).actPeak))
  else if o ∈ [0x008, 0x010, 0x020, 0x038, 0x040, 0x048, 0x050] ∨ (0x400 ≤ o ∧ o < 0x480 ∧ o % 8 = 0) then stored64 s (drmA k o)
  else none

/-- The BAU_ registers of a stack (R256). -/
def bauReg (s : State) (k o : Nat) : Option RegView :=
  if o = 0x010 then stored32 s (bauA k o)
  else if o = 0x014 then r32 (tget 0 (chan s (64 * k + rf s (bauA k 0x010) 16 6)).tags (rf s (bauA k 0x010) 0 13)).toNat
  else if 0x100 ≤ o ∧ o < 0x300 ∧ o % 8 = 0 then
    let c := chan s (64 * k + (o - 0x100) / 8)
    r64 (pack [(63, 1, b2n (decide (now s < c.hold))), (48, 8, c.lastBop), (0, 32, c.ops)])
  else if o ∈ [0x000, 0x008] ∨ (0x020 ≤ o ∧ o < 0x048 ∧ o % 8 = 0) ∨ (0x080 ≤ o ∧ o < 0x100 ∧ o % 8 = 0) then stored64 s (bauA k o)
  else none

/-- BRD_SEQ_DATA: the receive record of the selected source at the router's core (R265). -/
def seqDataView (s : State) (p t : Nat) : Nat :=
  match coreAt s t with
  | none => 0
  | some c =>
    let x := tget 0 s.brx (c * 256 + rf s (brdA p t 0x020) 0 8)
    pack [(48, 1, b2n (decide (0 < x % 65536))), (32, 16, x % 65536), (0, 16, x / 65536)]

/-- The BRD_ registers of a router (R274); the sequence registers are in plane 0 at a tile with a core, and an output that
is absent has no slot table (R259). -/
def brdReg (s : State) (r o : Nat) : Option RegView :=
  let p := r / 72
  let t := r % 72
  if o = 0x000 then r64 (pack [(16, 8, t), (8, 1, p), (0, 7, brdPorts s p t)])
  else if o = 0x028 ∧ p = 0 ∧ (coreAt s t).isSome then r64 (seqDataView s p t)
  else if o ∈ [0x008, 0x010] then stored64 s (brdA p t o)
  else if (o = 0x020 ∧ p = 0 ∧ (coreAt s t).isSome) ∨ (0x1000 ≤ o ∧ o < 0x2C00 ∧ o % 4 = 0 ∧ portAt s p t ((o - 0x1000) / 0x400)) then stored32 s (brdA p t o)
  else none

/-- The LNK_ registers of a link (R309). LNK_ROP counts the operations of the link's pair. -/
def lnkReg (s : State) (n o : Nat) : Option RegView :=
  let l := link s n
  if o = 0x010 then stored32 s (lnkA n o)
  else if o = 0x028 then r64 (pack [(48, 16, l.txNext), (32, 16, (l.unacked.head?.map (·.seq)).getD l.txNext), (16, 16, l.rxNext)])
  else if o = 0x030 then r64 (pack [(32, 32, l.grantD), (0, 32, l.sentD)])
  else if o = 0x038 then r64 (pack [(32, 32, l.grantM), (0, 32, l.sentM)])
  else if o = 0x058 then r64 (setFld (rg s (lnkA n o)) 0 32 (lehrOcc l))
  else if o = 0x060 then r64 (setFld (rg s (lnkA n o)) 56 8 (if n % 2 = 0 then (rop s (n / 2)).out.length else 0))
  else if o ∈ [0x000, 0x008, 0x018, 0x020, 0x040, 0x048, 0x050] ∨ (0x4000 ≤ o ∧ o < 0xC000 ∧ o % 8 = 0) then stored64 s (lnkA n o)
  else if 0x1000 ≤ o ∧ o < 0x3000 ∧ o % 4 = 0 then stored32 s (lnkA n o)
  else none

/-! ### The functions' registers (R401) -/

/-- HST_FN_STAT. -/
def fnStatView (s : State) (f : Nat) : Nat :=
  pack [(63, 1, b2n (busMaster s f)), (62, 1, b2n (paired s)), (61, 1, b2n (launched s)), (56, 4, rf s (parA 0x000) 56 4), (0, 32, rf s (bar f 0x008) 0 32)]
/-- HST_RING_STAT_k of an envelope. -/
def ringStatView (s : State) (e k : Nat) : Nat :=
  let v := srvSeen s e
  let r := tget {} v.rings k
  pack [(63, 1, b2n r.reg), (62, 1, b2n ((tget none (srv s e).req k).isSome || (tget none v.req k).isSome)), (61, 1, rf s (twnA (0x040 + 4 * e)) k 1),
    (32, 16, tget 0 v.ringStatus k), (0, 18, r.queue.length)]
/-- HST_RANGE_STAT of an envelope. -/
def rangeStatView (s : State) (e : Nat) : Nat :=
  let v := srvSeen s e
  pack [(48, 16, v.rangeStatus), (8, 8, pack ((List.range 8).map fun r => (r, 1, b2n ((tget none (srv s e).req (16 + r)).isSome || (tget none v.req (16 + r)).isSome)))),
    (0, 8, pack ((List.range 8).map fun r => (r, 1, b2n (tget {} v.hranges r).reg)))]

/-- BAR0 of a virtual function. -/
def vfReg (s : State) (f o : Nat) : Option RegView :=
  if 0x100 ≤ o ∧ o < 0x500 then
    (match o % 0x40 with
     | 0x20 => stored32 s (bar f o)
     | 0x24 => r32 0
     | 0x28 => r64 (ringStatView s (f - 1) ((o - 0x100) / 0x40))
     | x => if x < 0x20 ∧ x % 8 = 0 then stored64 s (bar f o) else none)
  else if 0x600 ≤ o ∧ o < 0x680 ∧ o % 8 = 0 then stored64 s (bar f o)
  else if o = 0x680 then r32 0
  else if o = 0x688 then r64 (rangeStatView s (f - 1))
  else none

/-- BAR0 of the physical function. KEL_MBX_RSP and KEL_STAT are as the Keel left them. -/
def pfReg (s : State) (o : Nat) : Option RegView :=
  if o ∈ [0x100, 0x108, 0x110, 0x280, 0x300, 0x308] ∨ (0x200 ≤ o ∧ o < 0x280 ∧ o % 8 = 0) then stored64 s (bar 0 o) else none

/-- A register of a function's BAR0 (R401); HST_RWIN_DATA has a row of its own. -/
def barReg (s : State) (f o : Nat) : Option RegView :=
  if o = 0x000 then r64 (pack [(51, 13, rf s (parA 0x030) 0 13), (40, 8, Config.stepping.toNat), (32, 5, f), (28, 4, f - 1)])
  else if o = 0x008 then r64 (fnStatView s f)
  else if o = 0x010 then stored32 s (bar f o)
  else if o = 0x018 then r64 (ttc s)
  else if o = 0x020 then stored64 s (ttA 0x008)
  else if o = 0x028 then stored64 s (bar f o)
  else if o = 0x030 then r64 0
  else if 0x8000 ≤ o ∧ o < 0x8000 + 16 * (if f = 0 then 8 else 18) ∧ o % 8 = 0 then stored64 s (bar f o)
  else if o = 0x9000 then stored64 s (bar f o)
  else if f = 0 then pfReg s o else vfReg s f o

/-- The register that begins at an address (R7, R8). -/
def readReg (s : State) (a : Nat) : Option RegView :=
  let o := a % 0x10000
  let k := a / 0x10000 % 0x100
  match a / 0x1000000 with
  | 0x20000 => rootReg s (a % 0x1000000)
  | 0x20001 => if k < 60 then coreReg s k o else none
  | 0x20002 => if k < 12 then drmReg s k o else none
  | 0x20003 => if k < 12 then bauReg s k o else none
  | 0x20004 => if k < 144 then brdReg s k o else none
  | 0x20005 => if k < 24 then lnkReg s k o else none
  | 0x1000000 => if k ≤ 16 then barReg s k o else none
  | _ => none

/-! ### Narrow and misaligned accesses (R8) -/

/-- The base of the block that owns an address: 4 KiB in a core's block and in the root's, 64 KiB elsewhere. -/
def blockOf (a : Nat) : Nat := if a / 0x1000000 = 0x20000 ∨ a / 0x1000000 = 0x20001 then a / 0x1000 * 0x1000 else a / 0x10000 * 0x10000
/-- The owning block counts an access it does not serve. -/
def countNarrow (s : State) (a : Nat) : State := { s with narrow := tset 0 s.narrow (blockOf a) (tget 0 s.narrow (blockOf a) + 1) }

/-- An access of some width at an address covers a register whole. -/
def wholeReg (s : State) (a bytes : Nat) : Bool := match readReg s a with | some r => r.w == 8 * bytes | none => false
/-- An access begins in some register. -/
def meetsReg (s : State) (a : Nat) : Bool := (readReg s (a / 8 * 8)).isSome || (readReg s (a / 4 * 4)).isSome

/-- MISALIGNED_REGISTER_READ (R8): all zeros, no effect, counted. A read of a register's own width at its own address is
no such read; nor is one that lies in no register. -/
def execMisalignedRegisterRead (addr : BitVec 64) (bytes : BitVec 8) (s : State) : Host.Outcome State Fault Refusal :=
  .next (
    let a := addr.toNat
    if wholeReg s a bytes.toNat || !meetsReg s a then s else emit (countNarrow s a) (.regData 0 a 0))

/-! ### Plain writes (R9, R10) -/

/-- The bits of a register that a write stores, and those it clears by a 1, of the registers whose writes have no row of
their own. -/
def writeBits (a : Nat) : Nat × Nat :=
  let o := a % 0x10000
  let k := a / 0x10000 % 0x100
  let w (lo n : Nat) : Nat := (2 ^ n - 1) * 2 ^ lo
  let page := w 12 52
  match a / 0x1000000 with
  | 0x20000 =>
    if 0x10200 ≤ a % 0x1000000 ∧ a % 0x1000000 < 0x10300 ∧ a % 16 = 8 then (w 0 1, w 1 2)
    else if a = crlA 0x050 ∨ a = pwrA 0x020 then (w 0 7, 0)
    else if a = secA 0x018 then (w 14 2 + w 0 10, 0)
    else if tqA 0 0 ≤ a ∧ a < tqA 64 0 ∧ a % 0x40 = 0x10 then (w 29 1 + w 0 13, w 30 1)
    else (0, 0)
  | 0x20001 => if k < 60 ∧ o = 0x3000 then (w 0 1, 0) else (0, 0)
  | 0x20003 => if k < 12 ∧ o = 0x010 then (w 16 6 + w 0 13, 0) else (0, 0)
  | 0x20004 => if k < 144 ∧ o = 0x020 then (w 0 8, 0) else (0, 0)
  | 0x20005 => if k < 24 ∧ o = 0x010 then (w 28 4 + w 0 23, 0) else (0, 0)
  | 0x1000000 =>
    if 16 < k then (0, 0)
    else if o = 0x010 then (0, w 0 32)
    else if o = 0x028 then (w 3 45, 0)
    else if 0x8000 ≤ o ∧ o < 0x8000 + 16 * (if k = 0 then 8 else 18) then (if o % 16 = 0 then (w 0 64, 0) else if o % 16 = 8 then (w 0 33, 0) else (0, 0))
    else if k = 0 then
      (if 0x200 ≤ o ∧ o < 0x240 ∧ o % 8 = 0 then (w 0 64, 0) else if o = 0x300 then (page, 0) else if o = 0x308 then (w 0 40, 0) else (0, 0))
    else if 0x100 ≤ o ∧ o < 0x500 then
      (match o % 0x40 with
       | 0x00 => (page, 0) | 0x08 => (page, 0) | 0x10 => (w 3 61, 0) | 0x18 => (w 3 61, 0) | 0x20 => (w 8 5 + w 0 5, 0) | _ => (0, 0))
    else if 0x600 ≤ o ∧ o < 0x680 then (if o % 16 = 0 then (page, 0) else if o % 16 = 8 then (w 60 4 + w 0 36, 0) else (0, 0))
    else (0, 0)
  | _ => (0, 0)

/-- Configuration-space bits the model holds (log entry 12): bus mastering, VF Enable and NumVFs. -/
def cfgBits (a : Nat) : Nat :=
  let o := a % 0x1000
  let f := (a - cfgA 0 0) / 0x1000
  if a < cfgA 0 0 ∨ 16 < f then 0 else if o = 0x004 then 4 else if f = 0 ∧ o = 0x108 then 1 else if f = 0 ∧ o = 0x110 then 0xFFFF else 0

/-- The value a write leaves: stored bits are replaced, W1C bits written 1 are cleared, all others stand (R9, R10). -/
def writeValue (old v rw w1c : Nat) : Nat := (old &&& (2 ^ 64 - 1 - (rw ||| (v &&& w1c)))) ||| (v &&& rw)

/-- What a write to a register that read `old` does beside storing: RUN = 0 holds the gaffer at GAF_ENTRY, and RUN = 1
lets a gaffer so held start in the next cycle (R173); clearing the mask of a pending
vector sends its message (R408); an alarm comparator that the ownership table gives to no feature stays disabled (R320). -/
def afterWrite (s : State) (a old : Nat) : State :=
  let o := a % 0x10000
  let k := a / 0x10000 % 0x100
  if a / 0x1000000 = 0x20001 ∧ o = 0x3000 then
    (if bitAt (rg s a) 0 then (if bitAt old 0 then s else modCore s k fun x => { x with gaf := { x.gaf with at_ := now s + 1 } })
     else modCore s k fun x => { x with gaf := { x.gaf with pc := rf s (gafA k 0x010) 0 16, cur := rf s (gafA k 0x010) 0 16, waitTick := none, at_ := now s + 1 } })
  else if a / 0x1000000 = 0x1000000 ∧ 0x8000 ≤ o ∧ o < 0x9000 ∧ o % 16 = 8 then
    (let v := (o - 0x8000) / 16
     if !bitAt (rg s a) 32 && bitAt (rg s (bar k 0x9000)) v && hostReach s k then msixSend (setRf s (bar k 0x9000) v 1 0) k v else s)
  else if ttA 0x208 ≤ a ∧ a < ttA 0x308 ∧ a % 16 = 8 ∧ alarmOwned s ((a - ttA 0x208) / 16) = false then setRf s a 0 1 0
  else s

/-- REGISTER_WRITE (R8 to R10): a register without a write behaviour of its own takes the bits its access codes allow; a
write that does not cover a register whole is narrower or misaligned: ignored, and counted if it meets one. -/
def execRegisterWrite (addr : BitVec 64) (w : RegWrite) (s : State) : Host.Outcome State Fault Refusal :=
  .next (
    let a := addr.toNat
    if cfgBits a ≠ 0 then setRg s a (writeValue (rg s a) w.value.toNat (cfgBits a) 0)
    else if !wholeReg s a w.bytes.toNat then (if meetsReg s a then countNarrow s a else s)
    else
        let b := writeBits a
        if b = (0, 0) then s else afterWrite (setRg s a (writeValue (rg s a) w.value.toNat b.1 b.2)) a (rg s a))

/-! ### The read window (R402) -/

/-- Registers that act by being read, and KEL_WDOG, which only the Keel may access. -/
def keelOnly (a : Nat) : Bool := a == kelA 0x000 || a == kelA 0x008 || (decide (tqA 0 0 ≤ a ∧ a < tqA 64 0))

/-- A virtual function's window shows its envelope's block, the TT_ and PAR_ blocks, and the blocks of its own cores. -/
def vfSees (s : State) (e a : Nat) : Bool :=
  decide (srvA e 0 ≤ a ∧ a < srvA e 0x100) || decide (ttA 0 ≤ a ∧ a < ttA 0x1000) || decide (parA 0 ≤ a ∧ a < parA 0x1000) ||
    (a / 0x1000000 == 0x20001 && a % 0x10000 / 0x1000 != 2 && (envCores s e).contains (a / 0x10000 % 0x100))

/-- RWIN_READ (R402). -/
def execRwinRead (fn : Fin 17) (s : State) : Host.Outcome State Fault Refusal :=
  .next (
    let f := fn.val
    let a := rf s (bar f 0x028) 0 48
    let seen := if f = 0 then decide (0x020000000000 ≤ a) && !keelOnly a else vfSees s (f - 1) a
    match (if seen then readReg s a else none) with
    | some r => emit s (.regData f a r.v)
    | none => emit (bump s (bar f 0x008) 16 16) (.regData f a 0))

end Sys2Proof.Machine
end

