-- ==== Sys2Proof/Machine/Root.lean ====
section
/-!
DEFINITION. Machine/Root.lean: the two arrivals whose contents go on to other blocks: a management packet, by the type
byte of its payload (R282, R50, R371, R409, R449), and the completion of a host read, by the number of the read
(R334, R401, R406, R409, R412).
-/
namespace Sys2Proof.Machine
open Sys2Proof

/-- What a handler of a contained message leaves: the state it answers, or the state before where the message has operands
that no sender forms. -/
def after (s : State) : Host.Outcome State Fault Refusal → State
  | .next t => t
  | _ => s

/-- A management payload goes to the block of its type (Tables 2-2, 14-1, 15-6A; R449); a type of none is ignored. The
synchronisation messages, types 1 and 2, travel as KIND 3 and have rows of their own. -/
def mgmtDeliver (s : State) (n : Fin 24) (rows : List Row) : State :=
  let x := mgmtNat rows
  let c := crlOf rows
  match fld x 0 8 with
  | 0x03 => after s (execVoteGather n (mgmtOf rows) s)
  | 0x04 => if (mgmtOf rows).exchange = 1 then after s (execConfirmReceive n (mgmtOf rows) s) else after s (execVoteDecide n (mgmtOf rows) s)
  | 0x10 => after s (execHeartbeat n c s)
  | 0x11 => after s (execVote n (BitVec.ofNat 3 (roundOf s c.v.toNat - 1)) c s)
  | 0x12 => after s (execDecide n c s)
  | 0x13 => after s (execEvent n c s)
  | 0x14 => after s (execClaimMessage n c s)
  | 0x20 => after s (execRelaySub n (relayOf rows) s)
  | 0x21 => after s (execRelayPost n (relayOf rows) s)
  | 0x22 => after s (execRelayWord n (relayOf rows) s)
  | 0x30 => after s (execSecchk n (BitVec.ofNat 16 (fld x 16 16)) (BitVec.ofNat 16 (fld x 32 16)) (BitVec.ofNat 64 (fld x 64 64)) (BitVec.ofNat 32 (fld x 128 32)) (BitVec.ofNat 32 (fld x 160 32)) s)
  | _ => s

/-- The root takes the payloads that have crossed to it by the end of the tick (R44), in the order of their arrival. -/
def rootTake (s : State) : State :=
  let due := s.rootIn.filter fun m => decide (m.1 ≤ now s)
  due.foldl (fun s m => mgmtDeliver s m.2.1 m.2.2) { s with rootIn := s.rootIn.filter fun m => decide (now s < m.1) }

/-- TICK (R46): the tick's remaining cycles are carried out, the root takes what has reached it, and the counts advance. -/
def execTick (us : List Upset) (s : State) : Host.Outcome State Fault Refusal :=
  .next (us.foldl upset (nextTick (rootTake (finishTick s))))

/-- MGMT_PACKET (R44, R283, R284, R288): accepted in sequence, its buffer freed on delivery; the payload crosses from the
link group to the root, where it can be read four cycles later. -/
def execMgmtPacket (n : Fin 24) (p : Fin 8) (seq : BitVec 16) (r0 r1 : Row) (s : State) : Host.Outcome State Fault Refusal :=
  .next (whenAt s p.val fun s =>
    if !lnkUp s n.val then s
    else
      let (ok, s) := seqTake s n.val seq.toNat
      if ok then { freeMgmt s n.val 16 with rootIn := s.rootIn ++ [(now s + 4, n, [r0, r1])] } else s)

/-- The length of the read of host memory with a number, as it was sent. -/
def readLen (s : State) (tag : Nat) : Option Nat :=
  s.sent.foldl (fun a o => match o with | .hostRead t _ _ len => if t = tag then some len else a | _ => a) none

/-- HOST_READ_COMPLETION (R401): data or an error for an outstanding read; a completion of no outstanding read changes
nothing. Data of another length than the read asked for is no completion of it. -/
def execHostReadCompletion (tag : Nat) (d : Option (List Byte)) (s : State) : Host.Outcome State Fault Refusal :=
  if d.any (fun b => readLen s tag != some b.length) then .fault (.illFormed "HOST_READ_COMPLETION")
  else .next (
    if tag < 2 ^ 28 then s
    else if tag < 2 ^ 29 then snapRead s ((tag - 2 ^ 28) / 65536) tag d
    else if tag < 2 ^ 40 then s
    else if tag < 2 ^ 41 then relayRead s tag d
    else if tag < 2 ^ 42 then xferRead s tag d
    else copyIn s tag d)

end Sys2Proof.Machine
end

