-- ==== Sys2Proof/Machine/Dispatch.lean ====
section
/-!
DEFINITION. Machine/Dispatch.lean: one arm per command, in the order of Instr, each one call of its meaning.
-/
namespace Sys2Proof.Machine
open Sys2Proof

def exec (i : Instr) (s : State) : Host.Outcome State Fault Refusal :=
  match i with
  | .tick upsets => Sys2Proof.Machine.execTick upsets s
  | .tsyncCapture pinB phase err => Sys2Proof.Machine.execTsyncCapture pinB phase err s
  | .frameStart => Sys2Proof.Machine.execFrameStart s
  | .launchTick => Sys2Proof.Machine.execLaunchTick s
  | .commitWindowOpen => Sys2Proof.Machine.execCommitWindowOpen s
  | .voteFix => Sys2Proof.Machine.execVoteFix s
  | .gatherRound => Sys2Proof.Machine.execGatherRound s
  | .voteGather link msg => Sys2Proof.Machine.execVoteGather link msg s
  | .decideRound => Sys2Proof.Machine.execDecideRound s
  | .voteDecide link msg => Sys2Proof.Machine.execVoteDecide link msg s
  | .decisionTick transfersDone => Sys2Proof.Machine.execDecisionTick transfersDone s
  | .confirmSend link => Sys2Proof.Machine.execConfirmSend link s
  | .confirmReceive link msg => Sys2Proof.Machine.execConfirmReceive link msg s
  | .syncExchangeStart link phase => Sys2Proof.Machine.execSyncExchangeStart link phase s
  | .syncReq link phase msg => Sys2Proof.Machine.execSyncReq link phase msg s
  | .syncResp link phase msg => Sys2Proof.Machine.execSyncResp link phase msg s
  | .acqStart => Sys2Proof.Machine.execAcqStart s
  | .acquisitionTimeout => Sys2Proof.Machine.execAcquisitionTimeout s
  | .ttCountSetWrite v => Sys2Proof.Machine.execTtCountSetWrite v s
  | .ttLaunchWrite v => Sys2Proof.Machine.execTtLaunchWrite v s
  | .alarmWrite n v => Sys2Proof.Machine.execAlarmWrite n v s
  | .alarmFire n => Sys2Proof.Machine.execAlarmFire n s
  | .referenceLoss input => Sys2Proof.Machine.execReferenceLoss input s
  | .holdoverTimeout => Sys2Proof.Machine.execHoldoverTimeout s
  | .pllUnlock region => Sys2Proof.Machine.execPllUnlock region s
  | .telltaleSample site inst margin => Sys2Proof.Machine.execTelltaleSample site inst margin s
  | .crossingAlignment region port trials => Sys2Proof.Machine.execCrossingAlignment region port trials s
  | .segmentStart core strm => Sys2Proof.Machine.execSegmentStart core strm s
  | .nop h => Sys2Proof.Machine.execNop h s
  | .segEnd h => Sys2Proof.Machine.execSegEnd h s
  | .segLoop h level target count => Sys2Proof.Machine.execSegLoop h level target count s
  | .segArm h nf ix tick => Sys2Proof.Machine.execSegArm h nf ix tick s
  | .attick h tick => Sys2Proof.Machine.execAttick h tick s
  | .attickComplete core strm => Sys2Proof.Machine.execAttickComplete core strm s
  | .setcCounter h tgt j value limit stride => Sys2Proof.Machine.execSetcCounter h tgt j value limit stride s
  | .setcComparator h tgt cmp en ctr rel pred value => Sys2Proof.Machine.execSetcComparator h tgt cmp en ctr rel pred value s
  | .setcDescriptor h tgt ix value => Sys2Proof.Machine.execSetcDescriptor h tgt ix value s
  | .setcCcount h k value => Sys2Proof.Machine.execSetcCcount h k value s
  | .waitc h k n deadline => Sys2Proof.Machine.execWaitc h k n deadline s
  | .waitcComplete core phase => Sys2Proof.Machine.execWaitcComplete core phase s
  | .waitcMissed core => Sys2Proof.Machine.execWaitcMissed core s
  | .waitq h bp q n deadline => Sys2Proof.Machine.execWaitq h bp q n deadline s
  | .waitqComplete core phase => Sys2Proof.Machine.execWaitqComplete core phase s
  | .waitqMissed core strm => Sys2Proof.Machine.execWaitqMissed core strm s
  | .bpipe h bp cu src rows q spl spool => Sys2Proof.Machine.execBpipe h bp cu src rows q spl spool s
  | .send h o => Sys2Proof.Machine.execSend h o s
  | .fill h cu dst rows pattern => Sys2Proof.Machine.execFill h cu dst rows pattern s
  | .copy h cu src dst rows => Sys2Proof.Machine.execCopy h cu src dst rows s
  | .moveW h me cu src bank wfmt => Sys2Proof.Machine.execMoveW h me cu src bank wfmt s
  | .moveMein h me cu src u lines layout => Sys2Proof.Machine.execMoveMein h me cu src u lines layout s
  | .moveMeout h me cu dst u m nw form sat => Sys2Proof.Machine.execMoveMeout h me cu dst u m nw form sat s
  | .moveVld h ve cu row reg count => Sys2Proof.Machine.execMoveVld h ve cu row reg count s
  | .moveVst h ve cu row reg count => Sys2Proof.Machine.execMoveVst h ve cu row reg count s
  | .matmul h o => Sys2Proof.Machine.execMatmul h o s
  | .matmulComplete core me phase => Sys2Proof.Machine.execMatmulComplete core me phase s
  | .transpose h cu src dst nt w => Sys2Proof.Machine.execTranspose h cu src dst nt w s
  | .permute h cu src dst n idx limit => Sys2Proof.Machine.execPermute h cu src dst n idx limit s
  | .im2col h cu src dst param => Sys2Proof.Machine.execIm2col h cu src dst param s
  | .topk h cu src dst r nb logk param => Sys2Proof.Machine.execTopk h cu src dst r nb logk param s
  | .dispatch h o => Sys2Proof.Machine.execDispatch h o s
  | .combine h o => Sys2Proof.Machine.execCombine h o s
  | .vadd h o => Sys2Proof.Machine.execVadd h o s
  | .vsub h o => Sys2Proof.Machine.execVsub h o s
  | .vmul h o => Sys2Proof.Machine.execVmul h o s
  | .vfma h o => Sys2Proof.Machine.execVfma h o s
  | .vmax h o => Sys2Proof.Machine.execVmax h o s
  | .vmin h o => Sys2Proof.Machine.execVmin h o s
  | .viadd h o => Sys2Proof.Machine.execViadd h o s
  | .visub h o => Sys2Proof.Machine.execVisub h o s
  | .vimul h o => Sys2Proof.Machine.execVimul h o s
  | .vand h o => Sys2Proof.Machine.execVand h o s
  | .vor h o => Sys2Proof.Machine.execVor h o s
  | .vxor h o => Sys2Proof.Machine.execVxor h o s
  | .vshl h o => Sys2Proof.Machine.execVshl h o s
  | .vshr h o => Sys2Proof.Machine.execVshr h o s
  | .vcmpsel h o => Sys2Proof.Machine.execVcmpsel h o s
  | .vexp h o => Sys2Proof.Machine.execVexp h o s
  | .vrecip h o => Sys2Proof.Machine.execVrecip h o s
  | .vrsqrt h o => Sys2Proof.Machine.execVrsqrt h o s
  | .vcvt h o => Sys2Proof.Machine.execVcvt h o s
  | .vtomx h o => Sys2Proof.Machine.execVtomx h o s
  | .vacomb h o => Sys2Proof.Machine.execVacomb h o s
  | .vamerge h o => Sys2Proof.Machine.execVamerge h o s
  | .vrsum h o => Sys2Proof.Machine.execVrsum h o s
  | .vrmax h o => Sys2Proof.Machine.execVrmax h o s
  | .vscan h o => Sys2Proof.Machine.execVscan h o s
  | .vrng h o => Sys2Proof.Machine.execVrng h o s
  | .vsample h o => Sys2Proof.Machine.execVsample h o s
  | .commandScrubVisit core mem phase => Sys2Proof.Machine.execCommandScrubVisit core mem phase s
  | .rd h o => Sys2Proof.Machine.execRd h o s
  | .rdEntryArrival core bp q phase => Sys2Proof.Machine.execRdEntryArrival core bp q phase s
  | .wr h o => Sys2Proof.Machine.execWr h o s
  | .gather h o => Sys2Proof.Machine.execGather h o s
  | .bauq h q ch count ofs => Sys2Proof.Machine.execBauq h q ch count ofs s
  | .bauNop h o => Sys2Proof.Machine.execBauNop h o s
  | .attend h o => Sys2Proof.Machine.execAttend h o s
  | .attendDelivery core bp q phase => Sys2Proof.Machine.execAttendDelivery core bp q phase s
  | .kvput h o => Sys2Proof.Machine.execKvput h o s
  | .pcopy h o => Sys2Proof.Machine.execPcopy h o s
  | .pzero h o => Sys2Proof.Machine.execPzero h o s
  | .slout h o => Sys2Proof.Machine.execSlout h o s
  | .slin h o => Sys2Proof.Machine.execSlin h o s
  | .dlv h bu q count dst => Sys2Proof.Machine.execDlv h bu q count dst s
  | .dlvs h q count spool => Sys2Proof.Machine.execDlvs h q count spool s
  | .drop h q count => Sys2Proof.Machine.execDrop h q count s
  | .bpWaitq h q n deadline => Sys2Proof.Machine.execBpWaitq h q n deadline s
  | .bpWaitqComplete core strm phase => Sys2Proof.Machine.execBpWaitqComplete core strm phase s
  | .refreshStart stack chan bank => Sys2Proof.Machine.execRefreshStart stack chan bank s
  | .deferredRefresh stack chan => Sys2Proof.Machine.execDeferredRefresh stack chan s
  | .activationWindowStart stack => Sys2Proof.Machine.execActivationWindowStart stack s
  | .patrolRead stack chan phase => Sys2Proof.Machine.execPatrolRead stack chan phase s
  | .stackTemperatureReading stack celsius => Sys2Proof.Machine.execStackTemperatureReading stack celsius s
  | .scrubPair core phase => Sys2Proof.Machine.execScrubPair core phase s
  | .marverFillRead core entry phase => Sys2Proof.Machine.execMarverFillRead core entry phase s
  | .marverWriteBack core entry phase => Sys2Proof.Machine.execMarverWriteBack core entry phase s
  | .marverWindowClose core => Sys2Proof.Machine.execMarverWindowClose core s
  | .keelCrucibleAccess addr write data => Sys2Proof.Machine.execKeelCrucibleAccess addr write data s
  | .gafferInstruction core phase => Sys2Proof.Machine.execGafferInstruction core phase s
  | .gafferCrucibleStore core phase addr size value => Sys2Proof.Machine.execGafferCrucibleStore core phase addr size value s
  | .gafferCrucibleLoad core phase rd addr size signed => Sys2Proof.Machine.execGafferCrucibleLoad core phase rd addr size signed s
  | .csrAccess core phase f3 csr rd rs1 => Sys2Proof.Machine.execCsrAccess core phase f3 csr rd rs1 s
  | .segarm core phase rd rs1 rs2 => Sys2Proof.Machine.execSegarm core phase rd rs1 rs2 s
  | .predw core phase rs1 rs2 => Sys2Proof.Machine.execPredw core phase rs1 rs2 s
  | .predr core phase rd => Sys2Proof.Machine.execPredr core phase rd s
  | .strld core phase rd rs1 word => Sys2Proof.Machine.execStrld core phase rd rs1 word s
  | .strst core phase rs1 rs2 word => Sys2Proof.Machine.execStrst core phase rs1 rs2 word s
  | .frcadd core phase rs1 rs2 => Sys2Proof.Machine.execFrcadd core phase rs1 rs2 s
  | .frcld core phase rd rs1 => Sys2Proof.Machine.execFrcld core phase rd rs1 s
  | .waittk core phase rs1 => Sys2Proof.Machine.execWaittk core phase rs1 s
  | .waittkComplete core => Sys2Proof.Machine.execWaittkComplete core s
  | .gafferScrubVisit core data phase => Sys2Proof.Machine.execGafferScrubVisit core data phase s
  | .engResInjectWrite core host v => Sys2Proof.Machine.execEngResInjectWrite core host v s
  | .bridleFlitReceive plane tile port phase flip side => Sys2Proof.Machine.execBridleFlitReceive plane tile port phase flip side s
  | .plannedStart link start => Sys2Proof.Machine.execPlannedStart link start s
  | .dataPacket link phase h row0 row1 => Sys2Proof.Machine.execDataPacket link phase h row0 row1 s
  | .mgmtPacket link phase seq row0 row1 => Sys2Proof.Machine.execMgmtPacket link phase seq row0 row1 s
  | .lehrRelease link phase => Sys2Proof.Machine.execLehrRelease link phase s
  | .parityRowForward link start => Sys2Proof.Machine.execParityRowForward link start s
  | .linkctl link phase ack credData credMgmt => Sys2Proof.Machine.execLinkctl link phase ack credData credMgmt s
  | .nak link phase ack credData credMgmt => Sys2Proof.Machine.execNak link phase ack credData credMgmt s
  | .linkctlTimer link phase => Sys2Proof.Machine.execLinkctlTimer link phase s
  | .replayTimeout link phase => Sys2Proof.Machine.execReplayTimeout link phase s
  | .retrain link phase => Sys2Proof.Machine.execRetrain link phase s
  | .widthReq link phase width sel => Sys2Proof.Machine.execWidthReq link phase width sel s
  | .widthAck link phase => Sys2Proof.Machine.execWidthAck link phase s
  | .widthGo link phase width sel => Sys2Proof.Machine.execWidthGo link phase width sel s
  | .ident link phase device number => Sys2Proof.Machine.execIdent link phase device number s
  | .codewordTimeout link phase => Sys2Proof.Machine.execCodewordTimeout link phase s
  | .retrainAttemptTimeout link => Sys2Proof.Machine.execRetrainAttemptTimeout link s
  | .linkRejoin link => Sys2Proof.Machine.execLinkRejoin link s
  | .lnkCtrlWidthGo link width sel tick => Sys2Proof.Machine.execLnkCtrlWidthGo link width sel tick s
  | .widthTick link => Sys2Proof.Machine.execWidthTick link s
  | .rwrite link phase m => Sys2Proof.Machine.execRwrite link phase m s
  | .rread link phase m => Sys2Proof.Machine.execRread link phase m s
  | .rresp link phase m => Sys2Proof.Machine.execRresp link phase m s
  | .ropDeadline pair rwseq => Sys2Proof.Machine.execRopDeadline pair rwseq s
  | .ranging link => Sys2Proof.Machine.execRanging link s
  | .failedPacket link phase cause sync => Sys2Proof.Machine.execFailedPacket link phase cause sync s
  | .intakeSnapshot env => Sys2Proof.Machine.execIntakeSnapshot env s
  | .snapshotReadTimeout env => Sys2Proof.Machine.execSnapshotReadTimeout env s
  | .posting env => Sys2Proof.Machine.execPosting env s
  | .postingTimeout env completed => Sys2Proof.Machine.execPostingTimeout env completed s
  | .open_ env lsn modelOk => Sys2Proof.Machine.execOpen env lsn modelOk s
  | .append env lsn room => Sys2Proof.Machine.execAppend env lsn room s
  | .set_ env lsn => Sys2Proof.Machine.execSet env lsn s
  | .keep env lsn => Sys2Proof.Machine.execKeep env lsn s
  | .release env lsn => Sys2Proof.Machine.execRelease env lsn s
  | .trim env lsn => Sys2Proof.Machine.execTrim env lsn s
  | .close env lsn => Sys2Proof.Machine.execClose env lsn s
  | .fritLoad env lsn modelOk slotBytes addr => Sys2Proof.Machine.execFritLoad env lsn modelOk slotBytes addr s
  | .fritReplace env lsn modelOk slotBytes addr => Sys2Proof.Machine.execFritReplace env lsn modelOk slotBytes addr s
  | .fritRetire env lsn => Sys2Proof.Machine.execFritRetire env lsn s
  | .query env lsn => Sys2Proof.Machine.execQuery env lsn s
  | .tokenSample env stream logits stops noPane => Sys2Proof.Machine.execTokenSample env stream logits stops noPane s
  | .heartbeatSend => Sys2Proof.Machine.execHeartbeatSend s
  | .heartbeat link m => Sys2Proof.Machine.execHeartbeat link m s
  | .heartbeatWindowEnd => Sys2Proof.Machine.execHeartbeatWindowEnd s
  | .voteRound subject => Sys2Proof.Machine.execVoteRound subject s
  | .vote link round m => Sys2Proof.Machine.execVote link round m s
  | .crownlineDecision subject => Sys2Proof.Machine.execCrownlineDecision subject s
  | .decide_ link m => Sys2Proof.Machine.execDecide link m s
  | .event link m => Sys2Proof.Machine.execEvent link m s
  | .claimMessage link m => Sys2Proof.Machine.execClaimMessage link m s
  | .actionTick => Sys2Proof.Machine.execActionTick s
  | .wearUpdate => Sys2Proof.Machine.execWearUpdate s
  | .crlCtrlPromote => Sys2Proof.Machine.execCrlCtrlPromote s
  | .crlCtrlClaim => Sys2Proof.Machine.execCrlCtrlClaim s
  | .relayForward member env ring head sub log2 => Sys2Proof.Machine.execRelayForward member env ring head sub log2 s
  | .relaySub link m => Sys2Proof.Machine.execRelaySub link m s
  | .relayPost link m => Sys2Proof.Machine.execRelayPost link m s
  | .relayWord link m => Sys2Proof.Machine.execRelayWord link m s
  | .secchk link sender dest plan par fw => Sys2Proof.Machine.execSecchk link sender dest plan par fw s
  | .hostWindowStart stack w => Sys2Proof.Machine.execHostWindowStart stack w s
  | .inboundTransferStart stack w desc => Sys2Proof.Machine.execInboundTransferStart stack w desc s
  | .transferDeadline stack w desc => Sys2Proof.Machine.execTransferDeadline stack w desc s
  | .ringReg env ring => Sys2Proof.Machine.execRingReg env ring s
  | .ringUnreg env ring => Sys2Proof.Machine.execRingUnreg env ring s
  | .rangeReg env range => Sys2Proof.Machine.execRangeReg env range s
  | .rangeUnreg env range => Sys2Proof.Machine.execRangeUnreg env range s
  | .rwinRead fn => Sys2Proof.Machine.execRwinRead fn s
  | .functionLevelReset fn => Sys2Proof.Machine.execFunctionLevelReset fn s
  | .ucieLaneRepair module lane => Sys2Proof.Machine.execUcieLaneRepair module lane s
  | .uciePairFailure pair => Sys2Proof.Machine.execUciePairFailure pair s
  | .ucieLinkDown => Sys2Proof.Machine.execUcieLinkDown s
  | .hostReadCompletion tag data => Sys2Proof.Machine.execHostReadCompletion tag data s
  | .msiXUnmask fn vector => Sys2Proof.Machine.execMsiXUnmask fn vector s
  | .mailboxPoll torn => Sys2Proof.Machine.execMailboxPoll torn s
  | .report => Sys2Proof.Machine.execReport s
  | .load => Sys2Proof.Machine.execLoad s
  | .reheat => Sys2Proof.Machine.execReheat s
  | .cold => Sys2Proof.Machine.execCold s
  | .discard => Sys2Proof.Machine.execDiscard s
  | .width => Sys2Proof.Machine.execWidth s
  | .promote => Sys2Proof.Machine.execPromote s
  | .claim => Sys2Proof.Machine.execClaim s
  | .repair => Sys2Proof.Machine.execRepair s
  | .logcfg => Sys2Proof.Machine.execLogcfg s
  | .fwimg => Sys2Proof.Machine.execFwimg s
  | .startcfg => Sys2Proof.Machine.execStartcfg s
  | .parCtrlCheck => Sys2Proof.Machine.execParCtrlCheck s
  | .parCtrlDiscard => Sys2Proof.Machine.execParCtrlDiscard s
  | .kelWdogKick => Sys2Proof.Machine.execKelWdogKick s
  | .watchdogExpiry mepc => Sys2Proof.Machine.execWatchdogExpiry mepc s
  | .tqRecordStore q kind words dropped => Sys2Proof.Machine.execTqRecordStore q kind words dropped s
  | .kelTqNextRead p => Sys2Proof.Machine.execKelTqNextRead p s
  | .kelTqDataRead p => Sys2Proof.Machine.execKelTqDataRead p s
  | .tqStallTimeout => Sys2Proof.Machine.execTqStallTimeout s
  | .tqFlush p => Sys2Proof.Machine.execTqFlush p s
  | .keelRestartComplete => Sys2Proof.Machine.execKeelRestartComplete s
  | .energyWindowEnd measured => Sys2Proof.Machine.execEnergyWindowEnd measured s
  | .dieTemperatureReading sensor celsius => Sys2Proof.Machine.execDieTemperatureReading sensor celsius s
  | .railOutOfTolerance rail mv => Sys2Proof.Machine.execRailOutOfTolerance rail mv s
  | .railInTolerance rail mv => Sys2Proof.Machine.execRailInTolerance rail mv s
  | .boot seed attempts => Sys2Proof.Machine.execBoot seed attempts s
  | .selfTest found => Sys2Proof.Machine.execSelfTest found s
  | .repairRecordStore readBack => Sys2Proof.Machine.execRepairRecordStore readBack s
  | .training t => Sys2Proof.Machine.execTraining t s
  | .domainRamp domain good => Sys2Proof.Machine.execDomainRamp domain good s
  | .selfRefreshEntry stack confirmed => Sys2Proof.Machine.execSelfRefreshEntry stack confirmed s
  | .jtagExtest drive => Sys2Proof.Machine.execJtagExtest drive s
  | .referenceRestored input => Sys2Proof.Machine.execReferenceRestored input s
  | .registerWrite addr w => Sys2Proof.Machine.execRegisterWrite addr w s
  | .misalignedRegisterRead addr bytes => Sys2Proof.Machine.execMisalignedRegisterRead addr bytes s
  | .resetNRelease => Sys2Proof.Machine.execResetNRelease s
  | .resetNAssert => Sys2Proof.Machine.execResetNAssert s
  | .pwrGoodFall => Sys2Proof.Machine.execPwrGoodFall s
  | .zeroFill => Sys2Proof.Machine.execZeroFill s
  | .reheatReset => Sys2Proof.Machine.execReheatReset s
  | .reheatVerify => Sys2Proof.Machine.execReheatVerify s
  | .stageBoundExceeded => Sys2Proof.Machine.execStageBoundExceeded s
  | .jtagBypass => Sys2Proof.Machine.execJtagBypass s
  | .jtagIdcode => Sys2Proof.Machine.execJtagIdcode s
  | .jtagSamplePreload => Sys2Proof.Machine.execJtagSamplePreload s

end Sys2Proof.Machine
end

