-- ==== Sys2Proof/WellFormed.lean ====
section
/-!
DEFINITION. WellFormed.lean: which commands a sender of the part can form. A command stream holds the commands of its
kind (R139, R153), a message has the field values its table lists, and a report from nature has the shape of what it
reports.
-/
namespace Sys2Proof

/-- The streams of a kind: 0 any, 1 the core stream, 2 an access stream, 3 an execute stream, 4 a blowpipe stream (R157). -/
def strmIs (kind : Nat) (h : Iss) : Bool :=
  match kind with
  | 0 => true
  | 1 => h.strm == 0
  | 2 => h.strm == 1 || h.strm == 3
  | 3 => h.strm == 2 || h.strm == 4
  | _ => h.strm != 0

/-- The kind of stream that holds a stream command, with its header; none for the other rows. -/
def strmKind : Instr → Option (Nat × Iss)
  | .nop h | .segEnd h | .segLoop h .. | .segArm h .. | .attick h .. | .setcCounter h .. | .setcComparator h .. => some (0, h)
  | .setcDescriptor h .. | .setcCcount h .. | .waitc h .. | .waitq h .. | .bpipe h .. | .send h .. | .fill h .. | .copy h ..
  | .moveW h .. | .moveMein h .. | .moveMeout h .. | .moveVld h .. | .moveVst h .. | .matmul h .. | .transpose h .. | .permute h ..
  | .im2col h .. | .topk h .. | .dispatch h .. | .combine h .. | .vadd h .. | .vsub h .. | .vmul h .. | .vfma h .. | .vmax h ..
  | .vmin h .. | .viadd h .. | .visub h .. | .vimul h .. | .vand h .. | .vor h .. | .vxor h .. | .vshl h .. | .vshr h ..
  | .vcmpsel h .. | .vexp h .. | .vrecip h .. | .vrsqrt h .. | .vcvt h .. | .vtomx h .. | .vacomb h .. | .vamerge h .. | .vrsum h ..
  | .vrmax h .. | .vscan h .. | .vrng h .. | .vsample h .. => some (1, h)
  | .rd h .. | .wr h .. | .gather h .. | .bauq h .. | .bauNop h .. | .attend h .. | .kvput h .. | .pcopy h .. | .pzero h ..
  | .slout h .. | .slin h .. => some (2, h)
  | .dlv h .. | .dlvs h .. | .drop h .. => some (3, h)
  | .bpWaitq h .. => some (4, h)
  | _ => none

/-- The operands of a remote operation are ones the layout admits: whole units of 16 bytes, at most 15 (Table 11-8). -/
def ropOk (m : RopMsg) : Bool := m.bytes.toNat % 16 == 0 && decide (m.bytes.toNat ≤ 240) && m.addr.toNat % 16 == 0

/-- A command that a sender can form. -/
def WellFormed (i : Instr) : Bool :=
  match strmKind i with
  | some (k, h) => strmIs k h
  | none =>
    match i with
    | .crossingAlignment _ _ ts => decide (8 ≤ ts.length) || ts.any fun t => decide (t.hi.val - t.lo.val ≤ 1 ∧ 2 ≤ t.lo.val ∧ t.hi.val ≤ 13)
    | .rwrite _ _ m | .rread _ _ m | .rresp _ _ m => ropOk m
    | .failedPacket _ _ cause _ => decide (1 ≤ cause.toNat ∧ cause.toNat ≤ 4)
    | .relayPost _ m => decide (m.b1.toNat ≤ 3)
    | .relayWord _ m => decide (m.b1.toNat ≤ 2)
    | .tqRecordStore _ kind words _ =>
      decide (1 ≤ words.length ∧ words.length ≤ 8) && (kind != 0 || words.length == 8) && (kind != 3 || words.length == 2)
    | .energyWindowEnd measured => measured.length == 93
    | .boot seed _ => seed.all fun x => x.length == 32
    | .training t => t.temps.length == 12 && t.clean.length == 12
    | _ => true

end Sys2Proof
end

