-- ==== Sys2Proof/Safety.lean ====
section
/-!
DEFINITION. Safety.lean: what a safe run is, in the terms the statements use: the invariants of the state, and a device
that still votes.
-/
namespace Sys2Proof.Machine
open Sys2Proof

/-- Memory is in its canonical form. -/
def MemOk (s : State) : Prop := memWf s.mem = true

/-- The cycle phase is one of the eight of a tick (R42). -/
def PhaseOk (s : State) : Prop := s.phase < 8

/-- A command of which the state's queue holds only well-formed ones. -/
def QueueOk (s : State) : Prop := ∀ c ∈ s.pending, WellFormed c = true

/-- The device runs its plan: no fault of severity 4 and no thermal trip has halted it (R14, R474). -/
def Running (s : State) : Prop := s.halted = false

/-- The step's vote on this device is not void (R14, R16). -/
def NotVoid (s : State) : Prop := s.vote.void = false

/-! ### The issue of a stream command -/

/-- A command issues and runs in this cycle: it is due, its word reads without an error, the commit window has not opened,
and its predicate holds (R122, R126, R128, R156). -/
structure Issues (s : State) (h : Iss) (i : Instr) : Prop where
  phase : h.phase.val = s.phase
  due : cmdDue s h i = true
  word : cmdMark s h.core.val h.strm.val h.index.toNat = 0
  window : inCommit s = false
  runs : skipped s h = false

/-- The stream of a header as its command leaves it: the next command follows at this cycle plus its DELTA. -/
def issuedStrm (s : State) (h : Iss) : Stream :=
  { strm s h.core.val h.strm.val with pc := h.index.toNat, lastIssue := frameCyc s, ix := h.index.toNat + 1, base := now s }

/-- Nothing but one core differs. -/
def CoreOnly (s t : State) (c : Nat) : Prop := t = { s with cores := t.cores } ∧ ∀ d, d ≠ c → core t d = core s d

/-- A command has issued and changed nothing but its stream, which it leaves as given. -/
def Issued (s t : State) (h : Iss) (x : Stream) : Prop :=
  CoreOnly s t h.core.val ∧ core t h.core.val = { core s h.core.val with strms := (core t h.core.val).strms } ∧
    ∀ k, strm t h.core.val k = if k = h.strm.val then x else strm s h.core.val k

/-- A wait of a stream has completed: the stream stands as given, the counter or queue that the wait names has given what it
takes (R135, R136), and nothing else differs. -/
structure WaitDone (s t : State) (c k : Nat) (x : Stream) (w : WaitFor) : Prop where
  only : CoreOnly s t c
  same : core t c = { core s c with strms := (core t c).strms, ccnt := (core (waitTake s c w) c).ccnt, queues := (core (waitTake s c w) c).queues }
  strms : ∀ j, strm t c j = if j = k then x else strm s c j

/-- A loop counter after the increment of a command: v becomes (v + 1) mod L (R94). -/
def stepped (x : Ctr) : Ctr := { x with val := BitVec.ofNat 16 ((x.val.toNat + 1) % x.limit) }

/-- The paths of an engine are free in this cycle (R91). -/
def PathsFree (s : State) (c e : Nat) (ps : List (Nat × Nat)) : Prop := ∀ p ∈ ps, freeAt s c e p.1 ≤ now s

/-- An engine command of an engine e has issued: its stream has advanced, it holds its paths for their times, its selected
counters of `lo` on have stepped, its job `x` is in the table and its micro-operations are on the agenda, beside what
comparators write in the next cycle; nothing else differs (R91, R92, R94, R95). -/
structure Began (s t : State) (h : Iss) (e lo sel : Nat) (ps : List (Nat × Nat)) (x : Job) (ops : List (Nat × Micro)) : Prop where
  rest : t = { s with cores := t.cores, acts := t.acts, jobs := t.jobs, nextJob := s.nextJob + 1 }
  others : ∀ d, d ≠ h.core.val → core t d = core s d
  same : core t h.core.val = { core s h.core.val with
    strms := (core t h.core.val).strms, ctrs := (core t h.core.val).ctrs, holds := (core t h.core.val).holds }
  strms : ∀ k, strm t h.core.val k = if k = h.strm.val then issuedStrm s h else strm s h.core.val k
  ctrs : ∀ e' j, j < 4 → ctr t h.core.val e' j =
    if e' = e ∧ lo ≤ j ∧ bitAt sel (j - lo) = true then stepped (ctr s h.core.val e' j) else ctr s h.core.val e' j
  holds : ∀ e' p, p < 16 → freeAt t h.core.val e' p =
    (ps.filter fun q => e' == e && q.1 == p).foldl (fun u q => max u (now s + q.2)) (freeAt s h.core.val e' p)
  job : job t s.nextJob = x
  jobs : ∀ j, j ≠ s.nextJob → tget none t.jobs j = tget none s.jobs j
  acts : ∃ l, t.acts = s.acts ++ (ops.map fun o => { cyc := o.1, core := h.core.val, job := s.nextJob, op := o.2 }) ++ l ∧
    ∀ a ∈ l, a.cyc = now s + 1 ∧ a.core = h.core.val ∧ ∃ b v, a.op = .cmpWrite b v e


/-- A vector operation with its kind and operands (Table 5-10). -/
def vectorOf : Instr → Option (Iss × VKind × VecOp)
  | .vadd h o => some (h, .add, o) | .vsub h o => some (h, .sub, o) | .vmul h o => some (h, .mul, o)
  | .vfma h o => some (h, .fma, o) | .vmax h o => some (h, .max, o) | .vmin h o => some (h, .min, o)
  | .viadd h o => some (h, .iadd, o) | .visub h o => some (h, .isub, o) | .vimul h o => some (h, .imul, o)
  | .vand h o => some (h, .and, o) | .vor h o => some (h, .or, o) | .vxor h o => some (h, .xor, o)
  | .vshl h o => some (h, .shl, o) | .vshr h o => some (h, .shr, o) | .vcmpsel h o => some (h, .cmpsel, o)
  | .vexp h o => some (h, .exp, o) | .vrecip h o => some (h, .recip, o) | .vrsqrt h o => some (h, .rsqrt, o)
  | .vcvt h o => some (h, .cvt, o) | .vtomx h o => some (h, .tomx, o) | .vacomb h o => some (h, .acomb, o)
  | .vamerge h o => some (h, .amerge, o) | .vrsum h o => some (h, .rsum, o) | .vrmax h o => some (h, .rmax, o)
  | .vscan h o => some (h, .scan, o) | .vrng h o => some (h, .rng, o) | .vsample h o => some (h, .sample, o)
  | _ => none

/-- The header of a BAU operation. -/
def bauHdr : Instr → Option Iss
  | .bauNop h _ | .attend h _ | .kvput h _ | .pcopy h _ | .pzero h _ | .slout h _ | .slin h _ => some h
  | _ => none

/-- The engine and the paths with their times of a command that holds nothing else: register moves, SEND, BPIPE and the
blowpipe streams' port commands (Table 4-1, R145, R148, R149, R153, R209, R214, R245). -/
def portsOf : Instr → Option (Iss × Nat × List (Nat × Nat))
  | .moveW h me _ _ bank w => some (h, me.val, [(1, loadRows w.toNat), (3 + b2n bank, loadRows w.toNat)])
  | .moveVld h ve _ _ _ n => some (h, 4 + ve.val, [(6, n.toNat + 1)])
  | .moveVst h ve _ _ _ n => some (h, 4 + ve.val, [(6, n.toNat + 1)])
  | .send h o => some (h, 10, [(13, o.rows.toNat + 1)])
  | .bpipe h bp _ _ rows _ _ _ => some (h, 7 + bp.val, [(11, cdiv (rows.toNat + 1) 4)])
  | .rd h o => some (h, bpEng h, [(10, cdiv (o.count.toNat + 1) 4)])
  | .wr h o => some (h, bpEng h, [(10, cdiv (o.count.toNat + 1) 4)])
  | .bauq h _ _ count _ => some (h, bpEng h, [(10, count.toNat + 1)])
  | .bauNop h _ | .attend h _ | .kvput h _ | .pcopy h _ | .pzero h _ | .slout h _ | .slin h _ => some (h, bpEng h, [(10, 1)])
  | .dlv h _ _ count _ => some (h, bpEng h, [(12, cdiv (count.toNat + 1) 4)])
  | .dlvs h _ count _ => some (h, bpEng h, [(12, cdiv (count.toNat + 1) 4)])
  | _ => none

/-- The header of a command that only its sequencer carries out: SEG, ATTICK, the waits and SETC (Tables 5-7, 5-8, 5-16). -/
def sequencerHdr : Instr → Option Iss
  | .segEnd h | .segLoop h .. | .segArm h .. | .attick h .. | .setcCounter h .. | .setcComparator h .. | .setcDescriptor h ..
  | .setcCcount h .. | .waitc h .. | .waitq h .. | .bpWaitq h .. => some h
  | _ => none

/-- The term of a command's addresses: the selected counters of its issue cycle by their strides (R94). -/
def termOf (s : State) (h : Iss) (e lo cuse : Nat) : Nat := wrapN 41 (terms s h.core.val e lo cuse)

/-- One fault has been recorded in this tick of this step (R12). -/
def Recorded (s t : State) (code sev : Nat) : Prop :=
  ∃ f, t.faults = s.faults ++ [f] ∧ f.code = code ∧ f.sev = sev ∧ f.ttc = ttc s ∧ f.step = stepNo s

/-! ### The gaffer -/

/-- A gaffer starts instruction i in this cycle: it is due, i stands at its program counter inside instruction memory, and the
words read there carry no check-bit error (R158, R162). -/
structure GafReady (s : State) (c : Nat) (i : GInst) : Prop where
  due : gafDue s c = true
  inst : gafInst s c = i
  inside : (core s c).gaf.pc + (gafWord s c).2 ≤ 0x10000
  good : ∀ k ∈ [(core s c).gaf.pc / 4, ((core s c).gaf.pc + (gafWord s c).2 - 1) / 4], tget 0 (core s c).gaf.bad (gafKey false k) = 0

/-- The state in which a gaffer runs the instruction it has read: GAF_STAT shows its address (R173). -/
def curSet (u : State) (c : Nat) : State := modGaf u c fun g => { g with cur := (core u c).gaf.pc }

/-- A gaffer has completed its instruction with v in register rd (register 0 takes nothing), the next one at pc, `lat` cycles
later (R159); nothing else differs. -/
structure GafDone (s t : State) (c rd v pc lat : Nat) : Prop where
  only : CoreOnly s t c
  same : core t c = { core s c with gaf := (core t c).gaf }
  gaf : (core t c).gaf = { (core s c).gaf with cur := (core s c).gaf.pc, pc := pc % 2 ^ 32, at_ := now s + lat, minstret := (core s c).gaf.minstret + 1, x := (core t c).gaf.x }
  regs : ∀ r, xreg t c r = if r = rd ∧ r ≠ 0 then v else xreg s c r

/-! ### Serving -/

/-- A request of a kind stands accepted at an envelope as the next of its gaffer's group: a plan runs, the commit window has not
begun, and every earlier request of its group is executed (R347). -/
structure Accepted (s : State) (e lsn kind : Nat) (t : Taken) : Prop where
  found : (srv s e).c.todo.find? (fun x => x.lsn == lsn && recNat x.rec_ 8 1 == kind && !(srv s e).executed.contains lsn) = some t
  runs : planOn s = true
  window : inCommit s = false
  turn : ((srv s e).c.todo.takeWhile fun x => x.lsn != lsn).any (fun x => x.core == t.core && !(srv s e).executed.contains x.lsn) = false

/-- The state in which an accepted request is executed: it is marked as executed. -/
def executing (s : State) (e lsn : Nat) : State := modSrv s e fun v => { v with executed := v.executed ++ [lsn] }

/-- The request ends with a DONE of a status and result and with no other effect (R351). -/
structure Answered (s t : State) (e lsn : Nat) (r : Taken) (status result : Nat) : Prop where
  only : t = { s with srvs := t.srvs }
  own : srv t e = { srv s e with executed := (srv s e).executed ++ [lsn], dones := (srv s e).dones ++ [doneRec r status result] }
  others : ∀ d, d ≠ e → srv t d = srv s d

end Sys2Proof.Machine
end

