-- ==== Sys2Proof/Certificates/Slice0/Obligations.lean ====
section
/-!
DEFINITION. Certificates/Slice0/Obligations.lean: the statements about the device, family by family of its commands. The rules
they formalise are named in each docstring; a choice of the model is named with its log entry.
-/
set_option maxRecDepth 4000
open Sys2Proof Sys2Proof.Machine

/-- A step takes the command at the front of the queue and is its exec on the state with the queue's rest; on an empty queue it
leaves the state as it is, which is the model's choice (log entry 4). -/
def Obligations.StepRunsTheFrontCommand : Prop :=
  (∀ (c : Instr) (rest : List Instr) (s : State), step { s with pending := c :: rest } = exec c { s with pending := rest }) ∧
  (∀ s : State, s.pending = [] → step s = .next s)

/-- After reset TT_COUNT and TT_STEP read 0 and nothing is launched (R46); every stream memory word is SEG END (R120), no
stream runs; predicate bit 0 of every core reads 1 and its others 0 (R95, R118); no fault is recorded and the vote is not void;
memory is in its canonical form with every byte 0 (its contents before the zero fill of R429 are the model's choice, log
entry 5). -/
def Obligations.ResetLeaves : Prop :=
  ttc State.reset = 0 ∧ stepNo State.reset = 0 ∧ launched State.reset = false ∧ PhaseOk State.reset ∧ QueueOk State.reset ∧ MemOk State.reset ∧
  Running State.reset ∧ NotVoid State.reset ∧ State.reset.faults = [] ∧ State.reset.pending = [] ∧
  (∀ a, readByte State.reset.mem a = 0) ∧
  (∀ c k ix, cmdWord State.reset c k ix = 0x01F80000000000000000000000000000 ∧ (strm State.reset c k).running = false ∧ (strm State.reset c k).next = none) ∧
  (∀ c p, p < 8 → predBit State.reset c p = decide (p = 0)) ∧
  (∀ c : Fin 60, readReg State.reset (engA c.val 0x020) = some { w := 32, v := 1 })

/-- Words of the worked examples (Tables 5-18 and 5-19) and of other families, written out from the tables of chapter 5 and
Table 9-6, decode to their commands; a reserved bit that is set, a target of another unit and a reserved SUB decode to
nothing. -/
def Obligations.WrittenWordsDecode : Prop :=
  let d := fun (k : Fin 5) (w : Cmd) => decodeCmd 20 k 6 3 w
  let h := fun (k : Fin 5) (delta : BitVec 16) => ({ core := 20, strm := k, index := 6, phase := 3, psel := 0, pol := true, delta := delta } : Iss)
  d 0 0x00F80001000000000000000000000000 = some (.nop (h 0 1)) ∧
  d 0 0x01F80001100007001200000000000000 = some (.segLoop (h 0 1) false 7 18) ∧
  d 0 0x05780001000000000000010000000C80 = some (.waitq (h 0 1) 0 0 256 3200) ∧
  d 0 0x10080000111000180000000000000000 = some (.moveW (h 0 0) 0 ⟨1, 1⟩ 0x1000 false 3) ∧
  d 0 0x200800012240002800001F800CD7DC00 =
    some (.matmul (h 0 1) { me := 0, cu := ⟨2, 2⟩, sbase := 0x4000, sstride := 40, scale := 0, m := 63, u := 0, wfmt := 3, sfmt := 3, bank := false, anch := true, acc := false, a := -18 }) ∧
  d 0 0x120800CC006000000FCC000000000000 = some (.moveMeout (h 0 204) 0 ⟨0, 0⟩ 0x6000 0 63 false 1 true) ∧
  d 0 0x03080001010000002800010000000000 = some (.setcCounter (h 0 1) 0 1 0 40 1) ∧
  d 0 0x405300000000F042FC0000013F800000 =
    some (.vadd { core := 20, strm := 0, index := 6, phase := 3, psel := 3, pol := false, delta := 0 }
      { ve := 1, cu := ⟨0, 0⟩, n := 15, d := 1, a := 2, b := 63, c := 0, x := 0, aux := 0, sat := true, imm := 0x3F800000 }) ∧
  d 0 0x33680002000100020000300F99200000 = some (.topk (h 0 2) ⟨0, 0⟩ 0x100 0x200 3 31 3 9) ∧
  d 0 0x0CA800000000100063000000DEADBEEF = some (.fill (h 0 0) ⟨0, 0⟩ 0x10 99 0xDEADBEEF) ∧
  d 1 0x800800046FFC010002468ACF12000000 = some (.rd (h 1 4) { bu := ⟨1, 2⟩, q := 3, count := 255, stride := 64, addr := 0x123456789 }) ∧
  d 3 0x82080000D6070F0003E8000000000280 = some (.gather (h 3 0) { bu := ⟨3, 1⟩, qi := 1, qo := 2, count := 7, rb := 15, limit := 1000, tbase := 5 }) ∧
  d 1 0x890800000BF0167DD900100000000000 =
    some (.attend (h 1 0) { q := 2, ch := 63, cls := 3, layer := 31, head := 7, lanes := 3, qofs := 16, dofs := 8, start := 0, count := 0 }) ∧
  d 2 0xC008000151FC40000000000000000000 = some (.dlv (h 2 1) ⟨1, 1⟩ 0 127 0x1000) ∧
  d 0 0x00F80001000000000000000000000001 = none ∧ d 0 0x00080001000000000000000000000000 = none ∧ d 0 0x01F80001300000000000000000000000 = none ∧
  d 0 0xC008000151FC40000000000000000000 = none ∧ d 2 0x800800046FFC010002468ACF12000000 = none

/-- Every stream command that its kind of stream can hold, with every operand at every value, has a word, and that word at its
place and phase decodes to exactly it: no bit of a stream command is lost (Tables 5-1 to 5-17, 9-6). -/
def Obligations.DecodeOfEncodeIsTheCommand : Prop :=
  ∀ (i : Instr) (k : Nat) (h : Iss), strmKind i = some (k, h) → WellFormed i = true →
    ∃ w, encode i = some w ∧ decodeCmd h.core h.strm h.index h.phase w = some i

/-- A row write with a mask (R176): a byte of a selected 16-byte word becomes the row's byte, one of an unselected word stays;
every byte outside the row (R175 gives its addresses) reads as before, memory keeps its canonical form, and nothing but memory
and the check bits of the selected words changes (R194). -/
def Obligations.RowWriteIsMasked : Prop :=
  ∀ (s : State) (c r : Nat) (v : Row) (mask : Nat),
    let t := writeRow s c r v mask
    (∀ b, b < 128 → readByte t.mem (rowAddr c r + b) = if bitAt mask (b / 16) then BitVec.ofNat 8 (rowByte v b) else readByte s.mem (rowAddr c r + b)) ∧
    (∀ x, x < rowAddr c r ∨ rowAddr c r + 128 ≤ x → readByte t.mem x = readByte s.mem x) ∧
    (∀ w, w < 8 → tget 0 t.ecc (rowAddr c r / 16 + w) = if bitAt mask w then 0 else tget 0 s.ecc (rowAddr c r / 16 + w)) ∧
    t = { s with mem := t.mem, ecc := t.ecc } ∧ (MemOk s → MemOk t)

/-- A due SEG END, SEG LOOP, SEG ARM, ATTICK, WAITC, WAITQ or SETC whose predicate does not hold (R122): nothing but the stream's
place and base changes: the segment does not end, the loop register stays, nothing is armed, waited for, subtracted or set. -/
def Obligations.SkippedSequencerCommandsOnlyAdvance : Prop :=
  ∀ (i : Instr) (h : Iss) (s : State), sequencerHdr i = some h →
    h.phase.val = s.phase → cmdDue s h i = true → cmdMark s h.core.val h.strm.val h.index.toNat = 0 → inCommit s = false → skipped s h = true →
    ∃ t, exec i s = .next t ∧ Issued s t h (issuedStrm s h)

/-- Every other stream command that comes due in the commit window (R128): it is not executed (no job, no micro-operation, no
register of its core but the stream changes), 0x0406 is recorded with severity 2, and the segment is abandoned. -/
def Obligations.CommitWindowRefusesCommands : Prop :=
  ∀ (i : Instr) (k : Nat) (h : Iss) (s : State), strmKind i = some (k, h) → cwAllowed i = false →
    h.phase.val = s.phase → cmdDue s h i = true → cmdMark s h.core.val h.strm.val h.index.toNat = 0 → inCommit s = true →
    ∃ t, exec i s = .next t ∧ Recorded s t 0x0406 2 ∧ t.mem = s.mem ∧ t.acts = s.acts ∧ t.jobs = s.jobs ∧ t.pending = s.pending ∧
      (∀ d, d ≠ h.core.val → core t d = core s d) ∧ core t h.core.val = { core s h.core.val with strms := (core t h.core.val).strms } ∧
      (∀ j, j ≠ h.strm.val → strm t h.core.val j = strm s h.core.val j) ∧
      (strm t h.core.val h.strm.val).running = false ∧ (strm t h.core.val h.strm.val).wait = none ∧ (strm t h.core.val h.strm.val).abandoned = true

/-- A register move, SEND, BPIPE or port command of a blowpipe stream that issues while an earlier command still holds one of its
paths (R91): 0x0301 is recorded with severity 2; no job starts and no micro-operation but what comparators write is put on the
agenda; every path of the command is held for its full time, and memory is unchanged. -/
def Obligations.HeldPathIsAnOverlap : Prop :=
  ∀ (i : Instr) (h : Iss) (e : Nat) (ps : List (Nat × Nat)) (s : State), portsOf i = some (h, e, ps) → Issues s h i →
    (∃ p ∈ ps, now s < freeAt s h.core.val e p.1) →
    ∃ t, exec i s = .next t ∧ Recorded s t 0x0301 2 ∧ t.jobs = s.jobs ∧ t.nextJob = s.nextJob ∧ t.mem = s.mem ∧ t.pending = s.pending ∧
      (∃ l, t.acts = s.acts ++ l ∧ ∀ a ∈ l, ∃ b v g, a.op = .cmpWrite b v g) ∧
      (∀ d, d ≠ h.core.val → core t d = core s d) ∧
      (∀ k, strm t h.core.val k = if k = h.strm.val then issuedStrm s h else strm s h.core.val k) ∧
      (∀ e' p, p < 16 → freeAt t h.core.val e' p =
        (ps.filter fun q => e' == e && q.1 == p).foldl (fun u q => max u (now s + q.2)) (freeAt s h.core.val e' p))

/-- Every fault is one record of its tick and step (R12). Below severity 2 the vote and the device stand as they are; severity 2
voids this step, or, once a commit vote has been cast, the next one; severity 3 and 4 void this step and, once a commit vote
has been cast, the next one too (R14, R16); severity 3 and above asks for evacuation, severity 4 halts the device. A void that
was asked for stays (R15). That a fault after a void vote still counts for the present step is the model's reading (log
entry 40). -/
def Obligations.SeverityActsOnTheVote : Prop :=
  ∀ (s : State) (code sev cls idx env : Nat) (d : BitVec 320),
    let t := raise s code sev cls idx env d
    let cast := s.vote.fixed && !s.vote.castVoid
    Recorded s t code sev ∧ t.regs = s.regs ∧ t.mem = s.mem ∧ t.cores = s.cores ∧ t.pending = s.pending ∧
    (sev < 2 → t.vote = s.vote) ∧
    (sev = 2 → cast = false → t.vote = { s.vote with void := true }) ∧
    (sev = 2 → cast = true → t.vote = { s.vote with nextVoid := true }) ∧
    (3 ≤ sev → t.vote.void = true ∧ (cast = true → t.vote.nextVoid = true ∧ t.vote.seen = true)) ∧
    (t.evacuate = true ↔ s.evacuate = true ∨ 3 ≤ sev) ∧ (t.halted = true ↔ s.halted = true ∨ 4 ≤ sev) ∧
    (s.vote.void = true → t.vote.void = true)

/-- SEGMENT_START at cycle phase 0 of the armed tick of the present frame: the register clears, the stream runs from the
command at INDEX with this cycle as its base (R130); a segment still running is abandoned first, with 0x0404 (R132). -/
def Obligations.SegmentStartRunsTheArmedSegment : Prop :=
  ∀ (c : Fin 60) (k : Fin 5) (s : State) (n : NextStart),
    (strm s c.val k.val).next = some n → n.nextFrame = false → n.tick = frameTick s → s.phase = 0 → planOn s = true →
    ∃ t, exec (.segmentStart c k) s = .next t ∧ (∀ d, d ≠ c.val → core t d = core s d) ∧ t.mem = s.mem ∧ t.acts = s.acts ∧ t.pending = s.pending ∧
      core t c.val = { core s c.val with strms := (core t c.val).strms } ∧ (∀ j, j ≠ k.val → strm t c.val j = strm s c.val j) ∧
      (strm t c.val k.val).running = true ∧ (strm t c.val k.val).wait = none ∧ (strm t c.val k.val).ix = n.index ∧
      (strm t c.val k.val).base = now s ∧ (strm t c.val k.val).next = none ∧
      (if (strm s c.val k.val).running then Recorded s t 0x0404 2 ∧ (strm t c.val k.val).abandoned = true
       else t.faults = s.faults ∧ t.regs = s.regs ∧ t.vote = s.vote ∧ (strm t c.val k.val).loop0 = (strm s c.val k.val).loop0 ∧
         (strm t c.val k.val).loop1 = (strm s c.val k.val).loop1)

/-- A due NOP or SEG END, whose predicate holds, outside or inside the commit window (R128 lets both issue there): the
stream stands at the next command with this cycle as its base (Table 5-5), and SEG END ends the segment. Nothing else
differs. -/
def Obligations.NopAndSegEndIssue : Prop :=
  (∀ (h : Iss) (s : State), h.phase.val = s.phase → cmdDue s h (.nop h) = true → cmdMark s h.core.val h.strm.val h.index.toNat = 0 →
    ∃ t, exec (.nop h) s = .next t ∧ Issued s t h (issuedStrm s h)) ∧
  (∀ (h : Iss) (s : State), h.phase.val = s.phase → cmdDue s h (.segEnd h) = true → cmdMark s h.core.val h.strm.val h.index.toNat = 0 →
    skipped s h = false → ∃ t, exec (.segEnd h) s = .next t ∧ Issued s t h { issuedStrm s h with running := false })

/-- SEG LOOP at its issue (R133), COUNT being the field plus one: an inactive register with COUNT 1 falls through; with a
larger COUNT it becomes active with TARGET and REMAIN = COUNT - 2, and the stream jumps; an active register with REMAIN 0
becomes inactive and falls through; with a larger REMAIN it counts down and jumps. The other level's register stays. -/
def Obligations.SegLoopCountsItsBody : Prop :=
  ∀ (h : Iss) (level : Bool) (target : BitVec 15) (count : BitVec 16) (s : State), Issues s h (.segLoop h level target count) →
    let r := if level then (issuedStrm s h).loop1 else (issuedStrm s h).loop0
    let setR := fun (r : LoopReg) (x : Stream) => if level then { x with loop1 := r } else { x with loop0 := r }
    ∃ t, exec (.segLoop h level target count) s = .next t ∧
      (r.active = false → count = 0 → Issued s t h (issuedStrm s h)) ∧
      (r.active = false → count ≠ 0 → Issued s t h { setR { active := true, target := target.toNat, remain := count.toNat - 1 } (issuedStrm s h) with ix := target.toNat }) ∧
      (r.active = true → r.remain = 0 → Issued s t h (setR { r with active := false } (issuedStrm s h))) ∧
      (r.active = true → r.remain ≠ 0 → Issued s t h { setR { r with remain := r.remain - 1 } (issuedStrm s h) with ix := target.toNat })

/-- SEG ARM at its issue puts its arm among those judged at the end of its cycle, and an arm is judged against the register as it
stood at the start of the cycle (R131): the arm is kept where the register held no start and the tick is later than this one or in
the next frame, and refused with 0x0405 and the register unchanged otherwise. A register whose own start came in this cycle held
that start. -/
def Obligations.SegArmArmsOrIsRefused : Prop :=
  (∀ (h : Iss) (nf : Bool) (ix : BitVec 15) (tick : BitVec 23) (s : State), Issues s h (.segArm h nf ix tick) →
    let a : Act := { cyc := now s, core := h.core.val, job := 0, op := .arm h.strm.val false 0 { nextFrame := nf, index := ix.toNat, tick := tick.toNat } }
    ∃ t, exec (.segArm h nf ix tick) s = .next t ∧ t.acts = s.acts ++ [a] ∧ Issued s { t with acts := s.acts } h (issuedStrm s h)) ∧
  (∀ (s : State) (c k : Nat) (n : NextStart),
    let a : Act := { cyc := now s, core := c, job := 0, op := .arm k false 0 n }
    if (strm s c k).next = none ∧ (strm s c k).started ≠ now s + 1 ∧ (n.nextFrame = true ∨ frameTick s < n.tick) then
      CoreOnly s (runArms s c [a]) c ∧ (∀ j, strm (runArms s c [a]) c j = if j = k then { strm s c k with next := some n } else strm s c j)
    else Recorded s (runArms s c [a]) 0x0405 2 ∧ ∀ j, strm (runArms s c [a]) c j = strm s c j)

/-- ATTICK for tick T (R138): issued at cycle phase 0 of T it completes in its issue cycle, which becomes the next command's
base; issued earlier the stream waits for T; issued later it records 0x0403 and abandons its segment. ATTICK_COMPLETE at
cycle phase 0 of T ends the wait, with this cycle as the base. -/
def Obligations.AttickCompletesAtItsTick : Prop :=
  (∀ (h : Iss) (tick : BitVec 23) (s : State), Issues s h (.attick h tick) →
    ∃ t, exec (.attick h tick) s = .next t ∧
      (frameCyc s = 8 * tick.toNat → Issued s t h { issuedStrm s h with wait := none }) ∧
      (frameCyc s < 8 * tick.toNat → Issued s t h { issuedStrm s h with wait := some (.tick tick.toNat) }) ∧
      (8 * tick.toNat < frameCyc s → Recorded s t 0x0403 2 ∧ (strm t h.core.val h.strm.val).running = false ∧
        (strm t h.core.val h.strm.val).abandoned = true ∧ t.mem = s.mem ∧ t.acts = s.acts ∧ ∀ d, d ≠ h.core.val → core t d = core s d)) ∧
  (∀ (c : Fin 60) (k : Fin 5) (n : Nat) (s : State), (strm s c.val k.val).wait = some (.tick n) → frameCyc s = 8 * n →
    ∃ t, exec (.attickComplete c k) s = .next t ∧ CoreOnly s t c.val ∧ core t c.val = { core s c.val with strms := (core t c.val).strms } ∧
      ∀ j, strm t c.val j = if j = k.val then { strm s c.val k.val with wait := none, base := now s } else strm s c.val j)

/-- WAITC before its deadline (R135): where the counter holds N or more it completes in its issue cycle and N is
subtracted; where it holds less the stream waits. WAITC_COMPLETE in the first cycle at whose start the counter holds N or
more subtracts N and makes this cycle the base. -/
def Obligations.WaitcSubtractsItsCount : Prop :=
  (∀ (h : Iss) (k : BitVec 6) (n : BitVec 32) (d : BitVec 23) (s : State), Issues s h (.waitc h k n d) → frameCyc s < 8 * d.toNat →
    ∃ t, exec (.waitc h k n d) s = .next t ∧
      (ccntOf s h.core.val k.toNat < n.toNat → Issued s t h { issuedStrm s h with wait := some (.ccnt k.toNat n.toNat d.toNat) }) ∧
      (n.toNat ≤ ccntOf s h.core.val k.toNat →
        WaitDone s t h.core.val h.strm.val { issuedStrm s h with wait := none } (.ccnt k.toNat n.toNat d.toNat) ∧
        ∀ m, ccntOf t h.core.val m = if m = k.toNat then (ccntOf s h.core.val k.toNat - n.toNat) % 2 ^ 32 else ccntOf s h.core.val m)) ∧
  (∀ (c : Fin 60) (p : Fin 8) (k n d : Nat) (s : State), p.val = s.phase → (strm s c.val 0).wait = some (.ccnt k n d) → frameCyc s < 8 * d →
    n ≤ ccntOf s c.val k →
    ∃ t, exec (.waitcComplete c p) s = .next t ∧ WaitDone s t c.val 0 { strm s c.val 0 with wait := none, base := now s } (.ccnt k n d) ∧
      ∀ m, ccntOf t c.val m = if m = k then (ccntOf s c.val k - n) % 2 ^ 32 else ccntOf s c.val m)

/-- A core-stream WAITQ before its deadline completes where READY(q) holds N or more, and N is subtracted from READY(q)
(R136); a blowpipe-stream WAITQ completes where FILL(q) holds N or more and subtracts nothing (R152). Each waits otherwise,
and its completion event, in the first cycle in which the condition holds, does the same. -/
def Obligations.WaitqWaitsForItsQueue : Prop :=
  (∀ (h : Iss) (b : Fin 2) (q : BitVec 2) (n : BitVec 32) (d : BitVec 23) (s : State), Issues s h (.waitq h b q n d) → frameCyc s < 8 * d.toNat →
    ∃ t, exec (.waitq h b q n d) s = .next t ∧
      ((queue s h.core.val b.val q.toNat).ready < n.toNat → Issued s t h { issuedStrm s h with wait := some (.ready b.val q.toNat n.toNat d.toNat) }) ∧
      (n.toNat ≤ (queue s h.core.val b.val q.toNat).ready →
        WaitDone s t h.core.val h.strm.val { issuedStrm s h with wait := none } (.ready b.val q.toNat n.toNat d.toNat) ∧
        queue t h.core.val b.val q.toNat = { queue s h.core.val b.val q.toNat with ready := (queue s h.core.val b.val q.toNat).ready - n.toNat })) ∧
  (∀ (c : Fin 60) (p : Fin 8) (b q n d : Nat) (s : State), p.val = s.phase → (strm s c.val 0).wait = some (.ready b q n d) → frameCyc s < 8 * d →
    n ≤ (queue s c.val b q).ready →
    ∃ t, exec (.waitqComplete c p) s = .next t ∧ WaitDone s t c.val 0 { strm s c.val 0 with wait := none, base := now s } (.ready b q n d) ∧
      queue t c.val b q = { queue s c.val b q with ready := (queue s c.val b q).ready - n }) ∧
  (∀ (h : Iss) (q : BitVec 2) (n : BitVec 7) (d : BitVec 23) (s : State), Issues s h (.bpWaitq h q n d) → frameCyc s < 8 * d.toNat →
    ∃ t, exec (.bpWaitq h q n d) s = .next t ∧
      ((queue s h.core.val (bpOf h.strm.val) q.toNat).items.length < n.toNat → Issued s t h { issuedStrm s h with wait := some (.fill q.toNat n.toNat d.toNat) }) ∧
      (n.toNat ≤ (queue s h.core.val (bpOf h.strm.val) q.toNat).items.length → Issued s t h { issuedStrm s h with wait := none })) ∧
  (∀ (c : Fin 60) (k : Fin 5) (p : Fin 8) (q n d : Nat) (s : State), p.val = s.phase → (strm s c.val k.val).wait = some (.fill q n d) → frameCyc s < 8 * d →
    n ≤ (queue s c.val (bpOf k.val) q).items.length →
    ∃ t, exec (.bpWaitqComplete c k p) s = .next t ∧ CoreOnly s t c.val ∧ core t c.val = { core s c.val with strms := (core t c.val).strms } ∧
      ∀ j, strm t c.val j = if j = k.val then { strm s c.val k.val with wait := none, base := now s } else strm s c.val j)

/-- A wait whose deadline tick has come at this cycle fails, whether or not its condition holds (R137): WAITC_MISSED
records 0x0401 and WAITQ_MISSED 0x0402, the segment is abandoned, and nothing is subtracted. -/
def Obligations.MissedDeadlineAbandonsTheSegment : Prop :=
  (∀ (c : Fin 60) (k n d : Nat) (s : State), (strm s c.val 0).wait = some (.ccnt k n d) → 8 * d ≤ frameCyc s →
    ∃ t, exec (.waitcMissed c) s = .next t ∧ Recorded s t 0x0401 2 ∧ (strm t c.val 0).running = false ∧ (strm t c.val 0).abandoned = true ∧
      (strm t c.val 0).wait = none ∧ t.mem = s.mem ∧ t.acts = s.acts ∧ (∀ j, j ≠ c.val → core t j = core s j) ∧
      core t c.val = { core s c.val with strms := (core t c.val).strms } ∧ ∀ j, j ≠ 0 → strm t c.val j = strm s c.val j) ∧
  (∀ (c : Fin 60) (k : Fin 5) (w : WaitFor) (s : State), (strm s c.val k.val).wait = some w → w.isQ = true ∨ w.isF = true → waitOver s w = true →
    ∃ t, exec (.waitqMissed c k) s = .next t ∧ Recorded s t 0x0402 2 ∧ (strm t c.val k.val).running = false ∧ (strm t c.val k.val).abandoned = true ∧
      (strm t c.val k.val).wait = none ∧ t.mem = s.mem ∧ t.acts = s.acts ∧ (∀ j, j ≠ c.val → core t j = core s j) ∧
      core t c.val = { core s c.val with strms := (core t c.val).strms } ∧ ∀ j, j ≠ k.val → strm t c.val j = strm s c.val j)

/-- SETC at its issue: COUNTER gives a counter of its target its value, limit and stride, and the comparators bound to it
write their bits in the next cycle; COMPARATOR binds a comparator; DESCRIPTOR writes an entry of its target's table; CCOUNT
writes a completion counter at the end of the cycle, over the increments of the cycle (Table 5-6). -/
def Obligations.SetcWritesItsTarget : Prop :=
  (∀ (h : Iss) (tgt : BitVec 4) (j : BitVec 2) (v l st : BitVec 16) (s : State), Issues s h (.setcCounter h tgt j v l st) →
    let e := setcEng h tgt.toNat
    ∃ t, exec (.setcCounter h tgt j v l st) s = .next t ∧ t = { s with cores := t.cores, acts := t.acts } ∧
      (∀ d, d ≠ h.core.val → core t d = core s d) ∧
      core t h.core.val = { core s h.core.val with strms := (core t h.core.val).strms, ctrs := (core t h.core.val).ctrs } ∧
      (∀ k, strm t h.core.val k = if k = h.strm.val then issuedStrm s h else strm s h.core.val k) ∧
      (∀ e' j', j' < 4 → ctr t h.core.val e' j' = if e' = e ∧ j' = j.toNat then { val := v, lim := l, stride := st } else ctr s h.core.val e' j') ∧
      ∃ w, t.acts = s.acts ++ w ∧ ∀ a ∈ w, a.cyc = now s + 1 ∧ a.core = h.core.val ∧ ∃ b x, a.op = .cmpWrite b x e) ∧
  (∀ (h : Iss) (tgt : BitVec 4) (cmp en : Bool) (k r : BitVec 2) (pred : BitVec 3) (v : BitVec 16) (s : State), Issues s h (.setcComparator h tgt cmp en k r pred v) →
    ∃ t, exec (.setcComparator h tgt cmp en k r pred v) s = .next t ∧ CoreOnly s t h.core.val ∧
      core t h.core.val = { core s h.core.val with strms := (core t h.core.val).strms, cmps := (core t h.core.val).cmps } ∧
      (∀ k, strm t h.core.val k = if k = h.strm.val then issuedStrm s h else strm s h.core.val k) ∧
      ∀ i, tget {} (core t h.core.val).cmps i =
        if i = 2 * setcEng h tgt.toNat + b2n cmp then { en := en, pred := pred, ctr := k, rel := r, val := v } else tget {} (core s h.core.val).cmps i) ∧
  (∀ (h : Iss) (tgt : BitVec 4) (ix : BitVec 6) (v : BitVec 64) (s : State), Issues s h (.setcDescriptor h tgt ix v) →
    ∃ t, exec (.setcDescriptor h tgt ix v) s = .next t ∧ CoreOnly s t h.core.val ∧
      core t h.core.val = { core s h.core.val with strms := (core t h.core.val).strms, descs := (core t h.core.val).descs } ∧
      (∀ k, strm t h.core.val k = if k = h.strm.val then issuedStrm s h else strm s h.core.val k) ∧
      ∀ i, tget 0 (core t h.core.val).descs i = if i = 64 * (tgt.toNat - 4) + ix.toNat then v else tget 0 (core s h.core.val).descs i) ∧
  (∀ (h : Iss) (k : BitVec 6) (v : BitVec 32) (s : State), Issues s h (.setcCcount h k v) →
    let a : Act := { cyc := now s, core := h.core.val, job := 0, op := .ccSet k.toNat v.toNat }
    ∃ t, exec (.setcCcount h k v) s = .next t ∧ t.acts = s.acts ++ [a] ∧ Issued s { t with acts := s.acts } h (issuedStrm s h) ∧
      ∀ u, ccntOf (runActs u [a]) h.core.val k.toNat = v.toNat)

/-- COMMAND_SCRUB_VISIT in its cycle, every 32nd (R156): the port goes on to the next word, the last being followed by the
first; a clean word is left alone; a correctable one is rewritten and 0x0407 recorded; an uncorrectable one is recorded
with 0x0408; no stream is touched. -/
def Obligations.CommandScrubCorrectsAndRecords : Prop :=
  ∀ (c : Fin 60) (m : Fin 5) (p : Fin 8) (s : State), p.val = s.phase → now s % 32 = 0 →
    let ix := tget 0 (core s c.val).cmdScrub m.val
    ∃ t, exec (.commandScrubVisit c m p) s = .next t ∧
      (core t c.val).cmdScrub = tset 0 (core s c.val).cmdScrub m.val ((ix + 1) % (if m = 0 then 32768 else 2048)) ∧
      (core t c.val).strms = (core s c.val).strms ∧ (core t c.val).cmds = (core s c.val).cmds ∧ (∀ d, d ≠ c.val → core t d = core s d) ∧
      t.mem = s.mem ∧ t.acts = s.acts ∧
      (cmdMark s c.val m.val ix = 0 → t.faults = s.faults ∧ (core t c.val).cmdBad = (core s c.val).cmdBad) ∧
      (0 < cmdMark s c.val m.val ix → cmdMark s c.val m.val ix < 1024 → Recorded s t 0x0407 1 ∧ cmdMark t c.val m.val ix = 0) ∧
      (1024 ≤ cmdMark s c.val m.val ix → Recorded s t 0x0408 3 ∧ (core t c.val).cmdBad = (core s c.val).cmdBad)

/-- A register move that issues with its paths free (R99, R144). MOVE.W holds the weight path and its bank for one cycle per
row of the weight format and reads a row in each of them; MOVE.VLD holds the vector port for one cycle per register, reads two
rows a cycle and writes the registers at its end; MOVE.VST reads a register a cycle and writes its two rows two cycles later. -/
def Obligations.RegisterMovesBegin : Prop :=
  (∀ (h : Iss) (me : Fin 4) (cu : CU) (src : BitVec 16) (bank : Bool) (w : BitVec 4) (s : State),
    let i := Instr.moveW h me cu src bank w
    let l := loadRows w.toNat
    let d := termOf s h me.val 0 cu.cuse.toNat
    Issues s h i → PathsFree s h.core.val me.val [(1, l), (3 + b2n bank, l)] →
    ∃ t, exec i s = .next t ∧ Began s t h me.val 0 cu.cinc.toNat [(1, l), (3 + b2n bank, l)] (jobOf s h i d [])
      (((List.range l).map fun (j : Nat) => (now s + j, Micro.rdRow 1 (src.toNat + d + j) 0 j)) ++ [(now s + l - 1, Micro.done)])) ∧
  (∀ (h : Iss) (ve : Fin 2) (cu : CU) (row : BitVec 16) (reg count : BitVec 4) (s : State),
    let i := Instr.moveVld h ve cu row reg count
    let n := count.toNat + 1
    let d := termOf s h (4 + ve.val) 0 cu.cuse.toNat
    Issues s h i → PathsFree s h.core.val (4 + ve.val) [(6, n)] →
    ∃ t, exec i s = .next t ∧ Began s t h (4 + ve.val) 0 cu.cinc.toNat [(6, n)] (jobOf s h i d [])
      (((List.range (2 * n)).map fun (k : Nat) => (now s + k / 2, Micro.rdRow 3 (row.toNat + d + k) 0 k)) ++
       (List.range n).map fun (k : Nat) => (now s + n + 1, Micro.regWr ve.val ((reg.toNat + k) % 16) k))) ∧
  (∀ (h : Iss) (ve : Fin 2) (cu : CU) (row : BitVec 16) (reg count : BitVec 4) (s : State),
    let i := Instr.moveVst h ve cu row reg count
    let n := count.toNat + 1
    let d := termOf s h (4 + ve.val) 0 cu.cuse.toNat
    Issues s h i → PathsFree s h.core.val (4 + ve.val) [(6, n)] →
    ∃ t, exec i s = .next t ∧ Began s t h (4 + ve.val) 0 cu.cinc.toNat [(6, n)] (jobOf s h i d [])
      (((List.range n).map fun (k : Nat) => (now s + k, Micro.regRd ve.val ((reg.toNat + k) % 16) 0 k)) ++
       (List.range (2 * n)).map fun (k : Nat) => (now s + k / 2 + 2, Micro.wrRow 3 (row.toNat + d + k) k)))

/-- Each of the 27 vector operations that issues with the vector port and the lanes free: it holds both for its time T, its job carries the five descriptors it names, and its reads and writes are on the agenda in their cycles
(R106, R145, R179, R250). -/
def Obligations.VectorOperationsBegin : Prop :=
  ∀ (i : Instr) (h : Iss) (k : VKind) (o : VecOp) (s : State), vectorOf i = some (h, k, o) →
    let e := 4 + o.ve.val
    let x := jobOf s h i (termOf s h e 0 o.cu.cuse.toNat) (vecDescs s h.core.val o)
    let T := vecHold x k o
    Issues s h i → PathsFree s h.core.val e [(6, T), (7, T)] →
    ∃ t, exec i s = .next t ∧ Began s t h e 0 o.cu.cinc.toNat [(6, T), (7, T)] x (vecActs x k o (now s))

/-- Each shaping command that issues with the SE's read and write ports free: it holds both for its whole time (Table 4-1)
with its accesses on the agenda in their cycles; the job of IM2COL, TOPK, DISPATCH and COMBINE carries the descriptor it
names. -/
def Obligations.ShapingCommandsBegin : Prop :=
  (∀ (h : Iss) (cu : CU) (src dst : BitVec 16) (nt : BitVec 12) (w : BitVec 2) (s : State),
    let i := Instr.transpose h cu src dst nt w
    let T := shapeHold i 0
    let d := termOf s h 6 0 cu.cuse.toNat
    let n := (nt.toNat + 1) * trE w.toNat
    Issues s h i → PathsFree s h.core.val 6 [(8, T), (9, T)] →
    ∃ t, exec i s = .next t ∧ Began s t h 6 0 cu.cinc.toNat [(8, T), (9, T)] (jobOf s h i d [0])
      (((List.range n).map fun (k : Nat) => (now s + k, Micro.rdRow 4 (src.toNat + d + k) 0 k)) ++
       (List.range n).map fun (k : Nat) => (now s + trE w.toNat + 4 + k, Micro.wrRow 4 (dst.toNat + d + k) k))) ∧
  (∀ (h : Iss) (cu : CU) (src dst : BitVec 16) (n : BitVec 12) (idx limit : BitVec 16) (s : State),
    let i := Instr.permute h cu src dst n idx limit
    let T := shapeHold i 0
    let d := termOf s h 6 0 cu.cuse.toNat
    let X := cdiv (2 * (n.toNat + 1)) 128
    Issues s h i → PathsFree s h.core.val 6 [(8, T), (9, T)] →
    ∃ t, exec i s = .next t ∧ Began s t h 6 0 cu.cinc.toNat [(8, T), (9, T)] (jobOf s h i d [0])
      (((List.range X).map fun (j : Nat) => (now s + j, Micro.rdRow 4 (idx.toNat + d + j) 1 (idxKey + j))) ++
       ((List.range (n.toNat + 1)).flatMap fun (k : Nat) => [(now s + X + k, Micro.claim (src.toNat + d) limit.toNat), (now s + X + k, Micro.rdSrc k), (now s + X + 8 + k, Micro.wrRow 4 (dst.toNat + d + k) k)]) ++
       [(now s + (n.toNat + 1) + X + 7, Micro.done)])) ∧
  (∀ (h : Iss) (cu : CU) (src dst : BitVec 16) (param : BitVec 6) (s : State),
    let i := Instr.im2col h cu src dst param
    let D := seDesc s h.core.val param
    let T := shapeHold i D.toNat
    let d := termOf s h 6 0 cu.cuse.toNat
    let p := im2Of D.toNat
    Issues s h i → PathsFree s h.core.val 6 [(8, T), (9, T)] →
    ∃ t, exec i s = .next t ∧ Began s t h 6 0 cu.cinc.toNat [(8, T), (9, T)] (jobOf s h i d [D])
      ((List.range p.rows).flatMap fun (q : Nat) =>
        (match p.src q with | some r => [(now s + q, Micro.rdRow 4 (src.toNat + d + r) 0 q)] | none => []) ++ [(now s + 8 + q, Micro.wrRow 4 (dst.toNat + d + q) q)])) ∧
  (∀ (h : Iss) (cu : CU) (src dst : BitVec 16) (r : BitVec 12) (nb : BitVec 13) (logk : BitVec 4) (param : BitVec 6) (s : State),
    let i := Instr.topk h cu src dst r nb logk param
    let D := seDesc s h.core.val param
    let T := shapeHold i D.toNat
    let d := termOf s h 6 0 cu.cuse.toNat
    let n := nb.toNat + 1
    let w := cdiv (8 * 2 ^ logk.toNat) 128
    Issues s h i → PathsFree s h.core.val 6 [(8, T), (9, T)] →
    ∃ t, exec i s = .next t ∧ Began s t h 6 0 cu.cinc.toNat [(8, T), (9, T)] (jobOf s h i d [D])
      ((List.range (r.toNat + 1)).flatMap fun (ρ : Nat) =>
        ((List.range n).map fun (q : Nat) => (now s + ρ * max n w + q, Micro.rdRow 4 (src.toNat + d + ρ * n + q) 0 (ρ * n + q))) ++
        (List.range w).map fun (u : Nat) => (now s + ρ * max n w + 96 + (max n w - w) + u, Micro.wrRow 4 (dst.toNat + d + ρ * w + u) (ρ * w + u)))) ∧
  (∀ (h : Iss) (o : RouteOp) (s : State),
    let i := Instr.dispatch h o
    let D := seDesc s h.core.val o.param
    let T := shapeHold i D.toNat
    let d := termOf s h 6 0 o.cu.cuse.toNat
    let p := routeOf D.toNat
    Issues s h i → PathsFree s h.core.val 6 [(8, T), (9, T)] →
    ∃ t, exec i s = .next t ∧ Began s t h 6 0 o.cu.cinc.toNat [(8, T), (9, T)] (jobOf s h i d [D])
      (claimOps (now s) T [(o.src.toNat + d, p.t * p.trows), (o.dst.toNat + d, p.x * p.c * p.trows), (o.route.toNat + d, cdiv (8 * p.t * p.e) 128), (o.assign.toNat + d, cdiv (p.t * p.e) 64)])) ∧
  (∀ (h : Iss) (o : RouteOp) (s : State),
    let i := Instr.combine h o
    let D := seDesc s h.core.val o.param
    let T := shapeHold i D.toNat
    let d := termOf s h 6 0 o.cu.cuse.toNat
    let p := routeOf D.toNat
    Issues s h i → PathsFree s h.core.val 6 [(8, T), (9, T)] →
    ∃ t, exec i s = .next t ∧ Began s t h 6 0 o.cu.cinc.toNat [(8, T), (9, T)] (jobOf s h i d [D])
      (claimOps (now s) T [(o.src.toNat + d, p.x * p.c * p.xrows), (o.dst.toNat + d, p.t * p.outRows), (o.route.toNat + d, cdiv (8 * p.t * p.e) 128), (o.assign.toNat + d, cdiv (p.t * p.e) 64)]))

/-- FILL and COPY take the free memory unit for their time and move four rows a cycle (R182); SEND holds the send port for its
head flit and its rows, one a cycle (R148); BPIPE holds its blowpipe's path, takes its rows from Crucible or from a spool and
queues each two cycles later (R149, R189). -/
def Obligations.MemoryUnitSendAndBpipeBegin : Prop :=
  (∀ (h : Iss) (cu : CU) (dst rows : BitVec 16) (pattern : BitVec 32) (s : State),
    let i := Instr.fill h cu dst rows pattern
    let n := rows.toNat + 1
    let d := termOf s h 9 0 cu.cuse.toNat
    Issues s h i → PathsFree s h.core.val 11 [(0, cdiv n 4)] →
    ∃ t x, exec i s = .next t ∧ Began s x h 11 0 0 [(0, cdiv n 4)] (jobOf s h i d [])
      ((List.range n).map fun (k : Nat) => (now s + k / 4, Micro.wrRow 6 (dst.toNat + d + k) k)) ∧
      t = incCtrs x h.core.val 9 0 cu.cinc.toNat) ∧
  (∀ (h : Iss) (cu : CU) (src dst rows : BitVec 16) (s : State),
    let i := Instr.copy h cu src dst rows
    let n := rows.toNat + 1
    let d := termOf s h 9 0 cu.cuse.toNat
    Issues s h i → PathsFree s h.core.val 11 [(0, cdiv n 4 + 2)] →
    ∃ t x, exec i s = .next t ∧ Began s x h 11 0 0 [(0, cdiv n 4 + 2)] (jobOf s h i d [])
      (((List.range n).map fun (k : Nat) => (now s + k / 4, Micro.rdRow 6 (src.toNat + d + k) 0 k)) ++
       (List.range n).map fun (k : Nat) => (now s + k / 4 + 2, Micro.wrRow 6 (dst.toNat + d + k) k)) ∧
      t = incCtrs x h.core.val 9 0 cu.cinc.toNat) ∧
  (∀ (h : Iss) (o : SendOp) (s : State),
    let i := Instr.send h o
    let n := o.rows.toNat
    let d := termOf s h 9 0 o.cu.cuse.toNat
    Issues s h i → PathsFree s h.core.val 10 [(13, n + 1)] →
    ∃ t x, exec i s = .next t ∧ Began s x h 10 0 0 [(13, n + 1)] (jobOf s h i d [])
      (((List.range n).map fun (k : Nat) => (now s + k, Micro.rdRow 7 (o.src.toNat + d + k) 0 k)) ++ (List.range (n + 1)).map fun (k : Nat) => (now s + k, Micro.flit k)) ∧
      t = incCtrs x h.core.val 9 0 o.cu.cinc.toNat) ∧
  (∀ (h : Iss) (bp : Fin 2) (cu : CU) (src : BitVec 16) (rows : BitVec 8) (q : BitVec 2) (spl : Bool) (spool : BitVec 5) (s : State),
    let i := Instr.bpipe h bp cu src rows q spl spool
    let n := rows.toNat + 1
    let d := termOf s h 9 0 cu.cuse.toNat
    Issues s h i → PathsFree s h.core.val (7 + bp.val) [(11, cdiv n 4)] →
    ∃ t x, exec i s = .next t ∧ Began s x h (7 + bp.val) 0 0 [(11, cdiv n 4)] (jobOf s h i d [])
      (((List.range n).map fun (k : Nat) => (now s + k / 4, if spl then Micro.spPop spool.toNat k else Micro.rdRow 5 (src.toNat + d + k) 0 k)) ++
       (List.range n).map fun (k : Nat) => (now s + k / 4 + 2, Micro.qPut bp.val q.toNat k)) ∧
      t = incCtrs x h.core.val 9 0 cu.cinc.toNat)

/-- MEIN, MEOUT and MATMUL that issue with their paths and their accumulator lines free (R103, R104): MEIN reads a row a cycle
and its lines take them eight cycles after the last; MEOUT writes a row a cycle from its fourth cycle on and holds the lines it
reads; MATMUL reads its scale rows, then its stream rows, each accumulated 140 cycles later, and holds its region until the
last. On a device that no fault of severity 4 has halted (R14), MATMUL_COMPLETE in the cycle a tile is due takes the
tile's end and its last row off the agenda and carries them out. -/
def Obligations.MatrixCommandsBeginAndComplete : Prop :=
  (∀ (h : Iss) (me : Fin 4) (cu : CU) (src : BitVec 16) (u lines : BitVec 9) (layout : BitVec 2) (s : State),
    let i := Instr.moveMein h me cu src u lines layout
    let L := lines.toNat + 1
    let n := L * layoutRows layout.toNat
    let d := termOf s h me.val 0 cu.cuse.toNat
    Issues s h i → PathsFree s h.core.val me.val [(0, n)] → accLeft s h.core.val me.val u.toNat (L * if layout.toNat < 2 then 1 else 4) false = 0 →
    ∃ t, exec i s = .next t ∧ Began s t h me.val 0 cu.cinc.toNat [(0, n)] (jobOf s h i d [])
      (((List.range n).map fun (j : Nat) => (now s + j, Micro.rdRow 0 (src.toNat + d + j) 0 j)) ++
       (List.range L).map fun (l : Nat) => (now s + n + 7, Micro.meinLine l))) ∧
  (∀ (h : Iss) (me : Fin 4) (cu : CU) (dst : BitVec 16) (u m : BitVec 9) (nw : Bool) (form : BitVec 2) (sat : Bool) (s : State),
    let i := Instr.moveMeout h me cu dst u m nw form sat
    let L := (m.toNat + 1) * if nw then 2 else 1
    let n := L * formRows form.toNat
    let w := L * if (accUnit (core s h.core.val) me.val u.toNat).anch then 4 else 1
    let d := termOf s h me.val 0 cu.cuse.toNat
    Issues s h i → PathsFree s h.core.val me.val [(2, n)] → accLeft s h.core.val me.val u.toNat w false = 0 →
    ∃ t x, exec i s = .next t ∧ Began s x h me.val 0 0 [(2, n)] (jobOf s h i d [])
      ((List.range n).map fun (k : Nat) => (now s + 4 + k, Micro.wrRow 2 (dst.toNat + d + k) k)) ∧
      t = incCtrs (meoutPrepare (addHold x h.core.val { me := me.val, u := u.toNat, len := w, until_ := now s + n, meout := true, job := s.nextJob }) s.nextJob)
        h.core.val me.val 0 cu.cinc.toNat) ∧
  (∀ (h : Iss) (o : MatmulOp) (s : State),
    let i := Instr.matmul h o
    let c := h.core.val
    let M := o.m.toNat + 1
    let P := mmP o
    let d := termOf s h o.me.val 0 o.cu.cuse.toNat
    let b := tget {} (core s c).banks (2 * o.me.val + b2n o.bank)
    Issues s h i → PathsFree s c o.me.val [(0, P + M), (3 + b2n o.bank, P + M)] → accLeft s c o.me.val o.u.toNat (mmUnits o) true = 0 → b.bad = [] →
    ∃ t x, exec i s = .next t ∧ Began s x h o.me.val 0 0 [(0, P + M), (3 + b2n o.bank, P + M)] { jobOf s h i d [] with skip := false, bank := b }
      ((((List.range P).map fun (j : Nat) => (now s + j, Micro.rdRow 0 (o.scale.toNat + d + j) 1 (65536 + j))) ++
        ((List.range M).map fun (k : Nat) => (now s + P + k, Micro.rdRow 0 (o.sbase.toNat + d + k * o.sstride.toNat) 0 k)) ++
        (List.range M).map fun (k : Nat) => (now s + P + k + 140, Micro.accRow k)) ++ [(now s + P + M + 139, Micro.done)]) ∧
      t = incCtrs (addHold x c { me := o.me.val, u := o.u.toNat, len := mmUnits o, until_ := now s + P + M + 140, meout := false, job := s.nextJob })
        c o.me.val 0 o.cu.cinc.toNat) ∧
  (∀ (c : Fin 60) (me : Fin 4) (p : Fin 8) (s : State) (a : Act), p.val = s.phase → Running s →
    a ∈ s.acts → a.cyc ≤ now s → a.core = c.val → isMatmul s me.val a = true → a.op = Micro.done →
    ∃ t l, exec (.matmulComplete c me p) s = .next t ∧ a ∈ l ∧
      (∀ b ∈ l, b ∈ s.acts ∧ b.cyc ≤ now s ∧ b.core = c.val ∧ isMatmul s me.val b = true) ∧
      t = runActs { s with acts := s.acts.filter fun b => !(decide (b.cyc ≤ now s) && (b.core == c.val && isMatmul s me.val b &&
        (b.op == Micro.done || match b.op with | Micro.accRow _ => true | _ => false))) } l)

/-- An access-stream command that issues with its request port free, e being its blowpipe's engine and b the blowpipe: RD
requests four entries a cycle, each in its queue 104 cycles later (R209); WR pops and requests in the same cycles (R210);
GATHER pops its index entries, requests the entries of each index in their cycles, each arriving 104 cycles later (R215); BAUQ
pops an entry a cycle, each four cycles on its way (R214); a BAUOP takes one cycle and starts four cycles later (R245). -/
def Obligations.AccessStreamCommandsBegin : Prop :=
  (∀ (h : Iss) (o : DramOp) (s : State),
    let i := Instr.rd h o
    let e := bpEng h
    let n := o.count.toNat + 1
    let d := termOf s h e 0 o.bu.cuse.toNat
    Issues s h i → PathsFree s h.core.val e [(10, cdiv n 4)] →
    ∃ t, exec i s = .next t ∧ Began s t h e 0 o.bu.cinc.toNat [(10, cdiv n 4)] (jobOf s h i d [])
      ((List.range n).flatMap fun (k : Nat) => [(now s + k / 4, Micro.dReq false (dramEntryAt o d k) k), (now s + k / 4 + 104, Micro.qPut (bpOf h.strm.val) o.q.toNat k)])) ∧
  (∀ (h : Iss) (o : DramOp) (s : State),
    let i := Instr.wr h o
    let e := bpEng h
    let n := o.count.toNat + 1
    let d := termOf s h e 0 o.bu.cuse.toNat
    Issues s h i → PathsFree s h.core.val e [(10, cdiv n 4)] →
    ∃ t, exec i s = .next t ∧ Began s t h e 0 o.bu.cinc.toNat [(10, cdiv n 4)] (jobOf s h i d [])
      ((List.range n).flatMap fun (k : Nat) => [(now s + k / 4, Micro.qPop (bpOf h.strm.val) o.q.toNat k), (now s + k / 4, Micro.dReq true (dramEntryAt o d k) k)])) ∧
  (∀ (h : Iss) (o : GatherOp) (s : State),
    let i := Instr.gather h o
    let e := bpEng h
    let rb := o.rb.toNat + 1
    let pg := cdiv rb 4 + 47
    let hold := 2 + o.count.toNat * pg + cdiv rb 4
    let d := termOf s h e 0 o.bu.cuse.toNat
    Issues s h i → PathsFree s h.core.val e [(10, hold)] → gatherBreach s (jobOf s h i d []) o = none →
    ∃ t, exec i s = .next t ∧ Began s t h e 0 o.bu.cinc.toNat [(10, hold)] (jobOf s h i d [])
      (((List.range (cdiv (o.count.toNat + 1) 32)).map fun (j : Nat) => (now s + 32 * pg * j, Micro.qPop (bpOf h.strm.val) o.qi.toNat (idxKey + j))) ++
       ((gatherReqs o (now s)).flatMap fun (r : Nat × Nat × Nat) => [(r.2.2, Micro.gReq r.1 r.2.1), (r.2.2 + 104, Micro.qPut (bpOf h.strm.val) o.qo.toNat (r.1 * rb + r.2.1))]) ++
       [(now s + hold - 1, Micro.done)])) ∧
  (∀ (h : Iss) (q : BitVec 2) (ch : BitVec 6) (count : BitVec 8) (ofs : BitVec 7) (s : State),
    let i := Instr.bauq h q ch count ofs
    let e := bpEng h
    let n := count.toNat + 1
    Issues s h i → PathsFree s h.core.val e [(10, n)] →
    ∃ t, exec i s = .next t ∧ Began s t h e 0 0 [(10, n)] (jobOf s h i (termOf s h e 0 0) [])
      ((List.range n).flatMap fun (k : Nat) => [(now s + k, Micro.qPop (bpOf h.strm.val) q.toNat k), (now s + k + 4, Micro.qbPut (siteOf h.core.val * 64 + ch.toNat) (ofs.toNat + k) k)])) ∧
  (∀ (i : Instr) (h : Iss) (s : State), bauHdr i = some h →
    Issues s h i → PathsFree s h.core.val (bpEng h) [(10, 1)] →
    ∃ t, exec i s = .next t ∧ Began s t h (bpEng h) 0 0 [(10, 1)] (jobOf s h i (termOf s h (bpEng h) 0 0) []) [(now s + 4, Micro.bauStart)])

/-- An execute-stream command that issues (its loop counters are LC2 and LC3): DLV and DLVS, with the delivery port free, pop
four entries a cycle and write each to Crucible, or push it to a spool, in the next cycle, where READY counts it (R153); DROP
holds no path, pops four a cycle and counts READY in the same cycles (R150; which path it holds is the model's reading, log
entry 11). -/
def Obligations.ExecuteStreamCommandsBegin : Prop :=
  (∀ (h : Iss) (bu : BU) (q : BitVec 2) (count : BitVec 8) (dst : BitVec 16) (s : State),
    let i := Instr.dlv h bu q count dst
    let e := bpEng h
    let b := bpOf h.strm.val
    let n := count.toNat + 1
    let d := termOf s h e 2 bu.cuse.toNat
    Issues s h i → PathsFree s h.core.val e [(12, cdiv n 4)] →
    ∃ t, exec i s = .next t ∧ Began s t h e 2 bu.cinc.toNat [(12, cdiv n 4)] (jobOf s h i d [])
      ((List.range n).flatMap fun (k : Nat) => [(now s + k / 4, Micro.qPop b q.toNat k), (now s + k / 4 + 1, Micro.wrRow 5 (dst.toNat + d + k) k), (now s + k / 4 + 1, Micro.qReady b q.toNat k)])) ∧
  (∀ (h : Iss) (q : BitVec 2) (count : BitVec 8) (spool : BitVec 5) (s : State),
    let i := Instr.dlvs h q count spool
    let e := bpEng h
    let b := bpOf h.strm.val
    let n := count.toNat + 1
    Issues s h i → PathsFree s h.core.val e [(12, cdiv n 4)] →
    ∃ t, exec i s = .next t ∧ Began s t h e 2 0 [(12, cdiv n 4)] (jobOf s h i (termOf s h e 2 0) [])
      ((List.range n).flatMap fun (k : Nat) => [(now s + k / 4, Micro.qPop b q.toNat k), (now s + k / 4 + 1, Micro.spPush spool.toNat k), (now s + k / 4 + 1, Micro.qReady b q.toNat k)])) ∧
  (∀ (h : Iss) (q : BitVec 2) (count : BitVec 8) (s : State),
    let i := Instr.drop h q count
    let e := bpEng h
    let b := bpOf h.strm.val
    Issues s h i →
    ∃ t, exec i s = .next t ∧ Began s t h e 2 0 [] (jobOf s h i (termOf s h e 2 0) [])
      ((List.range (count.toNat + 1)).flatMap fun (k : Nat) => [(now s + k / 4, Micro.qPop b q.toNat k), (now s + k / 4, Micro.qReady b q.toNat k)]))

/-- RD_ENTRY_ARRIVAL and ATTEND_DELIVERY, on a running device, in the cycle in which exactly one entry of theirs is due at a queue:
the entry is at the queue's door, with the stream and index of its command, and as the cycle ends, after the cycle's pops (Table
5-6), an entry at the door enters the queue's end if the queue holds fewer than 64, else it is dropped with 0x0681, severity 2, and
OVERRUN counts (R150). Every other queue and the memory are unchanged. -/
def Obligations.EntriesArrive : Prop :=
  (∀ (c : Fin 60) (b : Fin 2) (q : BitVec 2) (p : Fin 8) (s : State) (a : Act) (key : Nat), p.val = s.phase → Running s →
    a.op = Micro.qPut b.val q.toNat key → key ≠ idxKey → a.core = c.val → a.cyc ≤ now s → a ∈ s.acts →
    (∀ x ∈ s.acts, x.core = c.val → x.cyc ≤ now s → ∀ k, x.op = Micro.qPut b.val q.toNat k → x = a) →
    s.acts.count a = 1 →
    ∀ i, (i = Instr.rdEntryArrival c b q p ∧ (∃ h o, (job s a.job).cmd = .rd h o) ∨
          i = Instr.rdEntryArrival c b q p ∧ (∃ h o, (job s a.job).cmd = .gather h o) ∨
          i = Instr.attendDelivery c b q p ∧ (∃ h o, (job s a.job).cmd = .attend h o)) →
    ∃ t, exec i s = .next t ∧ t = { s with cores := t.cores, acts := s.acts.erase a } ∧
      (∀ d, d ≠ c.val → core t d = core s d) ∧
      ∀ b' q', q' < 4 → queue t c.val b' q' = if b' = b.val ∧ q' = q.toNat then
        { queue s c.val b.val q.toNat with incoming := (queue s c.val b.val q.toNat).incoming ++ [(jobGet (job s a.job) key, (job s a.job).strm, (job s a.job).index)] }
        else queue s c.val b' q') ∧
  (∀ (s : State) (c b q : Nat) (e : Row × Nat × Nat), q < 4 →
    let t := settleQueue s c (4 * b + q) [e]
    t.mem = s.mem ∧ t.acts = s.acts ∧ (∀ d, d ≠ c → core t d = core s d) ∧
      (∀ b' q', q' < 4 → ¬(b' = b ∧ q' = q) → queue t c b' q' = queue s c b' q') ∧ (queue t c b q).incoming = [] ∧
      (if (queue s c b q).items.length < 64 then
        (queue t c b q).items = (queue s c b q).items ++ [e.1] ∧ t.faults = s.faults
       else (queue t c b q).items = (queue s c b q).items ∧ (queue t c b q).overrun = min 255 ((queue s c b q).overrun + 1) ∧ Recorded s t 0x0681 2))

/-- In a planned refresh tick of a bank (R219), its refresh starts: its row closes and it is busy for 160 cycles; inside a gather
window each refresh that falls due is deferred instead (R220), and the first deferred one of a channel starts outside it, one in a
tick. At an activation window's start every bank of the stack counts from 0 again and its channel keeps its highest count (R222).
Where this cycle and its write-back lie in the background window, no variant starts with the next frame (R315) and the channel works
(R207), a patrol read of the next channel entry requests the entry now and writes it back two cycles later; one of a bank in refresh
is skipped and kept for later (R225). -/
def Obligations.RefreshActivationAndPatrol : Prop :=
  (∀ (k : Fin 12) (ch : Fin 64) (b : Fin 16) (s : State), launched s = true → s.phase = 0 → refreshOfs s k.val ch.val b.val ≤ frameTick s →
    (frameTick s - refreshOfs s k.val ch.val b.val) % max 1 (rf s (drmA k.val 0x018) 0 10) = 0 →
    let i := k.val * 64 + ch.val
    ∃ t, exec (.refreshStart k ch b) s = .next t ∧
      (gatherWin s k.val (frameTick s) = none → t = { s with dbanks := t.dbanks } ∧
        ∀ n, dbank t n = if n = i * 16 + b.val then { dbank s n with openRow := none, refUntil := now s + 160 } else dbank s n) ∧
      (gatherWin s k.val (frameTick s) ≠ none → (dbank s (i * 16 + b.val)).defAt ≠ now s + 1 → t = { s with chans := t.chans, dbanks := t.dbanks } ∧
        (∀ n, chan t n = if n = i then { chan s n with deferred := (chan s n).deferred ++ [b.val] } else chan s n) ∧
        ∀ n, dbank t n = if n = i * 16 + b.val then { dbank s n with defAt := now s + 1 } else dbank s n)) ∧
  (∀ (k : Fin 12) (ch : Fin 64) (s : State) (b : Nat) (l : List Nat), let i := k.val * 64 + ch.val
    (chan s i).deferred = b :: l → s.phase = 0 → gatherWin s k.val (frameTick s) = none → (chan s i).lastDef ≠ now s + 1 →
    ∃ t, exec (.deferredRefresh k ch) s = .next t ∧ t = { s with dbanks := t.dbanks, chans := t.chans } ∧
      (∀ n, dbank t n = if n = i * 16 + b then { dbank s n with openRow := none, refUntil := now s + 160 } else dbank s n) ∧
      (∀ n, chan t n = if n = i then { chan s n with deferred := l, lastDef := now s + 1 } else chan s n)) ∧
  (∀ (k : Fin 12) (s : State), launched s = true → s.phase = 0 → (ttc s - launchT s) % max 1 (rf s (drmA k.val 0x020) 0 16) = 0 →
    ∃ t, exec (.activationWindowStart k) s = .next t ∧ t = { s with dbanks := t.dbanks, chans := t.chans } ∧
      (∀ n, dbank t n = if n / 1024 = k.val then { dbank s n with acts := 0 } else dbank s n) ∧
      (∀ n, n / 1024 = k.val → (dbank s n).acts ≤ (chan t (n / 16)).actPeak) ∧
      (∀ n, (chan s n).actPeak ≤ (chan t n).actPeak ∧ chan t n = { chan s n with actPeak := (chan t n).actPeak })) ∧
  (∀ (k : Fin 12) (ch : Fin 64) (p : Fin 8) (s : State), p.val = s.phase → planOn s = true → patrolFits s k.val = true → scheduled s = none → chanFailed s (k.val * 2 ^ 28 + ch.val) = false →
    let i := k.val * 64 + ch.val
    let c := chan s i
    c.patDone + c.patSkip.length < rf s (drmA k.val 0x028) 0 20 →
    ∃ t, exec (.patrolRead k ch p) s = .next t ∧ (∀ n, n ≠ i → chan t n = chan s n) ∧
      (chan t i).patPos = (c.patPos + 1) % 2 ^ 22 ∧
      (if now s < (dbank s (i * 16 + patrolBank c.patPos)).refUntil then
        t = { s with chans := t.chans } ∧ (chan t i).patSkip = c.patSkip ++ [c.patPos] ∧ (chan t i).patDone = c.patDone
       else
        let e := k.val * 2 ^ 28 + c.patPos * 64 + ch.val
        t = { s with chans := t.chans, jobs := t.jobs, acts := t.acts, nextJob := s.nextJob + 1 } ∧ (chan t i).patDone = c.patDone + 1 ∧
        job t s.nextJob = { noJob with cmd := .patrolRead k ch p, core := 5 * k.val, t0 := now s } ∧
        t.acts = s.acts ++ [{ cyc := now s, core := 5 * k.val, job := s.nextJob, op := Micro.dReq false e 0 },
                            { cyc := now s + 2, core := 5 * k.val, job := s.nextJob, op := Micro.dReq true e 0 }]))

/-- A stack temperature reading (R221): the register takes the reading and the highest one, the limit of the refresh class is
95 or 85, within two degrees of it 0x060C (severity 1) is recorded, at or above it also 0x060D (severity 3); at 105 degrees
and above the device trips (R474). That both codes are recorded at or above the limit is the model's reading. -/
def Obligations.StackTemperatureLimits : Prop :=
  ∀ (k : Fin 12) (x : BitVec 8) (s : State),
    let a := drmA k.val 0x008
    let limit := if rf s (drmA k.val 0x000) 1 2 = 2 then 95 else 85
    let n := x.toNat
    ∃ t, exec (.stackTemperatureReading k x) s = .next t ∧ t.mem = s.mem ∧ t.cores = s.cores ∧ t.pending = s.pending ∧
      rf t a 56 8 = n ∧ rf t a 48 8 = max n (rf s a 48 8) ∧ rf t a 1 1 = b2n (decide (limit ≤ n)) ∧ rf t a 0 1 = b2n (decide (limit ≤ n + 2)) ∧
      (∀ b, b ≠ a → rg t b = rg s b) ∧
      (n + 2 < limit → t.faults = s.faults ∧ t.vote = s.vote ∧ t.halted = s.halted) ∧
      (limit ≤ n + 2 → n < limit → Recorded s t 0x060C 1 ∧ t.vote = s.vote ∧ t.halted = s.halted) ∧
      (limit ≤ n → (∃ f g, t.faults = s.faults ++ [f, g] ∧ f.code = 0x060C ∧ f.sev = 1 ∧ g.code = 0x060D ∧ g.sev = 3 ∧ g.ttc = ttc s) ∧ t.evacuate = true) ∧
      (105 ≤ n → t.thermtrip = true) ∧ (105 ≤ n → s.thermtrip = false → t.halted = true)

/-- An alarm's compare value is stored: one greater than TT_COUNT arms the comparator, one not greater never fires and sets PAST. An
armed comparator that is enabled and that the ownership table gives to a feature (R320) fires in the tick of its value: FIRED is set,
the Keel is interrupted, and it is armed no more (R49). A rising edge on a pin in capture mode stores the stamp, to within a cycle
(R43). The time master's initial count is stored until acquisition (R47). A launch write to a device in state 5 of its load arms it
if it has acquired and TT_COUNT ≤ TT_LAUNCH - 156,250, and otherwise records 0x010C with severity 4 (R48). -/
def Obligations.AlarmsPinsAndLaunchWrites : Prop :=
  (∀ (n : Fin 16) (v : BitVec 64) (s : State), ∃ t, exec (.alarmWrite n v) s = .next t ∧
    t = { s with regs := t.regs, tether := { s.tether with armed := t.tether.armed } } ∧
    rg t (ttA (0x200 + 16 * n.val)) = v.toNat ∧
    rf t (ttA (0x208 + 16 * n.val)) 2 1 = (if v.toNat ≤ ttc s then 1 else rf s (ttA (0x208 + 16 * n.val)) 2 1) ∧
    rf t (ttA (0x208 + 16 * n.val)) 0 2 = rf s (ttA (0x208 + 16 * n.val)) 0 2 ∧
    (n.val ∈ t.tether.armed ↔ ttc s < v.toNat) ∧ (∀ k, k ≠ n.val → (k ∈ t.tether.armed ↔ k ∈ s.tether.armed)) ∧
    ∀ a, a ≠ ttA (0x200 + 16 * n.val) → a ≠ ttA (0x208 + 16 * n.val) → rg t a = rg s a) ∧
  (∀ (n : Fin 16) (s : State), let c := ttA (0x208 + 16 * n.val)
    rf s c 0 1 = 1 → alarmOwned s n.val = true → n.val ∈ s.tether.armed → rg s (ttA (0x200 + 16 * n.val)) = ttc s →
    ∃ t, exec (.alarmFire n) s = .next t ∧
      t = { s with regs := t.regs, tether := { s.tether with armed := t.tether.armed }, sent := s.sent ++ [.keelIrq "alarm" n.val] } ∧
      rf t c 1 1 = 1 ∧ rf t c 0 1 = 1 ∧ rf t c 2 1 = rf s c 2 1 ∧
      n.val ∉ t.tether.armed ∧ (∀ k, k ≠ n.val → (k ∈ t.tether.armed ↔ k ∈ s.tether.armed)) ∧ ∀ a, a ≠ c → rg t a = rg s a) ∧
  (∀ (b : Bool) (p : Fin 8) (err : Fin 3) (s : State), p.val = s.phase → fld (tsyncCfg s b) 0 2 = 1 → 1 ≤ stamp s → stamp s < 2 ^ 64 - 1 →
    ∃ t, exec (.tsyncCapture b p err) s = .next t ∧ t = { s with regs := t.regs } ∧
      rg t (ttA (if b then 0x050 else 0x048)) = stamp s + err.val - 1 ∧ ∀ a, a ≠ ttA (if b then 0x050 else 0x048) → rg t a = rg s a) ∧
  (∀ (v : BitVec 64) (s : State), upstream s = 31 → acquired s = false → exec (.ttCountSetWrite v) s = .next (setRg s (ttA 0x038) v.toNat)) ∧
  (∀ (v : BitVec 64) (s : State), launched s = false → secReady s = true → rf s (parA 0x000) 60 4 = 5 →
    ∃ t, exec (.ttLaunchWrite v) s = .next t ∧ rg t (ttA 0x010) = v.toNat ∧ t.mem = s.mem ∧ t.cores = s.cores ∧
      (acquired s = true ∧ ttc s + 156250 ≤ v.toNat → rf t (ttA 0x018) 2 1 = 1 ∧ t.faults = s.faults) ∧
      (¬ (acquired s = true ∧ ttc s + 156250 ≤ v.toNat) → Recorded s t 0x010C 4 ∧ t.halted = true ∧ rg t (ttA 0x018) = rg s (ttA 0x018)))

/-- A tick without an upset, its cycles carried out to their end and what has crossed to the root delivered (R44), as state u: the phase is 0 again, KEL_UPTIME counts one (R439),
and after acquisition so does TT_COUNT, which before it stands (R46); a reference switch that was waiting takes effect (R55).
Memory, cores and faults are as u has them; only TSYNC pulses are sent. -/
def Obligations.TickAdvancesTheCounts : Prop :=
  ∀ s : State, let u := rootTake (finishTick s)
    ∃ t, exec (.tick []) s = .next t ∧ t.phase = 0 ∧
      rg t (kelA 0x110) = (rg u (kelA 0x110) + 1) % 2 ^ 64 ∧
      ttc t = (if acquired u then (ttc u + 1) % 2 ^ 64 else ttc u) ∧
      (∀ r, u.tether.refNext = some r → rf t (clkA 0x000) 8 2 = r % 4 ∧ t.tether = { u.tether with refNext := none }) ∧
      (u.tether.refNext = none → t.tether = u.tether ∧ rg t (clkA 0x000) = rg u (clkA 0x000)) ∧
      (∃ l, t.sent = u.sent ++ l ∧ ∀ o ∈ l, ∃ b n, o = .tsync b n) ∧
      (∀ a, a ≠ kelA 0x110 → a ≠ ttA 0x000 → a ≠ clkA 0x000 → rg t a = rg u a) ∧
      t = { u with phase := 0, regs := t.regs, tether := t.tether, sent := t.sent }

/-- An armed device that has not halted launches step 0 at phase 0 of tick TT_LAUNCH (R48). At phase 0 of a frame's first tick a
launched device counts TT_STEP, shows what the last step committed (R32) and begins the step (R46, R134), launching first if it was admitted in stage 9 (R391), and
stopping for a reheat that waits (R430). At phase 0 of the window's first tick the commit window opens once (R58, R150, R238,
R315). -/
def Obligations.FramesBegin : Prop :=
  (∀ s : State, launched s = false → rf s (ttA 0x018) 2 1 = 1 → s.halted = false → s.phase = 0 → ttc s = launchT s →
    exec .launchTick s = .next (beginStep (launch (setRg s (ttA 0x008) 0))) ∧ stepNo (setRg s (ttA 0x008) 0) = 0) ∧
  (∀ s : State, launched s = true → s.phase = 0 → ttc s = frameStartT s + frameLen s →
    let u := { setRf s (ttA 0x008) 0 48 (stepNo s + 1) with shown := none }
    stepNo u = (stepNo s + 1) % 2 ^ 48 ∧ u = { s with regs := u.regs, shown := none } ∧ (∀ a, a ≠ ttA 0x008 → rg u a = rg s a) ∧
    (startKind s = 2 ∧ stage s = 1 → exec .frameStart s = .next (stopForReheat u)) ∧
    (¬ (startKind s = 2 ∧ stage s = 1) → s.halted = true → exec .frameStart s = .next u) ∧
    (¬ (startKind s = 2 ∧ stage s = 1) → s.halted = false → stage s ≠ 9 → exec .frameStart s = .next (beginStep u)) ∧
    (s.halted = false → stage s = 9 → s.crl.nextVar = none → exec .frameStart s = .next (beginStep (launch u))) ∧
    (∀ v, s.halted = false → stage s = 9 → s.crl.nextVar = some v → exec .frameStart s = .next (beginStep (launch (copyVariant u v))))) ∧
  (∀ s : State, s.phase = 0 → planOn s = true → s.vote.opened = false → frameTick s = frameLen s - cwLen s →
    exec .commitWindowOpen s = .next (openWindow s))

/-- With its mirror complete, a device fixes its vote in its tick: a commit vote sets its own bit, a void one its void flag; a gather
message of the step merges exactly its bits and its void flag; a decide message merges its void flag (R58). Before each decide
round's message a device that lacks a bit of the plan is void too. At the decision tick a device that holds a void voids the
step: its pending words, deltas and mirrored writes go, the void is counted, and memory stands; otherwise the step commits (R31,
R32, R58). -/
def Obligations.VotesAreFixedGatheredAndDecided : Prop :=
  (∀ s : State, planOn s = true → s.vote.fixed = false → frameTick s = gatherOfs s → unmirrored s = [] →
    ∃ t, exec .voteFix s = .next t ∧ t = { s with vote := t.vote } ∧ t.vote.fixed = true ∧ t.vote.castVoid = s.vote.void ∧
      t.vote.void = s.vote.void ∧ t.vote.seen = (s.vote.seen || s.vote.void) ∧
      ∀ d, d ∈ t.vote.bitmap ↔ d ∈ s.vote.bitmap ∨ (s.vote.void = false ∧ d = myIx s)) ∧
  (∀ (n : Fin 24) (m : TetherMsg) (s : State), planOn s = true → inGather s = true → fld m.stampA.toNat 0 48 = stepNo s →
    ∃ t, exec (.voteGather n m) s = .next t ∧ t = { s with vote := { s.vote with bitmap := t.vote.bitmap, seen := t.vote.seen } } ∧
      t.vote.seen = (s.vote.seen || bitAt m.flags.toNat 0) ∧
      ∀ d, d ∈ t.vote.bitmap ↔ d ∈ s.vote.bitmap ∨ (d / 1792 = m.exchange.toNat ∧ bitAt m.bitmap.toNat (d % 1792) = true)) ∧
  (∀ (n : Fin 24) (m : TetherMsg) (s : State), planOn s = true → inGather s = false → exec (.voteGather n m) s = .next s) ∧
  (∀ s : State, let r := s.vote.gather + 1
    planOn s = true → s.vote.fixed = true → alone s = false → r ≤ rounds s → frameTick s = gatherOfs s + s.vote.gather * roundLen s →
    ∃ t, exec .gatherRound s = .next t ∧ t = { s with vote := { s.vote with gather := r }, links := t.links } ∧
      t.links = (forN (cdiv (rf s (parA 0x030) 16 13 + 1) 1792) s fun k s => sendVotes s 3 (b2n s.vote.seen) k (chunkBits s.vote.bitmap k)).links ∧
      ∀ n, n ∉ voteLinkList s → link t n = link s n) ∧
  (∀ s : State, let r := s.vote.decide + 1
    let v := s.vote.seen || (r == 1 && (planDevices s).any fun d => !s.vote.bitmap.contains d)
    planOn s = true → s.vote.fixed = true → alone s = false → r ≤ rounds s → frameTick s = decideOfs s + s.vote.decide * roundLen s →
    ∃ t, exec .decideRound s = .next t ∧ t = { s with vote := { s.vote with decide := r, seen := v }, links := t.links } ∧
      t.links = (sendVotes s 4 (b2n v) 0 0).links ∧ ∀ n, n ∉ voteLinkList s → link t n = link s n) ∧
  (∀ (n : Fin 24) (m : TetherMsg) (s : State), planOn s = true → inDecide s = true → m.exchange = 0 → fld m.stampA.toNat 0 48 = stepNo s →
    exec (.voteDecide n m) s = .next { s with vote := { s.vote with seen := s.vote.seen || bitAt m.flags.toNat 0 } }) ∧
  (∀ (b : Bool) (s : State), planOn s = true → s.vote.fixed = true → s.vote.decided = false → frameTick s = decisionOfs s →
    ∃ t, exec (.decisionTick b) s = .next t ∧
      (holdsVoid s = false → t.vote.decided = true ∧ t.vote.lastCommit = true ∧ t = commitStep s b) ∧
      (holdsVoid s = true → s.crl.absent.length < 3 →
        t.vote.decided = true ∧ t.vote.lastCommit = false ∧ t.vote.voidRun = s.vote.voidRun + 1 ∧ t.strmPend = [] ∧ t.fritDelta = [] ∧ t.twinPend = [] ∧
        rg t (ttA 0x058) = min (2 ^ 64 - 1) (rg s (ttA 0x058) + 1) ∧ (∀ a, a ≠ ttA 0x058 → rg t a = rg s a) ∧
        t = { s with vote := t.vote, strmPend := [], fritDelta := [], twinPend := [], regs := t.regs, srvs := t.srvs, crl := t.crl }))

/-- In the first ROUND_LEN ticks of step s + 1 a device that decided step s sends its decision once on a vote link; during step 0 it
sends none. One that committed a step its neighbour voided records 0x010D and halts; one that voided a step its neighbour committed
records 0x0110 (R59). A due exchange sends its request; on a link that is down it is skipped with VALID 0, and one of the sync epoch
that meets a retrain is deferred to the next window, counted and recorded (R53). The answer to a request carries t1 and t2; a link
in search passes none (R282). After acquisition the requester computes θ, rounded toward zero, and writes it; below 8 cycles OVER_RUN is cleared, else the offset event is counted and
recorded, and a third in a row is recorded too (R51, R52). The classes of the records are the model's (log entry 8). -/
def Obligations.SynchronisationMessages : Prop :=
  (∀ (n : Fin 24) (k : Nat) (b : Bool) (s : State), planOn s = true → alone s = false → s.vote.confirm = some (k, b) → k + 1 = stepNo s →
    frameTick s < roundLen s → bitAt s.voteLinks n.val = true → n.val ∉ s.vote.confSent →
    exec (.confirmSend n) s = .next (sendMgmt { s with vote := { s.vote with confSent := s.vote.confSent ++ [n.val] } } n.val 1 2
      (mgmtRows 4 (myMsg s (2 * b2n b) 1 k 0 0 0)))) ∧
  (∀ (n : Fin 24) (s : State), stepNo s = 0 ∨ n.val ∈ s.vote.confSent ∨ s.vote.confirm = none → exec (.confirmSend n) s = .next s) ∧
  (∀ (n : Fin 24) (m : TetherMsg) (b : Bool) (s : State), planOn s = true → m.exchange = 1 → frameTick s < roundLen s →
    fld m.stampA.toNat 0 48 + 1 = stepNo s → s.vote.confirm = some (fld m.stampA.toNat 0 48, b) →
    ∃ t, exec (.confirmReceive n m) s = .next t ∧ t = { s with faults := t.faults, vote := t.vote, evacuate := t.evacuate, halted := t.halted } ∧
      (b = true → bitAt m.flags.toNat 1 = false → Recorded s t 0x010D 4 ∧ t.halted = true) ∧
      (b = false → bitAt m.flags.toNat 1 = true → Recorded s t 0x0110 0 ∧ t.halted = s.halted ∧ t.vote = s.vote) ∧
      (b = bitAt m.flags.toNat 1 → t = s)) ∧
  (∀ (n : Fin 24) (p : Fin 8) (s : State), s.phase ≤ p.val → let u := runTo s p.val
    syncDue u n.val = true →
    (acquired u = true → lnkSt u n.val = 4 → syncEpoch u n.val = true →
      ∃ t, exec (.syncExchangeStart n p) s = .next t ∧ Recorded u t 0x0109 0 ∧ link t n.val = { link u n.val with epochAt := ttc u + 1 } ∧
        rf t (ttA 0x030) 48 16 = min (2 ^ 16 - 1) (rf u (ttA 0x030) 48 16 + 1) ∧
        ∀ m, rf t (ttA (0x100 + 4 * m)) 24 4 = rf u (ttA (0x100 + 4 * m)) 24 4) ∧
    (acquired u = true → lnkSt u n.val = 5 →
      exec (.syncExchangeStart n p) s = .next (setRf (modLink u n.val fun l => { l with epochAt := ttc u + 1 }) (ttA (0x100 + 4 * n.val)) 31 1 0)) ∧
    ((acquired u = true → lnkSt u n.val ≠ 5 ∧ (lnkSt u n.val = 4 → syncEpoch u n.val = false)) →
      exec (.syncExchangeStart n p) s = .next
        (let k := (link u n.val).syncNo
         let e := if acquired u && syncEpoch u n.val then ttc u + 1 else (link u n.val).epochAt
         let v := modLink u n.val fun l => { l with epochAt := e, syncNo := (k + 1) % 65536, syncWait := some k, syncAt := uptime u + 1 }
         sendMgmt v n.val 0 3 (mgmtRows 1 (myMsg v 0 k 0 0 0 0))))) ∧
  (∀ (n : Fin 24) (p : Fin 8) (m : TetherMsg) (s : State), s.phase ≤ p.val → let u := runTo s p.val
    ((link u n.val).search = false →
      exec (.syncReq n p m) s = .next (sendMgmt u n.val 0 3 (mgmtRows 2 (myMsg u 0 m.exchange.toNat 0 (linkStamp u) m.stampA.toNat 0)))) ∧
    ((link u n.val).search = true → exec (.syncReq n p m) s = .next u)) ∧
  (∀ (n : Fin 24) (p : Fin 8) (m : TetherMsg) (s : State), s.phase ≤ p.val → let u := runTo s p.val
    let t1 := m.echo.toNat
    let θ := (stampDiff m.stampB.toNat t1 - stampDiff (stamp u) m.stampA.toNat).tdiv 2
    let a := ttA (0x100 + 4 * n.val)
    (link u n.val).syncWait = some m.exchange.toNat → (link u n.val).search = false → acquired u = true → lnkSt u n.val ≠ 2 → lnkSt u n.val ≠ 4 →
    ∃ t, exec (.syncResp n p m) s = .next t ∧ t = { u with regs := t.regs, links := t.links, faults := t.faults, vote := t.vote, evacuate := t.evacuate, halted := t.halted } ∧
      rf t a 0 16 = wrapN 16 θ ∧ rf t a 31 1 = 1 ∧ (link t n.val).syncWait = none ∧ (∀ k, k ≠ n.val → link t k = link u k) ∧
      (θ.natAbs < 8 → rf t a 24 4 = 0 ∧ (link t n.val).offs3 = [] ∧ t.faults = u.faults) ∧
      (8 ≤ θ.natAbs → rf t a 24 4 = min 15 (rf u a 24 4 + 1) ∧ (link t n.val).offs3 = (link u n.val).offs3 ++ [θ] ∧
        ∃ f, f.code = 0x0107 ∧ f.sev = 2 ∧
          (((link u n.val).offs3.length ≠ 2 → t.faults = u.faults ++ [f]) ∧
           ((link u n.val).offs3.length = 2 → ∃ g, g.code = 0x0108 ∧ g.sev = 3 ∧ t.faults = u.faults ++ [f, g])))) ∧
  (∀ (n : Fin 24) (p : Fin 8) (m : TetherMsg) (s : State), s.phase ≤ p.val → (link (runTo s p.val) n.val).syncWait ≠ some m.exchange.toNat ∨ (link (runTo s p.val) n.val).search = true →
    exec (.syncResp n p m) s = .next (runTo s p.val))

/-- An unacquired time master takes the count of TT_COUNT_SET, in a cold start that of its start configuration record; every other
device with an upstream link begins its exchanges, and records 0x010E when 64 are not complete 262,144 tt after the first answer
(R47). A lost active reference A with B present switches to B, with no other reference to the clock recovered from REC_LINK, else
the device holds over; a lost B switches to the recovered clock or holds over; under telltale monitoring alone it always holds over;
a lost standby is recorded where references are monitored (R54). A source about to take effect counts as active. A switch takes
effect at the next tick and is counted (R55). A holdover of 15,625,000 tt, once, and a region PLL that loses lock, are recorded
(R56). The sources and details of the records are the model's (log entry 8). -/
def Obligations.AcquisitionAndReferences : Prop :=
  (∀ s : State, acquired s = false → upstream s = 31 → stage s ≠ 6 →
    (startKind s = 2 ∨ s.flash.startCfg = none → exec .acqStart s = .next (setRf (setRg s (ttA 0x000) (rg s (ttA 0x038))) (ttA 0x018) 1 1 1)) ∧
    (∀ c, startKind s ≠ 2 → s.flash.startCfg = some c → exec .acqStart s = .next (setRf (setRg s (ttA 0x000) c.2.2) (ttA 0x018) 1 1 1))) ∧
  (∀ s : State, acquired s = false → upstream s < 30 →
    exec .acqStart s = .next { s with tether := { s.tether with acqOn := true, acqOffs := [], acqFrom := none } }) ∧
  (∀ s : State, acquired s = true → exec .acqStart s = .next s) ∧
  (∀ (s : State) (t0 : Nat), s.tether.acqFrom = some t0 → s.tether.acqOn = true → stage s ≠ 6 →
    (t0 + 262144 ≤ rg s (kelA 0x110) → ∃ t, exec .acquisitionTimeout s = .next t ∧ Recorded s t 0x010E 4 ∧
      t.tether = { s.tether with acqOn := false } ∧ t.halted = true ∧ t.regs = s.regs) ∧
    (rg s (kelA 0x110) < t0 + 262144 → exec .acquisitionTimeout s = .next s)) ∧
  (∀ s : State, let u := { setRf s (clkA 0x000) 0 1 0 with tether := { s.tether with lostA := true } }
    let active := s.tether.refNext.getD (rf s (clkA 0x000) 8 2)
    (active = 0 → monMode s ≠ 2 → rf s (clkA 0x000) 1 1 = 1 → s.tether.lostB = false →
      exec (.referenceLoss .a) s = .next (switchRef (raise u 0x0101 1 0x08 18 0xFFFF (det [(0, 8, ttc s + 1)])) 1)) ∧
    (active = 0 → monMode s ≠ 2 → s.tether.lostB = true → rf s (clkA 0x004) 16 5 ≠ 31 →
      exec (.referenceLoss .a) s = .next (switchRef (raise u 0x0103 1 0x08 18 0xFFFF (det [(0, 1, rf s (clkA 0x004) 16 5)])) 2)) ∧
    (active = 0 → monMode s = 2 ∨ (s.tether.lostB = true ∧ rf s (clkA 0x004) 16 5 = 31) →
      exec (.referenceLoss .a) s = .next (holdover u 0)) ∧
    (active ≠ 0 → monMode s ≠ 2 →
      exec (.referenceLoss .a) s = .next (raise u 0x0102 1 0x08 18 0xFFFF (det [(0, 1, 0)]))) ∧
    (active ≠ 0 → monMode s = 2 → exec (.referenceLoss .a) s = .next u)) ∧
  (∀ s : State, let u := { setRf s (clkA 0x000) 1 1 0 with tether := { s.tether with lostB := true } }
    let active := s.tether.refNext.getD (rf s (clkA 0x000) 8 2)
    (active = 1 → monMode s ≠ 2 → rf s (clkA 0x004) 16 5 ≠ 31 →
      exec (.referenceLoss .b) s = .next (switchRef (raise u 0x0103 1 0x08 18 0xFFFF (det [(0, 1, rf s (clkA 0x004) 16 5)])) 2)) ∧
    (active = 1 → monMode s = 2 ∨ rf s (clkA 0x004) 16 5 = 31 → exec (.referenceLoss .b) s = .next (holdover u 1)) ∧
    (active ≠ 1 → monMode s ≠ 2 → exec (.referenceLoss .b) s = .next (raise u 0x0102 1 0x08 18 0xFFFF (det [(0, 1, 1)])))) ∧
  (∀ s : State, s.tether.refNext.getD (rf s (clkA 0x000) 8 2) = 2 → exec (.referenceLoss .recovered) s = .next (holdover s 2)) ∧
  (∀ (s : State) (r : Nat), switchRef s r = { s with regs := (bump s (clkA 0x008) 0 32).regs, tether := { s.tether with refNext := some r }, yawRef := s.yawRef + 1 }) ∧
  (∀ (s : State) (l : Nat), ∃ t, holdover s l = t ∧ Recorded s t 0x0104 3 ∧ rf t (clkA 0x000) 8 2 = 3 ∧
    t.tether = { s.tether with refNext := none, holdTtc := ttc s, holdUp := rg s (kelA 0x110), holdDone := false } ∧ (∀ a, a ≠ clkA 0x000 → rg t a = rg s a)) ∧
  (∀ s : State, exec (.referenceRestored .a) s = .next (setRf s (clkA 0x000) 0 1 1) ∧
    exec (.referenceRestored .b) s = .next (setRf s (clkA 0x000) 1 1 1) ∧ exec (.referenceRestored .recovered) s = .next s) ∧
  (∀ s : State, rf s (clkA 0x000) 8 2 = 3 →
    (s.tether.holdUp + 15625000 ≤ rg s (kelA 0x110) → s.tether.holdDone = false →
      exec .holdoverTimeout s = .next (raise { s with tether := { s.tether with holdDone := true } } 0x010F 4 0x08 18 0xFFFF (det [(0, 8, s.tether.holdTtc)]))) ∧
    (rg s (kelA 0x110) < s.tether.holdUp + 15625000 ∨ s.tether.holdDone = true → exec .holdoverTimeout s = .next s)) ∧
  (∀ (r : Fin 18) (s : State), exec (.pllUnlock r) s = .next (raise s 0x0106 4 0x08 r.val 0xFFFF (det [(0, 1, r.val)])))

/-- A gaffer instruction that starts on good words puts its result into rd and starts the next instruction after the latency of
Table 6-1: register and immediate arithmetic as RV32IM with Zba and Zbb has it, LUI, JAL, branches, word loads and stores of data
memory (R158, R159, R161). ECALL, EBREAK and an illegal instruction record 0x0409, count it and stop the gaffer (R160). A word of
instruction memory that cannot be corrected records 0x040B and stops it (R162). The trap causes are the model's, those of RISC-V. -/
def Obligations.GafferInstructionsComplete : Prop :=
  ∀ (c : Fin 60) (p : Fin 8) (s : State), s.phase ≤ p.val →
    let u := runTo s p.val
    let g := (core u c.val).gaf
    let X := xreg u c.val
    let nxt := g.pc + (gafWord u c.val).2
    (∀ f7 f3 rd rs1 rs2 r, GafReady u c.val (.op f7 f3 rd rs1 rs2) → f7 ≠ 4 → aluOp f7 f3 (X rs1) (X rs2) = some r →
      ∃ t, exec (.gafferInstruction c p) s = .next t ∧
        GafDone u t c.val rd (wrapN 32 r) nxt (if f7 = 1 then (if f3 < 4 then 3 else 34) else 1)) ∧
    (∀ f3 rd rs1 imm r, GafReady u c.val (.opImm f3 rd rs1 imm) → aluImm f3 (X rs1) imm = some r →
      ∃ t, exec (.gafferInstruction c p) s = .next t ∧ GafDone u t c.val rd (wrapN 32 r) nxt 1) ∧
    (∀ rd imm, GafReady u c.val (.lui rd imm) →
      ∃ t, exec (.gafferInstruction c p) s = .next t ∧ GafDone u t c.val rd (imm % 2 ^ 32) nxt 1) ∧
    (∀ rd ofs, GafReady u c.val (.jal rd ofs) →
      ∃ t, exec (.gafferInstruction c p) s = .next t ∧ GafDone u t c.val rd (nxt % 2 ^ 32) (g.pc + ofs) 2) ∧
    (∀ f3 rs1 rs2 ofs, GafReady u c.val (.branch f3 rs1 rs2 ofs) →
      ∃ t, exec (.gafferInstruction c p) s = .next t ∧
        GafDone u t c.val 0 0 (if (match f3 with
          | 0 => decide (X rs1 = X rs2) | 1 => decide (X rs1 ≠ X rs2) | 4 => decide (sw (X rs1) < sw (X rs2)) | 5 => decide (sw (X rs2) ≤ sw (X rs1))
          | 6 => decide (X rs1 < X rs2) | _ => decide (X rs2 ≤ X rs1)) = true then g.pc + ofs else nxt) 2) ∧
    (∀ rd rs1 imm, let a := (X rs1 + imm) % 2 ^ 32
      GafReady u c.val (.load 2 rd rs1 imm) → 0x00100000 ≤ a → a < 0x00120000 → a % 4 = 0 → tget 0 g.bad (gafKey true ((a - 0x00100000) / 4)) = 0 →
      ∃ t, exec (.gafferInstruction c p) s = .next t ∧ GafDone u t c.val rd (tget 0 g.dmem ((a - 0x00100000) / 4)).toNat nxt 2) ∧
    (∀ rs1 rs2 imm, let a := (X rs1 + imm) % 2 ^ 32
      let w := (a - 0x00100000) / 4
      GafReady u c.val (.store 2 rs1 rs2 imm) → 0x00100000 ≤ a → a < 0x00120000 → a % 4 = 0 →
      ∃ t, exec (.gafferInstruction c p) s = .next t ∧
        GafDone (modGaf u c.val fun g => { g with dmem := tset 0 g.dmem w (BitVec.ofNat 32 (X rs2)), bad := tset 0 g.bad (gafKey true w) 0 }) t c.val 0 0 nxt 1) ∧
    (∀ i, GafReady u c.val i → i = .ecall ∨ i = .ebreak ∨ i = .illegal →
      ∃ t, exec (.gafferInstruction c p) s = .next t ∧ Recorded u t 0x0409 2 ∧ (core t c.val).gaf.stopped = true ∧
        (core t c.val).gaf.mepc = BitVec.ofNat 32 g.pc ∧ (∀ r, xreg t c.val r = X r) ∧ (core t c.val).gaf.dmem = g.dmem ∧
        rf t (gafA c.val 0x020) 48 16 = min (2 ^ 16 - 1) (rf u (gafA c.val 0x020) 48 16 + 1)) ∧
    (gafDue u c.val = true → nxt ≤ 0x10000 → 1024 ≤ tget 0 g.bad (gafKey false (g.pc / 4)) →
      ∃ t, exec (.gafferInstruction c p) s = .next t ∧ Recorded u t 0x040B 3 ∧ (core t c.val).gaf.stopped = true ∧ (∀ r, xreg t c.val r = X r)) ∧
    (gafDue u c.val = false → exec (.gafferInstruction c p) s = .next u)

/-- SEGARM arms a stream's register in its first cycle, and traps for streams 5 to 7 and indices a blowpipe stream does not have
(R165). PREDW writes its bit a cycle later (R166). STRLD reads the committed entry of a stream homed on the core, as the step sees
it until its frame ends (R32), 0 with 0x040D of any other; STRST leaves a writable word pending (R167). WAITTK waits for a later tick and records 0x040C for one that is not
later; its wait ends at phase 0 of the tick (R168). FRCADD adds to a slot's pending delta, FRCLD reads its committed count
(R169). A CSR read latches the upper half of a pair, a write reaches gscratch alone (R170). -/
def Obligations.GafferPlanInstructions : Prop :=
  ∀ (c : Fin 60) (p : Fin 8) (s : State), s.phase ≤ p.val →
    let u := runTo s p.val
    let g := (core u c.val).gaf
    let X := xreg u c.val
    let nxt := g.pc + (gafWord u c.val).2
    (∀ rd rs1 rs2 : Fin 32, GafReady u c.val (.segarm rd.val rs1.val rs2.val) →
      (X rs1.val % 8 < 5 → (X rs1.val % 8 = 0 ∨ fld (X rs1.val) 16 15 < 2048) →
        ∃ t, exec (.segarm c p rd rs1 rs2) s = .next t ∧
          GafDone (addAct u { cyc := now u, core := c.val, job := 0, op := .arm (X rs1.val % 8) true rd.val { nextFrame := bitAt (X rs1.val) 31, index := fld (X rs1.val) 16 15, tick := fld (X rs2.val) 0 23 } }) t c.val 0 0 nxt 2) ∧
      (5 ≤ X rs1.val % 8 ∨ (0 < X rs1.val % 8 ∧ 2048 ≤ fld (X rs1.val) 16 15) →
        ∃ t, exec (.segarm c p rd rs1 rs2) s = .next t ∧ Recorded u t 0x0409 2 ∧ (core t c.val).gaf.stopped = true ∧ t.acts = u.acts)) ∧
    (∀ rs1 rs2 : Fin 32, GafReady u c.val (.predw rs1.val rs2.val) →
      ∃ t, exec (.predw c p rs1 rs2) s = .next t ∧
        GafDone (addAct u { cyc := now u + 1, core := c.val, job := 0, op := .predw (X rs1.val % 8) (bitAt (X rs2.val) 0) }) t c.val 0 0 nxt 1) ∧
    (∀ rd : Fin 32, GafReady u c.val (.predr rd.val) →
      ∃ t, exec (.predr c p rd) s = .next t ∧ GafDone u t c.val rd.val (setFld (core u c.val).pred.toNat 0 1 1 % 2 ^ 32) nxt 1) ∧
    (∀ (rd rs1 : Fin 32) (w : BitVec 4), GafReady u c.val (.strld rd.val rs1.val w.toNat) → let st := fld (X rs1.val) 0 13
      (homed u c.val st = true →
        ∃ t, exec (.strld c p rd rs1 w) s = .next t ∧ GafDone u t c.val rd.val (seenStrm u (16 * st + w.toNat)) nxt 12) ∧
      (homed u c.val st = false →
        ∃ t, exec (.strld c p rd rs1 w) s = .next t ∧ Recorded u t 0x040D 2 ∧ (∀ r, xreg t c.val r = if r = rd.val then 0 else X r))) ∧
    (∀ (rs1 rs2 : Fin 32) (w : BitVec 4), GafReady u c.val (.strst rs1.val rs2.val w.toNat) → let st := fld (X rs1.val) 0 13
      (homed u c.val st = true → strWritable w.toNat = true →
        ∃ t, exec (.strst c p rs1 rs2 w) s = .next t ∧
          GafDone { u with strmPend := tset none u.strmPend (16 * st + w.toNat) (some (BitVec.ofNat 32 (strMask w.toNat (X rs2.val)))) } t c.val 0 0 nxt 2) ∧
      (homed u c.val st = false → ∃ t, exec (.strst c p rs1 rs2 w) s = .next t ∧ Recorded u t 0x040D 2 ∧ t.strmPend = u.strmPend ∧ ∀ r, xreg t c.val r = X r) ∧
      (homed u c.val st = true → strWritable w.toNat = false →
        ∃ t, exec (.strst c p rs1 rs2 w) s = .next t ∧ Recorded u t 0x040F 2 ∧ t.strmPend = u.strmPend ∧ ∀ r, xreg t c.val r = X r)) ∧
    (∀ rs1 rs2 : Fin 32, GafReady u c.val (.frcadd rs1.val rs2.val) →
      ∃ t, exec (.frcadd c p rs1 rs2) s = .next t ∧
        GafDone { u with fritDelta := tset 0 u.fritDelta (X rs1.val % 4096) (tget 0 u.fritDelta (X rs1.val % 4096) + sw (X rs2.val)) } t c.val 0 0 nxt 2) ∧
    (∀ rd rs1 : Fin 32, GafReady u c.val (.frcld rd.val rs1.val) →
      ∃ t, exec (.frcld c p rd rs1) s = .next t ∧ GafDone u t c.val rd.val (seenRefs u (X rs1.val % 4096)) nxt 12) ∧
    (∀ rs1 : Fin 32, GafReady u c.val (.waittk rs1.val) →
      let target := frameStartT u + fld (X rs1.val) 0 23 + (if bitAt (X rs1.val) 31 then frameLen u else 0)
      (target ≤ ttc u → ∃ t, exec (.waittk c p rs1) s = .next t ∧ Recorded u t 0x040C 2 ∧ (core t c.val).gaf.waitTick = none ∧
        (core t c.val).gaf.pc = nxt % 2 ^ 32 ∧ (core t c.val).gaf.at_ = now u + 1 ∧ ∀ r, xreg t c.val r = X r) ∧
      (ttc u < target → ∃ t, exec (.waittk c p rs1) s = .next t ∧ t = { u with cores := t.cores } ∧ (core t c.val).gaf.waitTick = some target ∧
        (core t c.val).gaf.pc = nxt % 2 ^ 32 ∧ (core t c.val).gaf.minstret = g.minstret + 1 ∧ (∀ r, xreg t c.val r = X r) ∧
        ∀ e, e < 4 → mentry t c.val e = (mentry u c.val e).map fun m => { m with wb := true })) ∧
    (s.phase = 0 → planOn s = true → (core s c.val).gaf.waitTick = some (ttc s) → (core s c.val).gaf.stopped = false →
      exec (.waittkComplete c) s = .next (modGaf s c.val fun g => { g with waitTick := none, at_ := now s })) ∧
    (∀ (f3 : BitVec 3) (n : BitVec 12) (rd rs1 : Fin 32), GafReady u c.val (.csr f3.toNat n.toNat rd.val rs1.val) →
      (∀ v, csrGet u c.val n.toNat = some v → f3.toNat % 4 = 2 ∨ f3.toNat % 4 = 3 → rs1.val = 0 →
        ∃ t, exec (.csrAccess c p f3 n rd rs1) s = .next t ∧ GafDone (csrLatch u c.val n.toNat) t c.val rd.val (v % 2 ^ 32) nxt 2) ∧
      (n = 0x7C0 → f3.toNat = 1 →
        ∃ t, exec (.csrAccess c p f3 n rd rs1) s = .next t ∧
          GafDone (modGaf u c.val fun g => { g with gscratch := BitVec.ofNat 32 (X rs1.val) }) t c.val rd.val g.gscratch.toNat nxt 2) ∧
      (csrGet u c.val n.toNat = none ∨ (n ≠ 0x7C0 ∧ (f3.toNat % 4 = 1 ∨ rs1.val ≠ 0)) →
        ∃ t, exec (.csrAccess c p f3 n rd rs1) s = .next t ∧ Recorded u t 0x0409 2 ∧ (core t c.val).gaf.stopped = true ∧ ∀ r, xreg t c.val r = X r))

/-- A gaffer store to the Crucible window completes at once and enters its row's entry, a free entry, or the holding register; one
outside the marver window is recorded. A load waits for its bank's marver cycle (R185 to R187). A scrub visit judges the next
word of a gaffer memory (R162); a scrub pair reads the next row of each bank (R195). An entry's marver access takes its bank's marver
cycle and joins the accesses of the cycle. Entries still occupied when the window closes are discarded with 0x050C (R187). Under a
plan a Keel access is recorded and not made; without one it reads or writes the row (R202). A Keel access to an address that Table
0-3 does not list is an address fault (R7), whose code and severity no rule gives (log entry 69). -/
def Obligations.CrucibleWindowAndVisits : Prop :=
  (∀ (c : Fin 60) (p : Fin 8) (a v : BitVec 32) (z : Fin 3) (rs1 rs2 imm : Nat) (s : State), s.phase ≤ p.val → let u := runTo s p.val
    GafReady u c.val (.store z.val rs1 rs2 imm) → (xreg u c.val rs1 + imm) % 2 ^ 32 = a.toNat → xreg u c.val rs2 = v.toNat →
    0x01000000 ≤ a.toNat → a.toNat < 0x01800000 → a.toNat % 2 ^ z.val = 0 →
    exec (.gafferCrucibleStore c p a z v) s =
      .next (gafNext (gafStore (curSet u c.val) c.val a.toNat (2 ^ z.val) (v.toNat % 2 ^ (8 * 2 ^ z.val))) c.val ((core u c.val).gaf.pc + (gafWord u c.val).2) 1)) ∧
  (∀ (s : State) (c a n v : Nat), let row := a / 128 % 65536
    (inMarver s c (frameCyc s) = false → gafStore s c a n v = raise050C s c a 0) ∧
    (∀ e m, inMarver s c (frameCyc s) = true → entryOf s c row = some e → mentry s c e = some m →
      gafStore s c a n v = setMentry s c e (some (storeIn m (a % 128) n v))) ∧
    (∀ e, inMarver s c (frameCyc s) = true → entryOf s c row = none → ((List.range 4).find? fun e => (mentry s c e).isNone) = some e →
      gafStore s c a n v = setMentry s c e (some (newEntry s row (a % 128) n v (now s)))) ∧
    (inMarver s c (frameCyc s) = true → entryOf s c row = none → ((List.range 4).find? fun e => (mentry s c e).isNone) = none → (core s c).mstore = none →
      gafStore s c a n v = markWb (modCore s c fun x => { x with mstore := some { addr := a % 0x800000, size := n, value := v } }) c (oldestEntry s c))) ∧
  (∀ (c : Fin 60) (p : Fin 8) (rd : Fin 32) (a : BitVec 32) (z : Fin 3) (g : Bool) (f3 rs1 imm : Nat) (s : State), s.phase ≤ p.val → let u := runTo s p.val
    GafReady u c.val (.load f3 rd.val rs1 imm) → f3 % 4 = z.val → (z.val = 2 ∨ decide (f3 < 4) = g) → (xreg u c.val rs1 + imm) % 2 ^ 32 = a.toNat →
    0x01000000 ≤ a.toNat → a.toNat < 0x01800000 → a.toNat % 2 ^ z.val = 0 →
    exec (.gafferCrucibleLoad c p rd a z g) s =
      .next (gafNext (gafLoad (curSet u c.val) c.val rd.val a.toNat (2 ^ z.val) (decide (f3 < 4))) c.val ((core u c.val).gaf.pc + (gafWord u c.val).2) 8)) ∧
  (∀ (s : State) (c rd a n : Nat) (g : Bool), let row := a / 128 % 65536
    (inMarver s c (frameCyc s) = true → inMarver s c (nextMarver row (frameCyc s)) = true →
      gafLoad s c rd a n g = modCore s c fun x => { x with mload := some { row := row, lo := a % 128, size := n, signed := g, rd := rd, from_ := now s } }) ∧
    (inMarver s c (frameCyc s) = false → gafLoad s c rd a n g = setX (raise050C s c a 0) c rd 0)) ∧
  (∀ (c : Fin 60) (d : Bool) (p : Fin 8) (s : State), s.phase ≤ p.val → let u := runTo s p.val
    let w := if d then (core u c.val).gaf.scrubD else (core u c.val).gaf.scrubI
    exec (.gafferScrubVisit c d p) s =
      .next (modGaf (noteGaf u c.val d w) c.val fun g => if d then { g with scrubD := (w + 1) % 32768 } else { g with scrubI := (w + 1) % 16384 })) ∧
  (∀ (c : Fin 60) (p : Fin 8) (s : State), s.phase ≤ p.val → let u := runTo s p.val
    planOn u = true → scrubCycle u c.val (frameCyc u) = true → (frameCyc u - 8 * rf u (cruA c.val 0x028) 23 23) % 2 = 0 → u.acts = [] →
    ∃ t, exec (.scrubPair c p) s = .next t ∧
      t = { u with acts := (List.range 16).map fun (b : Nat) => ({ cyc := now u, core := c.val, job := 0, op := Micro.scrubRd b } : Act) }) ∧
  (∀ (c : Fin 60) (e : Fin 4) (p : Fin 8) (s : State), s.phase ≤ p.val → let u := runTo s p.val
    ∀ m a, mentry u c.val e.val = some m → marverPick u c.val (bankOf m.row) = some a → inMarver u c.val (frameCyc u) = true →
    marverCycle u c.val (bankOf m.row) (frameCyc u) = true →
    (a.kind = .mfill e.val → exec (.marverFillRead c e p) s = .next (addAct (modCore u c.val fun x => { x with marAt := tset 0 x.marAt (bankOf m.row) (now u + 1) })
      { cyc := now u, core := c.val, job := 0, op := Micro.marver e.val false })) ∧
    (a.kind = .mwb e.val → exec (.marverWriteBack c e p) s = .next (addAct (modCore u c.val fun x => { x with marAt := tset 0 x.marAt (bankOf m.row) (now u + 1) })
      { cyc := now u, core := c.val, job := 0, op := Micro.marver e.val true }))) ∧
  (∀ (c : Fin 60) (s : State), planOn s = true → s.phase = 0 → frameTick s = rf s (cruA c.val 0x020) 23 23 →
    let n := ((List.range 4).filter fun e => (mentry s c.val e).isSome).length
    let v := modCore s c.val fun x => { x with marver := [], mstore := none }
    (n = 0 → exec (.marverWindowClose c) s = .next v) ∧
    (0 < n → exec (.marverWindowClose c) s = .next (raise050C v c.val 0 n) ∧ Recorded v (raise050C v c.val 0 n) 0x050C 2)) ∧
  (∀ (c : Fin 60) (r : BitVec 16) (a : BitVec 48) (w : Bool) (d : Row) (s : State), rowAddr c.val r.toNat ≤ a.toNat → a.toNat < rowAddr c.val r.toNat + 128 →
    planOn s = true → (core s c.val).present = true →
    ∃ t, exec (.keelCrucibleAccess a w d) s = .next t ∧ Recorded s t 0x050E 0 ∧ t.mem = s.mem ∧ t.regs = s.regs) ∧
  (∀ (c : Fin 60) (r : BitVec 16) (a : BitVec 48) (s : State), rowAddr c.val r.toNat ≤ a.toNat → a.toNat < rowAddr c.val r.toNat + 128 → planOn s = false →
    (∀ d, exec (.keelCrucibleAccess a true d) s = .next (writeRow s c.val r.toNat d 255)) ∧
    ∀ d, exec (.keelCrucibleAccess a false d) s = .next (emit (readChecked s c.val r.toNat).2 (.keelRow c.val r.toNat (readChecked s c.val r.toNat).1))) ∧
  (∀ (a : BitVec 48) (w : Bool) (d : Row) (s : State), listed a.toNat = false →
    ∃ t, exec (.keelCrucibleAccess a w d) s = .next t ∧ Recorded s t (0x0D00 + Config.keelAddressFault.1.toNat) Config.keelAddressFault.2.val ∧
      t.mem = s.mem ∧ t.regs = s.regs ∧ t.cores = s.cores)

/-- A telltale sample stands in its register and is judged: a margin below the threshold is counted and recorded, a margin of 0
recorded too; under monitor mode 01 nothing is sampled (R54). A crossing locks at the first trial whose codes span at most one
code inside 2 to 13, with its tap, attempt and padding, and the last lock ends the stage; eight failed trials leave it unlocked
with 0x0105 and fail the stage; a port that is not to be aligned, such as a locked crossing, is left as it is (R45). A write of the injection register keeps ARM only for an engine and an index that exist, and a
host's write is ignored (R89). The flit due at an input or port end arrives there with its wire errors; on a halted device none does (R14, R264, R269). -/
def Obligations.TelltalesCrossingsAndArrivals : Prop :=
  (∀ (k : Fin 12) (i : Fin 4) (m : BitVec 3) (s : State), let a := clkA (0x400 + 4 * (4 * k.val + i.val))
    let v := setRf (setRf s a 0 3 m.toNat) a 3 1 1
    let w := raise (bump v a 16 16) 0x010A 1 0x08 k.val 0xFFFF (det [(0, 1, k.val), (1, 1, i.val), (2, 1, m.toNat)])
    (monMode s = 1 → exec (.telltaleSample k i m) s = .next (setRf s a 3 1 0)) ∧
    (monMode s ≠ 1 → m ≠ 0 → rf s (clkA 0x004) 4 3 ≤ m.toNat → exec (.telltaleSample k i m) s = .next v) ∧
    (monMode s ≠ 1 → m ≠ 0 → m.toNat < rf s (clkA 0x004) 4 3 → exec (.telltaleSample k i m) s = .next w) ∧
    (monMode s ≠ 1 → m = 0 → 0 < rf s (clkA 0x004) 4 3 →
      exec (.telltaleSample k i m) s = .next (raise w 0x010B 3 0x08 k.val 0xFFFF (det [(0, 1, k.val), (1, 1, i.val)])))) ∧
  (∀ (r : Fin 19) (p : Fin 8) (ts : List TapTrial) (s : State), let a := clkA (0x100 + 32 * r.val + 4 * p.val)
    let ok := fun (x : TapTrial) => x.hi.val - x.lo.val ≤ 1 ∧ 2 ≤ x.lo.val ∧ x.hi.val ≤ 13
    (∀ n t, (ts.take 8)[n]? = some t → ok t → (∀ m x, m < n → ts[m]? = some x → ¬ ok x) →
      let v := setRg s a (pack [(31, 1, 1), (8, 4, t.lo.val), (4, 1, n % 2), (2, 2, n / 2), (0, 2, 4 - t.edge.val)])
      (aligns s r.val p.val = false → exec (.crossingAlignment r p ts) s = .next s) ∧
      (aligns s r.val p.val = true → exec (.crossingAlignment r p ts) s = .next (if allLocked v then endStage v else v))) ∧
    (8 ≤ ts.length → (∀ x ∈ ts.take 8, ¬ ok x) →
      (aligns s r.val p.val = false → exec (.crossingAlignment r p ts) s = .next s) ∧
      (aligns s r.val p.val = true →
        ∃ w, exec (.crossingAlignment r p ts) s = .next (failStage w 0x0105) ∧ Recorded s w 0x0105 4 ∧ rf w a 31 1 = 0 ∧ w.halted = true))) ∧
  (∀ (c : Fin 60) (v : BitVec 32) (s : State),
    exec (.engResInjectWrite c true v) s = .next s ∧
    ∃ t, exec (.engResInjectWrite c false v) s = .next t ∧ t = { s with regs := t.regs } ∧ (∀ x, x ≠ engA c.val 0x018 → rg t x = rg s x) ∧
      rf t (engA c.val 0x018) 16 4 = fld v.toNat 16 4 ∧ rf t (engA c.val 0x018) 0 7 = fld v.toNat 0 7 ∧
      rf t (engA c.val 0x018) 31 1 = (if fld v.toNat 16 4 < 4 ∨ (fld v.toNat 16 4 < 6 ∧ fld v.toNat 0 7 < 64) then fld v.toNat 31 1 else 0)) ∧
  (∀ (pl : Fin 2) (d : Fin 72) (o : BPort) (p : Fin 8) (fl : BitVec 1024) (sd : BitVec 20) (s : State), s.phase ≤ p.val →
    let k := match o with | .input i => i.val | .ejection => 8 | .linkPort => 9 | .sysPort => 10
    let v := fire (runTo s p.val) fun a => match a.op with | .flit _ => true | _ => false
    ((runTo s p.val).halted = true → exec (.bridleFlitReceive pl d o p fl sd) s = .next (runTo s p.val)) ∧
    ((runTo s p.val).halted = false → ∀ x, (v.flights.find? fun x => decide (x.cyc ≤ now v) && x.plane == pl.val && x.tile == d.val && x.port == k) = some x →
      exec (.bridleFlitReceive pl d o p fl sd) s = .next (receive { v with flights := v.flights.erase x } x fl sd)) ∧
    ((runTo s p.val).halted = false → (v.flights.find? fun x => decide (x.cyc ≤ now v) && x.plane == pl.val && x.tile == d.val && x.port == k) = none →
      exec (.bridleFlitReceive pl d o p fl sd) s = .next v))

/-- A planned start of a link that is up takes the head of its source's queue for the wire (R294). A packet with the number
expected is accepted and placed in the lehr, or crosses to the root, which takes it at the tick that ends four cycles on (R44); one ahead of
it is not, and calls for a NAK once; an older one calls for a LINKCTL (R283 to R285). A LINKCTL frees what it acknowledges and raises credit; a NAK replays what stays unacknowledged (R285, R286,
R288). The timer calls for a LINKCTL 250 cycles after the oldest acceptance uncovered (R285); a packet unacknowledged for the replay
timeout is recorded and replayed (R286). A failed packet is recorded and counted once until a header is found (R282, R284). -/
def Obligations.LinksReceiveInSequence : Prop :=
  (∀ (n : Fin 24) (b : Bool) (s : State), s.phase ≤ (if b then 4 else 0) → let u := runTo s (if b then 4 else 0)
    let j := frameTick u % 4096
    planOn u = true → (link u n.val).started ≤ now u → lnkSt u n.val = 3 → u.slotBad.contains (lnkA n.val (0x1000 + 2 * j)) = false →
    fld (rf u (lnkA n.val (0x1000 + 4 * (j / 2))) (16 * (j % 2)) 16) (if b then 4 else 0) 4 = 1 →
    (∀ q l, (link u n.val).fq = q :: l →
      ∃ t, exec (.plannedStart n b) s = .next t ∧ t = { u with links := t.links } ∧ (∀ m, m ≠ n.val → link t m = link u m) ∧
        (link t n.val).fq = l ∧ ∃ q', (link t n.val).elig = (link u n.val).elig ++ [q'] ∧ q'.body = q.body ∧ q'.start = b2n b ∧ q'.olink = false ∧ q'.born = now u) ∧
    ((link u n.val).fq = [] → ∃ t, exec (.plannedStart n b) s = .next t ∧ t = { u with links := t.links } ∧ (link t n.val).elig = (link u n.val).elig)) ∧
  (∀ (n : Fin 24) (b : Bool) (s : State), s.phase ≤ (if b then 4 else 0) → let u := runTo s (if b then 4 else 0)
    let j := frameTick u % 4096
    planOn u = true → (link u n.val).started ≤ now u → lnkSt u n.val = 3 → u.slotBad.contains (lnkA n.val (0x1000 + 2 * j)) = false →
    fld (rf u (lnkA n.val (0x1000 + 4 * (j / 2))) (16 * (j % 2)) 16) (if b then 4 else 0) 4 = 4 →
    ∀ r v l, (punit u n.val).queue = (r, v) :: l →
      ∃ t, exec (.parityRowForward n b) s = .next t ∧ (punit t n.val).queue = l ∧
        ∃ q', (link t n.val).elig = (link u n.val).elig ++ [q'] ∧ q'.body = [v] ∧ q'.kind = 1 ∧ q'.start = b2n b) ∧
  (∀ (n : Fin 24) (p : Fin 8) (h : DataHdr) (r0 : Row) (r1 : Option Row) (s : State), s.phase ≤ p.val → let u := runTo s p.val
    let l := link u n.val
    let d := (h.seq.toNat + 65536 - l.rxNext) % 65536
    lnkSt u n.val = 3 →
    (d = 0 → exec (.dataPacket n p h r0 r1) s =
      .next (dataTake (modLink u n.val fun l => { l with rxNext := (l.rxNext + 1) % 65536, gap := false, search := false, uncov := l.uncov + 1, uncovAt := if l.uncov = 0 then now u else l.uncovAt })
        n.val { kind := 1, units := 8 * (r0 :: r1.toList).length, seq := h.seq.toNat, stick := h.stick.toNat, start := b2n h.start, olink := h.olink, drow := h.drow.toNat, ccnt := h.ccnt.toNat, body := r0 :: r1.toList })) ∧
    (l.search = false → 0 < d → d < 32768 → l.gap = false →
      exec (.dataPacket n p h r0 r1) s = .next (modLink u n.val fun l => { l with gap := true, nakDue := true })) ∧
    (l.search = false → 0 < d → d < 32768 → l.gap = true → exec (.dataPacket n p h r0 r1) s = .next u) ∧
    (l.search = false → 32768 ≤ d → exec (.dataPacket n p h r0 r1) s = .next (modLink u n.val fun l => { l with ctlDue := true }))) ∧
  (∀ (n : Fin 24) (p : Fin 8) (q : BitVec 16) (r0 r1 : Row) (s : State), s.phase ≤ p.val → let u := runTo s p.val
    lnkSt u n.val = 3 → q.toNat = (link u n.val).rxNext →
    let v := (seqTake u n.val q.toNat).2
    (link v n.val).rxNext = ((link u n.val).rxNext + 1) % 65536 ∧
    ∃ t, exec (.mgmtPacket n p q r0 r1) s = .next t ∧ t.rootIn = v.rootIn ++ [(now v + 4, n, [r0, r1])] ∧ t = { freeMgmt v n.val 16 with rootIn := t.rootIn }) ∧
  (∀ (n : Fin 24) (p : Fin 8) (s : State), s.phase ≤ p.val → exec (.lehrRelease n p) s = .next (lehrRelease (runTo s p.val) n.val)) ∧
  (∀ (s : State) (n : Nat), (s.halted = true → lehrRelease s n = s) ∧
    (∀ x l, s.halted = false → (link s n).lehr = x :: l → x.release ≤ now s → (∀ y ∈ l, now s < y.release) →
      lehrRelease s n = lehrOut (modLink s n fun k => { k with lehr := l }) n x)) ∧
  (∀ (s : State) (m : Nat × Fin 24 × List Row) (l : List (Nat × Fin 24 × List Row)), s.rootIn = m :: l → m.1 ≤ now s → (∀ y ∈ l, now s < y.1) →
    rootTake s = mgmtDeliver { s with rootIn := l } m.2.1 m.2.2) ∧
  (∀ (n : Fin 24) (p : Fin 8) (a : BitVec 16) (d m : BitVec 32) (s : State), s.phase ≤ p.val → let u := runTo s p.val
    lnkSt u n.val = 3 →
    ∃ t, exec (.linkctl n p a d m) s = .next t ∧ t = { u with links := t.links } ∧ (∀ k, k ≠ n.val → link t k = link u k) ∧
      (∀ x, x ∈ (link t n.val).unacked ↔ x ∈ (link u n.val).unacked ∧ (a.toNat = x.seq ∨ 32767 ≤ (a.toNat + 65536 - x.seq) % 65536 - 1)) ∧
      (link t n.val).grantD = (if (d.toNat + 2 ^ 32 - (link u n.val).grantD) % 2 ^ 32 < 2 ^ 31 then d.toNat else (link u n.val).grantD) ∧
      (link t n.val).grantM = (if (m.toNat + 2 ^ 32 - (link u n.val).grantM) % 2 ^ 32 < 2 ^ 31 then m.toNat else (link u n.val).grantM) ∧
      (link t n.val).elig = (link u n.val).elig) ∧
  (∀ (n : Fin 24) (p : Fin 8) (a : BitVec 16) (d m : BitVec 32) (s : State), s.phase ≤ p.val → let u := runTo s p.val
    let v := ackTake u n.val a.toNat d.toNat m.toNat
    lnkSt u n.val = 3 → (∀ x ∈ (link v n.val).unacked, x.replays < replayLimit v n.val) →
    exec (.nak n p a d m) s = .next (modLink v n.val fun x => { x with replay := (link v n.val).unacked.map (·.seq), replayAt := now v + 2 })) ∧
  (∀ (n : Fin 24) (p : Fin 8) (s : State), s.phase ≤ p.val → let u := runTo s p.val
    lnkSt u n.val = 3 → 0 < (link u n.val).uncov → (link u n.val).uncovAt + 250 ≤ now u →
    exec (.linkctlTimer n p) s = .next (modLink u n.val fun l => { l with ctlDue := true })) ∧
  (∀ (n : Fin 24) (p : Fin 8) (s : State), s.phase ≤ p.val → let u := runTo s p.val
    ∀ q l, (link u n.val).unacked = q :: l → lnkSt u n.val = 3 → (link u n.val).lastAdv + rf u (lnkA n.val 0x020) 32 16 ≤ now u →
    (∀ x ∈ q :: l, x.replays < replayLimit u n.val) →
    ∃ t, exec (.replayTimeout n p) s = .next t ∧ Recorded u t 0x0902 0 ∧ (link t n.val).replay = (q :: l).map (·.seq) ∧
      (link t n.val).lastAdv = now u ∧ (link t n.val).unacked = q :: l) ∧
  (∀ (n : Fin 24) (p : Fin 8) (c : BitVec 3) (s : State), c ≠ 0 → c.toNat ≤ 4 → s.phase ≤ p.val → let u := runTo s p.val
    1 ≤ lnkSt u n.val → lnkSt u n.val ≤ 4 →
    ((link u n.val).search = false → ∃ t, exec (.failedPacket n p c none) s = .next t ∧ Recorded u t 0x0901 1 ∧ (link t n.val).search = true ∧
      (link t n.val).gap = true ∧ (link t n.val).nakDue = ((link u n.val).nakDue || !(link u n.val).gap) ∧
      rf t (lnkA n.val 0x040) 32 16 = min (2 ^ 16 - 1) (rf u (lnkA n.val 0x040) 32 16 + 1)) ∧
    ((link u n.val).search = true → exec (.failedPacket n p c none) s = .next u))

/-- A RETRAIN unit, and 256 cycles without a good codeword, take a link that is up into retrain: 0x0903 is recorded, the attempt
begins with eight RETRAIN units and its identity, and traffic is dropped where the partner is not up (R290, R303). An identity
that disagrees with LNK_CFG and 3,125 tt without success fail the attempt: FAILS rises and 0x0904 is recorded; below REPLAY_LIMIT
the next attempt begins (R290, R291). At its frame the link rejoins with numbers, credits and records reset (R292). A width request
stands in LNK_CTRL until its tick, drains, asks, and takes effect with WIDTH_GO (R293, R309). -/
def Obligations.LinksRetrainAndChangeWidth : Prop :=
  (∀ (n : Fin 24) (p : Fin 8) (s : State), s.phase ≤ p.val → let u := runTo s p.val
    exec (.retrain n p) s = .next (enterRetrain u n.val 3 0) ∧ exec (.codewordTimeout n p) s = .next (enterRetrain u n.val 2 0)) ∧
  (∀ (s : State) (n c q : Nat), n < 24 →
    (lnkSt s n ≠ 3 → enterRetrain s n c q = s) ∧
    (lnkSt s n = 3 → lnkSt s (partner n) ≠ 3 → (link s n).wStage = 0 → (link s (partner n)).wStage = 0 → ((link s n).upSince.isSome && launched s) = false →
      let t := enterRetrain s n c q
      Recorded s t 0x0903 1 ∧ lnkSt t n = 4 ∧ rf t (lnkA n 0x008) 32 16 = min (2 ^ 16 - 1) (rf s (lnkA n 0x008) 32 16 + 1) ∧
      (link t n).lanes = List.replicate 8 { op := 1, width := 0, sel := 0 } ++ [{ op := 5, width := 0, sel := 0 }] ∧
      (link t n).unacked = [] ∧ (link t n).elig = [] ∧ (link t n).attempt = rg s (kelA 0x110) ∧ ∀ m, m ≠ n → link t m = link s m)) ∧
  (∀ (n : Fin 24) (p : Fin 8) (d : BitVec 13) (k : BitVec 5) (s : State), s.phase ≤ p.val → let u := runTo s p.val
    let v := modLink u n.val fun l => { l with ident := some (d.toNat, k.toNat) }
    1 ≤ lnkSt u n.val → lnkSt u n.val ≤ 4 →
    (lnkSt u n.val ≠ 4 ∨ identGood v n.val d.toNat k.toNat = true → exec (.ident n p d k) s = .next v) ∧
    (lnkSt u n.val = 4 → identGood v n.val d.toNat k.toNat = false → exec (.ident n p d k) s = .next (attemptFails v n.val 3 0))) ∧
  (∀ (n : Fin 24) (s : State), lnkSt s n.val = 4 → (link s n.val).rejoinAt = none → (link s n.val).attempt + 3125 ≤ uptime s →
    exec (.retrainAttemptTimeout n) s = .next (attemptFails s n.val 1 0)) ∧
  (∀ (s : State) (n r f : Nat), lnkSt s n = 4 → rf s (lnkA n 0x008) 48 4 + 1 < replayLimit s n → let t := attemptFails s n r f
    Recorded s t 0x0904 1 ∧ lnkSt t n = 4 ∧ rf t (lnkA n 0x008) 48 4 = rf s (lnkA n 0x008) 48 4 + 1 ∧ (link t n).attempt = rg s (kelA 0x110) ∧
      (link t n).ident = none ∧ ∀ m, m ≠ n → link t m = link s m) ∧
  (∀ (n : Fin 24) (s : State), lnkSt s n.val = 4 → (link s n.val).rejoinAt = some (ttc s) →
    ∃ t, exec (.linkRejoin n) s = .next t ∧ lnkSt t n.val = 3 ∧ t = { s with regs := t.regs, links := t.links } ∧
      link t n.val = { linkComesUp (link s n.val) with rejoinAt := none, upSince := some (ttc s), wHold := false } ∧
      link t (partner n.val) = { link s (partner n.val) with wHold := false } ∧ rf t (lnkA n.val 0x008) 55 1 = 0 ∧ rf t (lnkA (partner n.val) 0x008) 54 1 = 0 ∧
      ∀ m, m ≠ n.val → m ≠ partner n.val → link t m = link s m) ∧
  (∀ (n : Fin 24) (w g : BitVec 2) (o : BitVec 23) (s : State), ∃ t, exec (.lnkCtrlWidthGo n w g o) s = .next t ∧ t = { s with regs := t.regs, links := t.links } ∧ link t n.val = { link s n.val with wHold := false } ∧ (∀ m, m ≠ n.val → link t m = link s m) ∧
    rf t (lnkA n.val 0x010) 30 2 = w.toNat ∧ rf t (lnkA n.val 0x010) 28 2 = g.toNat ∧ rf t (lnkA n.val 0x010) 0 23 = o.toNat ∧ rf t (lnkA n.val 0x008) 53 1 = 1 ∧
    ∀ a, a ≠ lnkA n.val 0x010 → a ≠ lnkA n.val 0x008 → rg t a = rg s a) ∧
  (∀ (n : Fin 24) (s : State), planOn s = true → lnkSt s n.val = 3 → rf s (lnkA n.val 0x008) 53 1 = 1 → frameTick s = rf s (lnkA n.val 0x010) 0 23 → (link s n.val).wStage = 0 → (link s n.val).wHold = false →
    exec (.widthTick n) s = .next (modLink s n.val fun l => { l with wStage := 1 })) ∧
  (∀ (n : Fin 24) (p : Fin 8) (w g : BitVec 2) (s : State), s.phase ≤ p.val → let u := runTo s p.val
    lnkSt u n.val = 3 →
    exec (.widthReq n p w g) s = .next (modLink u n.val fun l => { l with lanes := l.lanes ++ [{ op := 3, width := w.toNat, sel := g.toNat }] })) ∧
  (∀ (n : Fin 24) (p : Fin 8) (s : State), s.phase ≤ p.val → let u := runTo s p.val
    lnkSt u n.val = 3 → (link u n.val).wStage = 2 →
    exec (.widthAck n p) s = .next (modLink u n.val fun l =>
      { l with wStage := 3, lanes := l.lanes ++ [{ op := 4, width := rf u (lnkA n.val 0x010) 30 2, sel := rf u (lnkA n.val 0x010) 28 2 }] })) ∧
  (∀ (n : Fin 24) (p : Fin 8) (w g : BitVec 2) (s : State), s.phase ≤ p.val → let u := runTo s p.val
    lnkSt u n.val = 3 →
    ∃ t, exec (.widthGo n p w g) s = .next t ∧ t = { u with regs := t.regs, links := t.links } ∧ rf t (lnkA n.val 0x008) 58 2 = w.toNat ∧ rf t (lnkA n.val 0x008) 56 2 = g.toNat ∧
      rf t (lnkA n.val 0x008) 53 1 = (if (link u n.val).wStage = 0 then rf u (lnkA n.val 0x008) 53 1 else 0) ∧ (link t n.val).wStage = 0 ∧
      (link t n.val).lanes = (if (link u n.val).wStage = 3 then (link u n.val).lanes else (link u n.val).lanes ++ [{ op := 4, width := w.toNat, sel := g.toNat }]) ∧
      (∀ a, a ≠ lnkA n.val 0x008 → rg t a = rg u a) ∧ ∀ m, m ≠ n.val → link t m = link u m)

/-- A remote operation received in sequence on a link that is up. A request outside the remote window is not applied, is answered
STATUS 2 and recorded (0x090B); a write already marked is not applied and answered STATUS 1; one earlier than H - 255 is not
applied, answered STATUS 3 and recorded; another is applied, marked and answered STATUS 0; a read is answered with its data (R306).
The first response completes its operation; a later one is counted and discarded (R307). A deadline reissues the operation with
its number, and the last one fails it with 0x090A (R307). Ranging a used link whose exchanges are done gives its FLIGHT_M, or
records 0x090C and stops the device (R298). -/
def Obligations.RemoteOperations : Prop :=
  (∀ (n : Fin 24) (p : Fin 8) (m : RopMsg) (s : State), s.phase ≤ p.val → let u := runTo s p.val
    let q := m.rwseq.toNat
    ropWf m = true → lnkSt u n.val = 3 → m.seq.toNat = (link u n.val).rxNext →
    ∃ t, exec (.rwrite n p m) s = .next t ∧ (∀ k, k ≠ n.val / 2 → rop t k = rop u k) ∧ (∀ j, j ≠ n.val → link t j = link u j) ∧
      (link t n.val).rxNext = ((link u n.val).rxNext + 1) % 65536 ∧ (rop t (n.val / 2)).out = (rop u (n.val / 2)).out ∧
      (inWindow u (n.val / 2) m = false → Recorded u t 0x090B 2 ∧ t.mem = u.mem ∧ t.twinPend = u.twinPend ∧ (rop t (n.val / 2)).marks = (rop u (n.val / 2)).marks ∧
        (rop t (n.val / 2)).sendQ = (rop u (n.val / 2)).sendQ ++ [ropPkt 3 2 q 0 m.env.toNat m.addr.toNat 0]) ∧
      (inWindow u (n.val / 2) m = true → (rop u (n.val / 2)).marks.contains q = true → t.faults = u.faults ∧ t.mem = u.mem ∧ t.twinPend = u.twinPend ∧
        (rop t (n.val / 2)).sendQ = (rop u (n.val / 2)).sendQ ++ [ropPkt 3 1 q 0 m.env.toNat m.addr.toNat 0]) ∧
      (∀ h, inWindow u (n.val / 2) m = true → (rop u (n.val / 2)).marks.contains q = false → (rop u (n.val / 2)).hi = some h → 255 < (h + 65536 - q) % 65536 → (h + 65536 - q) % 65536 ≤ 32768 →
        Recorded u t 0x090B 2 ∧ t.mem = u.mem ∧ t.twinPend = u.twinPend ∧ (rop t (n.val / 2)).sendQ = (rop u (n.val / 2)).sendQ ++ [ropPkt 3 3 q 0 m.env.toNat m.addr.toNat 0]) ∧
      (inWindow u (n.val / 2) m = true → (rop u (n.val / 2)).marks.contains q = false → (∀ h, (rop u (n.val / 2)).hi = some h → (h + 65536 - q) % 65536 ≤ 255 ∨ 32768 < (h + 65536 - q) % 65536) →
        t.faults = u.faults ∧ (rop t (n.val / 2)).sendQ = (rop u (n.val / 2)).sendQ ++ [ropPkt 3 0 q 0 m.env.toNat m.addr.toNat 0] ∧ q ∈ (rop t (n.val / 2)).marks ∧
        (inMirror u m.addr.toNat = false → t.mem = writeBytes u.mem m.addr.toNat (leBytes m.bytes.toNat m.data.toNat) ∧ t.twinPend = u.twinPend) ∧
        (inMirror u m.addr.toNat = true → t.mem = u.mem ∧ t.twinPend = u.twinPend ++ [(m.addr.toNat, leBytes m.bytes.toNat m.data.toNat)]))) ∧
  (∀ (n : Fin 24) (p : Fin 8) (m : RopMsg) (s : State), s.phase ≤ p.val → let u := runTo s p.val
    ropWf m = true → lnkSt u n.val = 3 → m.seq.toNat = (link u n.val).rxNext →
    ∃ t, exec (.rread n p m) s = .next t ∧ t.mem = u.mem ∧ t.twinPend = u.twinPend ∧ (rop t (n.val / 2)).marks = (rop u (n.val / 2)).marks ∧
      (inWindow u (n.val / 2) m = false → Recorded u t 0x090B 2 ∧ (rop t (n.val / 2)).sendQ = (rop u (n.val / 2)).sendQ ++ [ropPkt 3 2 m.rwseq.toNat 0 m.env.toNat m.addr.toNat 0]) ∧
      (inWindow u (n.val / 2) m = true → t.faults = u.faults ∧ (rop t (n.val / 2)).sendQ = (rop u (n.val / 2)).sendQ ++
        [ropPkt 3 0 m.rwseq.toNat m.bytes.toNat m.env.toNat m.addr.toNat (BitVec.ofNat 1920 (leNat (readBytes u.mem m.addr.toNat m.bytes.toNat)))])) ∧
  (∀ (n : Fin 24) (p : Fin 8) (m : RopMsg) (s : State), s.phase ≤ p.val → let u := runTo s p.val
    ropWf m = true → lnkSt u n.val = 3 → m.seq.toNat = (link u n.val).rxNext →
    ((∀ x ∈ (rop u (n.val / 2)).out, x.seq ≠ m.rwseq.toNat) → ∃ t, exec (.rresp n p m) s = .next t ∧ rop t (n.val / 2) = rop u (n.val / 2) ∧ t.sent = u.sent ∧
      rf t (lnkA (2 * (n.val / 2)) 0x060) 0 16 = min (2 ^ 16 - 1) (rf u (lnkA (2 * (n.val / 2)) 0x060) 0 16 + 1)) ∧
    (∀ o l, (rop u (n.val / 2)).out = o :: l → o.seq = m.rwseq.toNat → (rop u (n.val / 2)).wait = [] → ∃ t, exec (.rresp n p m) s = .next t ∧
      rop t (n.val / 2) = { rop u (n.val / 2) with out := l } ∧ t.sent = u.sent ++ [.ropDone (n.val / 2) m.rwseq.toNat m.status.toNat m.data])) ∧
  (∀ (k : Fin 12) (q : BitVec 16) (s : State) (o : RopOp) (l : List RopOp), (rop s k.val).out = o :: l → o.seq = q.toNat → (∀ x ∈ l, x.seq ≠ q.toNat) →
    (ttc s < o.deadline → exec (.ropDeadline k q) s = .next s) ∧
    (o.deadline ≤ ttc s → 0 < o.left → ∃ t, exec (.ropDeadline k q) s = .next t ∧ t.faults = s.faults ∧
      (rop t k.val).out = { o with left := o.left - 1, deadline := o.deadline + ropTimeout s k.val } :: l ∧
      (rop t k.val).sendQ = (rop s k.val).sendQ ++ [ropPkt o.op 0 o.seq o.bytes o.env o.addr o.data]) ∧
    (o.deadline ≤ ttc s → o.left = 0 → (rop s k.val).wait = [] → ∃ t, exec (.ropDeadline k q) s = .next t ∧ Recorded s t 0x090A 2 ∧ (rop t k.val).out = l)) ∧
  (∀ (n : Fin 24) (s : State) (d k : Nat), stage s = 8 → (usedLinks s).contains n.val = true → lnkSt s n.val = 2 → (link s n.val).ident = some (d, k) →
    (identGood s n.val d k = false → s.coldDue = false → ∃ t f g, exec (.ranging n) s = .next t ∧ t.halted = true ∧ stage t = 15 ∧ t.faults = s.faults ++ [f, g] ∧
      f.code = 0x090C ∧ f.sev = 4 ∧ g.code = 0x0A0E ∧ g.sev = 4) ∧
    (identGood s n.val d k = true → 64 ≤ (link s n.val).delays.length → flightReason s n.val (medianOf (link s n.val).delays).toNat = 0 →
      (∃ m ∈ usedLinks s, m ≠ n.val ∧ (link s m).ranged = false) →
      ∃ t, exec (.ranging n) s = .next t ∧ t.faults = s.faults ∧ (link t n.val).ranged = true ∧ lnkSt t n.val = 3 ∧ stage t = 8 ∧
        rf t (lnkA n.val 0x018) 0 16 = (medianOf (link s n.val).delays).toNat % 65536))

/-- The next accepted request of its group (R347). OPEN of a free stream fills its entry, IDLE with LENGTH 0 or the handle's, and
answers DONE status 0. APPEND to an open stream adds its count to QUEUED, moves the stream to PREFILL, and answers nothing until
its last position commits. SET writes its field and answers the previous value. TRIM cuts LENGTH and QUEUED at its position, CLOSE
frees the stream; each answers DONE after those of the input it discards. A failed check answers with its status and does nothing
else (R351, Table 13-6). -/
def Obligations.StreamRequests : Prop :=
  (∀ (e : Fin 16) (lsn : BitVec 64) (m : Bool) (s : State) (t : Taken), Accepted s e.val lsn.toNat 1 t →
    (pState s (zOf t) ≠ 0 → ∃ u, exec (.open_ e lsn m) s = .next u ∧ Answered s u e.val lsn.toNat t 0x0B04 0) ∧
    (pState s (zOf t) = 0 → ((srv s e.val).p.handles.all fun h => !(h.2.live && h.2.keeper == zOf t)) = true → m = false →
      ∃ u, exec (.open_ e lsn m) s = .next u ∧ Answered s u e.val lsn.toNat t 0x0B06 0) ∧
    (∀ k, pState s (zOf t) = 0 → ((srv s e.val).p.handles.all fun h => !(h.2.live && h.2.keeper == zOf t)) = true → m = true →
      arg t 25 1 ≤ 1 → arg t 26 1 ≤ 15 → arg t 27 1 ≤ 8 → arg t 38 1 ≤ 1 → topPGood (arg t 48 4) = true → tempGood (arg t 52 4) = true → arg t 39 1 = 0 → restZero t 1 72 = true →
      (openFrit s e.val t).1 = some k → arg t 56 16 = 0 ∨ (handleValid s e.val (arg t 56 16) (arg t 12 4) false = true ∧ (tget {} (srv s e.val).c.handles (arg t 56 4)).model = arg t 24 1) →
      ∃ u, exec (.open_ e lsn m) s = .next u ∧ fld (pword u (zOf t) 1) 28 4 = 1 ∧ fld (pword u (zOf t) 1) 20 8 = arg t 24 1 % 256 ∧
        pword u (zOf t) 2 = (if arg t 56 16 = 0 then 0 else (tget {} (srv s e.val).c.handles (arg t 56 4)).len) % 2 ^ 32 ∧ pword u (zOf t) 3 = k % 2 ^ 32 ∧
        pword u (zOf t) 7 = arg t 48 4 % 2 ^ 32 ∧ pword u (zOf t) 8 = arg t 52 4 % 2 ^ 32 ∧ pword u (zOf t) 9 = 0 ∧
        (∀ y w, y ≠ zOf t → w < 16 → pword u y w = pword s y w) ∧ ∃ x, (srv u e.val).dones = (srv s e.val).dones ++ [doneRec t 0 x])) ∧
  (∀ (e : Fin 16) (lsn : BitVec 64) (room : Option (BitVec 24)) (s : State) (t : Taken), Accepted s e.val lsn.toNat 2 t →
    (pState s (zOf t) = 0 → ∃ u, exec (.append e lsn room) s = .next u ∧ Answered s u e.val lsn.toNat t 0x0B05 0) ∧
    (pState s (zOf t) ≠ 0 → 1 ≤ arg t 24 4 → arg t 24 4 ≤ 56 → arg t 28 4 = 0 → bitAt (arg t 9 1) 1 = false → restZero t 4 (32 + 4 * arg t 24 4) = true →
      (maxPos s e.val < pword s (zOf t) 2 + pword s (zOf t) 9 + arg t 24 4 → ∃ u, exec (.append e lsn room) s = .next u ∧ Answered s u e.val lsn.toNat t 0x0B11 0) ∧
      (pword s (zOf t) 2 + pword s (zOf t) 9 + arg t 24 4 ≤ maxPos s e.val → ∃ u, exec (.append e lsn room) s = .next u ∧
        fld (pword u (zOf t) 1) 28 4 = 2 ∧ fld (pword u (zOf t) 1) 14 1 = arg t 9 1 % 2 ∧ pword u (zOf t) 2 = pword s (zOf t) 2 ∧
        pword u (zOf t) 9 = (pword s (zOf t) 9 + arg t 24 4) % 2 ^ 32 ∧ pword u (zOf t) 11 = 0 ∧ (∀ y w, y ≠ zOf t → w < 16 → pword u y w = pword s y w) ∧
        (srv u e.val).dones = (srv s e.val).dones ∧ ∃ a, (srv u e.val).p.apps = (srv s e.val).p.apps ++ [a] ∧ a.stream = zOf t ∧ a.count = arg t 24 4))) ∧
  (∀ (e : Fin 16) (lsn : BitVec 64) (s : State) (t : Taken), Accepted s e.val lsn.toNat 3 t →
    (pState s (zOf t) = 0 → ∃ u, exec (.set_ e lsn) s = .next u ∧ Answered s u e.val lsn.toNat t 0x0B05 0) ∧
    (∀ w lo n f, pState s (zOf t) ≠ 0 → setField (arg t 24 1) = some (w, lo, n, f) →
      ((f (arg t 32 8) && arg t 25 7 == 0 && restZero t 1 40) = false → ∃ u, exec (.set_ e lsn) s = .next u ∧ Answered s u e.val lsn.toNat t 0x0B02 0) ∧
      ((f (arg t 32 8) && arg t 25 7 == 0 && restZero t 1 40) = true → ∃ u, exec (.set_ e lsn) s = .next u ∧ fld (pword u (zOf t) w) lo n = arg t 32 8 % 2 ^ n ∧
        (∀ y x, (y, x) ≠ (zOf t, w) → x < 16 → pword u y x = pword s y x) ∧
        (srv u e.val).dones = (srv s e.val).dones ++ [doneRec t 0 (fld (pword s (zOf t) w) lo n)]))) ∧
  (∀ (e : Fin 16) (lsn : BitVec 64) (s : State) (t : Taken), Accepted s e.val lsn.toNat 6 t → pState s (zOf t) ≠ 0 →
    (pword s (zOf t) 2 + pword s (zOf t) 9 < arg t 24 4 → ∃ u, exec (.trim e lsn) s = .next u ∧ Answered s u e.val lsn.toNat t 0x0B10 0) ∧
    (arg t 24 4 ≤ pword s (zOf t) 2 + pword s (zOf t) 9 → ∃ u, exec (.trim e lsn) s = .next u ∧ pword u (zOf t) 2 = min (pword s (zOf t) 2) (arg t 24 4) ∧
      pword u (zOf t) 9 = (arg t 24 4 - pword s (zOf t) 2) % 2 ^ 32 ∧ fld (pword u (zOf t) 1) 28 4 = (if pword s (zOf t) 2 < arg t 24 4 then 2 else 1) ∧
      (∀ y w, y ≠ zOf t → w < 16 → pword u y w = pword s y w) ∧
      ∃ l, (srv u e.val).dones = (srv s e.val).dones ++ l ++ [doneRec t 0 (min (pword s (zOf t) 2) (arg t 24 4))])) ∧
  (∀ (e : Fin 16) (lsn : BitVec 64) (s : State) (t : Taken), Accepted s e.val lsn.toNat 7 t →
    (pState s (zOf t) = 0 → ∃ u, exec (.close e lsn) s = .next u ∧ Answered s u e.val lsn.toNat t 0x0B05 0) ∧
    (pState s (zOf t) ≠ 0 → ∃ u, exec (.close e lsn) s = .next u ∧ pState u (zOf t) = 0 ∧ pword u (zOf t) 9 = 0 ∧
      (∀ y w, y ≠ zOf t → w < 16 → pword u y w = pword s y w) ∧ ∃ l, (srv u e.val).dones = (srv s e.val).dones ++ l ++ [doneRec t 0 (pword s (zOf t) 2)]))

/-- The next accepted request of its group. KEEP takes the lowest free handle of the core's share and answers its index,
generation, tag and length; RELEASE ends a valid handle and answers its users. FRIT_LOAD of a new family and FRIT_REPLACE of a present one
start LOADING the lowest free slot and answer at residency. FRIT_RETIRE ends the family's default, frees its LOADING slots and
answers its references. QUERY answers its item and has no other effect. No stream word changes, and a failed check answers with its
status and does nothing else (R351, Table 13-6). -/
def Obligations.HandleFritAndQueryRequests : Prop :=
  (∀ (e : Fin 16) (lsn : BitVec 64) (s : State) (t : Taken), Accepted s e.val lsn.toNat 4 t → pState s (zOf t) ≠ 0 →
    (¬ (1 ≤ arg t 24 4 ∧ arg t 24 4 ≤ pword s (zOf t) 2) → ∃ u, exec (.keep e lsn) s = .next u ∧ Answered s u e.val lsn.toNat t 0x0B0F 0) ∧
    (1 ≤ arg t 24 4 ∧ arg t 24 4 ≤ pword s (zOf t) 2 → freeHandle s e.val t.core = none → ∃ u, exec (.keep e lsn) s = .next u ∧ Answered s u e.val lsn.toNat t 0x0B0E 0) ∧
    (∀ ix, 1 ≤ arg t 24 4 ∧ arg t 24 4 ≤ pword s (zOf t) 2 → freeHandle s e.val t.core = some ix →
      let g := (tget {} (srv s e.val).p.handles ix).gen
      let gen := if g + 1 < 2 ^ 32 then g + 1 else 1
      ∃ u, exec (.keep e lsn) s = .next u ∧ (∀ y w, pword u y w = pword s y w) ∧
        (srv u e.val).dones = (srv s e.val).dones ++ [doneRec t 0 (pack [(0, 32, ix), (32, 32, gen), (64, 64, handleTag s e.val ix gen (arg t 12 4)), (128, 32, arg t 24 4)])] ∧
        let h := tget {} (srv u e.val).p.handles ix
        h.live = true ∧ h.gen = gen ∧ h.keeper = zOf t ∧ h.len = arg t 24 4 ∧ h.users = 1 ∧ h.model = fld (pword s (zOf t) 1) 20 8)) ∧
  (∀ (e : Fin 16) (lsn : BitVec 64) (s : State) (t : Taken), Accepted s e.val lsn.toNat 5 t →
    (handleValid s e.val (arg t 24 16) (arg t 12 4) true = false → ∃ u, exec (.release e lsn) s = .next u ∧ Answered s u e.val lsn.toNat t 0x0B0C 0) ∧
    (handleValid s e.val (arg t 24 16) (arg t 12 4) true = true → ∃ u, exec (.release e lsn) s = .next u ∧ (∀ y w, pword u y w = pword s y w) ∧
      (∀ k, tget {} (srv u e.val).p.handles k = if k = arg t 24 4 then { tget {} (srv s e.val).p.handles k with ended := true } else tget {} (srv s e.val).p.handles k) ∧
      (srv u e.val).dones = (srv s e.val).dones ++ [doneRec t 0 (tget {} (srv s e.val).c.handles (arg t 24 4)).users])) ∧
  (∀ (e : Fin 16) (lsn : BitVec 64) (slot : BitVec 32) (addr : BitVec 48) (s : State) (t : Taken), Accepted s e.val lsn.toNat 0x10 t →
    (∀ m, familyIn (srv s e.val).p (arg t 24 4) = true → ∃ u, exec (.fritLoad e lsn m slot addr) s = .next u ∧ Answered s u e.val lsn.toNat t 0x0B0A 0) ∧
    (∀ k, familyIn (srv s e.val).p (arg t 24 4) = false → arg t 48 4 ≤ slot.toNat → fritFields t = true → freeFrit s e.val = some k →
      ∃ u, exec (.fritLoad e lsn true slot addr) s = .next u ∧ (∀ y w, pword u y w = pword s y w) ∧ (srv u e.val).dones = (srv s e.val).dones ∧
        ∀ j, tget {} (srv u e.val).p.frits j = if j = k then { st := 1, family := arg t 24 4, version := arg t 28 4, lsn := t.lsn, ring := t.ring, cookie := arg t 16 8, kind := arg t 8 1, addr := addr.toNat, bytes := arg t 48 4, digest := arg t 56 16 }
          else tget {} (srv s e.val).p.frits j)) ∧
  (∀ (e : Fin 16) (lsn : BitVec 64) (slot : BitVec 32) (addr : BitVec 48) (s : State) (t : Taken), Accepted s e.val lsn.toNat 0x11 t →
    (∀ m, familyIn (srv s e.val).p (arg t 24 4) = false → ∃ u, exec (.fritReplace e lsn m slot addr) s = .next u ∧ Answered s u e.val lsn.toNat t 0x0B07 0) ∧
    (∀ k, familyIn (srv s e.val).p (arg t 24 4) = true → (srv s e.val).p.retired.contains (arg t 24 4) = false →
      fritFind (srv s e.val).p (fun x => x.family == arg t 24 4 && decide (arg t 28 4 ≤ x.version)) = none → arg t 48 4 ≤ slot.toNat → fritFields t = true → freeFrit s e.val = some k →
      ∃ u, exec (.fritReplace e lsn true slot addr) s = .next u ∧ (∀ y w, pword u y w = pword s y w) ∧ (srv u e.val).dones = (srv s e.val).dones ∧
        ∀ j, tget {} (srv u e.val).p.frits j = if j = k then { st := 1, family := arg t 24 4, version := arg t 28 4, lsn := t.lsn, ring := t.ring, cookie := arg t 16 8, kind := arg t 8 1, addr := addr.toNat, bytes := arg t 48 4, digest := arg t 56 16 }
          else tget {} (srv s e.val).p.frits j)) ∧
  (∀ (e : Fin 16) (lsn : BitVec 64) (s : State) (t : Taken), Accepted s e.val lsn.toNat 0x12 t →
    (familyIn (srv s e.val).p (arg t 24 4) = false → ∃ u, exec (.fritRetire e lsn) s = .next u ∧ Answered s u e.val lsn.toNat t 0x0B07 0) ∧
    (familyIn (srv s e.val).p (arg t 24 4) = true → ∃ u, exec (.fritRetire e lsn) s = .next u ∧ (∀ y w, pword u y w = pword s y w) ∧
      arg t 24 4 ∈ (srv u e.val).p.retired ∧ (∀ f ∈ (srv s e.val).p.retired, f ∈ (srv u e.val).p.retired) ∧
      (∃ l, (srv u e.val).dones = (srv s e.val).dones ++ l ++ [doneRec t 0 ((((srv s e.val).p.frits.filter fun x => x.2.st != 0 && x.2.family == arg t 24 4).map fun x => (tget 0 s.fritRefs x.1).toNat).foldl (· + ·) 0)]) ∧
      (∀ k, (∀ x ∈ (srv s e.val).p.frits, x.1 = k → x.2.family ≠ arg t 24 4) → tget {} (srv u e.val).p.frits k = tget {} (srv s e.val).p.frits k) ∧
      (((srv s e.val).p.frits.map (·.1)).Nodup → ∀ x ∈ (srv s e.val).p.frits, x.2.st ≠ 0 → x.2.family = arg t 24 4 →
        tget {} (srv u e.val).p.frits x.1 = if x.2.st = 1 then {} else { x.2 with dflt := false }))) ∧
  (∀ (e : Fin 16) (lsn : BitVec 64) (s : State) (t : Taken), Accepted s e.val lsn.toNat 0x20 t →
    (¬ (1 ≤ arg t 24 1 ∧ arg t 24 1 ≤ 4) → ∃ u, exec (.query e lsn) s = .next u ∧ Answered s u e.val lsn.toNat t 0x0B15 0) ∧
    (arg t 24 1 = 1 → ∃ u, exec (.query e lsn) s = .next u ∧ Answered s u e.val lsn.toNat t 0
      (pack [(0, 8, pState s (zOf t)), (16, 16, pword s (zOf t) 3), (32, 32, pword s (zOf t) 2), (64, 32, pword s (zOf t) 9), (96, 32, pword s (zOf t) 11)])) ∧
    (arg t 24 1 = 2 → ∃ u r, exec (.query e lsn) s = .next u ∧ Answered s u e.val lsn.toNat t 0 r) ∧
    (arg t 24 1 = 3 → handleValid s e.val (arg t 32 16) (arg t 12 4) true = true → ∃ u, exec (.query e lsn) s = .next u ∧ Answered s u e.val lsn.toNat t 0
      (pack [(0, 32, (tget {} (srv s e.val).c.handles (arg t 32 4)).len), (32, 32, (tget {} (srv s e.val).c.handles (arg t 32 4)).users), (64, 48, (tget {} (srv s e.val).c.handles (arg t 32 4)).expiry.getD 0)])) ∧
    (arg t 24 1 = 4 → ∃ u, exec (.query e lsn) s = .next u ∧ Answered s u e.val lsn.toNat t 0
      (pack [(0, 64, (srv s e.val).nextLsn + 2 ^ 63 * rf s 0x020000015000 40 1), (64, 32, freeUnits s e.val)])))

/-- At INTAKE_OFS of a running plan a snapshot begins: the reads of phase 1 go out and are outstanding; a replay takes none and
keeps the records taken (R34, R334, R336). INTAKE_SPAN / 4 later each read still outstanding fails with 0x0B02 (R334). At POST_OFS
each registered ring's records below HEAD plus its size leave its queue, then the consumed words and the export units go out
(R339); where the device may not write host memory nothing leaves and 0x0B03 is recorded. Writes that did not complete within
POST_SPAN return to their queues with 0x0B03 (R339). A stream in DECODE takes its last token's position and draws the next; at its
last position of prefill it draws the first; the generation ends where R349 says, and without a free pane slot with the last token
again (R348, R349, R364). A stream held or idle draws nothing (R340). -/
def Obligations.IntakePostingAndSampling : Prop :=
  (∀ (e : Fin 16) (s : State), s.phase = 0 → planOn s = true → frameTick s = rf s (srvA e.val 0x008) 41 23 →
    ((srv s e.val).snap.phase = 0 ∨ (srv s e.val).snap.step ≠ stepNo s) →
    (s.vote.replay = true → paired s = false → exec (.intakeSnapshot e) s = .next (modSrv s e.val fun v => { v with snap := { v.snap with phase := 3, step := stepNo s } })) ∧
    (s.vote.replay = false →
      let w := snapBegin s e.val
      podRole w ≠ 2 → hostReach w (e.val + 1) = true → phase1Reads w e.val ≠ [] →
      ∃ t, exec (.intakeSnapshot e) s = .next t ∧ t.sent = w.sent ++ (phase1Reads w e.val).map (fun r => .hostRead r.1 (e.val + 1) r.2.1 r.2.2) ∧
        srv t e.val = { srv w e.val with snap := { (srv w e.val).snap with out := (phase1Reads w e.val).map (·.1) } } ∧ t.faults = w.faults)) ∧
  (∀ (e : Fin 16) (s : State), let n := (srv s e.val).snap
    (n.out ≠ [] → n.at_ + rf s (srvA e.val 0x018) 41 23 / 4 ≤ ttc s →
      exec (.snapshotReadTimeout e) s = .next (snapAdvance (n.out.foldl (fun s t => snapFail s e.val t) s) e.val)) ∧
    (n.out = [] ∨ ttc s < n.at_ + rf s (srvA e.val 0x018) 41 23 / 4 → exec (.snapshotReadTimeout e) s = .next s)) ∧
  (∀ (s : State) (e t : Nat), let u := snapFail s e t
    Recorded s u 0x0B02 1 ∧ (srv u e).snap = { (srv s e).snap with out := (srv s e).snap.out.filter fun x => x != t }) ∧
  (∀ (e : Fin 16) (s : State), s.phase = 0 → planOn s = true → frameTick s = rf s (srvA e.val 0x008) 18 23 →
    let v := modSrv s e.val fun v => { v with posts := [] }
    (∀ k l, podRole v ≠ 2 → hostReach v (e.val + 1) = false → regRings v e.val = k :: l →
      ∃ t, exec (.posting e) s = .next t ∧ Recorded s t 0x0B03 1 ∧ t.sent = s.sent ∧ srv t e.val = { srv s e.val with posts := [] }) ∧
    (podRole v = 2 ∨ hostReach v (e.val + 1) = true →
      let x := (regRings v e.val).foldl (fun s k => postRing s e.val k) v
      let y := (regRings x e.val).foldl (fun s k => modSrv (postWord s e.val k 1 (ring s e.val k).consA (ring s e.val k).nextR) e.val fun v => { v with posts := v.posts ++ [(k, 1, 0, 0)] }) x
      let z := postExport y e.val
      ((srv z e.val).regPost = false → exec (.posting e) s = .next z) ∧
      ((srv z e.val).regPost = true → exec (.posting e) s = .next (msix (modSrv z e.val fun v => { v with regPost := false }) (e.val + 1) 17)))) ∧
  (∀ (s : State) (e k : Nat), podRole s ≠ 2 → let r := ring s e k
    let go := postable s e k
    let t := postRing s e k
    ring t e k = { r with queue := r.queue.drop go.length, posted := match go.getLast? with | some q => q.1 + 1 | none => r.posted } ∧
      (∀ j, j ≠ k → ring t e j = ring s e j) ∧ (srv t e).posts = (srv s e).posts ++ go.map (fun q => (k, 0, q.1, q.2)) ∧ t.mem = s.mem ∧ t.faults = s.faults) ∧
  (∀ (e : Fin 16) (n : Nat) (s : State),
    ((srv s e.val).posts.drop n = [] → exec (.postingTimeout e n) s = .next s) ∧
    (∀ k q b, planOn s = true → rf s (srvA e.val 0x008) 18 23 + rf s (srvA e.val 0x018) 18 23 ≤ frameTick s → (srv s e.val).posts.drop n = [(k, 0, q, b)] →
      ∃ t, exec (.postingTimeout e n) s = .next t ∧ Recorded s t 0x0B03 1 ∧ ring t e.val k = { ring s e.val k with queue := (q, b) :: (ring s e.val k).queue, posted := q } ∧
        (srv t e.val).posts = [])) ∧
  (∀ (e : Fin 16) (z : BitVec 13) (lg st : List (BitVec 32)) (np : Bool) (s : State), planOn s = true → inCommit s = false → ownsStream s e.val z.toNat = true →
    ((srv s e.val).toks.any fun t => t.1 == z.toNat) = false → ringHeld s e.val (fld (pword s z.toNat 1) 16 4) = false → s.heldStreams.contains z.toNat = false →
    let g := tget {} (srv s e.val).p.gens z.toNat
    let n := pword s z.toNat 2
    (pState s z.toNat = 3 → g.drawn = false → exec (.tokenSample e z lg st np) s = .next (sampleAt s e.val z.toNat n lg st)) ∧
    (pState s z.toNat = 3 → g.drawn = true → np = true → n % 256 = 0 →
      exec (.tokenSample e z lg st np) s = .next (pendFld (tokenRec s e.val z.toNat g.pos g.tok g.val 4) z.toNat 1 28 4 1)) ∧
    (pState s z.toNat = 3 → g.drawn = true → np = false ∨ n % 256 ≠ 0 →
      exec (.tokenSample e z lg st np) s = .next (sampleAt (pendWord (listPositions s e.val z.toNat n (n + 1)) z.toNat 2 (n + 1)) e.val z.toNat (n + 1) lg st)) ∧
    (pState s z.toNat = 2 → bitAt (pword s z.toNat 1) 14 = true → pword s z.toNat 9 ≤ rf s (srvA e.val 0x010) 18 13 →
      exec (.tokenSample e z lg st np) s = .next (sampleAt s e.val z.toNat (n + pword s z.toNat 9) lg st)) ∧
    (pState s z.toNat = 1 → exec (.tokenSample e z lg st np) s = .next s)) ∧
  (∀ (s : State) (e z p : Nat) (lg st : List (BitVec 32)), let t := sampleAt s e z p lg st
    let d := drawToken (pword s z 5 + 2 ^ 32 * pword s z 6) z e p (pword s z 8) (fld (pword s z 1) 9 4) (pword s z 7) lg
    let ends := (bitAt (pword s z 1) 13 = true ∧ BitVec.ofNat 32 d.1 ∈ st) ∨ (fld (pword s z 10) 0 16 ≠ 0 ∧ fld (pword s z 10) 0 16 ≤ pword s z 11 + 1) ∨ maxPos s e ≤ p
    pword t z 11 = (pword s z 11 + 1) % 2 ^ 32 ∧ (∃ r, (srv t e).toks = (srv s e).toks ++ [r] ∧ r.1 = z) ∧
      (let h := tget {} (srv t e).p.gens z
       h.drawn = true ∧ h.pos = p ∧ h.tok = d.1 ∧ h.val = d.2.toNat) ∧
      (¬ ends → pword t z 1 = pword s z 1) ∧ (ends → fld (pword t z 1) 14 1 = 0 ∧ (pState s z = 3 → pState t z = 1)) ∧
      ∀ y w, 16 * y + w ≠ 16 * z + 1 → 16 * y + w ≠ 16 * z + 11 → pword t y w = pword s y w)

/-- A message for this device is taken, one for another forwarded, and a flood at its first receipt is both (R371). In each window the
device sends its heartbeats once; a heartbeat counts in the window it arrives in (R372). At a window's end every monitored device's
missed windows are counted; MISS_LIMIT of them make this elector suspect it with 0x0C02, which opens a vote, unless a vote on it was
too recent or the fleet is of two (R373, R380). A vote sends its bitmaps in its round, and a VOTE in its round is merged (R374). At D
more than half of the electorate DOWN floods DECIDE and schedules the subject; otherwise 0x0C03 is recorded (R375). A DOWN DECIDE is
taken, and halts with 0x0C08 after its action tick (R379). A device's EVENT is a report on it (R376). -/
def Obligations.CrownlineDetectsAndDecides : Prop :=
  (∀ (s : State), planOn s = true →
    (hbWindow s < s.crl.hbWin → exec .heartbeatSend s = .next s) ∧
    (s.crl.hbWin ≤ hbWindow s → ∃ t, exec .heartbeatSend s = .next t ∧ t = { s with crl := { s.crl with hbWin := hbWindow s + 1 }, links := t.links })) ∧
  (∀ (n : Fin 24) (m : CrlMsg) (s : State), (m.dest.toNat = myIx s → m.dest ≠ 0xFFFF →
      ∃ t, exec (.heartbeat n m) s = .next t ∧ t = { s with crl := { s.crl with heard := t.crl.heard } } ∧ ∀ d, d ∈ t.crl.heard ↔ d ∈ s.crl.heard ∨ d = m.sender.toNat) ∧
    (m.dest.toNat ≠ myIx s → m.dest ≠ 0xFFFF → exec (.heartbeat n m) s = .next (crlSend s 0x10 m))) ∧
  (∀ (s : State), planOn s = true → ttc s = launchT s + (s.crl.win + 1) * hbPeriod s → s.crl.claim = false →
    let v := (monitored s).foldl (fun u x => missStep u x (ttc s)) (modCrl s fun c => { c with win := c.win + 1 })
    let t := eventReport (isolation v) (ttc s)
    (t.crl.claim = false → exec .heartbeatWindowEnd s = .next (modCrl t fun c => { c with heard := [] }))) ∧
  (∀ (s : State) (x t : Nat), let n := if s.crl.heard.contains x then 0 else tget 0 s.crl.miss x + 1
    let u := modCrl s fun c => { c with miss := tset 0 c.miss x n }
    (fleetSize s < 3 ∨ n < missLimit s ∨ s.crl.win < tget 0 s.crl.noVote x → missStep s x t = u) ∧
    (3 ≤ fleetSize s → missLimit s ≤ n → tget 0 s.crl.noVote x ≤ s.crl.win → missStep s x t = suspect u x t 1 ∧ Recorded s (missStep s x t) 0x0C02 0 ∧
      ((s.crl.votes.any fun y => y.subject == x && y.v == t) = false →
        (missStep s x t).crl.votes = s.crl.votes ++ [{ subject := x, v := t, cause := 1, down := 2 ^ electNo s x (myIx s), up := 0, from_ := 1, sent := 0 }]))) ∧
  (∀ (x : BitVec 16) (s : State) (y : CrlVote), planOn s = true → (s.crl.votes.find? fun y => y.subject == x.toNat && decide (y.sent < roundOf s y.v)) = some y →
    y.from_ ≤ roundOf s y.v → (roundOf s y.v = 1 ∨ (1 < roundOf s y.v ∧ roundOf s y.v < crlRounds s)) →
    exec (.voteRound x) s = .next (((electorsOf s x.toNat).filter fun d => d != myIx s).foldl (fun s d =>
      crlSend s 0x11 { crlMsg s d x.toNat y.v y.cause with down := BitVec.ofNat 32 y.down, up := BitVec.ofNat 32 y.up }) (modVote s x.toNat y.v fun z => { z with sent := roundOf s y.v }))) ∧
  (∀ (n : Fin 24) (r : BitVec 3) (m : CrlMsg) (s : State), planOn s = true → 3 ≤ fleetSize s → m.dest.toNat = myIx s → m.dest ≠ 0xFFFF → (electorsOf s m.subject.toNat).contains (myIx s) = true →
    (roundOf s m.v.toNat = r.toNat + 1 → exec (.vote n r m) s =
      .next (modVote (openVote s m.subject.toNat m.v.toNat m.cause.toNat (r.toNat + 2) (joinBit s m)) m.subject.toNat m.v.toNat fun y => { y with down := y.down ||| m.down.toNat, up := y.up ||| m.up.toNat })) ∧
    (roundOf s m.v.toNat ≠ r.toNat + 1 → exec (.vote n r m) s = .next s)) ∧
  (∀ (x : BitVec 16) (s : State) (y : CrlVote), planOn s = true → (s.crl.votes.find? fun y => y.subject == x.toNat && decide (ttc s = y.v + crlRounds s * crlRoundLen s)) = some y →
    let v := modCrl s fun c => { c with votes := c.votes.erase y }
    let w := if v.crl.votes = [] ∧ rf v (crlA 0x010) 60 4 = 1 then setRf v (crlA 0x010) 60 4 (if v.crl.decs = [] then 0 else 2) else v
    ((electorsOf s x.toNat).length < 2 * ones y.down → exec (.crownlineDecision x) s =
      .next (addDec (crlFlood w 0x12 { crlMsg w 0xFFFF x.toNat y.v y.cause with flags := 1, down := BitVec.ofNat 32 y.down, aux := BitVec.ofNat 64 (actionTickOf w (ttc w)) })
        { subject := x.toNat, cause := y.cause, tick := actionTickOf w (ttc w), forced := false } true)) ∧
    (2 * ones y.down ≤ (electorsOf s x.toNat).length → ∃ t, exec (.crownlineDecision x) s = .next t ∧ (∃ f, t.faults = s.faults ++ [f] ∧ f.code = 0x0C03 ∧ f.sev = 0) ∧
      t.crl = { s.crl with votes := s.crl.votes.erase y })) ∧
  (∀ (n : Fin 24) (m : CrlMsg) (s : State), m.dest = 0xFFFF → s.crl.seen.contains (0x12, m.sender.toNat, m.subject.toNat, m.v.toNat) = false →
    let u := crlSend (modCrl s fun c => { c with seen := c.seen ++ [(0x12, m.sender.toNat, m.subject.toNat, m.v.toNat)] }) 0x12 m
    takesPart u m = true → bitAt m.flags.toNat 0 = true →
    (m.aux.toNat < ttc u → ∃ t, exec (.decide_ n m) s = .next t ∧ Recorded u t 0x0C08 4 ∧ t.halted = true) ∧
    (ttc u ≤ m.aux.toNat → exec (.decide_ n m) s = .next (addDec u { subject := m.subject.toNat, cause := m.cause.toNat, tick := m.aux.toNat, forced := false } true))) ∧
  (∀ (n : Fin 24) (m : CrlMsg) (s : State), m.dest = 0xFFFF →
    let k := (0x13, m.sender.toNat, m.subject.toNat, m.v.toNat)
    let u := crlSend (modCrl s fun c => { c with seen := c.seen ++ [k] }) 0x13 m
    (s.crl.seen.contains k = true → exec (.event n m) s = .next s) ∧
    (s.crl.seen.contains k = false → planOn u = true → exec (.event n m) s =
      .next (addDec u { subject := m.subject.toNat, cause := m.cause.toNat, tick := actionTickOf u (m.v.toNat + crlRounds u * crlRoundLen u), forced := false } false))) ∧
  (∀ (s : State) (x : CrlDec) (d : Bool), let t := addDec s x d
    (x ∈ s.crl.decs → t = s) ∧ (x ∉ s.crl.decs → t.crl = { s.crl with decs := s.crl.decs ++ [x] } ∧ t.faults = s.faults ∧ t.links = s.links))

/-- A CLAIM at its first receipt opens a vote of cause 7 at an elector (R391). At phase 0 of an action tick the table's first matching
entry applies to the subjects: an EVICT marks them evicted, and halts the device with 0x0C05 where it is one of them; a HALT halts it.
With no entry, or more than two subjects, it halts with 0x0C07 (R377, R378, R379). At each 156,250 tt after launch every part's score
is S - (S >> H) plus what its faults since the last update weigh, saturating (R390). PROMOTE in a fleet of two decides the twin down at
once (R380), and CLAIM is flooded at the window's end (R391); that it ends the hold of a device that has not launched is the
model's reading, log entry 62. A SECCHK for this device before launch is noted, and one that differs raises 0x0F06 and bars the
launch (R449). -/
def Obligations.ActionsWearAndSecurityChecks : Prop :=
  (∀ (n : Fin 24) (m : CrlMsg) (s : State), m.dest = 0xFFFF →
    let k := (0x14, m.sender.toNat, m.subject.toNat, m.v.toNat)
    let u := crlSend (modCrl s fun c => { c with seen := c.seen ++ [k] }) 0x14 m
    (s.crl.seen.contains k = true → exec (.claimMessage n m) s = .next s) ∧
    (s.crl.seen.contains k = false → planOn u = true → 3 ≤ fleetSize u →
      ((electorsOf u m.subject.toNat).contains (myIx u) = true → exec (.claimMessage n m) s =
        .next (openVote u m.subject.toNat m.v.toNat 7 (roundOf u m.v.toNat + 1) (admits u m.subject.toNat m.aux.toNat m.secver.toNat))) ∧
      ((electorsOf u m.subject.toNat).contains (myIx u) = false → exec (.claimMessage n m) s = .next u))) ∧
  (∀ s : State, s.phase = 0 → s.halted = false →
    let xs := subjectsAt s (ttc s)
    let ds := s.crl.decs.filter fun d => d.tick == ttc s
    let u := decsTaken s
    (ds = [] → exec .actionTick s = .next s) ∧
    (ds ≠ [] → 2 < xs.length ∨ entryAt s (ttc s) = none → ∃ t, exec .actionTick s = .next t ∧ Recorded s t 0x0C07 4 ∧ t.halted = true) ∧
    (ds ≠ [] → xs.length ≤ 2 → ∀ e, entryAt s (ttc s) = some e → exec .actionTick s = .next (applyEntry (noteAction u e) e xs ((ds.map (·.cause)).headD 0) (ttc s)))) ∧
  (∀ s : State, let u := decsTaken s
    u.crl = { s.crl with decs := s.crl.decs.filter fun d => d.tick != ttc s } ∧ u = { s with crl := u.crl, regs := u.regs, fired := u.fired, sent := u.sent }) ∧
  (∀ (s : State) (e : ActEnt) (xs : List Nat) (c t : Nat),
    (e.action = 1 → applyEntry s e xs c t = evict s xs c t) ∧
    (e.action = 4 → (applyEntry s e xs c t).halted = true ∧ rf (applyEntry s e xs c t) (crlA 0x010) 60 4 = 3) ∧
    (evict s xs c t).evicted = ascending (s.evicted ++ xs) ∧
    (xs.contains (myIx s) = true → Recorded s (evict s xs c t) 0x0C05 4 ∧ (evict s xs c t).halted = true)) ∧
  (∀ s : State,
    (ttc s - launchT s = 0 ∨ (ttc s - launchT s) % 156250 ≠ 0 ∨ s.crl.wearAt = ttc s → exec .wearUpdate s = .next s) ∧
    (launched s = true → ttc s - launchT s ≠ 0 → (ttc s - launchT s) % 156250 = 0 → s.crl.wearAt ≠ ttc s → ∃ t, exec .wearUpdate s = .next t ∧ t.wearMark = s.faults.length ∧ t.crl.wearAt = ttc s ∧
      ∀ p, p < 128 → tget 0 t.crl.wear p = min (2 ^ 32 - 1) (tget 0 s.crl.wear p - tget 0 s.crl.wear p / 2 ^ rf s (crlA 0x038) 59 5 + wearAdd s p))) ∧
  (∀ s : State,
    (∀ y, twinOf s = some y → planOn s = true → fleetSize s = 2 → exec .crlCtrlPromote s = .next (addDec s { subject := y, cause := 1, tick := actionTickOf s (ttc s), forced := true } true)) ∧
    (twinOf s = none ∨ fleetSize s ≠ 2 → exec .crlCtrlPromote s = .next s) ∧
    exec .crlCtrlClaim s = .next { s with crl := { s.crl with claim := true }, halted := s.halted && (launched s || stage s != 9) }) ∧
  (∀ (n : Fin 24) (a b : BitVec 16) (p : BitVec 64) (pv fv : BitVec 32) (s : State),
    (b.toNat ≠ myIx s → ∃ t, exec (.secchk n a b p pv fv) s = .next t ∧ t = { s with links := t.links }) ∧
    (b.toNat = myIx s → launched s = true → exec (.secchk n a b p pv fv) s = .next s) ∧
    (b.toNat = myIx s → launched s = false →
      let ok := p.toNat = rg s (parA 0x028) ∧ pv.toNat ≤ rf s (parA 0x034) 0 32 ∧ fv.toNat ≤ rf s (secA 0x000) 0 32
      (ok → ∃ t, exec (.secchk n a b p pv fv) s = .next t ∧ t.faults = s.faults ∧ t.crl = { s.crl with secOk := ascending (a.toNat :: s.crl.secOk) }) ∧
      (¬ ok → ∃ t, exec (.secchk n a b p pv fv) s = .next t ∧ Recorded s t 0x0F06 4 ∧ t.crl.secBad = true)))

/-- At RELAY_OFS of a frame that is no replay, the lead of a pod reads a member ring's HEAD and VALID words from the first unconsumed
record on, INTAKE_MAX of them; a second request for the ring while one is under way changes nothing (R409). A relay message for
another device goes on along its route. For this device, RELAY_SUB stores half a record at its place in the member's ring image,
RELAY_WORD stores a HEAD or export-mark word there, or takes a member's consumed word to host memory, and RELAY_POST writes its
records to host memory, each record's first 8 bytes last, and fires PF vector 4 (R409, R410). Nothing else changes. A form of more
than three records, or of no word, stops as ill formed: no sender forms it. -/
def Obligations.PodRelay : Prop :=
  (∀ (x : BitVec 13) (e k : Fin 16) (hd sb : BitVec 64) (lg : BitVec 5) (s : State),
    let key := (x.toNat * 16 + e.val) * 16 + k.val
    let c := tget 0 s.relayC key
    let reads := (relayTag key 0 0, hd.toNat, 8) :: (List.range (intakeMax s e.val)).map fun i => (relayTag key 2 i, sb.toNat + 256 * ((c + i) % 2 ^ lg.toNat), 8)
    (podRole s = 1 → planOn s = true → s.vote.replay = false → frameTick s = rf s (bar 0 0x108) 0 23 → s.relays.any (fun r => relayKey r == key) = false → hostReach s 0 = true →
      exec (.relayForward x e k hd sb lg) s = .next { s with
        relays := s.relays ++ [{ member := x.toNat, env := e.val, ring := k.val, sub := sb.toNat, log2 := lg.toNat, first := c, phase := 1, out := reads.map (·.1), got := [] }],
        sent := s.sent ++ reads.map fun y => .hostRead y.1 0 y.2.1 y.2.2 }) ∧
    (podRole s ≠ 1 ∨ s.vote.replay = true ∨ s.relays.any (fun r => relayKey r == key) = true → exec (.relayForward x e k hd sb lg) s = .next s)) ∧
  (∀ (m : RelayMsg) (s : State) (ty : Nat) (f : State → State), (m.dest.toNat = myIx s → relayIn s ty m f = f s) ∧
    (m.dest.toNat ≠ myIx s → relayIn s ty m f = { s with links := (relayIn s ty m f).links })) ∧
  (∀ (n : Fin 24) (m : RelayMsg) (s : State), let e := m.env.toNat % 16
    let k := m.ring.toNat % 16
    let a := (imageRing s e k).1 + 256 * (m.seq.toNat % max (subSize (ring s e k)) 1) + 128 * (m.b1.toNat % 2)
    (m.dest.toNat = myIx s → ∃ t, exec (.relaySub n m) s = .next t ∧ t = { s with mem := t.mem, sec := t.sec } ∧
      readBytes t.mem a 128 = leBytes 128 m.payload.toNat ∧ ∀ b, b < a ∨ a + 128 ≤ b → readByte t.mem b = readByte s.mem b) ∧
    (m.dest.toNat ≠ myIx s → ∃ t, exec (.relaySub n m) s = .next t ∧ t = { s with links := t.links })) ∧
  (∀ (n : Fin 24) (m : RelayMsg) (s : State), (3 < m.b1.toNat → exec (.relayPost n m) s = .fault (.illFormed "RELAY_POST")) ∧
    (m.b1.toNat ≤ 3 → m.dest.toNat ≠ myIx s → ∃ t, exec (.relayPost n m) s = .next t ∧ t = { s with links := t.links }) ∧
    (m.b1.toNat ≤ 3 → m.dest.toNat = myIx s → s.ucie ≠ 2 → busMaster s 0 = true →
      exec (.relayPost n m) s = .next (msix { s with podPost := s.podPost + m.b1.toNat, sent := s.sent ++ (List.range m.b1.toNat).flatMap fun i =>
        let b := leBytes 64 (fld m.payload.toNat (512 * i) 512)
        [.hostWrite 0 (m.addr.toNat + 64 * i + 8) (b.drop 8), .hostWrite 0 (m.addr.toNat + 64 * i) (b.take 8)] } 0 4))) ∧
  (∀ (n : Fin 24) (m : RelayMsg) (s : State), let e := m.env.toNat % 16
    let k := m.ring.toNat % 16
    let v := leBytes 8 (fld m.payload.toNat 0 64)
    let a := if m.b1.toNat = 0 then (imageRing s e k).2 else (imageRing s e 0).2 - 8
    (2 < m.b1.toNat → exec (.relayWord n m) s = .fault (.illFormed "RELAY_WORD")) ∧
    (m.b1.toNat ≤ 2 → m.dest.toNat ≠ myIx s → ∃ t, exec (.relayWord n m) s = .next t ∧ t = { s with links := t.links }) ∧
    (m.b1.toNat = 0 ∨ m.b1.toNat = 2 → m.dest.toNat = myIx s → ∃ t, exec (.relayWord n m) s = .next t ∧ t = { s with mem := t.mem, sec := t.sec } ∧
      readBytes t.mem a 8 = v ∧ ∀ b, b < a ∨ a + 8 ≤ b → readByte t.mem b = readByte s.mem b) ∧
    (m.b1.toNat = 1 → m.dest.toNat = myIx s → s.ucie ≠ 2 → busMaster s 0 = true → exec (.relayWord n m) s = .next { s with
      relayC := tset 0 s.relayC ((m.sender.toNat * 16 + e) * 16 + k) (fld m.payload.toNat 0 64), sent := s.sent ++ [.hostWrite 0 m.addr.toNat v] }))

/-- In a frame, a host window starts at its START, a transfer's host reads at its window's end, and at its deadline an incomplete transfer
is late, with 0x0610, once (R404, R406). A window into which nothing lands reads descriptor entry j at cycle j from START, where that
cycle lies in the window (R404). A ring or range request of an enabled virtual function becomes the pending request on that object,
with the values staged for a REG (R403). A read through RWIN answers the register that the function sees, else 0, which is counted
(R402). A function-level reset clears BAR0's RW fields and the MSI-X table of that function and bus mastering, and leaves
registrations, serving state and every other register (R399); it stops a copy of the PF. -/
def Obligations.HostWindowsAndFunctions : Prop :=
  (∀ (st : Fin 12) (w : Fin 16) (s : State), s.phase = 0 → let k := 16 * st.val + w.val
    (planOn s = true → isHostWin s k = true → frameTick s = winStart s k → exec (.hostWindowStart st w) s = .next (startWindow s k)) ∧
    (isHostWin s k = false ∨ frameTick s ≠ winStart s k → exec (.hostWindowStart st w) s = .next s)) ∧
  (∀ (s : State) (k : Nat), landing s k = [] → let t := startWindow s k
    let h := hwin s k
    t = { s with jobs := t.jobs, acts := t.acts, nextJob := s.nextJob + 1 } ∧
    t.acts = s.acts ++ (((List.range h.ndesc).filterMap fun j => if now s + j < now s + 8 * (winEnd s k - winStart s k) then some (now s + j, Micro.dReq false (h.table + j) (descKey + j)) else none) ++
      (if h.ndesc = 0 then [] else [(now s + h.ndesc + 103, Micro.mover 0 0 0)])).map fun (o : Nat × Micro) => ({ cyc := o.1, core := k / 16 * 5, job := s.nextJob, op := o.2 } : Act)) ∧
  (∀ (st : Fin 12) (w : Fin 16) (d : Fin 128) (s : State) (x : Xfer), let k := 16 * st.val + w.val
    xferOf s k d.val = some x → planOn s = true → frameTick s = winEnd s k → x.ok = true → x.started = false → x.outw = false → hostReach s (x.env + 1) = true →
      exec (.inboundTransferStart st w d) s = .next { s with
        xfers := s.xfers.map fun y => if y.win = x.win ∧ y.desc = x.desc then { y with started := true } else y,
        sent := s.sent ++ (List.range x.n).map fun i => .hostRead (xferTag x.win x.desc i) (x.env + 1) (x.host + 128 * i) 128 }) ∧
  (∀ (st : Fin 12) (w : Fin 16) (d : Fin 128) (s : State), s.phase = 0 → let k := 16 * st.val + w.val
    (xferOf s k d.val = none → exec (.inboundTransferStart st w d) s = .next s ∧ exec (.transferDeadline st w d) s = .next s) ∧
    ∀ x, xferOf s k d.val = some x → planOn s = true → frameTick s = deadlineOf s x →
      let got := if x.outw then x.doneN else x.have_.length
      (x.ok = false ∨ x.n ≤ got ∨ x.late = true → exec (.transferDeadline st w d) s = .next s) ∧
      (x.ok = true → got < x.n → x.late = false → ∃ t, exec (.transferDeadline st w d) s = .next t ∧ Recorded s t 0x0610 2 ∧
        t.xfers = s.xfers.map fun y => if y.win = x.win ∧ y.desc = x.desc then { y with late := true } else y)) ∧
  (∀ (e k : Fin 16) (r : Fin 8) (s : State),
    (vfOn s (e.val + 1) = false → exec (.ringReg e k) s = .next s ∧ exec (.ringUnreg e k) s = .next s ∧ exec (.rangeReg e r) s = .next s ∧ exec (.rangeUnreg e r) s = .next s) ∧
    (vfOn s (e.val + 1) = true → exec (.ringReg e k) s = .next (regRequest s e.val k.val 1 (stagedRing s e.val k.val)) ∧ exec (.ringUnreg e k) s = .next (regRequest s e.val k.val 2 []) ∧
      exec (.rangeReg e r) s = .next (regRequest s e.val (16 + r.val) 1 (stagedRange s e.val r.val)) ∧ exec (.rangeUnreg e r) s = .next (regRequest s e.val (16 + r.val) 2 []))) ∧
  (∀ (s : State) (e o n : Nat) (v : List Nat), let t := regRequest s e o n v
    t = { s with srvs := t.srvs } ∧ (srv t e) = { srv s e with req := (srv t e).req } ∧ (∀ d, d ≠ e → srv t d = srv s d) ∧
      ∀ x, tget none (srv t e).req x = if x = o then some (n, v) else tget none (srv s e).req x) ∧
  (∀ (f : Fin 17) (s : State), let a := rf s (bar f.val 0x028) 0 48
    let seen := if f.val = 0 then decide (0x020000000000 ≤ a) && !keelOnly a else vfSees s (f.val - 1) a
    (∀ r, seen = true → readReg s a = some r → exec (.rwinRead f) s = .next { s with sent := s.sent ++ [.regData f.val a r.v] }) ∧
    (seen = false ∨ readReg s a = none → exec (.rwinRead f) s = .next (emit (bump s (bar f.val 0x008) 16 16) (.regData f.val a 0)))) ∧
  (∀ (f : Fin 17) (s : State), s.kcmd = none → ∃ t, exec (.functionLevelReset f) s = .next t ∧
    t = { s with regs := t.regs, copy := if f.val = 0 then none else s.copy } ∧ rf t (cfgA f.val 0x004) 2 1 = 0 ∧ ∀ a, a ≠ cfgA f.val 0x004 →
      rg t a = if bar f.val 0 ≤ a ∧ a < bar f.val 0 + 0x10000 ∧ flrClears f.val (a - bar f.val 0) = true then 0 else rg s a)

/-- A lane repair of the attachment only records 0x0D01. The first failure of a module pair records 0x0D02 and halves the rate; a link that
goes down records 0x0D03 and is down; each fires PF vector 5 (R397, R408). Unmasking a vector whose pending bit is set sends its message
where the host can be reached, and clears the bit (R408). A completion of no outstanding read changes nothing; data of another length
than the read asked for stops as ill formed. The data of an inbound transfer's row are kept until it lands, an error is counted in
DMA_ERR (R401, R406). CHECK runs the checks of R321 on the staged image: a refusal is recorded; in stage 7 of a cold start an image that
passes is written. That outside stage 7 an image that passes stays staged, STATE as before, is the model's choice, log entry 21.
DISCARD empties the staging range and STATE is 0 (R329). -/
def Obligations.AttachmentAndLoaderControls : Prop :=
  (∀ (m : Fin 4) (l : BitVec 8) (s : State), ∃ t, exec (.ucieLaneRepair m l) s = .next t ∧ Recorded s t 0x0D01 1 ∧ t = { s with faults := t.faults }) ∧
  (∀ (p : Fin 2) (s : State), (s.ucie ≠ 0 → exec (.uciePairFailure p) s = .next s) ∧
    (s.ucie = 0 → ∃ t, exec (.uciePairFailure p) s = .next t ∧ Recorded s t 0x0D02 3 ∧ t.ucie = 1 ∧
      t = msix { raise s 0x0D02 3 0x08 (16 + p.val) 0xFFFF (det [(0, 1, p.val)]) with ucie := 1 } 0 5)) ∧
  (∀ s : State, (s.ucie = 2 → exec .ucieLinkDown s = .next s) ∧
    (s.ucie ≠ 2 → ∃ t, exec .ucieLinkDown s = .next t ∧ Recorded s t 0x0D03 3 ∧ t.ucie = 2 ∧
      t = msix { raise s 0x0D03 3 0x08 16 0xFFFF (det [(0, 1, s.ucie)]) with ucie := 2 } 0 5)) ∧
  (∀ (f : Fin 17) (v : Fin 18) (s : State), let u := setRf s (bar f.val (0x8008 + 16 * v.val)) 32 1 0
    (bitAt (rg s (bar f.val 0x9000)) v.val = true → hostReach s f.val = true → exec (.msiXUnmask f v) s = .next (msixSend (setRf u (bar f.val 0x9000) v.val 1 0) f.val v.val)) ∧
    (bitAt (rg s (bar f.val 0x9000)) v.val = false ∨ hostReach s f.val = false → exec (.msiXUnmask f v) s = .next u)) ∧
  (∀ (tag : Nat) (d : Option (List Byte)) (s : State), (d.any (fun b => readLen s tag != some b.length) = true → exec (.hostReadCompletion tag d) s = .fault (.illFormed "HOST_READ_COMPLETION")) ∧
    (d.any (fun b => readLen s tag != some b.length) = false →
      (tag < 2 ^ 28 → exec (.hostReadCompletion tag d) s = .next s) ∧
      (2 ^ 28 ≤ tag → tag < 2 ^ 29 → exec (.hostReadCompletion tag d) s = .next (snapRead s ((tag - 2 ^ 28) / 65536) tag d)) ∧
      (2 ^ 40 ≤ tag → tag < 2 ^ 41 → exec (.hostReadCompletion tag d) s = .next (relayRead s tag d)) ∧
      (2 ^ 41 ≤ tag → tag < 2 ^ 42 → exec (.hostReadCompletion tag d) s = .next (xferRead s tag d)) ∧
      (2 ^ 42 ≤ tag → exec (.hostReadCompletion tag d) s = .next (copyIn s tag d)))) ∧
  (∀ (s : State) (e tag : Nat) (d : Option (List Byte)),
    ((srv s e).snap.out.contains tag = false → snapRead s e tag d = s) ∧
    ((srv s e).snap.out.contains tag = true → d = none → snapRead s e tag d = snapAdvance (snapFail (bump s (bar (e + 1) 0x008) 0 16) e tag) e) ∧
    ((∀ r ∈ s.relays, tag ∉ r.out) → relayRead s tag d = s) ∧
    (s.copy = none → copyIn s tag d = s)) ∧
  (∀ (s : State) (k j i : Nat) (b : List Byte), i < 65536 → j < 128 →
    (xferOf s k j = none → xferRead s (xferTag k j i) (some b) = s) ∧
    ∀ x, xferOf s k j = some x →
      (x.started = true → x.late = false → i ∉ x.have_ → xferRead s (xferTag k j i) (some b) = { s with
        xfers := s.xfers.map fun y => if y.win = x.win ∧ y.desc = x.desc then { y with got := tset 0 y.got i (rowOf b), have_ := y.have_ ++ [i] } else y }) ∧
      (x.started = false ∨ x.late = true ∨ i ∈ x.have_ → xferRead s (xferTag k j i) (some b) = s) ∧
      xferRead s (xferTag k j i) none = bump s (bar (x.env + 1) 0x008) 0 16) ∧
  (∀ s : State, let u := takeStaged (setParState s 2)
    exec .parCtrlCheck s = .next (match loadCheck u u.staged with
      | some f => refuseLoad u f
      | none => if stage u ≠ 7 then setParState u (rf s (parA 0x000) 60 4) else if startKind u = 2 then u
        else loadEnds (emptyPanes (putPlan u u.staged 0 (bodyDigest u.staged))) u.staged)) ∧
  (∀ s : State, ∃ t, exec .parCtrlDiscard s = .next t ∧ t = { s with staged := [], regs := t.regs, fired := t.fired, sent := t.sent } ∧ rf t (parA 0x000) 60 4 = 0 ∧
    ∀ a, a ≠ parA 0x000 → a < 0x1000000000000 → rg t a = rg s a)

/-- An answer carries the command's SEQ and its STATUS in RSP_0 and ends the command; its results have no meaning in the manual and are
free (R412). A poll, at least 1,024 tt after the last, takes a request whose SEQ is not that of the last answer, and answers an unknown
command 0x0D10, and in the boot ROM any but FWIMG and COLD 0x0D12 (R412, R423); where it also adds failed tiles to the repair record is
the model's choice, log entry 68. Each command acts when it is the one under way and no image copy runs: REPORT writes a signed report
to BAR2 or to the scope's input range; LOAD and FWIMG read the image; REHEAT is refused during a start; COLD waits for the end of a
running stage; DISCARD, WIDTH, PROMOTE, CLAIM, REPAIR, LOGCFG and STARTCFG act and answer, an argument out of range with 0x0D11 and a
PROMOTE with a live twin or none with 0x0D12. The places of WIDTH's arguments are free (log entry 49). -/
def Obligations.KeelMailbox : Prop :=
  (∀ (s : State) (st : Nat), (s.kcmd = none → kelAnswer s st = s) ∧
    ∀ c, s.kcmd = some c → let t := kelAnswer s st
      t = { s with kcmd := none, free := s.free + 1, regs := t.regs, fired := t.fired, sent := t.sent } ∧
      rf t (bar 0 0x240) 48 16 = c.seq % 2 ^ 16 ∧ rf t (bar 0 0x240) 32 16 = st % 2 ^ 16 ∧ ∀ a, a < 0x1000000000000 → rg t a = rg s a) ∧
  (∀ (torn : Option (BitVec 64)) (s : State), let q := rg s (bar 0 0x200)
    let u := if kelState s = 1 then recordTiles { s with polled := some (uptime s) } else { s with polled := some (uptime s) }
    let v : State := { u with kcmd := some { seq := fld q 48 16, cmd := fld q 40 8, args := fld q 0 40 :: (List.range 7).map fun i => rg s (bar 0 (0x208 + 8 * i)) } }
    (s.kcmd ≠ none ∨ s.stall ≠ none ∨ 2 ≤ kelState s ∨ (∃ t, s.polled = some t ∧ uptime s < t + 1024) → exec (.mailboxPoll torn) s = .next s) ∧
    (s.kcmd = none → s.stall = none → kelState s < 2 → (∀ t, s.polled = some t → t + 1024 ≤ uptime s) →
      ((∃ v, torn = some v ∧ v.toNat ≠ q) ∨ fld q 48 16 = rf s (bar 0 0x240) 48 16 → exec (.mailboxPoll torn) s = .next u) ∧
      (torn = none → fld q 48 16 ≠ rf s (bar 0 0x240) 48 16 →
        (kelState s = 0 → fld q 40 8 ≠ 0x0B → fld q 40 8 ≠ 0x04 → exec (.mailboxPoll torn) s = .next (kelAnswer v 0x0D12)) ∧
        (kelState s = 1 → fld q 40 8 = 0 ∨ 0x0C < fld q 40 8 → exec (.mailboxPoll torn) s = .next (kelAnswer v 0x0D10)) ∧
        (kelState s = 1 ∨ fld q 40 8 = 0x0B ∨ fld q 40 8 = 0x04 → 0 < fld q 40 8 → fld q 40 8 ≤ 0x0C → exec (.mailboxPoll torn) s = .next v)))) ∧
  (∀ s : State, s.kcmd = none ∨ s.copy ≠ none → ∀ i ∈ [Instr.report, .load, .reheat, .cold, .discard, .width, .promote, .claim, .repair, .logcfg, .fwimg, .startcfg], exec i s = .next s) ∧
  (∀ (s : State) (c : KCmd), s.kcmd = some c → c.cmd = 0x01 → s.copy = none → let nonce := (List.range 4).flatMap fun i => leBytes 8 (karg c.args (2 + i))
    let f := fld (karg c.args 1) 8 5
    let r := hrange s (f - 1) (fld (karg c.args 1) 0 3)
    (karg c.args 1 = 0xFF → exec .report s = .next (kelAnswer { s with mem := writeBytes s.mem (bar2 0 + 0x10) (reportOf s none nonce) } 0)) ∧
    (karg c.args 1 ≠ 0xFF → 1 ≤ f → f ≤ 16 → r.reg = true → busMaster s f = true → vfOn s f = true → fld r.cfg 60 4 = 1 →
      exec .report s = .next (kelAnswer (hostWrite s f r.base (reportOf s (some (f - 1)) nonce)) 0)) ∧
    (karg c.args 1 ≠ 0xFF → 1 ≤ f → f ≤ 16 → r.reg = false → exec .report s = .next (kelAnswer s 0x0D12))) ∧
  (∀ (s : State) (c : KCmd), s.kcmd = some c → s.copy = none →
    (c.cmd = 0x02 → exec .load s = .next (startCopy s 1)) ∧ (c.cmd = 0x0B → exec .fwimg s = .next (startCopy s 2)) ∧
    (c.cmd = 0x03 → starting s = true → exec .reheat s = .next (kelAnswer s 0x0D12)) ∧
    (c.cmd = 0x03 → starting s = false → let u := kelAnswer s 0
      (s.flash.fails ≠ 3 → exec .reheat s = .next (setRg (showStartRec { u with flash := { u.flash with reheats := min 65535 (u.flash.reheats + 1) }, stageAt := uptime u }) (kelA 0x100) (pack [(60, 4, 2), (56, 4, 1)])))) ∧
    (c.cmd = 0x04 → (starting s = true → exec .cold s = .next { kelAnswer s 0 with coldDue := true }) ∧
      (starting s = false → exec .cold s = .next (coldStart (kelAnswer s 0) 1 true)))) ∧
  (∀ (s : State) (k : Nat), let len := rf s (bar 0 0x308) 0 40
    let m := min (copyReads len) 1024
    let t : State := { s with
      copy := some { kind := k, len := len, out := (List.range m).map copyTag, got := [] },
      sent := s.sent ++ (List.range m).map fun i => .hostRead (copyTag i) 0 (rg s (bar 0 0x300) / 4096 * 4096 + 4096 * i) (min 4096 (len - 4096 * i)) }
    (hostReach s 0 = false → startCopy s k = kelAnswer s 0x0D13) ∧
    (hostReach s 0 = true → copyReads len ≠ 0 → startCopy s k = if k = 1 ∧ stage s = 7 then setParState t 1 else t)) ∧
  (∀ (s : State) (c : KCmd), s.kcmd = some c → s.copy = none → let a := c.args
    (c.cmd = 0x05 → exec .discard s = .next (kelAnswer (discardStaged s) 0)) ∧
    (c.cmd = 0x06 → let n := Config.widthArg (karg a 0) 0
      let w := Config.widthArg (karg a 0) 1
      let t := Config.widthArg (karg a 0) 3
      exec .width s = .next (if 24 ≤ n ∨ 3 ≤ w ∨ frameLen s ≤ t then kelAnswer s 0x0D11 else kelAnswer (widthWrite s n w (Config.widthArg (karg a 0) 2) t) 0)) ∧
    (c.cmd = 0x07 → ∀ y, twinOf s = some y → (missLimit s ≤ tget 0 s.crl.miss y → exec .promote s = .next (kelAnswer (promote s) 0)) ∧
      (tget 0 s.crl.miss y < missLimit s → exec .promote s = .next (kelAnswer s 0x0D12))) ∧
    (c.cmd = 0x07 → twinOf s = none → exec .promote s = .next (kelAnswer s 0x0D12)) ∧
    (c.cmd = 0x08 → exec .claim s = .next (kelAnswer (claimStart s) 0)) ∧
    (c.cmd = 0x09 → exec .repair s = .next (kelAnswer (hostWrite s 0 (karg a 1) ((repairRec s).getD [])) 0)) ∧
    (c.cmd = 0x0A → (1 ≤ karg a 0 ∧ karg a 0 ≤ 65472 → exec .logcfg s = .next (kelAnswer { s with logLevel := karg a 0 } 0)) ∧
      (karg a 0 = 0 ∨ 65472 < karg a 0 → exec .logcfg s = .next (kelAnswer s 0x0D11))) ∧
    (c.cmd = 0x0C → let up := fld (karg a 0) 4 5
      (up < 24 ∨ up = 31 → exec .startcfg s = .next (kelAnswer { s with flash := { s.flash with startCfg := some (fld (karg a 0) 0 4, up, karg a 1) } } 0)) ∧
      (24 ≤ up → up ≠ 31 → exec .startcfg s = .next (kelAnswer s 0x0D11))))

/-- A kick by the running firmware restarts the period; a period without one records 0x0D06 and restarts the Keel, which gives up what it
was doing; a running start then fails with 0x0E09 (R413, R438). Tail queues: a record of a kind that its queue cannot form is ill formed;
one dropped before the crossing is counted; one whose feature owns no partition there is counted in LOST; another is held at its
partition's tail, COUNT rising by its length (R414, R416). A record at the head is discarded for room and counted in LOST (R416). A NEXT
read moves the head record into the read buffer, or stalls the Keel until one is held, or for 65,536 cyc, when it returns VALID 0 with
0x0D07; DATA reads return its words in order and 0 beyond (R417). A flush discards every record held and adds their number to FLUSHED
(R418). -/
def Obligations.WatchdogAndTailQueues : Prop :=
  (∀ s : State, (kelState s = 1 → s.stall = none → exec .kelWdogKick s = .next { s with kick := uptime s }) ∧ (kelState s ≠ 1 ∨ s.stall ≠ none → exec .kelWdogKick s = .next s)) ∧
  (∀ (m : BitVec 64) (s : State), let w := keelRestarts s m
    (kelState s ≠ 1 ∨ uptime s < s.kick + wdogPeriod s → exec (.watchdogExpiry m) s = .next s) ∧
    (kelState s = 1 → s.kick + wdogPeriod s ≤ uptime s →
      (starting s = false → exec (.watchdogExpiry m) s = .next w) ∧
      (starting s = true → exec (.watchdogExpiry m) s = .next (failStage (raiseStart w 0x0E09 4 0x00 0 [(1, 1, stage w), (4, 8, uptime w)]) 0x0E09))) ∧
    Recorded s w 0x0D06 1 ∧ w = { s with faults := w.faults, regs := w.regs, kcmd := none, copy := none, stall := none } ∧ kelState w = 2 ∧
      rf w (bar 0 0x280) 0 16 = min (2 ^ 16 - 1) (rf s (bar 0 0x280) 0 16 + 1)) ∧
  (∀ s : State, (kelState s = 2 → ∃ t, exec .keelRestartComplete s = .next t ∧ kelState t = 1 ∧ t = { s with kick := uptime s, regs := t.regs } ∧ ∀ a, a ≠ bar 0 0x280 → rg t a = rg s a) ∧
    (kelState s ≠ 2 → exec .keelRestartComplete s = .next s)) ∧
  (∀ (q : Fin 16) (k : Fin 4) (ws : List (BitVec 64)) (d : Bool) (s : State),
    let ill := ws = [] ∨ 8 < ws.length ∨ (k = 0 ∧ ws.length ≠ 8) ∨ (k = 3 ∧ ws.length ≠ 2)
    (ill → exec (.tqRecordStore q k ws d) s = .fault (.illFormed "TQ_RECORD_STORE")) ∧
    (¬ ill → (tqSource s q.val k.val ws = none → exec (.tqRecordStore q k ws d) s = .next s) ∧
      ∀ u, tqSource s q.val k.val ws = some u →
        (d = true → exec (.tqRecordStore q k ws d) s = .next (forN 4 u fun i s => bump s (tqA (4 * q.val + i) 0x08) 8 8)) ∧
        (d = false → (tqFor u q.val k.val = none → exec (.tqRecordStore q k ws d) s = .next (bump u (tqA (4 * q.val) 0x08) 32 16)) ∧
          ∀ p, tqFor u q.val k.val = some p → exec (.tqRecordStore q k ws d) s = .next (tqHold u p k.val ws)))) ∧
  (∀ (s : State) (p k : Nat) (ws : List (BitVec 64)), tqCount s p + ws.length ≤ rf s (tqA p 0) 0 16 → rf s (tqA p 0x10) 29 1 = 0 → s.stall = none → let t := tqHold s p k ws
    t = { s with tqs := t.tqs, regs := t.regs } ∧ tqPart t p = { tqPart s p with recs := (tqPart s p).recs ++ [(k, ws)] } ∧ (∀ j, j ≠ p → tqPart t j = tqPart s j) ∧
      tqCount t p = (((tqPart s p).recs.map fun r => r.2.length).sum + ws.length) % 2 ^ 13 ∧ ∀ a, a ≠ tqA p 0x08 → rg t a = rg s a) ∧
  (∀ (s : State) (p : Nat), (tqPart (tqDrop s p) p).recs = (tqPart s p).recs.drop 1 ∧ rf (tqDrop s p) (tqA p 0x08) 32 16 = min (2 ^ 16 - 1) (rf s (tqA p 0x08) 32 16 + 1)) ∧
  (∀ (p : Fin 64) (s : State), let u := modTq s p.val fun x => { x with buf := [], pos := 0 }
    (kelState s ≠ 1 ∨ s.stall ≠ none → exec (.kelTqNextRead p) s = .next s ∧ exec (.kelTqDataRead p) s = .next s) ∧
    (kelState s = 1 → s.stall = none →
      ((tqPart s p.val).recs = [] → exec (.kelTqNextRead p) s = .next { u with stall := some (p.val, now u) }) ∧
      (∀ r l, (tqPart s p.val).recs = r :: l → ∃ t, exec (.kelTqNextRead p) s = .next t ∧ tqPart t p.val = { tqPart s p.val with recs := l, bufKind := r.1, buf := r.2, pos := 0 } ∧
        rg t (tqA p.val 0x18) = pack [(63, 1, 1), (60, 3, r.2.length - 1), (56, 4, r.1)] % 2 ^ 64 ∧ t = { s with tqs := t.tqs, regs := t.regs }))) ∧
  (∀ (p : Fin 64) (s : State), kelState s = 1 → s.stall = none → let x := tqPart s p.val
    (x.buf.length ≤ x.pos → exec (.kelTqDataRead p) s = .next (setRg s (tqA p.val 0x20) 0)) ∧
    (x.pos < x.buf.length → ¬ (x.pos + 1 = x.buf.length ∧ x.bufKind = 0 ∧ x.buf.length = 8) → ∃ t, exec (.kelTqDataRead p) s = .next t ∧ rg t (tqA p.val 0x20) = (x.buf.getD x.pos 0).toNat ∧
      tqPart t p.val = { x with pos := x.pos + 1 } ∧ t = { s with tqs := t.tqs, regs := t.regs })) ∧
  (∀ s : State, (s.stall = none → exec .tqStallTimeout s = .next s) ∧ ∀ p t, s.stall = some (p, t) →
    (now s < t + 65536 → exec .tqStallTimeout s = .next s) ∧
    (t + 65536 ≤ now s → ∃ u, exec .tqStallTimeout s = .next u ∧ u.stall = none ∧ rg u (tqA p 0x18) = 0 ∧ ∃ f, u.faults = s.faults ++ [f] ∧ f.code = 0x0D07 ∧ f.sev = 0)) ∧
  (∀ (p : Fin 64) (s : State), ∃ t, exec (.tqFlush p) s = .next t ∧ tqPart t p.val = { tqPart s p.val with recs := [] } ∧ tqCount t p.val = 0 ∧
    rf t (tqA p.val 0x08) 16 16 = min (2 ^ 16 - 1) (rf s (tqA p.val 0x08) 16 16 + (tqPart s p.val).recs.length) ∧ t = { s with tqs := t.tqs, regs := t.regs })

/-- At a window's end each account takes its measurement, and one above entry plus margin records 0x1001 (R318, R471). A reading shows in
its sensor's register; 100 degrees records 0x1002, 105 0x1003, 115 trips (R473 to R475). A rail out of tolerance records 0x1006 once
until it is back (R468). A low PWR_GOOD or RESET_N wipes the device but what a cold start keeps; a trip ends only with PWR_GOOD; release
starts cold (R438, R468, R474). JTAG instructions change only the port, EXTEST only in reset (R464). A write that covers a register
whole stores its RW bits and clears its W1C bits written 1; a narrower or misaligned access is counted and has no effect, a read giving
0 (R8 to R10); how a block counts an access between its registers is the model's, log entry 58. -/
def Obligations.PowerPinsAndRegisters : Prop :=
  (∀ (l : List (BitVec 16)) (s : State), (l.length ≠ 93 → exec (.energyWindowEnd l) s = .fault (.illFormed "ENERGY_WINDOW_END")) ∧
    (l.length = 93 → let t := frameTick s
      (t = 0 ∨ frameLen s < t ∨ (t % 1024 ≠ 0 ∧ t ≠ frameLen s) ∨ s.acctAt = ttc s + 1 → exec (.energyWindowEnd l) s = .next s) ∧
      (planOn s = true → t ≠ 0 → t ≤ frameLen s → t % 1024 = 0 ∨ t = frameLen s → s.acctAt ≠ ttc s + 1 →
        exec (.energyWindowEnd l) s = .next (l.zipIdx.foldl (fun u m => account u (cdiv t 1024 - 1) m.2 m.1.toNat) { s with acctAt := ttc s + 1 })))) ∧
  (∀ (s : State) (w a m : Nat), let e := ledgerEntry s w a
    let t := account s w a m
    let lim := e.1 + max (e.2 * e.1 / 16) 8
    let old := (tget 0 s.accts a).toNat
    tget 0 t.accts a = BitVec.ofNat 64 (pack [(48, 16, m), (32, 16, max m (fld old 32 16)), (16, 16, min 65535 (fld old 16 16 + b2n (decide (lim < m)))), (0, 16, w)]) ∧
    (m ≤ lim → t.faults = s.faults) ∧ (lim < m → ∃ f, t.faults = s.faults ++ [f] ∧ f.code = 0x1001 ∧ f.sev = 0)) ∧
  (∀ (r : Fin 19) (c : BitVec 8) (s : State), let a := pwrA (0x080 + 4 * r.val)
    (c.toNat < 100 → ∃ t, exec (.dieTemperatureReading r c) s = .next t ∧ t = { s with regs := t.regs } ∧ rf t a 24 8 = c.toNat ∧ rf t a 0 2 = 0) ∧
    (100 ≤ c.toNat → c.toNat < 105 → ∃ t, exec (.dieTemperatureReading r c) s = .next t ∧ Recorded s t 0x1002 1 ∧ rf t a 24 8 = c.toNat ∧ rf t a 0 2 = 1) ∧
    (105 ≤ c.toNat → c.toNat < 115 → ∃ t, exec (.dieTemperatureReading r c) s = .next t ∧ Recorded s t 0x1003 3 ∧ rf t a 24 8 = c.toNat ∧ rf t a 0 2 = 3) ∧
    (115 ≤ c.toNat → ∃ u, Recorded s u 0x1003 3 ∧ exec (.dieTemperatureReading r c) s = .next (thermalTrip u 0x08 r.val r.val c.toNat))) ∧
  (∀ (k : Fin 6) (mv : BitVec 16) (s : State), let a := pwrA (0x040 + 4 * k.val)
    (s.pwrGood = false → exec (.railOutOfTolerance k mv) s = .next s) ∧
    (s.pwrGood = true → ∃ t, exec (.railOutOfTolerance k mv) s = .next t ∧ rg t a = mv.toNat * 2 ^ 16 + 1 ∧ rf t (pwrA 0) 2 1 = 1 ∧
      (rf s a 0 1 = 1 → t.faults = s.faults) ∧ (rf s a 0 1 = 0 → ∃ f, t.faults = s.faults ++ [f] ∧ f.code = 0x1006 ∧ f.sev = 3)) ∧
    (∃ t, exec (.railInTolerance k mv) s = .next t ∧ t = { s with regs := t.regs } ∧ rg t a = mv.toNat * 2 ^ 16 ∧ ∀ b, b ≠ a → b ≠ pwrA 0 → rg t b = rg s b)) ∧
  (∀ s : State, exec .pwrGoodFall s = .next { wiped { s with pwrGood := false, thermtrip := false } false with rstn := false } ∧
    (s.thermtrip = true → exec .resetNAssert s = .next s ∧ exec .resetNRelease s = .next s) ∧
    (s.thermtrip = false → (s.rstn = true → exec .resetNAssert s = .next { wiped s false with rstn := false } ∧ exec .resetNRelease s = .next s) ∧
      (s.rstn = false → exec .resetNAssert s = .next s ∧ exec .resetNRelease s = .next (coldStart { s with rstn := true, pwrGood := true, jtagDrive := none } 1 false)))) ∧
  (∀ (s : State) (d : List Bool), exec .jtagBypass s = .next { s with jtag := 1, jtagDrive := none } ∧ exec .jtagIdcode s = .next { s with jtag := 0, jtagDrive := none } ∧
    exec .jtagSamplePreload s = .next { s with jtag := 2, jtagDrive := none } ∧ (s.rstn = false → exec (.jtagExtest d) s = .next { s with jtag := 3, jtagDrive := some d }) ∧
    (s.rstn = true → exec (.jtagExtest d) s = .next s)) ∧
  (∀ (a : BitVec 64) (w : RegWrite) (s : State), cfgBits a.toNat = 0 →
    (wholeReg s a.toNat w.bytes.toNat = false → meetsReg s a.toNat = false → exec (.registerWrite a w) s = .next s) ∧
    (wholeReg s a.toNat w.bytes.toNat = false → meetsReg s a.toNat = true → exec (.registerWrite a w) s = .next (countNarrow s a.toNat)) ∧
    (wholeReg s a.toNat w.bytes.toNat = true →
      (writeBits a.toNat = (0, 0) → exec (.registerWrite a w) s = .next s) ∧
      (writeBits a.toNat ≠ (0, 0) → exec (.registerWrite a w) s =
        .next (afterWrite (setRg s a.toNat (writeValue (rg s a.toNat) w.value.toNat (writeBits a.toNat).1 (writeBits a.toNat).2)) a.toNat (rg s a.toNat))))) ∧
  (∀ (s : State) (a v rw w1c i : Nat), v < 2 ^ 64 → rw < 2 ^ 64 → i < 64 → (writeValue (rg s a) v rw w1c).testBit i =
    if rw.testBit i then v.testBit i else (rg s a).testBit i && !(v.testBit i && w1c.testBit i)) ∧
  (∀ (a : BitVec 64) (b : BitVec 8) (s : State), (wholeReg s a.toNat b.toNat = true ∨ meetsReg s a.toNat = false → exec (.misalignedRegisterRead a b) s = .next s) ∧
    (wholeReg s a.toNat b.toNat = false → meetsReg s a.toNat = true → exec (.misalignedRegisterRead a b) s =
      .next { s with narrow := tset 0 s.narrow (blockOf a.toNat) (tget 0 s.narrow (blockOf a.toNat) + 1), sent := s.sent ++ [.regData 0 a.toNat 0] }))

/-- A stage that ends writes its time and the next begins; one that fails leaves STAGE 15 and the code; a COLD that waits is then taken
(R422, R438). A stage past its bound fails with 0x0E09. A domain ramps only where its rule lets it, and without power-good fails the
stage with 0x1005 (R469). BOOT, with domains 76 to 79 on, fails with 0x0F01 without keys and 0x0F02 on a wrong root key; the first slot
that verifies boots, unless its ABI is refused (0x0E10); with neither, 0x0E0D (R423, R436, R441). Self-test puts every finding into the
record with its fault; two defective tiles of a site fail the start after stage 2 (R424). Without a valid record, or where the written
one does not read back, 0x0E06; else the record applies (R425). A stack whose record is not reused trains with 0x0E07, a failed channel
is recorded with 0x0E08, and a powered link whose far end answers waits for ranging (R427). The zero-fill waits until every sound tile
is on; then device memory reads 0 and every tag is CLEAN (R429). -/
def Obligations.ColdStartStages : Prop :=
  (∀ (s : State) (code : Nat), let t := endStage s
    let u := failStage s code
    (s.coldDue = false → stage s ≤ 9 → stage t = stage s + 1 ∧ startKind t = startKind s ∧ rg t (kelA (0x180 + 4 * stage s)) = min (2 ^ 32 - 1) (uptime s - s.stageAt) ∧
      t.stageAt = uptime s ∧ t.faults = s.faults ∧ t.mem = s.mem) ∧
    (s.coldDue = false → code < 2 ^ 16 → stage u = 15 ∧ rf u (kelA 0x100) 52 4 = stage s ∧ rf u (kelA 0x100) 32 16 = code ∧ u.faults = s.faults ∧ u.mem = s.mem) ∧
    (s.coldDue = true → ∃ v w, t = coldStart v 1 true ∧ u = coldStart w 1 true)) ∧
  (∀ s : State, (∀ b, stageBound s = some b → startKind s ≠ 0 → s.stageAt + b ≤ uptime s →
      ∃ u, Recorded s u 0x0E09 4 ∧ exec .stageBoundExceeded s = .next (failStage u 0x0E09)) ∧
    (startKind s = 0 ∨ (∀ b, stageBound s = some b → uptime s < s.stageAt + b) → exec .stageBoundExceeded s = .next s) ∧
    (startKind s = 1 → (stage s = 0 → stageBound s = some 3125000) ∧ (stage s = 1 → stageBound s = some 12500000) ∧ (stage s = 2 → stageBound s = some 3125000) ∧
      (stage s = 4 → stageBound s = some 1562500) ∧ (stage s = 5 → stageBound s = some 2560) ∧ (stage s = 7 → stageBound s = some (1562500 + cdiv s.staged.length 409)) ∧
      (stage s = 8 → stageBound s = some 1200) ∧ (stage s = 9 → stageBound s = none))) ∧
  (∀ (d : Fin 80) (s : State), (mayRamp s d.val = false ∨ domainOn s d.val = true → ∀ b, exec (.domainRamp d b) s = .next s) ∧
    (mayRamp s d.val = true → domainOn s d.val = false →
      (∃ t, exec (.domainRamp d true) s = .next t ∧ t = { s with regs := t.regs } ∧ ∀ e, e < 80 → domainOn t e = (decide (e = d.val) || domainOn s e)) ∧
      ∃ u, Recorded s u 0x1005 4 ∧ exec (.domainRamp d false) s = .next (failStage u 0x1005)) ∧
    (76 ≤ d.val → mayRamp s d.val = coldIn s 0) ∧ (72 ≤ d.val → d.val < 76 → coldIn s 3 = true → bitAt (startGroups s) (d.val - 72) = true → mayRamp s d.val = true) ∧
    (d.val < 72 → (mayRamp s d.val && tileDefective ((repairRec s).getD []) d.val) = false)) ∧
  (∀ (seed : Option (List (BitVec 8))) (n : BitVec 8) (s : State), let v := bootKeys s seed
    (seed.any (fun x => x.length != 32) = true → exec (.boot seed n) s = .fault (.illFormed "BOOT")) ∧
    (seed.any (fun x => x.length != 32) = false →
      ((coldIn s 0 && [76, 77, 78, 79].all (domainOn s)) = false → exec (.boot seed n) s = .next s) ∧
      ((coldIn s 0 && [76, 77, 78, 79].all (domainOn s)) = true → v.keys = s.keys.or seed ∧
        (v.keys = none → ∃ u, Recorded v u 0x0F01 4 ∧ exec (.boot seed n) s = .next (failStage u 0x0F01)) ∧
        (v.keys ≠ none → exec (.boot seed n) s =
          .next (if shake256 s.flash.rootKey 32 ≠ Config.rootHash then failStage (raise v 0x0F02 4 0x00 0 0xFFFF (det [])) 0x0F02
            else match bootSlot v with | none => bootNone v | some k => bootFrom v k))))) ∧
  (∀ (s : State) (k : Nat), let v := { s with flash := { s.flash with booted := some k }, kick := uptime s, polled := none }
    (∃ u w, Recorded v u 0x0E10 4 ∧ w = { v with regs := w.regs } ∧ rf w (bar 0 0x280) 60 4 = 1 ∧ rf w (secA 0) 57 1 = 1 ∧ rf w (secA 0) 61 1 = 1 ∧
      bootFrom s k = if pairReason v 1 Config.stepping.toNat (fw v 1) ≠ 0 then failStage u 0x0E10 else endStage w) ∧
    ∃ u f, bootNone s = failStage u 0x0E0D ∧ u.faults.getLast? = some f ∧ f.code = 0x0E0D ∧ f.sev = 4 ∧ u.flash.booted = none) ∧
  (∀ (l : List Finding) (s : State), (coldIn s 1 = false → exec (.selfTest l) s = .next s) ∧
    (coldIn s 1 = true → exec (.selfTest l) s = .next (endStage (forN 12 (l.foldl takeFinding { s with boot := { s.boot with record := baseRecord s, bad := 0 } }) judgeSite))) ∧
    (∀ (t : Fin 72) (u : Fin 4) (b : BitVec 8), let x := takeFinding s (.tile t u b)
      Recorded s x 0x0E01 1 ∧ x.boot = { s.boot with record := setBit s.boot.record 48 t } ∧ domainOn x t = false) ∧
    (∀ (p : Fin 2) (t : Fin 72), let x := takeFinding s (.router p t)
      Recorded s x 0x0E03 4 ∧ x.boot = { s.boot with record := setBit s.boot.record 64 (72 * p.val + t.val), bad := 0x0E03 }) ∧
    (∀ (k : Fin 12) (c : Fin 64) (b : Fin 16) (r : BitVec 14), let x := takeFinding s (.dramRow k c b r)
      Recorded s x 0x0E04 1 ∧ x.boot = { s.boot with record := (repairRow s.boot.record k c b r.toNat).1 }) ∧
    (∀ (n : Fin 24) (rx : Bool) (i : Fin 4), let x := takeFinding s (.lane n rx i)
      Recorded s x 0x0E05 1 ∧ x.boot = { s.boot with record := setBit s.boot.record 96 (8 * n.val + 4 * b2n rx + i.val) }) ∧
    (∀ k, let n := (((siteTiles k).map fun x => tileDefective s.boot.record x).filter id).length
      (n < 2 → judgeSite k s = s) ∧ (2 ≤ n → Recorded s (judgeSite k s) 0x0E02 4 ∧ (judgeSite k s).boot = { s.boot with bad := 0x0E02 }))) ∧
  (∀ (b : Bool) (s : State), (coldIn s 2 = false → reheatIn s 2 = false → exec (.repairRecordStore b) s = .next s) ∧
    ((coldIn s 2 || reheatIn s 2) = true → ∃ u v w, Recorded s u 0x0E06 4 ∧ Recorded (repaired s) v 0x0E06 4 ∧
      rf w (secA 0) 59 1 = 1 ∧ w.boot = (repaired s).boot ∧ w.faults = s.faults ∧ w.mem = s.mem ∧
      w.flash.repair = (if repairWrites s then (storeRecord (repaired s) (repaired s).boot.record).flash.repair else s.flash.repair) ∧
      exec (.repairRecordStore b) s = .next (if (repairRec s).isNone then failStage u 0x0E06 else if repairWrites s && !b then failStage v 0x0E06
        else if w.boot.bad ≠ 0 then failStage w w.boot.bad else endStage w))) ∧
  (∀ (x : Trained) (s : State), (x.temps.length ≠ 12 ∨ x.clean.length ≠ 12 → exec (.training x) s = .fault (.illFormed "TRAINING")) ∧
    (x.temps.length = 12 → x.clean.length = 12 → let u := if reheatIn s 3 then s else trainStacks s x
      (coldIn s 3 = false → reheatIn s 3 = false → exec (.training x) s = .next s) ∧
      ((coldIn s 3 || reheatIn s 3) = true → exec (.training x) s = .next (endStage (forN 24 u (trainLink ((repairRec u).getD []) x.up))))) ∧
    (∃ l, (trainStacks s x).faults = s.faults ++ l ∧
      l.map (fun f => (f.code, f.sev)) = (fullTrained s x).map (fun _ => (0x0E07, 0)) ++ (trainFailed s x).map fun _ => (0x0E08, 1)) ∧
    (∀ r n, let t := trainLink r x.up n s
      ((trainable s r n && x.up.any (fun y => y.val == n)) = true → rf t (lnkA n 0x008) 60 4 = 2 ∧ t = { s with regs := t.regs, boot := t.boot } ∧ (tget {} t.boot.trainLink n).valid = true) ∧
      ((trainable s r n && x.up.any (fun y => y.val == n)) = false → t = s))) ∧
  (∀ s : State, coldIn s 4 = true → let w := (List.range 72).any fun x => !domainOn s x && !tileDefective ((repairRec s).getD []) x
    (w = true → exec .zeroFill s = .next s) ∧ (w = false → exec .zeroFill s = .next (endStage (coldFill s))) ∧
    (∀ a, readByte (coldFill s).mem a = if a < 0x1000000000000 then 0 else readByte s.mem a) ∧ (∀ n, (chan (coldFill s) n).tags = []) ∧
    (coldFill s).sec = [] ∧ (coldFill s).ecc = [] ∧ (coldFill s).regs = s.regs ∧
    ∀ c, (core (coldFill s) c).cmds = [] ∧ (core (coldFill s) c).gaf.imem = [] ∧ (core (coldFill s) c).gaf.dmem = [] ∧ (core (coldFill s) c).audit = [] ∧ (core (coldFill s) c).epochs = [])

/-- Once the plan has stopped, a stack that confirms self-refresh is noted, and one that does not makes the start a cold one (R430,
Table 16-1). When all twelve have, the reheat reset leaves memories, flash and the powered tile domains, turns the link groups off, sets
TT_COUNT, TT_STEP and TT_CTRL to 0, keeps of every register a load fills just those bits, and starts every queue, engine and link anew
(R46, R431). The fill of stage 4 zeroes scratch Crucible rows and nothing else of memory, and rebuilds each channel's tags from the
committed pane tables (R201, R241). After the checks of stage 7 each section is written where its digest differs from the last image's,
verified in place where not, and rewritten with 0x0E0B on a mismatch (R433); a resident range whose core moved is written (R201).
Serving state stays where the plan allows it and is set empty otherwise (R434); the image is then the one loaded, with PAR_STAT 3. -/
def Obligations.ReheatStages : Prop :=
  (∀ (k : Fin 12) (b : Bool) (s : State), (reheatIn s 1 = false ∨ planOn s = true → exec (.selfRefreshEntry k b) s = .next s) ∧
    (reheatIn s 1 = true → planOn s = false →
      exec (.selfRefreshEntry k true) s = .next { s with boot := { s.boot with asleep := (k.val :: s.boot.asleep).eraseDups } } ∧
      exec (.selfRefreshEntry k false) s = .next (coldStart s 1 true))) ∧
  (∀ s : State, (reheatIn s 1 = false ∨ planOn s = true ∨ s.boot.asleep.length ≠ 12 → exec .reheatReset s = .next s) ∧
    (reheatIn s 1 = true → planOn s = false → s.boot.asleep.length = 12 → exec .reheatReset s = .next (endStage (reheatReset s)))) ∧
  (∀ s : State, let t := reheatReset s
    ttc t = 0 ∧ stepNo t = 0 ∧ rg t (ttA 0x018) = 0 ∧ t.mem = s.mem ∧ t.sec = s.sec ∧ t.flash = s.flash ∧ t.faults = s.faults ∧ t.img = s.img ∧ t.staged = s.staged ∧
    t.pending = s.pending ∧ t.acts = [] ∧ t.jobs = [] ∧ t.flights = [] ∧ t.links = [] ∧ t.rops = [] ∧ t.vote = {} ∧ t.halted = false ∧ t.evacuate = false ∧
    (∀ d, d < 76 → domainOn t d = (decide (d < 72) && domainOn s d)) ∧
    (∀ c, let y := core s c
      let z := core t c
      z.cmds = y.cmds ∧ z.audit = y.audit ∧ z.descs = y.descs ∧ z.gaf = { imem := y.gaf.imem, dmem := y.gaf.dmem, bad := y.gaf.bad } ∧ z.present = y.present ∧ z.tile = y.tile ∧ z.strms = []) ∧
    (∀ a, reheatKeeps a = true → reheatDrops a = false → a ≠ 0x02000001B010 → a ≠ secA 0 → a ≠ clkA 0x000 → a ≠ ttA 0x018 →
      rg t a = (BitVec.ofNat 64 (rg s a) &&& BitVec.ofNat 64 (reheatMask a)).toNat) ∧
    (∀ a, (reheatKeeps a = false ∨ reheatDrops a = true) → a ≠ 0x02000001B010 → a ≠ secA 0 → a ≠ clkA 0x000 → rg t a = 0)) ∧
  (∀ s : State, reheatIn s 4 = true → exec .zeroFill s = .next (endStage (rebuildTags (scratchFill s)))) ∧
  (∀ s : State, (∀ a, readByte (scratchFill s).mem a = if fillKeeps s a then readByte s.mem a else 0) ∧
    (∀ c r b, c < 60 → r < 2 ^ 16 → b < 128 → fillKeeps s (rowAddr c r + b) = residentRow s c r) ∧ (∀ a, a < rowAddr 0 0 ∨ rowAddr 60 0 ≤ a → fillKeeps s a = true) ∧
    scratchFill s = { s with mem := (scratchFill s).mem, ecc := (scratchFill s).ecc } ∧
    rebuildTags s = { s with chans := (rebuildTags s).chans } ∧
    (∀ n, chan (rebuildTags s) n = if n < 768 then { chan s n with tags := stackTags s (n / 64) } else chan s n)) ∧
  (∀ s : State, (stage s ≠ 7 ∨ startKind s ≠ 2 ∨ rf s (parA 0) 60 4 ≠ 2 → exec .reheatVerify s = .next s) ∧
    (stage s = 7 → startKind s = 2 → rf s (parA 0) 60 4 = 2 →
      exec .reheatVerify s = .next (loadEnds (reheatServing (dropPending (scratchFill (reheatUnits s))) s.staged) s.staged))) ∧
  (∀ (s : State) (b : List Byte) (e : DirEnt),
    (∃ u, Recorded s u 0x0E0B 0 ∧ reheatSection s b e =
      if (entOf s.img e.type e.inst e.var).map (·.digest) ≠ some e.digest then putSection s b 0 e else if keptBad s b e then putSection u b 0 e else s) ∧
    (∀ old, reheatEntry old b s e = if e.type = 0x61 ∧ (core s (e.inst / 16)).tile ≠ old.getD (e.inst / 16) 0 then putSection s b 0 e else reheatSection s b e) ∧
    (keepsServing s b = true → reheatServing s b = rebuildTags s) ∧
    (keepsServing s b = false → (reheatServing s b).srvs = [] ∧ (reheatServing s b).heldStreams = [] ∧ (reheatServing s b).fritRefs = []) ∧
    ∃ u, loadEnds s b = endStage u ∧ rf u (parA 0) 60 4 = 3 ∧ u.img = b)
end

