-- ==== Sys2Proof/Laws/State.lean ====
section
/-!
SUPPORT. Laws/State.lean: what each named update of the state leaves alone, one lemma per field, so that no proof unfolds
a record update.
-/
namespace Sys2Proof.Machine
open Sys2Proof

variable (s : State)

/-! ### setRg -/
section
variable (a v : Nat)
@[simp] theorem setRg_pending : (setRg s a v).pending = s.pending := by unfold setRg; rfl
@[simp] theorem setRg_phase : (setRg s a v).phase = s.phase := by unfold setRg; rfl
@[simp] theorem setRg_mem : (setRg s a v).mem = s.mem := by unfold setRg; rfl
@[simp] theorem setRg_ecc : (setRg s a v).ecc = s.ecc := by unfold setRg; rfl
@[simp] theorem setRg_sec : (setRg s a v).sec = s.sec := by unfold setRg; rfl
@[simp] theorem setRg_uncSec : (setRg s a v).uncSec = s.uncSec := by unfold setRg; rfl
@[simp] theorem setRg_patCorr : (setRg s a v).patCorr = s.patCorr := by unfold setRg; rfl
@[simp] theorem setRg_cores : (setRg s a v).cores = s.cores := by unfold setRg; rfl
@[simp] theorem setRg_chans : (setRg s a v).chans = s.chans := by unfold setRg; rfl
@[simp] theorem setRg_dbanks : (setRg s a v).dbanks = s.dbanks := by unfold setRg; rfl
@[simp] theorem setRg_acts : (setRg s a v).acts = s.acts := by unfold setRg; rfl
@[simp] theorem setRg_jobs : (setRg s a v).jobs = s.jobs := by unfold setRg; rfl
@[simp] theorem setRg_nextJob : (setRg s a v).nextJob = s.nextJob := by unfold setRg; rfl
@[simp] theorem setRg_free : (setRg s a v).free = s.free := by unfold setRg; rfl
@[simp] theorem setRg_faults : (setRg s a v).faults = s.faults := by unfold setRg; rfl
@[simp] theorem setRg_wearMark : (setRg s a v).wearMark = s.wearMark := by unfold setRg; rfl
@[simp] theorem setRg_tileMark : (setRg s a v).tileMark = s.tileMark := by unfold setRg; rfl
@[simp] theorem setRg_halted : (setRg s a v).halted = s.halted := by unfold setRg; rfl
@[simp] theorem setRg_evacuate : (setRg s a v).evacuate = s.evacuate := by unfold setRg; rfl
@[simp] theorem setRg_vote : (setRg s a v).vote = s.vote := by unfold setRg; rfl
@[simp] theorem setRg_sent : (setRg s a v).sent = s.sent := by unfold setRg; rfl
@[simp] theorem setRg_strmTab : (setRg s a v).strmTab = s.strmTab := by unfold setRg; rfl
@[simp] theorem setRg_strmPend : (setRg s a v).strmPend = s.strmPend := by unfold setRg; rfl
@[simp] theorem setRg_home : (setRg s a v).home = s.home := by unfold setRg; rfl
@[simp] theorem setRg_fritRefs : (setRg s a v).fritRefs = s.fritRefs := by unfold setRg; rfl
@[simp] theorem setRg_fritDelta : (setRg s a v).fritDelta = s.fritDelta := by unfold setRg; rfl
@[simp] theorem setRg_repairCand : (setRg s a v).repairCand = s.repairCand := by unfold setRg; rfl
@[simp] theorem setRg_candSecs : (setRg s a v).candSecs = s.candSecs := by unfold setRg; rfl
@[simp] theorem setRg_spareRows : (setRg s a v).spareRows = s.spareRows := by unfold setRg; rfl
@[simp] theorem setRg_flights : (setRg s a v).flights = s.flights := by unfold setRg; rfl
@[simp] theorem setRg_bins : (setRg s a v).bins = s.bins := by unfold setRg; rfl
@[simp] theorem setRg_bbusy : (setRg s a v).bbusy = s.bbusy := by unfold setRg; rfl
@[simp] theorem setRg_bseq : (setRg s a v).bseq = s.bseq := by unfold setRg; rfl
@[simp] theorem setRg_brx : (setRg s a v).brx = s.brx := by unfold setRg; rfl
@[simp] theorem setRg_slotBad : (setRg s a v).slotBad = s.slotBad := by unfold setRg; rfl
@[simp] theorem setRg_links : (setRg s a v).links = s.links := by unfold setRg; rfl
@[simp] theorem setRg_sysIn : (setRg s a v).sysIn = s.sysIn := by unfold setRg; rfl
@[simp] theorem setRg_tether : (setRg s a v).tether = s.tether := by unfold setRg; rfl
@[simp] theorem setRg_rootIn : (setRg s a v).rootIn = s.rootIn := by unfold setRg; rfl
@[simp] theorem setRg_shown : (setRg s a v).shown = s.shown := by unfold setRg; rfl
@[simp] theorem setRg_voteLinks : (setRg s a v).voteLinks = s.voteLinks := by unfold setRg; rfl
@[simp] theorem setRg_evicted : (setRg s a v).evicted = s.evicted := by unfold setRg; rfl
@[simp] theorem setRg_yawRef : (setRg s a v).yawRef = s.yawRef := by unfold setRg; rfl
@[simp] theorem setRg_yawCrl : (setRg s a v).yawCrl = s.yawCrl := by unfold setRg; rfl
@[simp] theorem setRg_yawTake : (setRg s a v).yawTake = s.yawTake := by unfold setRg; rfl
@[simp] theorem setRg_thermal : (setRg s a v).thermal = s.thermal := by unfold setRg; rfl
@[simp] theorem setRg_narrow : (setRg s a v).narrow = s.narrow := by unfold setRg; rfl
@[simp] theorem setRg_rops : (setRg s a v).rops = s.rops := by unfold setRg; rfl
@[simp] theorem setRg_rwins : (setRg s a v).rwins = s.rwins := by unfold setRg; rfl
@[simp] theorem setRg_punits : (setRg s a v).punits = s.punits := by unfold setRg; rfl
@[simp] theorem setRg_owners : (setRg s a v).owners = s.owners := by unfold setRg; rfl
@[simp] theorem setRg_causes : (setRg s a v).causes = s.causes := by unfold setRg; rfl
@[simp] theorem setRg_ranges : (setRg s a v).ranges = s.ranges := by unfold setRg; rfl
@[simp] theorem setRg_twinPend : (setRg s a v).twinPend = s.twinPend := by unfold setRg; rfl
@[simp] theorem setRg_flash : (setRg s a v).flash = s.flash := by unfold setRg; rfl
@[simp] theorem setRg_stageAt : (setRg s a v).stageAt = s.stageAt := by unfold setRg; rfl
@[simp] theorem setRg_ucie : (setRg s a v).ucie = s.ucie := by unfold setRg; rfl
@[simp] theorem setRg_fired : (setRg s a v).fired = s.fired := by unfold setRg; rfl
@[simp] theorem setRg_mirrorBad : (setRg s a v).mirrorBad = s.mirrorBad := by unfold setRg; rfl
@[simp] theorem setRg_routes : (setRg s a v).routes = s.routes := by unfold setRg; rfl
@[simp] theorem setRg_train : (setRg s a v).train = s.train := by unfold setRg; rfl
@[simp] theorem setRg_srvs : (setRg s a v).srvs = s.srvs := by unfold setRg; rfl
@[simp] theorem setRg_envKeys : (setRg s a v).envKeys = s.envKeys := by unfold setRg; rfl
@[simp] theorem setRg_listed : (setRg s a v).listed = s.listed := by unfold setRg; rfl
@[simp] theorem setRg_heldStreams : (setRg s a v).heldStreams = s.heldStreams := by unfold setRg; rfl
@[simp] theorem setRg_crl : (setRg s a v).crl = s.crl := by unfold setRg; rfl
@[simp] theorem setRg_electors : (setRg s a v).electors = s.electors := by unfold setRg; rfl
@[simp] theorem setRg_actTab : (setRg s a v).actTab = s.actTab := by unfold setRg; rfl
@[simp] theorem setRg_takeHomes : (setRg s a v).takeHomes = s.takeHomes := by unfold setRg; rfl
@[simp] theorem setRg_heldLeft : (setRg s a v).heldLeft = s.heldLeft := by unfold setRg; rfl
@[simp] theorem setRg_relays : (setRg s a v).relays = s.relays := by unfold setRg; rfl
@[simp] theorem setRg_relayC : (setRg s a v).relayC = s.relayC := by unfold setRg; rfl
@[simp] theorem setRg_hwins : (setRg s a v).hwins = s.hwins := by unfold setRg; rfl
@[simp] theorem setRg_shadow : (setRg s a v).shadow = s.shadow := by unfold setRg; rfl
@[simp] theorem setRg_xfers : (setRg s a v).xfers = s.xfers := by unfold setRg; rfl
@[simp] theorem setRg_hfull : (setRg s a v).hfull = s.hfull := by unfold setRg; rfl
@[simp] theorem setRg_copy : (setRg s a v).copy = s.copy := by unfold setRg; rfl
@[simp] theorem setRg_podFwd : (setRg s a v).podFwd = s.podFwd := by unfold setRg; rfl
@[simp] theorem setRg_podPost : (setRg s a v).podPost = s.podPost := by unfold setRg; rfl
@[simp] theorem setRg_staged : (setRg s a v).staged = s.staged := by unfold setRg; rfl
@[simp] theorem setRg_img : (setRg s a v).img = s.img := by unfold setRg; rfl
@[simp] theorem setRg_ran : (setRg s a v).ran = s.ran := by unfold setRg; rfl
@[simp] theorem setRg_keys : (setRg s a v).keys = s.keys := by unfold setRg; rfl
@[simp] theorem setRg_kcmd : (setRg s a v).kcmd = s.kcmd := by unfold setRg; rfl
@[simp] theorem setRg_polled : (setRg s a v).polled = s.polled := by unfold setRg; rfl
@[simp] theorem setRg_kick : (setRg s a v).kick = s.kick := by unfold setRg; rfl
@[simp] theorem setRg_logLevel : (setRg s a v).logLevel = s.logLevel := by unfold setRg; rfl
@[simp] theorem setRg_tqs : (setRg s a v).tqs = s.tqs := by unfold setRg; rfl
@[simp] theorem setRg_stall : (setRg s a v).stall = s.stall := by unfold setRg; rfl
@[simp] theorem setRg_coldDue : (setRg s a v).coldDue = s.coldDue := by unfold setRg; rfl
@[simp] theorem setRg_rstn : (setRg s a v).rstn = s.rstn := by unfold setRg; rfl
@[simp] theorem setRg_pwrGood : (setRg s a v).pwrGood = s.pwrGood := by unfold setRg; rfl
@[simp] theorem setRg_thermtrip : (setRg s a v).thermtrip = s.thermtrip := by unfold setRg; rfl
@[simp] theorem setRg_boot : (setRg s a v).boot = s.boot := by unfold setRg; rfl
@[simp] theorem setRg_jtag : (setRg s a v).jtag = s.jtag := by unfold setRg; rfl
@[simp] theorem setRg_jtagDrive : (setRg s a v).jtagDrive = s.jtagDrive := by unfold setRg; rfl
@[simp] theorem setRg_accts : (setRg s a v).accts = s.accts := by unfold setRg; rfl
@[simp] theorem setRg_acctAt : (setRg s a v).acctAt = s.acctAt := by unfold setRg; rfl
end

/-! ### setRf -/
section
variable (a lo w v : Nat)
@[simp] theorem setRf_pending : (setRf s a lo w v).pending = s.pending := by unfold setRf; exact setRg_pending ..
@[simp] theorem setRf_phase : (setRf s a lo w v).phase = s.phase := by unfold setRf; exact setRg_phase ..
@[simp] theorem setRf_mem : (setRf s a lo w v).mem = s.mem := by unfold setRf; exact setRg_mem ..
@[simp] theorem setRf_ecc : (setRf s a lo w v).ecc = s.ecc := by unfold setRf; exact setRg_ecc ..
@[simp] theorem setRf_sec : (setRf s a lo w v).sec = s.sec := by unfold setRf; exact setRg_sec ..
@[simp] theorem setRf_uncSec : (setRf s a lo w v).uncSec = s.uncSec := by unfold setRf; exact setRg_uncSec ..
@[simp] theorem setRf_patCorr : (setRf s a lo w v).patCorr = s.patCorr := by unfold setRf; exact setRg_patCorr ..
@[simp] theorem setRf_cores : (setRf s a lo w v).cores = s.cores := by unfold setRf; exact setRg_cores ..
@[simp] theorem setRf_chans : (setRf s a lo w v).chans = s.chans := by unfold setRf; exact setRg_chans ..
@[simp] theorem setRf_dbanks : (setRf s a lo w v).dbanks = s.dbanks := by unfold setRf; exact setRg_dbanks ..
@[simp] theorem setRf_acts : (setRf s a lo w v).acts = s.acts := by unfold setRf; exact setRg_acts ..
@[simp] theorem setRf_jobs : (setRf s a lo w v).jobs = s.jobs := by unfold setRf; exact setRg_jobs ..
@[simp] theorem setRf_nextJob : (setRf s a lo w v).nextJob = s.nextJob := by unfold setRf; exact setRg_nextJob ..
@[simp] theorem setRf_free : (setRf s a lo w v).free = s.free := by unfold setRf; exact setRg_free ..
@[simp] theorem setRf_faults : (setRf s a lo w v).faults = s.faults := by unfold setRf; exact setRg_faults ..
@[simp] theorem setRf_wearMark : (setRf s a lo w v).wearMark = s.wearMark := by unfold setRf; exact setRg_wearMark ..
@[simp] theorem setRf_tileMark : (setRf s a lo w v).tileMark = s.tileMark := by unfold setRf; exact setRg_tileMark ..
@[simp] theorem setRf_halted : (setRf s a lo w v).halted = s.halted := by unfold setRf; exact setRg_halted ..
@[simp] theorem setRf_evacuate : (setRf s a lo w v).evacuate = s.evacuate := by unfold setRf; exact setRg_evacuate ..
@[simp] theorem setRf_vote : (setRf s a lo w v).vote = s.vote := by unfold setRf; exact setRg_vote ..
@[simp] theorem setRf_sent : (setRf s a lo w v).sent = s.sent := by unfold setRf; exact setRg_sent ..
@[simp] theorem setRf_strmTab : (setRf s a lo w v).strmTab = s.strmTab := by unfold setRf; exact setRg_strmTab ..
@[simp] theorem setRf_strmPend : (setRf s a lo w v).strmPend = s.strmPend := by unfold setRf; exact setRg_strmPend ..
@[simp] theorem setRf_home : (setRf s a lo w v).home = s.home := by unfold setRf; exact setRg_home ..
@[simp] theorem setRf_fritRefs : (setRf s a lo w v).fritRefs = s.fritRefs := by unfold setRf; exact setRg_fritRefs ..
@[simp] theorem setRf_fritDelta : (setRf s a lo w v).fritDelta = s.fritDelta := by unfold setRf; exact setRg_fritDelta ..
@[simp] theorem setRf_repairCand : (setRf s a lo w v).repairCand = s.repairCand := by unfold setRf; exact setRg_repairCand ..
@[simp] theorem setRf_candSecs : (setRf s a lo w v).candSecs = s.candSecs := by unfold setRf; exact setRg_candSecs ..
@[simp] theorem setRf_spareRows : (setRf s a lo w v).spareRows = s.spareRows := by unfold setRf; exact setRg_spareRows ..
@[simp] theorem setRf_flights : (setRf s a lo w v).flights = s.flights := by unfold setRf; exact setRg_flights ..
@[simp] theorem setRf_bins : (setRf s a lo w v).bins = s.bins := by unfold setRf; exact setRg_bins ..
@[simp] theorem setRf_bbusy : (setRf s a lo w v).bbusy = s.bbusy := by unfold setRf; exact setRg_bbusy ..
@[simp] theorem setRf_bseq : (setRf s a lo w v).bseq = s.bseq := by unfold setRf; exact setRg_bseq ..
@[simp] theorem setRf_brx : (setRf s a lo w v).brx = s.brx := by unfold setRf; exact setRg_brx ..
@[simp] theorem setRf_slotBad : (setRf s a lo w v).slotBad = s.slotBad := by unfold setRf; exact setRg_slotBad ..
@[simp] theorem setRf_links : (setRf s a lo w v).links = s.links := by unfold setRf; exact setRg_links ..
@[simp] theorem setRf_sysIn : (setRf s a lo w v).sysIn = s.sysIn := by unfold setRf; exact setRg_sysIn ..
@[simp] theorem setRf_tether : (setRf s a lo w v).tether = s.tether := by unfold setRf; exact setRg_tether ..
@[simp] theorem setRf_rootIn : (setRf s a lo w v).rootIn = s.rootIn := by unfold setRf; exact setRg_rootIn ..
@[simp] theorem setRf_shown : (setRf s a lo w v).shown = s.shown := by unfold setRf; exact setRg_shown ..
@[simp] theorem setRf_voteLinks : (setRf s a lo w v).voteLinks = s.voteLinks := by unfold setRf; exact setRg_voteLinks ..
@[simp] theorem setRf_evicted : (setRf s a lo w v).evicted = s.evicted := by unfold setRf; exact setRg_evicted ..
@[simp] theorem setRf_yawRef : (setRf s a lo w v).yawRef = s.yawRef := by unfold setRf; exact setRg_yawRef ..
@[simp] theorem setRf_yawCrl : (setRf s a lo w v).yawCrl = s.yawCrl := by unfold setRf; exact setRg_yawCrl ..
@[simp] theorem setRf_yawTake : (setRf s a lo w v).yawTake = s.yawTake := by unfold setRf; exact setRg_yawTake ..
@[simp] theorem setRf_thermal : (setRf s a lo w v).thermal = s.thermal := by unfold setRf; exact setRg_thermal ..
@[simp] theorem setRf_narrow : (setRf s a lo w v).narrow = s.narrow := by unfold setRf; exact setRg_narrow ..
@[simp] theorem setRf_rops : (setRf s a lo w v).rops = s.rops := by unfold setRf; exact setRg_rops ..
@[simp] theorem setRf_rwins : (setRf s a lo w v).rwins = s.rwins := by unfold setRf; exact setRg_rwins ..
@[simp] theorem setRf_punits : (setRf s a lo w v).punits = s.punits := by unfold setRf; exact setRg_punits ..
@[simp] theorem setRf_owners : (setRf s a lo w v).owners = s.owners := by unfold setRf; exact setRg_owners ..
@[simp] theorem setRf_causes : (setRf s a lo w v).causes = s.causes := by unfold setRf; exact setRg_causes ..
@[simp] theorem setRf_ranges : (setRf s a lo w v).ranges = s.ranges := by unfold setRf; exact setRg_ranges ..
@[simp] theorem setRf_twinPend : (setRf s a lo w v).twinPend = s.twinPend := by unfold setRf; exact setRg_twinPend ..
@[simp] theorem setRf_flash : (setRf s a lo w v).flash = s.flash := by unfold setRf; exact setRg_flash ..
@[simp] theorem setRf_stageAt : (setRf s a lo w v).stageAt = s.stageAt := by unfold setRf; exact setRg_stageAt ..
@[simp] theorem setRf_ucie : (setRf s a lo w v).ucie = s.ucie := by unfold setRf; exact setRg_ucie ..
@[simp] theorem setRf_fired : (setRf s a lo w v).fired = s.fired := by unfold setRf; exact setRg_fired ..
@[simp] theorem setRf_mirrorBad : (setRf s a lo w v).mirrorBad = s.mirrorBad := by unfold setRf; exact setRg_mirrorBad ..
@[simp] theorem setRf_routes : (setRf s a lo w v).routes = s.routes := by unfold setRf; exact setRg_routes ..
@[simp] theorem setRf_train : (setRf s a lo w v).train = s.train := by unfold setRf; exact setRg_train ..
@[simp] theorem setRf_srvs : (setRf s a lo w v).srvs = s.srvs := by unfold setRf; exact setRg_srvs ..
@[simp] theorem setRf_envKeys : (setRf s a lo w v).envKeys = s.envKeys := by unfold setRf; exact setRg_envKeys ..
@[simp] theorem setRf_listed : (setRf s a lo w v).listed = s.listed := by unfold setRf; exact setRg_listed ..
@[simp] theorem setRf_heldStreams : (setRf s a lo w v).heldStreams = s.heldStreams := by unfold setRf; exact setRg_heldStreams ..
@[simp] theorem setRf_crl : (setRf s a lo w v).crl = s.crl := by unfold setRf; exact setRg_crl ..
@[simp] theorem setRf_electors : (setRf s a lo w v).electors = s.electors := by unfold setRf; exact setRg_electors ..
@[simp] theorem setRf_actTab : (setRf s a lo w v).actTab = s.actTab := by unfold setRf; exact setRg_actTab ..
@[simp] theorem setRf_takeHomes : (setRf s a lo w v).takeHomes = s.takeHomes := by unfold setRf; exact setRg_takeHomes ..
@[simp] theorem setRf_heldLeft : (setRf s a lo w v).heldLeft = s.heldLeft := by unfold setRf; exact setRg_heldLeft ..
@[simp] theorem setRf_relays : (setRf s a lo w v).relays = s.relays := by unfold setRf; exact setRg_relays ..
@[simp] theorem setRf_relayC : (setRf s a lo w v).relayC = s.relayC := by unfold setRf; exact setRg_relayC ..
@[simp] theorem setRf_hwins : (setRf s a lo w v).hwins = s.hwins := by unfold setRf; exact setRg_hwins ..
@[simp] theorem setRf_shadow : (setRf s a lo w v).shadow = s.shadow := by unfold setRf; exact setRg_shadow ..
@[simp] theorem setRf_xfers : (setRf s a lo w v).xfers = s.xfers := by unfold setRf; exact setRg_xfers ..
@[simp] theorem setRf_hfull : (setRf s a lo w v).hfull = s.hfull := by unfold setRf; exact setRg_hfull ..
@[simp] theorem setRf_copy : (setRf s a lo w v).copy = s.copy := by unfold setRf; exact setRg_copy ..
@[simp] theorem setRf_podFwd : (setRf s a lo w v).podFwd = s.podFwd := by unfold setRf; exact setRg_podFwd ..
@[simp] theorem setRf_podPost : (setRf s a lo w v).podPost = s.podPost := by unfold setRf; exact setRg_podPost ..
@[simp] theorem setRf_staged : (setRf s a lo w v).staged = s.staged := by unfold setRf; exact setRg_staged ..
@[simp] theorem setRf_img : (setRf s a lo w v).img = s.img := by unfold setRf; exact setRg_img ..
@[simp] theorem setRf_ran : (setRf s a lo w v).ran = s.ran := by unfold setRf; exact setRg_ran ..
@[simp] theorem setRf_keys : (setRf s a lo w v).keys = s.keys := by unfold setRf; exact setRg_keys ..
@[simp] theorem setRf_kcmd : (setRf s a lo w v).kcmd = s.kcmd := by unfold setRf; exact setRg_kcmd ..
@[simp] theorem setRf_polled : (setRf s a lo w v).polled = s.polled := by unfold setRf; exact setRg_polled ..
@[simp] theorem setRf_kick : (setRf s a lo w v).kick = s.kick := by unfold setRf; exact setRg_kick ..
@[simp] theorem setRf_logLevel : (setRf s a lo w v).logLevel = s.logLevel := by unfold setRf; exact setRg_logLevel ..
@[simp] theorem setRf_tqs : (setRf s a lo w v).tqs = s.tqs := by unfold setRf; exact setRg_tqs ..
@[simp] theorem setRf_stall : (setRf s a lo w v).stall = s.stall := by unfold setRf; exact setRg_stall ..
@[simp] theorem setRf_coldDue : (setRf s a lo w v).coldDue = s.coldDue := by unfold setRf; exact setRg_coldDue ..
@[simp] theorem setRf_rstn : (setRf s a lo w v).rstn = s.rstn := by unfold setRf; exact setRg_rstn ..
@[simp] theorem setRf_pwrGood : (setRf s a lo w v).pwrGood = s.pwrGood := by unfold setRf; exact setRg_pwrGood ..
@[simp] theorem setRf_thermtrip : (setRf s a lo w v).thermtrip = s.thermtrip := by unfold setRf; exact setRg_thermtrip ..
@[simp] theorem setRf_boot : (setRf s a lo w v).boot = s.boot := by unfold setRf; exact setRg_boot ..
@[simp] theorem setRf_jtag : (setRf s a lo w v).jtag = s.jtag := by unfold setRf; exact setRg_jtag ..
@[simp] theorem setRf_jtagDrive : (setRf s a lo w v).jtagDrive = s.jtagDrive := by unfold setRf; exact setRg_jtagDrive ..
@[simp] theorem setRf_accts : (setRf s a lo w v).accts = s.accts := by unfold setRf; exact setRg_accts ..
@[simp] theorem setRf_acctAt : (setRf s a lo w v).acctAt = s.acctAt := by unfold setRf; exact setRg_acctAt ..
end

/-! ### bumpBy -/
section
variable (a lo w n : Nat)
@[simp] theorem bumpBy_pending : (bumpBy s a lo w n).pending = s.pending := by unfold bumpBy; exact setRf_pending ..
@[simp] theorem bumpBy_phase : (bumpBy s a lo w n).phase = s.phase := by unfold bumpBy; exact setRf_phase ..
@[simp] theorem bumpBy_mem : (bumpBy s a lo w n).mem = s.mem := by unfold bumpBy; exact setRf_mem ..
@[simp] theorem bumpBy_ecc : (bumpBy s a lo w n).ecc = s.ecc := by unfold bumpBy; exact setRf_ecc ..
@[simp] theorem bumpBy_sec : (bumpBy s a lo w n).sec = s.sec := by unfold bumpBy; exact setRf_sec ..
@[simp] theorem bumpBy_uncSec : (bumpBy s a lo w n).uncSec = s.uncSec := by unfold bumpBy; exact setRf_uncSec ..
@[simp] theorem bumpBy_patCorr : (bumpBy s a lo w n).patCorr = s.patCorr := by unfold bumpBy; exact setRf_patCorr ..
@[simp] theorem bumpBy_cores : (bumpBy s a lo w n).cores = s.cores := by unfold bumpBy; exact setRf_cores ..
@[simp] theorem bumpBy_chans : (bumpBy s a lo w n).chans = s.chans := by unfold bumpBy; exact setRf_chans ..
@[simp] theorem bumpBy_dbanks : (bumpBy s a lo w n).dbanks = s.dbanks := by unfold bumpBy; exact setRf_dbanks ..
@[simp] theorem bumpBy_acts : (bumpBy s a lo w n).acts = s.acts := by unfold bumpBy; exact setRf_acts ..
@[simp] theorem bumpBy_jobs : (bumpBy s a lo w n).jobs = s.jobs := by unfold bumpBy; exact setRf_jobs ..
@[simp] theorem bumpBy_nextJob : (bumpBy s a lo w n).nextJob = s.nextJob := by unfold bumpBy; exact setRf_nextJob ..
@[simp] theorem bumpBy_free : (bumpBy s a lo w n).free = s.free := by unfold bumpBy; exact setRf_free ..
@[simp] theorem bumpBy_faults : (bumpBy s a lo w n).faults = s.faults := by unfold bumpBy; exact setRf_faults ..
@[simp] theorem bumpBy_wearMark : (bumpBy s a lo w n).wearMark = s.wearMark := by unfold bumpBy; exact setRf_wearMark ..
@[simp] theorem bumpBy_tileMark : (bumpBy s a lo w n).tileMark = s.tileMark := by unfold bumpBy; exact setRf_tileMark ..
@[simp] theorem bumpBy_halted : (bumpBy s a lo w n).halted = s.halted := by unfold bumpBy; exact setRf_halted ..
@[simp] theorem bumpBy_evacuate : (bumpBy s a lo w n).evacuate = s.evacuate := by unfold bumpBy; exact setRf_evacuate ..
@[simp] theorem bumpBy_vote : (bumpBy s a lo w n).vote = s.vote := by unfold bumpBy; exact setRf_vote ..
@[simp] theorem bumpBy_sent : (bumpBy s a lo w n).sent = s.sent := by unfold bumpBy; exact setRf_sent ..
@[simp] theorem bumpBy_strmTab : (bumpBy s a lo w n).strmTab = s.strmTab := by unfold bumpBy; exact setRf_strmTab ..
@[simp] theorem bumpBy_strmPend : (bumpBy s a lo w n).strmPend = s.strmPend := by unfold bumpBy; exact setRf_strmPend ..
@[simp] theorem bumpBy_home : (bumpBy s a lo w n).home = s.home := by unfold bumpBy; exact setRf_home ..
@[simp] theorem bumpBy_fritRefs : (bumpBy s a lo w n).fritRefs = s.fritRefs := by unfold bumpBy; exact setRf_fritRefs ..
@[simp] theorem bumpBy_fritDelta : (bumpBy s a lo w n).fritDelta = s.fritDelta := by unfold bumpBy; exact setRf_fritDelta ..
@[simp] theorem bumpBy_repairCand : (bumpBy s a lo w n).repairCand = s.repairCand := by unfold bumpBy; exact setRf_repairCand ..
@[simp] theorem bumpBy_candSecs : (bumpBy s a lo w n).candSecs = s.candSecs := by unfold bumpBy; exact setRf_candSecs ..
@[simp] theorem bumpBy_spareRows : (bumpBy s a lo w n).spareRows = s.spareRows := by unfold bumpBy; exact setRf_spareRows ..
@[simp] theorem bumpBy_flights : (bumpBy s a lo w n).flights = s.flights := by unfold bumpBy; exact setRf_flights ..
@[simp] theorem bumpBy_bins : (bumpBy s a lo w n).bins = s.bins := by unfold bumpBy; exact setRf_bins ..
@[simp] theorem bumpBy_bbusy : (bumpBy s a lo w n).bbusy = s.bbusy := by unfold bumpBy; exact setRf_bbusy ..
@[simp] theorem bumpBy_bseq : (bumpBy s a lo w n).bseq = s.bseq := by unfold bumpBy; exact setRf_bseq ..
@[simp] theorem bumpBy_brx : (bumpBy s a lo w n).brx = s.brx := by unfold bumpBy; exact setRf_brx ..
@[simp] theorem bumpBy_slotBad : (bumpBy s a lo w n).slotBad = s.slotBad := by unfold bumpBy; exact setRf_slotBad ..
@[simp] theorem bumpBy_links : (bumpBy s a lo w n).links = s.links := by unfold bumpBy; exact setRf_links ..
@[simp] theorem bumpBy_sysIn : (bumpBy s a lo w n).sysIn = s.sysIn := by unfold bumpBy; exact setRf_sysIn ..
@[simp] theorem bumpBy_tether : (bumpBy s a lo w n).tether = s.tether := by unfold bumpBy; exact setRf_tether ..
@[simp] theorem bumpBy_rootIn : (bumpBy s a lo w n).rootIn = s.rootIn := by unfold bumpBy; exact setRf_rootIn ..
@[simp] theorem bumpBy_shown : (bumpBy s a lo w n).shown = s.shown := by unfold bumpBy; exact setRf_shown ..
@[simp] theorem bumpBy_voteLinks : (bumpBy s a lo w n).voteLinks = s.voteLinks := by unfold bumpBy; exact setRf_voteLinks ..
@[simp] theorem bumpBy_evicted : (bumpBy s a lo w n).evicted = s.evicted := by unfold bumpBy; exact setRf_evicted ..
@[simp] theorem bumpBy_yawRef : (bumpBy s a lo w n).yawRef = s.yawRef := by unfold bumpBy; exact setRf_yawRef ..
@[simp] theorem bumpBy_yawCrl : (bumpBy s a lo w n).yawCrl = s.yawCrl := by unfold bumpBy; exact setRf_yawCrl ..
@[simp] theorem bumpBy_yawTake : (bumpBy s a lo w n).yawTake = s.yawTake := by unfold bumpBy; exact setRf_yawTake ..
@[simp] theorem bumpBy_thermal : (bumpBy s a lo w n).thermal = s.thermal := by unfold bumpBy; exact setRf_thermal ..
@[simp] theorem bumpBy_narrow : (bumpBy s a lo w n).narrow = s.narrow := by unfold bumpBy; exact setRf_narrow ..
@[simp] theorem bumpBy_rops : (bumpBy s a lo w n).rops = s.rops := by unfold bumpBy; exact setRf_rops ..
@[simp] theorem bumpBy_rwins : (bumpBy s a lo w n).rwins = s.rwins := by unfold bumpBy; exact setRf_rwins ..
@[simp] theorem bumpBy_punits : (bumpBy s a lo w n).punits = s.punits := by unfold bumpBy; exact setRf_punits ..
@[simp] theorem bumpBy_owners : (bumpBy s a lo w n).owners = s.owners := by unfold bumpBy; exact setRf_owners ..
@[simp] theorem bumpBy_causes : (bumpBy s a lo w n).causes = s.causes := by unfold bumpBy; exact setRf_causes ..
@[simp] theorem bumpBy_ranges : (bumpBy s a lo w n).ranges = s.ranges := by unfold bumpBy; exact setRf_ranges ..
@[simp] theorem bumpBy_twinPend : (bumpBy s a lo w n).twinPend = s.twinPend := by unfold bumpBy; exact setRf_twinPend ..
@[simp] theorem bumpBy_flash : (bumpBy s a lo w n).flash = s.flash := by unfold bumpBy; exact setRf_flash ..
@[simp] theorem bumpBy_stageAt : (bumpBy s a lo w n).stageAt = s.stageAt := by unfold bumpBy; exact setRf_stageAt ..
@[simp] theorem bumpBy_ucie : (bumpBy s a lo w n).ucie = s.ucie := by unfold bumpBy; exact setRf_ucie ..
@[simp] theorem bumpBy_fired : (bumpBy s a lo w n).fired = s.fired := by unfold bumpBy; exact setRf_fired ..
@[simp] theorem bumpBy_mirrorBad : (bumpBy s a lo w n).mirrorBad = s.mirrorBad := by unfold bumpBy; exact setRf_mirrorBad ..
@[simp] theorem bumpBy_routes : (bumpBy s a lo w n).routes = s.routes := by unfold bumpBy; exact setRf_routes ..
@[simp] theorem bumpBy_train : (bumpBy s a lo w n).train = s.train := by unfold bumpBy; exact setRf_train ..
@[simp] theorem bumpBy_srvs : (bumpBy s a lo w n).srvs = s.srvs := by unfold bumpBy; exact setRf_srvs ..
@[simp] theorem bumpBy_envKeys : (bumpBy s a lo w n).envKeys = s.envKeys := by unfold bumpBy; exact setRf_envKeys ..
@[simp] theorem bumpBy_listed : (bumpBy s a lo w n).listed = s.listed := by unfold bumpBy; exact setRf_listed ..
@[simp] theorem bumpBy_heldStreams : (bumpBy s a lo w n).heldStreams = s.heldStreams := by unfold bumpBy; exact setRf_heldStreams ..
@[simp] theorem bumpBy_crl : (bumpBy s a lo w n).crl = s.crl := by unfold bumpBy; exact setRf_crl ..
@[simp] theorem bumpBy_electors : (bumpBy s a lo w n).electors = s.electors := by unfold bumpBy; exact setRf_electors ..
@[simp] theorem bumpBy_actTab : (bumpBy s a lo w n).actTab = s.actTab := by unfold bumpBy; exact setRf_actTab ..
@[simp] theorem bumpBy_takeHomes : (bumpBy s a lo w n).takeHomes = s.takeHomes := by unfold bumpBy; exact setRf_takeHomes ..
@[simp] theorem bumpBy_heldLeft : (bumpBy s a lo w n).heldLeft = s.heldLeft := by unfold bumpBy; exact setRf_heldLeft ..
@[simp] theorem bumpBy_relays : (bumpBy s a lo w n).relays = s.relays := by unfold bumpBy; exact setRf_relays ..
@[simp] theorem bumpBy_relayC : (bumpBy s a lo w n).relayC = s.relayC := by unfold bumpBy; exact setRf_relayC ..
@[simp] theorem bumpBy_hwins : (bumpBy s a lo w n).hwins = s.hwins := by unfold bumpBy; exact setRf_hwins ..
@[simp] theorem bumpBy_shadow : (bumpBy s a lo w n).shadow = s.shadow := by unfold bumpBy; exact setRf_shadow ..
@[simp] theorem bumpBy_xfers : (bumpBy s a lo w n).xfers = s.xfers := by unfold bumpBy; exact setRf_xfers ..
@[simp] theorem bumpBy_hfull : (bumpBy s a lo w n).hfull = s.hfull := by unfold bumpBy; exact setRf_hfull ..
@[simp] theorem bumpBy_copy : (bumpBy s a lo w n).copy = s.copy := by unfold bumpBy; exact setRf_copy ..
@[simp] theorem bumpBy_podFwd : (bumpBy s a lo w n).podFwd = s.podFwd := by unfold bumpBy; exact setRf_podFwd ..
@[simp] theorem bumpBy_podPost : (bumpBy s a lo w n).podPost = s.podPost := by unfold bumpBy; exact setRf_podPost ..
@[simp] theorem bumpBy_staged : (bumpBy s a lo w n).staged = s.staged := by unfold bumpBy; exact setRf_staged ..
@[simp] theorem bumpBy_img : (bumpBy s a lo w n).img = s.img := by unfold bumpBy; exact setRf_img ..
@[simp] theorem bumpBy_ran : (bumpBy s a lo w n).ran = s.ran := by unfold bumpBy; exact setRf_ran ..
@[simp] theorem bumpBy_keys : (bumpBy s a lo w n).keys = s.keys := by unfold bumpBy; exact setRf_keys ..
@[simp] theorem bumpBy_kcmd : (bumpBy s a lo w n).kcmd = s.kcmd := by unfold bumpBy; exact setRf_kcmd ..
@[simp] theorem bumpBy_polled : (bumpBy s a lo w n).polled = s.polled := by unfold bumpBy; exact setRf_polled ..
@[simp] theorem bumpBy_kick : (bumpBy s a lo w n).kick = s.kick := by unfold bumpBy; exact setRf_kick ..
@[simp] theorem bumpBy_logLevel : (bumpBy s a lo w n).logLevel = s.logLevel := by unfold bumpBy; exact setRf_logLevel ..
@[simp] theorem bumpBy_tqs : (bumpBy s a lo w n).tqs = s.tqs := by unfold bumpBy; exact setRf_tqs ..
@[simp] theorem bumpBy_stall : (bumpBy s a lo w n).stall = s.stall := by unfold bumpBy; exact setRf_stall ..
@[simp] theorem bumpBy_coldDue : (bumpBy s a lo w n).coldDue = s.coldDue := by unfold bumpBy; exact setRf_coldDue ..
@[simp] theorem bumpBy_rstn : (bumpBy s a lo w n).rstn = s.rstn := by unfold bumpBy; exact setRf_rstn ..
@[simp] theorem bumpBy_pwrGood : (bumpBy s a lo w n).pwrGood = s.pwrGood := by unfold bumpBy; exact setRf_pwrGood ..
@[simp] theorem bumpBy_thermtrip : (bumpBy s a lo w n).thermtrip = s.thermtrip := by unfold bumpBy; exact setRf_thermtrip ..
@[simp] theorem bumpBy_boot : (bumpBy s a lo w n).boot = s.boot := by unfold bumpBy; exact setRf_boot ..
@[simp] theorem bumpBy_jtag : (bumpBy s a lo w n).jtag = s.jtag := by unfold bumpBy; exact setRf_jtag ..
@[simp] theorem bumpBy_jtagDrive : (bumpBy s a lo w n).jtagDrive = s.jtagDrive := by unfold bumpBy; exact setRf_jtagDrive ..
@[simp] theorem bumpBy_accts : (bumpBy s a lo w n).accts = s.accts := by unfold bumpBy; exact setRf_accts ..
@[simp] theorem bumpBy_acctAt : (bumpBy s a lo w n).acctAt = s.acctAt := by unfold bumpBy; exact setRf_acctAt ..
end

/-! ### bump -/
section
variable (a lo w : Nat)
@[simp] theorem bump_pending : (bump s a lo w).pending = s.pending := by unfold bump; exact bumpBy_pending ..
@[simp] theorem bump_phase : (bump s a lo w).phase = s.phase := by unfold bump; exact bumpBy_phase ..
@[simp] theorem bump_mem : (bump s a lo w).mem = s.mem := by unfold bump; exact bumpBy_mem ..
@[simp] theorem bump_ecc : (bump s a lo w).ecc = s.ecc := by unfold bump; exact bumpBy_ecc ..
@[simp] theorem bump_sec : (bump s a lo w).sec = s.sec := by unfold bump; exact bumpBy_sec ..
@[simp] theorem bump_uncSec : (bump s a lo w).uncSec = s.uncSec := by unfold bump; exact bumpBy_uncSec ..
@[simp] theorem bump_patCorr : (bump s a lo w).patCorr = s.patCorr := by unfold bump; exact bumpBy_patCorr ..
@[simp] theorem bump_cores : (bump s a lo w).cores = s.cores := by unfold bump; exact bumpBy_cores ..
@[simp] theorem bump_chans : (bump s a lo w).chans = s.chans := by unfold bump; exact bumpBy_chans ..
@[simp] theorem bump_dbanks : (bump s a lo w).dbanks = s.dbanks := by unfold bump; exact bumpBy_dbanks ..
@[simp] theorem bump_acts : (bump s a lo w).acts = s.acts := by unfold bump; exact bumpBy_acts ..
@[simp] theorem bump_jobs : (bump s a lo w).jobs = s.jobs := by unfold bump; exact bumpBy_jobs ..
@[simp] theorem bump_nextJob : (bump s a lo w).nextJob = s.nextJob := by unfold bump; exact bumpBy_nextJob ..
@[simp] theorem bump_free : (bump s a lo w).free = s.free := by unfold bump; exact bumpBy_free ..
@[simp] theorem bump_faults : (bump s a lo w).faults = s.faults := by unfold bump; exact bumpBy_faults ..
@[simp] theorem bump_wearMark : (bump s a lo w).wearMark = s.wearMark := by unfold bump; exact bumpBy_wearMark ..
@[simp] theorem bump_tileMark : (bump s a lo w).tileMark = s.tileMark := by unfold bump; exact bumpBy_tileMark ..
@[simp] theorem bump_halted : (bump s a lo w).halted = s.halted := by unfold bump; exact bumpBy_halted ..
@[simp] theorem bump_evacuate : (bump s a lo w).evacuate = s.evacuate := by unfold bump; exact bumpBy_evacuate ..
@[simp] theorem bump_vote : (bump s a lo w).vote = s.vote := by unfold bump; exact bumpBy_vote ..
@[simp] theorem bump_sent : (bump s a lo w).sent = s.sent := by unfold bump; exact bumpBy_sent ..
@[simp] theorem bump_strmTab : (bump s a lo w).strmTab = s.strmTab := by unfold bump; exact bumpBy_strmTab ..
@[simp] theorem bump_strmPend : (bump s a lo w).strmPend = s.strmPend := by unfold bump; exact bumpBy_strmPend ..
@[simp] theorem bump_home : (bump s a lo w).home = s.home := by unfold bump; exact bumpBy_home ..
@[simp] theorem bump_fritRefs : (bump s a lo w).fritRefs = s.fritRefs := by unfold bump; exact bumpBy_fritRefs ..
@[simp] theorem bump_fritDelta : (bump s a lo w).fritDelta = s.fritDelta := by unfold bump; exact bumpBy_fritDelta ..
@[simp] theorem bump_repairCand : (bump s a lo w).repairCand = s.repairCand := by unfold bump; exact bumpBy_repairCand ..
@[simp] theorem bump_candSecs : (bump s a lo w).candSecs = s.candSecs := by unfold bump; exact bumpBy_candSecs ..
@[simp] theorem bump_spareRows : (bump s a lo w).spareRows = s.spareRows := by unfold bump; exact bumpBy_spareRows ..
@[simp] theorem bump_flights : (bump s a lo w).flights = s.flights := by unfold bump; exact bumpBy_flights ..
@[simp] theorem bump_bins : (bump s a lo w).bins = s.bins := by unfold bump; exact bumpBy_bins ..
@[simp] theorem bump_bbusy : (bump s a lo w).bbusy = s.bbusy := by unfold bump; exact bumpBy_bbusy ..
@[simp] theorem bump_bseq : (bump s a lo w).bseq = s.bseq := by unfold bump; exact bumpBy_bseq ..
@[simp] theorem bump_brx : (bump s a lo w).brx = s.brx := by unfold bump; exact bumpBy_brx ..
@[simp] theorem bump_slotBad : (bump s a lo w).slotBad = s.slotBad := by unfold bump; exact bumpBy_slotBad ..
@[simp] theorem bump_links : (bump s a lo w).links = s.links := by unfold bump; exact bumpBy_links ..
@[simp] theorem bump_sysIn : (bump s a lo w).sysIn = s.sysIn := by unfold bump; exact bumpBy_sysIn ..
@[simp] theorem bump_tether : (bump s a lo w).tether = s.tether := by unfold bump; exact bumpBy_tether ..
@[simp] theorem bump_rootIn : (bump s a lo w).rootIn = s.rootIn := by unfold bump; exact bumpBy_rootIn ..
@[simp] theorem bump_shown : (bump s a lo w).shown = s.shown := by unfold bump; exact bumpBy_shown ..
@[simp] theorem bump_voteLinks : (bump s a lo w).voteLinks = s.voteLinks := by unfold bump; exact bumpBy_voteLinks ..
@[simp] theorem bump_evicted : (bump s a lo w).evicted = s.evicted := by unfold bump; exact bumpBy_evicted ..
@[simp] theorem bump_yawRef : (bump s a lo w).yawRef = s.yawRef := by unfold bump; exact bumpBy_yawRef ..
@[simp] theorem bump_yawCrl : (bump s a lo w).yawCrl = s.yawCrl := by unfold bump; exact bumpBy_yawCrl ..
@[simp] theorem bump_yawTake : (bump s a lo w).yawTake = s.yawTake := by unfold bump; exact bumpBy_yawTake ..
@[simp] theorem bump_thermal : (bump s a lo w).thermal = s.thermal := by unfold bump; exact bumpBy_thermal ..
@[simp] theorem bump_narrow : (bump s a lo w).narrow = s.narrow := by unfold bump; exact bumpBy_narrow ..
@[simp] theorem bump_rops : (bump s a lo w).rops = s.rops := by unfold bump; exact bumpBy_rops ..
@[simp] theorem bump_rwins : (bump s a lo w).rwins = s.rwins := by unfold bump; exact bumpBy_rwins ..
@[simp] theorem bump_punits : (bump s a lo w).punits = s.punits := by unfold bump; exact bumpBy_punits ..
@[simp] theorem bump_owners : (bump s a lo w).owners = s.owners := by unfold bump; exact bumpBy_owners ..
@[simp] theorem bump_causes : (bump s a lo w).causes = s.causes := by unfold bump; exact bumpBy_causes ..
@[simp] theorem bump_ranges : (bump s a lo w).ranges = s.ranges := by unfold bump; exact bumpBy_ranges ..
@[simp] theorem bump_twinPend : (bump s a lo w).twinPend = s.twinPend := by unfold bump; exact bumpBy_twinPend ..
@[simp] theorem bump_flash : (bump s a lo w).flash = s.flash := by unfold bump; exact bumpBy_flash ..
@[simp] theorem bump_stageAt : (bump s a lo w).stageAt = s.stageAt := by unfold bump; exact bumpBy_stageAt ..
@[simp] theorem bump_ucie : (bump s a lo w).ucie = s.ucie := by unfold bump; exact bumpBy_ucie ..
@[simp] theorem bump_fired : (bump s a lo w).fired = s.fired := by unfold bump; exact bumpBy_fired ..
@[simp] theorem bump_mirrorBad : (bump s a lo w).mirrorBad = s.mirrorBad := by unfold bump; exact bumpBy_mirrorBad ..
@[simp] theorem bump_routes : (bump s a lo w).routes = s.routes := by unfold bump; exact bumpBy_routes ..
@[simp] theorem bump_train : (bump s a lo w).train = s.train := by unfold bump; exact bumpBy_train ..
@[simp] theorem bump_srvs : (bump s a lo w).srvs = s.srvs := by unfold bump; exact bumpBy_srvs ..
@[simp] theorem bump_envKeys : (bump s a lo w).envKeys = s.envKeys := by unfold bump; exact bumpBy_envKeys ..
@[simp] theorem bump_listed : (bump s a lo w).listed = s.listed := by unfold bump; exact bumpBy_listed ..
@[simp] theorem bump_heldStreams : (bump s a lo w).heldStreams = s.heldStreams := by unfold bump; exact bumpBy_heldStreams ..
@[simp] theorem bump_crl : (bump s a lo w).crl = s.crl := by unfold bump; exact bumpBy_crl ..
@[simp] theorem bump_electors : (bump s a lo w).electors = s.electors := by unfold bump; exact bumpBy_electors ..
@[simp] theorem bump_actTab : (bump s a lo w).actTab = s.actTab := by unfold bump; exact bumpBy_actTab ..
@[simp] theorem bump_takeHomes : (bump s a lo w).takeHomes = s.takeHomes := by unfold bump; exact bumpBy_takeHomes ..
@[simp] theorem bump_heldLeft : (bump s a lo w).heldLeft = s.heldLeft := by unfold bump; exact bumpBy_heldLeft ..
@[simp] theorem bump_relays : (bump s a lo w).relays = s.relays := by unfold bump; exact bumpBy_relays ..
@[simp] theorem bump_relayC : (bump s a lo w).relayC = s.relayC := by unfold bump; exact bumpBy_relayC ..
@[simp] theorem bump_hwins : (bump s a lo w).hwins = s.hwins := by unfold bump; exact bumpBy_hwins ..
@[simp] theorem bump_shadow : (bump s a lo w).shadow = s.shadow := by unfold bump; exact bumpBy_shadow ..
@[simp] theorem bump_xfers : (bump s a lo w).xfers = s.xfers := by unfold bump; exact bumpBy_xfers ..
@[simp] theorem bump_hfull : (bump s a lo w).hfull = s.hfull := by unfold bump; exact bumpBy_hfull ..
@[simp] theorem bump_copy : (bump s a lo w).copy = s.copy := by unfold bump; exact bumpBy_copy ..
@[simp] theorem bump_podFwd : (bump s a lo w).podFwd = s.podFwd := by unfold bump; exact bumpBy_podFwd ..
@[simp] theorem bump_podPost : (bump s a lo w).podPost = s.podPost := by unfold bump; exact bumpBy_podPost ..
@[simp] theorem bump_staged : (bump s a lo w).staged = s.staged := by unfold bump; exact bumpBy_staged ..
@[simp] theorem bump_img : (bump s a lo w).img = s.img := by unfold bump; exact bumpBy_img ..
@[simp] theorem bump_ran : (bump s a lo w).ran = s.ran := by unfold bump; exact bumpBy_ran ..
@[simp] theorem bump_keys : (bump s a lo w).keys = s.keys := by unfold bump; exact bumpBy_keys ..
@[simp] theorem bump_kcmd : (bump s a lo w).kcmd = s.kcmd := by unfold bump; exact bumpBy_kcmd ..
@[simp] theorem bump_polled : (bump s a lo w).polled = s.polled := by unfold bump; exact bumpBy_polled ..
@[simp] theorem bump_kick : (bump s a lo w).kick = s.kick := by unfold bump; exact bumpBy_kick ..
@[simp] theorem bump_logLevel : (bump s a lo w).logLevel = s.logLevel := by unfold bump; exact bumpBy_logLevel ..
@[simp] theorem bump_tqs : (bump s a lo w).tqs = s.tqs := by unfold bump; exact bumpBy_tqs ..
@[simp] theorem bump_stall : (bump s a lo w).stall = s.stall := by unfold bump; exact bumpBy_stall ..
@[simp] theorem bump_coldDue : (bump s a lo w).coldDue = s.coldDue := by unfold bump; exact bumpBy_coldDue ..
@[simp] theorem bump_rstn : (bump s a lo w).rstn = s.rstn := by unfold bump; exact bumpBy_rstn ..
@[simp] theorem bump_pwrGood : (bump s a lo w).pwrGood = s.pwrGood := by unfold bump; exact bumpBy_pwrGood ..
@[simp] theorem bump_thermtrip : (bump s a lo w).thermtrip = s.thermtrip := by unfold bump; exact bumpBy_thermtrip ..
@[simp] theorem bump_boot : (bump s a lo w).boot = s.boot := by unfold bump; exact bumpBy_boot ..
@[simp] theorem bump_jtag : (bump s a lo w).jtag = s.jtag := by unfold bump; exact bumpBy_jtag ..
@[simp] theorem bump_jtagDrive : (bump s a lo w).jtagDrive = s.jtagDrive := by unfold bump; exact bumpBy_jtagDrive ..
@[simp] theorem bump_accts : (bump s a lo w).accts = s.accts := by unfold bump; exact bumpBy_accts ..
@[simp] theorem bump_acctAt : (bump s a lo w).acctAt = s.acctAt := by unfold bump; exact bumpBy_acctAt ..
end

/-! ### raise -/
section
variable (code sev cls idx env : Nat) (d : BitVec 320)
@[simp] theorem raise_pending : (raise s code sev cls idx env d).pending = s.pending := by unfold raise; rfl
@[simp] theorem raise_phase : (raise s code sev cls idx env d).phase = s.phase := by unfold raise; rfl
@[simp] theorem raise_regs : (raise s code sev cls idx env d).regs = s.regs := by unfold raise; rfl
@[simp] theorem raise_mem : (raise s code sev cls idx env d).mem = s.mem := by unfold raise; rfl
@[simp] theorem raise_ecc : (raise s code sev cls idx env d).ecc = s.ecc := by unfold raise; rfl
@[simp] theorem raise_sec : (raise s code sev cls idx env d).sec = s.sec := by unfold raise; rfl
@[simp] theorem raise_uncSec : (raise s code sev cls idx env d).uncSec = s.uncSec := by unfold raise; rfl
@[simp] theorem raise_patCorr : (raise s code sev cls idx env d).patCorr = s.patCorr := by unfold raise; rfl
@[simp] theorem raise_cores : (raise s code sev cls idx env d).cores = s.cores := by unfold raise; rfl
@[simp] theorem raise_chans : (raise s code sev cls idx env d).chans = s.chans := by unfold raise; rfl
@[simp] theorem raise_dbanks : (raise s code sev cls idx env d).dbanks = s.dbanks := by unfold raise; rfl
@[simp] theorem raise_acts : (raise s code sev cls idx env d).acts = s.acts := by unfold raise; rfl
@[simp] theorem raise_jobs : (raise s code sev cls idx env d).jobs = s.jobs := by unfold raise; rfl
@[simp] theorem raise_nextJob : (raise s code sev cls idx env d).nextJob = s.nextJob := by unfold raise; rfl
@[simp] theorem raise_free : (raise s code sev cls idx env d).free = s.free := by unfold raise; rfl
@[simp] theorem raise_wearMark : (raise s code sev cls idx env d).wearMark = s.wearMark := by unfold raise; rfl
@[simp] theorem raise_tileMark : (raise s code sev cls idx env d).tileMark = s.tileMark := by unfold raise; rfl
@[simp] theorem raise_sent : (raise s code sev cls idx env d).sent = s.sent := by unfold raise; rfl
@[simp] theorem raise_strmTab : (raise s code sev cls idx env d).strmTab = s.strmTab := by unfold raise; rfl
@[simp] theorem raise_strmPend : (raise s code sev cls idx env d).strmPend = s.strmPend := by unfold raise; rfl
@[simp] theorem raise_home : (raise s code sev cls idx env d).home = s.home := by unfold raise; rfl
@[simp] theorem raise_fritRefs : (raise s code sev cls idx env d).fritRefs = s.fritRefs := by unfold raise; rfl
@[simp] theorem raise_fritDelta : (raise s code sev cls idx env d).fritDelta = s.fritDelta := by unfold raise; rfl
@[simp] theorem raise_repairCand : (raise s code sev cls idx env d).repairCand = s.repairCand := by unfold raise; rfl
@[simp] theorem raise_candSecs : (raise s code sev cls idx env d).candSecs = s.candSecs := by unfold raise; rfl
@[simp] theorem raise_spareRows : (raise s code sev cls idx env d).spareRows = s.spareRows := by unfold raise; rfl
@[simp] theorem raise_flights : (raise s code sev cls idx env d).flights = s.flights := by unfold raise; rfl
@[simp] theorem raise_bins : (raise s code sev cls idx env d).bins = s.bins := by unfold raise; rfl
@[simp] theorem raise_bbusy : (raise s code sev cls idx env d).bbusy = s.bbusy := by unfold raise; rfl
@[simp] theorem raise_bseq : (raise s code sev cls idx env d).bseq = s.bseq := by unfold raise; rfl
@[simp] theorem raise_brx : (raise s code sev cls idx env d).brx = s.brx := by unfold raise; rfl
@[simp] theorem raise_slotBad : (raise s code sev cls idx env d).slotBad = s.slotBad := by unfold raise; rfl
@[simp] theorem raise_links : (raise s code sev cls idx env d).links = s.links := by unfold raise; rfl
@[simp] theorem raise_sysIn : (raise s code sev cls idx env d).sysIn = s.sysIn := by unfold raise; rfl
@[simp] theorem raise_tether : (raise s code sev cls idx env d).tether = s.tether := by unfold raise; rfl
@[simp] theorem raise_rootIn : (raise s code sev cls idx env d).rootIn = s.rootIn := by unfold raise; rfl
@[simp] theorem raise_shown : (raise s code sev cls idx env d).shown = s.shown := by unfold raise; rfl
@[simp] theorem raise_voteLinks : (raise s code sev cls idx env d).voteLinks = s.voteLinks := by unfold raise; rfl
@[simp] theorem raise_evicted : (raise s code sev cls idx env d).evicted = s.evicted := by unfold raise; rfl
@[simp] theorem raise_yawRef : (raise s code sev cls idx env d).yawRef = s.yawRef := by unfold raise; rfl
@[simp] theorem raise_yawCrl : (raise s code sev cls idx env d).yawCrl = s.yawCrl := by unfold raise; rfl
@[simp] theorem raise_yawTake : (raise s code sev cls idx env d).yawTake = s.yawTake := by unfold raise; rfl
@[simp] theorem raise_thermal : (raise s code sev cls idx env d).thermal = s.thermal := by unfold raise; rfl
@[simp] theorem raise_narrow : (raise s code sev cls idx env d).narrow = s.narrow := by unfold raise; rfl
@[simp] theorem raise_rops : (raise s code sev cls idx env d).rops = s.rops := by unfold raise; rfl
@[simp] theorem raise_rwins : (raise s code sev cls idx env d).rwins = s.rwins := by unfold raise; rfl
@[simp] theorem raise_punits : (raise s code sev cls idx env d).punits = s.punits := by unfold raise; rfl
@[simp] theorem raise_owners : (raise s code sev cls idx env d).owners = s.owners := by unfold raise; rfl
@[simp] theorem raise_causes : (raise s code sev cls idx env d).causes = s.causes := by unfold raise; rfl
@[simp] theorem raise_ranges : (raise s code sev cls idx env d).ranges = s.ranges := by unfold raise; rfl
@[simp] theorem raise_twinPend : (raise s code sev cls idx env d).twinPend = s.twinPend := by unfold raise; rfl
@[simp] theorem raise_flash : (raise s code sev cls idx env d).flash = s.flash := by unfold raise; rfl
@[simp] theorem raise_stageAt : (raise s code sev cls idx env d).stageAt = s.stageAt := by unfold raise; rfl
@[simp] theorem raise_ucie : (raise s code sev cls idx env d).ucie = s.ucie := by unfold raise; rfl
@[simp] theorem raise_fired : (raise s code sev cls idx env d).fired = s.fired := by unfold raise; rfl
@[simp] theorem raise_mirrorBad : (raise s code sev cls idx env d).mirrorBad = s.mirrorBad := by unfold raise; rfl
@[simp] theorem raise_routes : (raise s code sev cls idx env d).routes = s.routes := by unfold raise; rfl
@[simp] theorem raise_train : (raise s code sev cls idx env d).train = s.train := by unfold raise; rfl
@[simp] theorem raise_srvs : (raise s code sev cls idx env d).srvs = s.srvs := by unfold raise; rfl
@[simp] theorem raise_envKeys : (raise s code sev cls idx env d).envKeys = s.envKeys := by unfold raise; rfl
@[simp] theorem raise_listed : (raise s code sev cls idx env d).listed = s.listed := by unfold raise; rfl
@[simp] theorem raise_heldStreams : (raise s code sev cls idx env d).heldStreams = s.heldStreams := by unfold raise; rfl
@[simp] theorem raise_crl : (raise s code sev cls idx env d).crl = s.crl := by unfold raise; rfl
@[simp] theorem raise_electors : (raise s code sev cls idx env d).electors = s.electors := by unfold raise; rfl
@[simp] theorem raise_actTab : (raise s code sev cls idx env d).actTab = s.actTab := by unfold raise; rfl
@[simp] theorem raise_takeHomes : (raise s code sev cls idx env d).takeHomes = s.takeHomes := by unfold raise; rfl
@[simp] theorem raise_heldLeft : (raise s code sev cls idx env d).heldLeft = s.heldLeft := by unfold raise; rfl
@[simp] theorem raise_relays : (raise s code sev cls idx env d).relays = s.relays := by unfold raise; rfl
@[simp] theorem raise_relayC : (raise s code sev cls idx env d).relayC = s.relayC := by unfold raise; rfl
@[simp] theorem raise_hwins : (raise s code sev cls idx env d).hwins = s.hwins := by unfold raise; rfl
@[simp] theorem raise_shadow : (raise s code sev cls idx env d).shadow = s.shadow := by unfold raise; rfl
@[simp] theorem raise_xfers : (raise s code sev cls idx env d).xfers = s.xfers := by unfold raise; rfl
@[simp] theorem raise_hfull : (raise s code sev cls idx env d).hfull = s.hfull := by unfold raise; rfl
@[simp] theorem raise_copy : (raise s code sev cls idx env d).copy = s.copy := by unfold raise; rfl
@[simp] theorem raise_podFwd : (raise s code sev cls idx env d).podFwd = s.podFwd := by unfold raise; rfl
@[simp] theorem raise_podPost : (raise s code sev cls idx env d).podPost = s.podPost := by unfold raise; rfl
@[simp] theorem raise_staged : (raise s code sev cls idx env d).staged = s.staged := by unfold raise; rfl
@[simp] theorem raise_img : (raise s code sev cls idx env d).img = s.img := by unfold raise; rfl
@[simp] theorem raise_ran : (raise s code sev cls idx env d).ran = s.ran := by unfold raise; rfl
@[simp] theorem raise_keys : (raise s code sev cls idx env d).keys = s.keys := by unfold raise; rfl
@[simp] theorem raise_kcmd : (raise s code sev cls idx env d).kcmd = s.kcmd := by unfold raise; rfl
@[simp] theorem raise_polled : (raise s code sev cls idx env d).polled = s.polled := by unfold raise; rfl
@[simp] theorem raise_kick : (raise s code sev cls idx env d).kick = s.kick := by unfold raise; rfl
@[simp] theorem raise_logLevel : (raise s code sev cls idx env d).logLevel = s.logLevel := by unfold raise; rfl
@[simp] theorem raise_tqs : (raise s code sev cls idx env d).tqs = s.tqs := by unfold raise; rfl
@[simp] theorem raise_stall : (raise s code sev cls idx env d).stall = s.stall := by unfold raise; rfl
@[simp] theorem raise_coldDue : (raise s code sev cls idx env d).coldDue = s.coldDue := by unfold raise; rfl
@[simp] theorem raise_rstn : (raise s code sev cls idx env d).rstn = s.rstn := by unfold raise; rfl
@[simp] theorem raise_pwrGood : (raise s code sev cls idx env d).pwrGood = s.pwrGood := by unfold raise; rfl
@[simp] theorem raise_thermtrip : (raise s code sev cls idx env d).thermtrip = s.thermtrip := by unfold raise; rfl
@[simp] theorem raise_boot : (raise s code sev cls idx env d).boot = s.boot := by unfold raise; rfl
@[simp] theorem raise_jtag : (raise s code sev cls idx env d).jtag = s.jtag := by unfold raise; rfl
@[simp] theorem raise_jtagDrive : (raise s code sev cls idx env d).jtagDrive = s.jtagDrive := by unfold raise; rfl
@[simp] theorem raise_accts : (raise s code sev cls idx env d).accts = s.accts := by unfold raise; rfl
@[simp] theorem raise_acctAt : (raise s code sev cls idx env d).acctAt = s.acctAt := by unfold raise; rfl
end

/-! ### raiseCore -/
section
variable (c code sev cls idx : Nat) (d : List (Nat × Nat × Nat))
@[simp] theorem raiseCore_pending : (raiseCore s c code sev cls idx d).pending = s.pending := by unfold raiseCore; exact raise_pending ..
@[simp] theorem raiseCore_phase : (raiseCore s c code sev cls idx d).phase = s.phase := by unfold raiseCore; exact raise_phase ..
@[simp] theorem raiseCore_regs : (raiseCore s c code sev cls idx d).regs = s.regs := by unfold raiseCore; exact raise_regs ..
@[simp] theorem raiseCore_mem : (raiseCore s c code sev cls idx d).mem = s.mem := by unfold raiseCore; exact raise_mem ..
@[simp] theorem raiseCore_ecc : (raiseCore s c code sev cls idx d).ecc = s.ecc := by unfold raiseCore; exact raise_ecc ..
@[simp] theorem raiseCore_sec : (raiseCore s c code sev cls idx d).sec = s.sec := by unfold raiseCore; exact raise_sec ..
@[simp] theorem raiseCore_uncSec : (raiseCore s c code sev cls idx d).uncSec = s.uncSec := by unfold raiseCore; exact raise_uncSec ..
@[simp] theorem raiseCore_patCorr : (raiseCore s c code sev cls idx d).patCorr = s.patCorr := by unfold raiseCore; exact raise_patCorr ..
@[simp] theorem raiseCore_cores : (raiseCore s c code sev cls idx d).cores = s.cores := by unfold raiseCore; exact raise_cores ..
@[simp] theorem raiseCore_chans : (raiseCore s c code sev cls idx d).chans = s.chans := by unfold raiseCore; exact raise_chans ..
@[simp] theorem raiseCore_dbanks : (raiseCore s c code sev cls idx d).dbanks = s.dbanks := by unfold raiseCore; exact raise_dbanks ..
@[simp] theorem raiseCore_acts : (raiseCore s c code sev cls idx d).acts = s.acts := by unfold raiseCore; exact raise_acts ..
@[simp] theorem raiseCore_jobs : (raiseCore s c code sev cls idx d).jobs = s.jobs := by unfold raiseCore; exact raise_jobs ..
@[simp] theorem raiseCore_nextJob : (raiseCore s c code sev cls idx d).nextJob = s.nextJob := by unfold raiseCore; exact raise_nextJob ..
@[simp] theorem raiseCore_free : (raiseCore s c code sev cls idx d).free = s.free := by unfold raiseCore; exact raise_free ..
@[simp] theorem raiseCore_wearMark : (raiseCore s c code sev cls idx d).wearMark = s.wearMark := by unfold raiseCore; exact raise_wearMark ..
@[simp] theorem raiseCore_tileMark : (raiseCore s c code sev cls idx d).tileMark = s.tileMark := by unfold raiseCore; exact raise_tileMark ..
@[simp] theorem raiseCore_sent : (raiseCore s c code sev cls idx d).sent = s.sent := by unfold raiseCore; exact raise_sent ..
@[simp] theorem raiseCore_strmTab : (raiseCore s c code sev cls idx d).strmTab = s.strmTab := by unfold raiseCore; exact raise_strmTab ..
@[simp] theorem raiseCore_strmPend : (raiseCore s c code sev cls idx d).strmPend = s.strmPend := by unfold raiseCore; exact raise_strmPend ..
@[simp] theorem raiseCore_home : (raiseCore s c code sev cls idx d).home = s.home := by unfold raiseCore; exact raise_home ..
@[simp] theorem raiseCore_fritRefs : (raiseCore s c code sev cls idx d).fritRefs = s.fritRefs := by unfold raiseCore; exact raise_fritRefs ..
@[simp] theorem raiseCore_fritDelta : (raiseCore s c code sev cls idx d).fritDelta = s.fritDelta := by unfold raiseCore; exact raise_fritDelta ..
@[simp] theorem raiseCore_repairCand : (raiseCore s c code sev cls idx d).repairCand = s.repairCand := by unfold raiseCore; exact raise_repairCand ..
@[simp] theorem raiseCore_candSecs : (raiseCore s c code sev cls idx d).candSecs = s.candSecs := by unfold raiseCore; exact raise_candSecs ..
@[simp] theorem raiseCore_spareRows : (raiseCore s c code sev cls idx d).spareRows = s.spareRows := by unfold raiseCore; exact raise_spareRows ..
@[simp] theorem raiseCore_flights : (raiseCore s c code sev cls idx d).flights = s.flights := by unfold raiseCore; exact raise_flights ..
@[simp] theorem raiseCore_bins : (raiseCore s c code sev cls idx d).bins = s.bins := by unfold raiseCore; exact raise_bins ..
@[simp] theorem raiseCore_bbusy : (raiseCore s c code sev cls idx d).bbusy = s.bbusy := by unfold raiseCore; exact raise_bbusy ..
@[simp] theorem raiseCore_bseq : (raiseCore s c code sev cls idx d).bseq = s.bseq := by unfold raiseCore; exact raise_bseq ..
@[simp] theorem raiseCore_brx : (raiseCore s c code sev cls idx d).brx = s.brx := by unfold raiseCore; exact raise_brx ..
@[simp] theorem raiseCore_slotBad : (raiseCore s c code sev cls idx d).slotBad = s.slotBad := by unfold raiseCore; exact raise_slotBad ..
@[simp] theorem raiseCore_links : (raiseCore s c code sev cls idx d).links = s.links := by unfold raiseCore; exact raise_links ..
@[simp] theorem raiseCore_sysIn : (raiseCore s c code sev cls idx d).sysIn = s.sysIn := by unfold raiseCore; exact raise_sysIn ..
@[simp] theorem raiseCore_tether : (raiseCore s c code sev cls idx d).tether = s.tether := by unfold raiseCore; exact raise_tether ..
@[simp] theorem raiseCore_rootIn : (raiseCore s c code sev cls idx d).rootIn = s.rootIn := by unfold raiseCore; exact raise_rootIn ..
@[simp] theorem raiseCore_shown : (raiseCore s c code sev cls idx d).shown = s.shown := by unfold raiseCore; exact raise_shown ..
@[simp] theorem raiseCore_voteLinks : (raiseCore s c code sev cls idx d).voteLinks = s.voteLinks := by unfold raiseCore; exact raise_voteLinks ..
@[simp] theorem raiseCore_evicted : (raiseCore s c code sev cls idx d).evicted = s.evicted := by unfold raiseCore; exact raise_evicted ..
@[simp] theorem raiseCore_yawRef : (raiseCore s c code sev cls idx d).yawRef = s.yawRef := by unfold raiseCore; exact raise_yawRef ..
@[simp] theorem raiseCore_yawCrl : (raiseCore s c code sev cls idx d).yawCrl = s.yawCrl := by unfold raiseCore; exact raise_yawCrl ..
@[simp] theorem raiseCore_yawTake : (raiseCore s c code sev cls idx d).yawTake = s.yawTake := by unfold raiseCore; exact raise_yawTake ..
@[simp] theorem raiseCore_thermal : (raiseCore s c code sev cls idx d).thermal = s.thermal := by unfold raiseCore; exact raise_thermal ..
@[simp] theorem raiseCore_narrow : (raiseCore s c code sev cls idx d).narrow = s.narrow := by unfold raiseCore; exact raise_narrow ..
@[simp] theorem raiseCore_rops : (raiseCore s c code sev cls idx d).rops = s.rops := by unfold raiseCore; exact raise_rops ..
@[simp] theorem raiseCore_rwins : (raiseCore s c code sev cls idx d).rwins = s.rwins := by unfold raiseCore; exact raise_rwins ..
@[simp] theorem raiseCore_punits : (raiseCore s c code sev cls idx d).punits = s.punits := by unfold raiseCore; exact raise_punits ..
@[simp] theorem raiseCore_owners : (raiseCore s c code sev cls idx d).owners = s.owners := by unfold raiseCore; exact raise_owners ..
@[simp] theorem raiseCore_causes : (raiseCore s c code sev cls idx d).causes = s.causes := by unfold raiseCore; exact raise_causes ..
@[simp] theorem raiseCore_ranges : (raiseCore s c code sev cls idx d).ranges = s.ranges := by unfold raiseCore; exact raise_ranges ..
@[simp] theorem raiseCore_twinPend : (raiseCore s c code sev cls idx d).twinPend = s.twinPend := by unfold raiseCore; exact raise_twinPend ..
@[simp] theorem raiseCore_flash : (raiseCore s c code sev cls idx d).flash = s.flash := by unfold raiseCore; exact raise_flash ..
@[simp] theorem raiseCore_stageAt : (raiseCore s c code sev cls idx d).stageAt = s.stageAt := by unfold raiseCore; exact raise_stageAt ..
@[simp] theorem raiseCore_ucie : (raiseCore s c code sev cls idx d).ucie = s.ucie := by unfold raiseCore; exact raise_ucie ..
@[simp] theorem raiseCore_fired : (raiseCore s c code sev cls idx d).fired = s.fired := by unfold raiseCore; exact raise_fired ..
@[simp] theorem raiseCore_mirrorBad : (raiseCore s c code sev cls idx d).mirrorBad = s.mirrorBad := by unfold raiseCore; exact raise_mirrorBad ..
@[simp] theorem raiseCore_routes : (raiseCore s c code sev cls idx d).routes = s.routes := by unfold raiseCore; exact raise_routes ..
@[simp] theorem raiseCore_train : (raiseCore s c code sev cls idx d).train = s.train := by unfold raiseCore; exact raise_train ..
@[simp] theorem raiseCore_srvs : (raiseCore s c code sev cls idx d).srvs = s.srvs := by unfold raiseCore; exact raise_srvs ..
@[simp] theorem raiseCore_envKeys : (raiseCore s c code sev cls idx d).envKeys = s.envKeys := by unfold raiseCore; exact raise_envKeys ..
@[simp] theorem raiseCore_listed : (raiseCore s c code sev cls idx d).listed = s.listed := by unfold raiseCore; exact raise_listed ..
@[simp] theorem raiseCore_heldStreams : (raiseCore s c code sev cls idx d).heldStreams = s.heldStreams := by unfold raiseCore; exact raise_heldStreams ..
@[simp] theorem raiseCore_crl : (raiseCore s c code sev cls idx d).crl = s.crl := by unfold raiseCore; exact raise_crl ..
@[simp] theorem raiseCore_electors : (raiseCore s c code sev cls idx d).electors = s.electors := by unfold raiseCore; exact raise_electors ..
@[simp] theorem raiseCore_actTab : (raiseCore s c code sev cls idx d).actTab = s.actTab := by unfold raiseCore; exact raise_actTab ..
@[simp] theorem raiseCore_takeHomes : (raiseCore s c code sev cls idx d).takeHomes = s.takeHomes := by unfold raiseCore; exact raise_takeHomes ..
@[simp] theorem raiseCore_heldLeft : (raiseCore s c code sev cls idx d).heldLeft = s.heldLeft := by unfold raiseCore; exact raise_heldLeft ..
@[simp] theorem raiseCore_relays : (raiseCore s c code sev cls idx d).relays = s.relays := by unfold raiseCore; exact raise_relays ..
@[simp] theorem raiseCore_relayC : (raiseCore s c code sev cls idx d).relayC = s.relayC := by unfold raiseCore; exact raise_relayC ..
@[simp] theorem raiseCore_hwins : (raiseCore s c code sev cls idx d).hwins = s.hwins := by unfold raiseCore; exact raise_hwins ..
@[simp] theorem raiseCore_shadow : (raiseCore s c code sev cls idx d).shadow = s.shadow := by unfold raiseCore; exact raise_shadow ..
@[simp] theorem raiseCore_xfers : (raiseCore s c code sev cls idx d).xfers = s.xfers := by unfold raiseCore; exact raise_xfers ..
@[simp] theorem raiseCore_hfull : (raiseCore s c code sev cls idx d).hfull = s.hfull := by unfold raiseCore; exact raise_hfull ..
@[simp] theorem raiseCore_copy : (raiseCore s c code sev cls idx d).copy = s.copy := by unfold raiseCore; exact raise_copy ..
@[simp] theorem raiseCore_podFwd : (raiseCore s c code sev cls idx d).podFwd = s.podFwd := by unfold raiseCore; exact raise_podFwd ..
@[simp] theorem raiseCore_podPost : (raiseCore s c code sev cls idx d).podPost = s.podPost := by unfold raiseCore; exact raise_podPost ..
@[simp] theorem raiseCore_staged : (raiseCore s c code sev cls idx d).staged = s.staged := by unfold raiseCore; exact raise_staged ..
@[simp] theorem raiseCore_img : (raiseCore s c code sev cls idx d).img = s.img := by unfold raiseCore; exact raise_img ..
@[simp] theorem raiseCore_ran : (raiseCore s c code sev cls idx d).ran = s.ran := by unfold raiseCore; exact raise_ran ..
@[simp] theorem raiseCore_keys : (raiseCore s c code sev cls idx d).keys = s.keys := by unfold raiseCore; exact raise_keys ..
@[simp] theorem raiseCore_kcmd : (raiseCore s c code sev cls idx d).kcmd = s.kcmd := by unfold raiseCore; exact raise_kcmd ..
@[simp] theorem raiseCore_polled : (raiseCore s c code sev cls idx d).polled = s.polled := by unfold raiseCore; exact raise_polled ..
@[simp] theorem raiseCore_kick : (raiseCore s c code sev cls idx d).kick = s.kick := by unfold raiseCore; exact raise_kick ..
@[simp] theorem raiseCore_logLevel : (raiseCore s c code sev cls idx d).logLevel = s.logLevel := by unfold raiseCore; exact raise_logLevel ..
@[simp] theorem raiseCore_tqs : (raiseCore s c code sev cls idx d).tqs = s.tqs := by unfold raiseCore; exact raise_tqs ..
@[simp] theorem raiseCore_stall : (raiseCore s c code sev cls idx d).stall = s.stall := by unfold raiseCore; exact raise_stall ..
@[simp] theorem raiseCore_coldDue : (raiseCore s c code sev cls idx d).coldDue = s.coldDue := by unfold raiseCore; exact raise_coldDue ..
@[simp] theorem raiseCore_rstn : (raiseCore s c code sev cls idx d).rstn = s.rstn := by unfold raiseCore; exact raise_rstn ..
@[simp] theorem raiseCore_pwrGood : (raiseCore s c code sev cls idx d).pwrGood = s.pwrGood := by unfold raiseCore; exact raise_pwrGood ..
@[simp] theorem raiseCore_thermtrip : (raiseCore s c code sev cls idx d).thermtrip = s.thermtrip := by unfold raiseCore; exact raise_thermtrip ..
@[simp] theorem raiseCore_boot : (raiseCore s c code sev cls idx d).boot = s.boot := by unfold raiseCore; exact raise_boot ..
@[simp] theorem raiseCore_jtag : (raiseCore s c code sev cls idx d).jtag = s.jtag := by unfold raiseCore; exact raise_jtag ..
@[simp] theorem raiseCore_jtagDrive : (raiseCore s c code sev cls idx d).jtagDrive = s.jtagDrive := by unfold raiseCore; exact raise_jtagDrive ..
@[simp] theorem raiseCore_accts : (raiseCore s c code sev cls idx d).accts = s.accts := by unfold raiseCore; exact raise_accts ..
@[simp] theorem raiseCore_acctAt : (raiseCore s c code sev cls idx d).acctAt = s.acctAt := by unfold raiseCore; exact raise_acctAt ..
end

/-! ### raiseTile -/
section
variable (c code sev : Nat) (d : List (Nat × Nat × Nat))
@[simp] theorem raiseTile_pending : (raiseTile s c code sev d).pending = s.pending := by unfold raiseTile; exact raiseCore_pending ..
@[simp] theorem raiseTile_phase : (raiseTile s c code sev d).phase = s.phase := by unfold raiseTile; exact raiseCore_phase ..
@[simp] theorem raiseTile_regs : (raiseTile s c code sev d).regs = s.regs := by unfold raiseTile; exact raiseCore_regs ..
@[simp] theorem raiseTile_mem : (raiseTile s c code sev d).mem = s.mem := by unfold raiseTile; exact raiseCore_mem ..
@[simp] theorem raiseTile_ecc : (raiseTile s c code sev d).ecc = s.ecc := by unfold raiseTile; exact raiseCore_ecc ..
@[simp] theorem raiseTile_sec : (raiseTile s c code sev d).sec = s.sec := by unfold raiseTile; exact raiseCore_sec ..
@[simp] theorem raiseTile_uncSec : (raiseTile s c code sev d).uncSec = s.uncSec := by unfold raiseTile; exact raiseCore_uncSec ..
@[simp] theorem raiseTile_patCorr : (raiseTile s c code sev d).patCorr = s.patCorr := by unfold raiseTile; exact raiseCore_patCorr ..
@[simp] theorem raiseTile_cores : (raiseTile s c code sev d).cores = s.cores := by unfold raiseTile; exact raiseCore_cores ..
@[simp] theorem raiseTile_chans : (raiseTile s c code sev d).chans = s.chans := by unfold raiseTile; exact raiseCore_chans ..
@[simp] theorem raiseTile_dbanks : (raiseTile s c code sev d).dbanks = s.dbanks := by unfold raiseTile; exact raiseCore_dbanks ..
@[simp] theorem raiseTile_acts : (raiseTile s c code sev d).acts = s.acts := by unfold raiseTile; exact raiseCore_acts ..
@[simp] theorem raiseTile_jobs : (raiseTile s c code sev d).jobs = s.jobs := by unfold raiseTile; exact raiseCore_jobs ..
@[simp] theorem raiseTile_nextJob : (raiseTile s c code sev d).nextJob = s.nextJob := by unfold raiseTile; exact raiseCore_nextJob ..
@[simp] theorem raiseTile_free : (raiseTile s c code sev d).free = s.free := by unfold raiseTile; exact raiseCore_free ..
@[simp] theorem raiseTile_wearMark : (raiseTile s c code sev d).wearMark = s.wearMark := by unfold raiseTile; exact raiseCore_wearMark ..
@[simp] theorem raiseTile_tileMark : (raiseTile s c code sev d).tileMark = s.tileMark := by unfold raiseTile; exact raiseCore_tileMark ..
@[simp] theorem raiseTile_sent : (raiseTile s c code sev d).sent = s.sent := by unfold raiseTile; exact raiseCore_sent ..
@[simp] theorem raiseTile_strmTab : (raiseTile s c code sev d).strmTab = s.strmTab := by unfold raiseTile; exact raiseCore_strmTab ..
@[simp] theorem raiseTile_strmPend : (raiseTile s c code sev d).strmPend = s.strmPend := by unfold raiseTile; exact raiseCore_strmPend ..
@[simp] theorem raiseTile_home : (raiseTile s c code sev d).home = s.home := by unfold raiseTile; exact raiseCore_home ..
@[simp] theorem raiseTile_fritRefs : (raiseTile s c code sev d).fritRefs = s.fritRefs := by unfold raiseTile; exact raiseCore_fritRefs ..
@[simp] theorem raiseTile_fritDelta : (raiseTile s c code sev d).fritDelta = s.fritDelta := by unfold raiseTile; exact raiseCore_fritDelta ..
@[simp] theorem raiseTile_repairCand : (raiseTile s c code sev d).repairCand = s.repairCand := by unfold raiseTile; exact raiseCore_repairCand ..
@[simp] theorem raiseTile_candSecs : (raiseTile s c code sev d).candSecs = s.candSecs := by unfold raiseTile; exact raiseCore_candSecs ..
@[simp] theorem raiseTile_spareRows : (raiseTile s c code sev d).spareRows = s.spareRows := by unfold raiseTile; exact raiseCore_spareRows ..
@[simp] theorem raiseTile_flights : (raiseTile s c code sev d).flights = s.flights := by unfold raiseTile; exact raiseCore_flights ..
@[simp] theorem raiseTile_bins : (raiseTile s c code sev d).bins = s.bins := by unfold raiseTile; exact raiseCore_bins ..
@[simp] theorem raiseTile_bbusy : (raiseTile s c code sev d).bbusy = s.bbusy := by unfold raiseTile; exact raiseCore_bbusy ..
@[simp] theorem raiseTile_bseq : (raiseTile s c code sev d).bseq = s.bseq := by unfold raiseTile; exact raiseCore_bseq ..
@[simp] theorem raiseTile_brx : (raiseTile s c code sev d).brx = s.brx := by unfold raiseTile; exact raiseCore_brx ..
@[simp] theorem raiseTile_slotBad : (raiseTile s c code sev d).slotBad = s.slotBad := by unfold raiseTile; exact raiseCore_slotBad ..
@[simp] theorem raiseTile_links : (raiseTile s c code sev d).links = s.links := by unfold raiseTile; exact raiseCore_links ..
@[simp] theorem raiseTile_sysIn : (raiseTile s c code sev d).sysIn = s.sysIn := by unfold raiseTile; exact raiseCore_sysIn ..
@[simp] theorem raiseTile_tether : (raiseTile s c code sev d).tether = s.tether := by unfold raiseTile; exact raiseCore_tether ..
@[simp] theorem raiseTile_rootIn : (raiseTile s c code sev d).rootIn = s.rootIn := by unfold raiseTile; exact raiseCore_rootIn ..
@[simp] theorem raiseTile_shown : (raiseTile s c code sev d).shown = s.shown := by unfold raiseTile; exact raiseCore_shown ..
@[simp] theorem raiseTile_voteLinks : (raiseTile s c code sev d).voteLinks = s.voteLinks := by unfold raiseTile; exact raiseCore_voteLinks ..
@[simp] theorem raiseTile_evicted : (raiseTile s c code sev d).evicted = s.evicted := by unfold raiseTile; exact raiseCore_evicted ..
@[simp] theorem raiseTile_yawRef : (raiseTile s c code sev d).yawRef = s.yawRef := by unfold raiseTile; exact raiseCore_yawRef ..
@[simp] theorem raiseTile_yawCrl : (raiseTile s c code sev d).yawCrl = s.yawCrl := by unfold raiseTile; exact raiseCore_yawCrl ..
@[simp] theorem raiseTile_yawTake : (raiseTile s c code sev d).yawTake = s.yawTake := by unfold raiseTile; exact raiseCore_yawTake ..
@[simp] theorem raiseTile_thermal : (raiseTile s c code sev d).thermal = s.thermal := by unfold raiseTile; exact raiseCore_thermal ..
@[simp] theorem raiseTile_narrow : (raiseTile s c code sev d).narrow = s.narrow := by unfold raiseTile; exact raiseCore_narrow ..
@[simp] theorem raiseTile_rops : (raiseTile s c code sev d).rops = s.rops := by unfold raiseTile; exact raiseCore_rops ..
@[simp] theorem raiseTile_rwins : (raiseTile s c code sev d).rwins = s.rwins := by unfold raiseTile; exact raiseCore_rwins ..
@[simp] theorem raiseTile_punits : (raiseTile s c code sev d).punits = s.punits := by unfold raiseTile; exact raiseCore_punits ..
@[simp] theorem raiseTile_owners : (raiseTile s c code sev d).owners = s.owners := by unfold raiseTile; exact raiseCore_owners ..
@[simp] theorem raiseTile_causes : (raiseTile s c code sev d).causes = s.causes := by unfold raiseTile; exact raiseCore_causes ..
@[simp] theorem raiseTile_ranges : (raiseTile s c code sev d).ranges = s.ranges := by unfold raiseTile; exact raiseCore_ranges ..
@[simp] theorem raiseTile_twinPend : (raiseTile s c code sev d).twinPend = s.twinPend := by unfold raiseTile; exact raiseCore_twinPend ..
@[simp] theorem raiseTile_flash : (raiseTile s c code sev d).flash = s.flash := by unfold raiseTile; exact raiseCore_flash ..
@[simp] theorem raiseTile_stageAt : (raiseTile s c code sev d).stageAt = s.stageAt := by unfold raiseTile; exact raiseCore_stageAt ..
@[simp] theorem raiseTile_ucie : (raiseTile s c code sev d).ucie = s.ucie := by unfold raiseTile; exact raiseCore_ucie ..
@[simp] theorem raiseTile_fired : (raiseTile s c code sev d).fired = s.fired := by unfold raiseTile; exact raiseCore_fired ..
@[simp] theorem raiseTile_mirrorBad : (raiseTile s c code sev d).mirrorBad = s.mirrorBad := by unfold raiseTile; exact raiseCore_mirrorBad ..
@[simp] theorem raiseTile_routes : (raiseTile s c code sev d).routes = s.routes := by unfold raiseTile; exact raiseCore_routes ..
@[simp] theorem raiseTile_train : (raiseTile s c code sev d).train = s.train := by unfold raiseTile; exact raiseCore_train ..
@[simp] theorem raiseTile_srvs : (raiseTile s c code sev d).srvs = s.srvs := by unfold raiseTile; exact raiseCore_srvs ..
@[simp] theorem raiseTile_envKeys : (raiseTile s c code sev d).envKeys = s.envKeys := by unfold raiseTile; exact raiseCore_envKeys ..
@[simp] theorem raiseTile_listed : (raiseTile s c code sev d).listed = s.listed := by unfold raiseTile; exact raiseCore_listed ..
@[simp] theorem raiseTile_heldStreams : (raiseTile s c code sev d).heldStreams = s.heldStreams := by unfold raiseTile; exact raiseCore_heldStreams ..
@[simp] theorem raiseTile_crl : (raiseTile s c code sev d).crl = s.crl := by unfold raiseTile; exact raiseCore_crl ..
@[simp] theorem raiseTile_electors : (raiseTile s c code sev d).electors = s.electors := by unfold raiseTile; exact raiseCore_electors ..
@[simp] theorem raiseTile_actTab : (raiseTile s c code sev d).actTab = s.actTab := by unfold raiseTile; exact raiseCore_actTab ..
@[simp] theorem raiseTile_takeHomes : (raiseTile s c code sev d).takeHomes = s.takeHomes := by unfold raiseTile; exact raiseCore_takeHomes ..
@[simp] theorem raiseTile_heldLeft : (raiseTile s c code sev d).heldLeft = s.heldLeft := by unfold raiseTile; exact raiseCore_heldLeft ..
@[simp] theorem raiseTile_relays : (raiseTile s c code sev d).relays = s.relays := by unfold raiseTile; exact raiseCore_relays ..
@[simp] theorem raiseTile_relayC : (raiseTile s c code sev d).relayC = s.relayC := by unfold raiseTile; exact raiseCore_relayC ..
@[simp] theorem raiseTile_hwins : (raiseTile s c code sev d).hwins = s.hwins := by unfold raiseTile; exact raiseCore_hwins ..
@[simp] theorem raiseTile_shadow : (raiseTile s c code sev d).shadow = s.shadow := by unfold raiseTile; exact raiseCore_shadow ..
@[simp] theorem raiseTile_xfers : (raiseTile s c code sev d).xfers = s.xfers := by unfold raiseTile; exact raiseCore_xfers ..
@[simp] theorem raiseTile_hfull : (raiseTile s c code sev d).hfull = s.hfull := by unfold raiseTile; exact raiseCore_hfull ..
@[simp] theorem raiseTile_copy : (raiseTile s c code sev d).copy = s.copy := by unfold raiseTile; exact raiseCore_copy ..
@[simp] theorem raiseTile_podFwd : (raiseTile s c code sev d).podFwd = s.podFwd := by unfold raiseTile; exact raiseCore_podFwd ..
@[simp] theorem raiseTile_podPost : (raiseTile s c code sev d).podPost = s.podPost := by unfold raiseTile; exact raiseCore_podPost ..
@[simp] theorem raiseTile_staged : (raiseTile s c code sev d).staged = s.staged := by unfold raiseTile; exact raiseCore_staged ..
@[simp] theorem raiseTile_img : (raiseTile s c code sev d).img = s.img := by unfold raiseTile; exact raiseCore_img ..
@[simp] theorem raiseTile_ran : (raiseTile s c code sev d).ran = s.ran := by unfold raiseTile; exact raiseCore_ran ..
@[simp] theorem raiseTile_keys : (raiseTile s c code sev d).keys = s.keys := by unfold raiseTile; exact raiseCore_keys ..
@[simp] theorem raiseTile_kcmd : (raiseTile s c code sev d).kcmd = s.kcmd := by unfold raiseTile; exact raiseCore_kcmd ..
@[simp] theorem raiseTile_polled : (raiseTile s c code sev d).polled = s.polled := by unfold raiseTile; exact raiseCore_polled ..
@[simp] theorem raiseTile_kick : (raiseTile s c code sev d).kick = s.kick := by unfold raiseTile; exact raiseCore_kick ..
@[simp] theorem raiseTile_logLevel : (raiseTile s c code sev d).logLevel = s.logLevel := by unfold raiseTile; exact raiseCore_logLevel ..
@[simp] theorem raiseTile_tqs : (raiseTile s c code sev d).tqs = s.tqs := by unfold raiseTile; exact raiseCore_tqs ..
@[simp] theorem raiseTile_stall : (raiseTile s c code sev d).stall = s.stall := by unfold raiseTile; exact raiseCore_stall ..
@[simp] theorem raiseTile_coldDue : (raiseTile s c code sev d).coldDue = s.coldDue := by unfold raiseTile; exact raiseCore_coldDue ..
@[simp] theorem raiseTile_rstn : (raiseTile s c code sev d).rstn = s.rstn := by unfold raiseTile; exact raiseCore_rstn ..
@[simp] theorem raiseTile_pwrGood : (raiseTile s c code sev d).pwrGood = s.pwrGood := by unfold raiseTile; exact raiseCore_pwrGood ..
@[simp] theorem raiseTile_thermtrip : (raiseTile s c code sev d).thermtrip = s.thermtrip := by unfold raiseTile; exact raiseCore_thermtrip ..
@[simp] theorem raiseTile_boot : (raiseTile s c code sev d).boot = s.boot := by unfold raiseTile; exact raiseCore_boot ..
@[simp] theorem raiseTile_jtag : (raiseTile s c code sev d).jtag = s.jtag := by unfold raiseTile; exact raiseCore_jtag ..
@[simp] theorem raiseTile_jtagDrive : (raiseTile s c code sev d).jtagDrive = s.jtagDrive := by unfold raiseTile; exact raiseCore_jtagDrive ..
@[simp] theorem raiseTile_accts : (raiseTile s c code sev d).accts = s.accts := by unfold raiseTile; exact raiseCore_accts ..
@[simp] theorem raiseTile_acctAt : (raiseTile s c code sev d).acctAt = s.acctAt := by unfold raiseTile; exact raiseCore_acctAt ..
end

/-! ### raiseEng -/
section
variable (c e code sev : Nat) (d : List (Nat × Nat × Nat))
@[simp] theorem raiseEng_pending : (raiseEng s c e code sev d).pending = s.pending := by unfold raiseEng; exact raiseCore_pending ..
@[simp] theorem raiseEng_phase : (raiseEng s c e code sev d).phase = s.phase := by unfold raiseEng; exact raiseCore_phase ..
@[simp] theorem raiseEng_regs : (raiseEng s c e code sev d).regs = s.regs := by unfold raiseEng; exact raiseCore_regs ..
@[simp] theorem raiseEng_mem : (raiseEng s c e code sev d).mem = s.mem := by unfold raiseEng; exact raiseCore_mem ..
@[simp] theorem raiseEng_ecc : (raiseEng s c e code sev d).ecc = s.ecc := by unfold raiseEng; exact raiseCore_ecc ..
@[simp] theorem raiseEng_sec : (raiseEng s c e code sev d).sec = s.sec := by unfold raiseEng; exact raiseCore_sec ..
@[simp] theorem raiseEng_uncSec : (raiseEng s c e code sev d).uncSec = s.uncSec := by unfold raiseEng; exact raiseCore_uncSec ..
@[simp] theorem raiseEng_patCorr : (raiseEng s c e code sev d).patCorr = s.patCorr := by unfold raiseEng; exact raiseCore_patCorr ..
@[simp] theorem raiseEng_cores : (raiseEng s c e code sev d).cores = s.cores := by unfold raiseEng; exact raiseCore_cores ..
@[simp] theorem raiseEng_chans : (raiseEng s c e code sev d).chans = s.chans := by unfold raiseEng; exact raiseCore_chans ..
@[simp] theorem raiseEng_dbanks : (raiseEng s c e code sev d).dbanks = s.dbanks := by unfold raiseEng; exact raiseCore_dbanks ..
@[simp] theorem raiseEng_acts : (raiseEng s c e code sev d).acts = s.acts := by unfold raiseEng; exact raiseCore_acts ..
@[simp] theorem raiseEng_jobs : (raiseEng s c e code sev d).jobs = s.jobs := by unfold raiseEng; exact raiseCore_jobs ..
@[simp] theorem raiseEng_nextJob : (raiseEng s c e code sev d).nextJob = s.nextJob := by unfold raiseEng; exact raiseCore_nextJob ..
@[simp] theorem raiseEng_free : (raiseEng s c e code sev d).free = s.free := by unfold raiseEng; exact raiseCore_free ..
@[simp] theorem raiseEng_wearMark : (raiseEng s c e code sev d).wearMark = s.wearMark := by unfold raiseEng; exact raiseCore_wearMark ..
@[simp] theorem raiseEng_tileMark : (raiseEng s c e code sev d).tileMark = s.tileMark := by unfold raiseEng; exact raiseCore_tileMark ..
@[simp] theorem raiseEng_sent : (raiseEng s c e code sev d).sent = s.sent := by unfold raiseEng; exact raiseCore_sent ..
@[simp] theorem raiseEng_strmTab : (raiseEng s c e code sev d).strmTab = s.strmTab := by unfold raiseEng; exact raiseCore_strmTab ..
@[simp] theorem raiseEng_strmPend : (raiseEng s c e code sev d).strmPend = s.strmPend := by unfold raiseEng; exact raiseCore_strmPend ..
@[simp] theorem raiseEng_home : (raiseEng s c e code sev d).home = s.home := by unfold raiseEng; exact raiseCore_home ..
@[simp] theorem raiseEng_fritRefs : (raiseEng s c e code sev d).fritRefs = s.fritRefs := by unfold raiseEng; exact raiseCore_fritRefs ..
@[simp] theorem raiseEng_fritDelta : (raiseEng s c e code sev d).fritDelta = s.fritDelta := by unfold raiseEng; exact raiseCore_fritDelta ..
@[simp] theorem raiseEng_repairCand : (raiseEng s c e code sev d).repairCand = s.repairCand := by unfold raiseEng; exact raiseCore_repairCand ..
@[simp] theorem raiseEng_candSecs : (raiseEng s c e code sev d).candSecs = s.candSecs := by unfold raiseEng; exact raiseCore_candSecs ..
@[simp] theorem raiseEng_spareRows : (raiseEng s c e code sev d).spareRows = s.spareRows := by unfold raiseEng; exact raiseCore_spareRows ..
@[simp] theorem raiseEng_flights : (raiseEng s c e code sev d).flights = s.flights := by unfold raiseEng; exact raiseCore_flights ..
@[simp] theorem raiseEng_bins : (raiseEng s c e code sev d).bins = s.bins := by unfold raiseEng; exact raiseCore_bins ..
@[simp] theorem raiseEng_bbusy : (raiseEng s c e code sev d).bbusy = s.bbusy := by unfold raiseEng; exact raiseCore_bbusy ..
@[simp] theorem raiseEng_bseq : (raiseEng s c e code sev d).bseq = s.bseq := by unfold raiseEng; exact raiseCore_bseq ..
@[simp] theorem raiseEng_brx : (raiseEng s c e code sev d).brx = s.brx := by unfold raiseEng; exact raiseCore_brx ..
@[simp] theorem raiseEng_slotBad : (raiseEng s c e code sev d).slotBad = s.slotBad := by unfold raiseEng; exact raiseCore_slotBad ..
@[simp] theorem raiseEng_links : (raiseEng s c e code sev d).links = s.links := by unfold raiseEng; exact raiseCore_links ..
@[simp] theorem raiseEng_sysIn : (raiseEng s c e code sev d).sysIn = s.sysIn := by unfold raiseEng; exact raiseCore_sysIn ..
@[simp] theorem raiseEng_tether : (raiseEng s c e code sev d).tether = s.tether := by unfold raiseEng; exact raiseCore_tether ..
@[simp] theorem raiseEng_rootIn : (raiseEng s c e code sev d).rootIn = s.rootIn := by unfold raiseEng; exact raiseCore_rootIn ..
@[simp] theorem raiseEng_shown : (raiseEng s c e code sev d).shown = s.shown := by unfold raiseEng; exact raiseCore_shown ..
@[simp] theorem raiseEng_voteLinks : (raiseEng s c e code sev d).voteLinks = s.voteLinks := by unfold raiseEng; exact raiseCore_voteLinks ..
@[simp] theorem raiseEng_evicted : (raiseEng s c e code sev d).evicted = s.evicted := by unfold raiseEng; exact raiseCore_evicted ..
@[simp] theorem raiseEng_yawRef : (raiseEng s c e code sev d).yawRef = s.yawRef := by unfold raiseEng; exact raiseCore_yawRef ..
@[simp] theorem raiseEng_yawCrl : (raiseEng s c e code sev d).yawCrl = s.yawCrl := by unfold raiseEng; exact raiseCore_yawCrl ..
@[simp] theorem raiseEng_yawTake : (raiseEng s c e code sev d).yawTake = s.yawTake := by unfold raiseEng; exact raiseCore_yawTake ..
@[simp] theorem raiseEng_thermal : (raiseEng s c e code sev d).thermal = s.thermal := by unfold raiseEng; exact raiseCore_thermal ..
@[simp] theorem raiseEng_narrow : (raiseEng s c e code sev d).narrow = s.narrow := by unfold raiseEng; exact raiseCore_narrow ..
@[simp] theorem raiseEng_rops : (raiseEng s c e code sev d).rops = s.rops := by unfold raiseEng; exact raiseCore_rops ..
@[simp] theorem raiseEng_rwins : (raiseEng s c e code sev d).rwins = s.rwins := by unfold raiseEng; exact raiseCore_rwins ..
@[simp] theorem raiseEng_punits : (raiseEng s c e code sev d).punits = s.punits := by unfold raiseEng; exact raiseCore_punits ..
@[simp] theorem raiseEng_owners : (raiseEng s c e code sev d).owners = s.owners := by unfold raiseEng; exact raiseCore_owners ..
@[simp] theorem raiseEng_causes : (raiseEng s c e code sev d).causes = s.causes := by unfold raiseEng; exact raiseCore_causes ..
@[simp] theorem raiseEng_ranges : (raiseEng s c e code sev d).ranges = s.ranges := by unfold raiseEng; exact raiseCore_ranges ..
@[simp] theorem raiseEng_twinPend : (raiseEng s c e code sev d).twinPend = s.twinPend := by unfold raiseEng; exact raiseCore_twinPend ..
@[simp] theorem raiseEng_flash : (raiseEng s c e code sev d).flash = s.flash := by unfold raiseEng; exact raiseCore_flash ..
@[simp] theorem raiseEng_stageAt : (raiseEng s c e code sev d).stageAt = s.stageAt := by unfold raiseEng; exact raiseCore_stageAt ..
@[simp] theorem raiseEng_ucie : (raiseEng s c e code sev d).ucie = s.ucie := by unfold raiseEng; exact raiseCore_ucie ..
@[simp] theorem raiseEng_fired : (raiseEng s c e code sev d).fired = s.fired := by unfold raiseEng; exact raiseCore_fired ..
@[simp] theorem raiseEng_mirrorBad : (raiseEng s c e code sev d).mirrorBad = s.mirrorBad := by unfold raiseEng; exact raiseCore_mirrorBad ..
@[simp] theorem raiseEng_routes : (raiseEng s c e code sev d).routes = s.routes := by unfold raiseEng; exact raiseCore_routes ..
@[simp] theorem raiseEng_train : (raiseEng s c e code sev d).train = s.train := by unfold raiseEng; exact raiseCore_train ..
@[simp] theorem raiseEng_srvs : (raiseEng s c e code sev d).srvs = s.srvs := by unfold raiseEng; exact raiseCore_srvs ..
@[simp] theorem raiseEng_envKeys : (raiseEng s c e code sev d).envKeys = s.envKeys := by unfold raiseEng; exact raiseCore_envKeys ..
@[simp] theorem raiseEng_listed : (raiseEng s c e code sev d).listed = s.listed := by unfold raiseEng; exact raiseCore_listed ..
@[simp] theorem raiseEng_heldStreams : (raiseEng s c e code sev d).heldStreams = s.heldStreams := by unfold raiseEng; exact raiseCore_heldStreams ..
@[simp] theorem raiseEng_crl : (raiseEng s c e code sev d).crl = s.crl := by unfold raiseEng; exact raiseCore_crl ..
@[simp] theorem raiseEng_electors : (raiseEng s c e code sev d).electors = s.electors := by unfold raiseEng; exact raiseCore_electors ..
@[simp] theorem raiseEng_actTab : (raiseEng s c e code sev d).actTab = s.actTab := by unfold raiseEng; exact raiseCore_actTab ..
@[simp] theorem raiseEng_takeHomes : (raiseEng s c e code sev d).takeHomes = s.takeHomes := by unfold raiseEng; exact raiseCore_takeHomes ..
@[simp] theorem raiseEng_heldLeft : (raiseEng s c e code sev d).heldLeft = s.heldLeft := by unfold raiseEng; exact raiseCore_heldLeft ..
@[simp] theorem raiseEng_relays : (raiseEng s c e code sev d).relays = s.relays := by unfold raiseEng; exact raiseCore_relays ..
@[simp] theorem raiseEng_relayC : (raiseEng s c e code sev d).relayC = s.relayC := by unfold raiseEng; exact raiseCore_relayC ..
@[simp] theorem raiseEng_hwins : (raiseEng s c e code sev d).hwins = s.hwins := by unfold raiseEng; exact raiseCore_hwins ..
@[simp] theorem raiseEng_shadow : (raiseEng s c e code sev d).shadow = s.shadow := by unfold raiseEng; exact raiseCore_shadow ..
@[simp] theorem raiseEng_xfers : (raiseEng s c e code sev d).xfers = s.xfers := by unfold raiseEng; exact raiseCore_xfers ..
@[simp] theorem raiseEng_hfull : (raiseEng s c e code sev d).hfull = s.hfull := by unfold raiseEng; exact raiseCore_hfull ..
@[simp] theorem raiseEng_copy : (raiseEng s c e code sev d).copy = s.copy := by unfold raiseEng; exact raiseCore_copy ..
@[simp] theorem raiseEng_podFwd : (raiseEng s c e code sev d).podFwd = s.podFwd := by unfold raiseEng; exact raiseCore_podFwd ..
@[simp] theorem raiseEng_podPost : (raiseEng s c e code sev d).podPost = s.podPost := by unfold raiseEng; exact raiseCore_podPost ..
@[simp] theorem raiseEng_staged : (raiseEng s c e code sev d).staged = s.staged := by unfold raiseEng; exact raiseCore_staged ..
@[simp] theorem raiseEng_img : (raiseEng s c e code sev d).img = s.img := by unfold raiseEng; exact raiseCore_img ..
@[simp] theorem raiseEng_ran : (raiseEng s c e code sev d).ran = s.ran := by unfold raiseEng; exact raiseCore_ran ..
@[simp] theorem raiseEng_keys : (raiseEng s c e code sev d).keys = s.keys := by unfold raiseEng; exact raiseCore_keys ..
@[simp] theorem raiseEng_kcmd : (raiseEng s c e code sev d).kcmd = s.kcmd := by unfold raiseEng; exact raiseCore_kcmd ..
@[simp] theorem raiseEng_polled : (raiseEng s c e code sev d).polled = s.polled := by unfold raiseEng; exact raiseCore_polled ..
@[simp] theorem raiseEng_kick : (raiseEng s c e code sev d).kick = s.kick := by unfold raiseEng; exact raiseCore_kick ..
@[simp] theorem raiseEng_logLevel : (raiseEng s c e code sev d).logLevel = s.logLevel := by unfold raiseEng; exact raiseCore_logLevel ..
@[simp] theorem raiseEng_tqs : (raiseEng s c e code sev d).tqs = s.tqs := by unfold raiseEng; exact raiseCore_tqs ..
@[simp] theorem raiseEng_stall : (raiseEng s c e code sev d).stall = s.stall := by unfold raiseEng; exact raiseCore_stall ..
@[simp] theorem raiseEng_coldDue : (raiseEng s c e code sev d).coldDue = s.coldDue := by unfold raiseEng; exact raiseCore_coldDue ..
@[simp] theorem raiseEng_rstn : (raiseEng s c e code sev d).rstn = s.rstn := by unfold raiseEng; exact raiseCore_rstn ..
@[simp] theorem raiseEng_pwrGood : (raiseEng s c e code sev d).pwrGood = s.pwrGood := by unfold raiseEng; exact raiseCore_pwrGood ..
@[simp] theorem raiseEng_thermtrip : (raiseEng s c e code sev d).thermtrip = s.thermtrip := by unfold raiseEng; exact raiseCore_thermtrip ..
@[simp] theorem raiseEng_boot : (raiseEng s c e code sev d).boot = s.boot := by unfold raiseEng; exact raiseCore_boot ..
@[simp] theorem raiseEng_jtag : (raiseEng s c e code sev d).jtag = s.jtag := by unfold raiseEng; exact raiseCore_jtag ..
@[simp] theorem raiseEng_jtagDrive : (raiseEng s c e code sev d).jtagDrive = s.jtagDrive := by unfold raiseEng; exact raiseCore_jtagDrive ..
@[simp] theorem raiseEng_accts : (raiseEng s c e code sev d).accts = s.accts := by unfold raiseEng; exact raiseCore_accts ..
@[simp] theorem raiseEng_acctAt : (raiseEng s c e code sev d).acctAt = s.acctAt := by unfold raiseEng; exact raiseCore_acctAt ..
end

/-! ### raiseTt -/
section
variable (code sev cls ix : Nat) (d : List (Nat × Nat × Nat))
@[simp] theorem raiseTt_pending : (raiseTt s code sev cls ix d).pending = s.pending := by unfold raiseTt; exact raise_pending ..
@[simp] theorem raiseTt_phase : (raiseTt s code sev cls ix d).phase = s.phase := by unfold raiseTt; exact raise_phase ..
@[simp] theorem raiseTt_regs : (raiseTt s code sev cls ix d).regs = s.regs := by unfold raiseTt; exact raise_regs ..
@[simp] theorem raiseTt_mem : (raiseTt s code sev cls ix d).mem = s.mem := by unfold raiseTt; exact raise_mem ..
@[simp] theorem raiseTt_ecc : (raiseTt s code sev cls ix d).ecc = s.ecc := by unfold raiseTt; exact raise_ecc ..
@[simp] theorem raiseTt_sec : (raiseTt s code sev cls ix d).sec = s.sec := by unfold raiseTt; exact raise_sec ..
@[simp] theorem raiseTt_uncSec : (raiseTt s code sev cls ix d).uncSec = s.uncSec := by unfold raiseTt; exact raise_uncSec ..
@[simp] theorem raiseTt_patCorr : (raiseTt s code sev cls ix d).patCorr = s.patCorr := by unfold raiseTt; exact raise_patCorr ..
@[simp] theorem raiseTt_cores : (raiseTt s code sev cls ix d).cores = s.cores := by unfold raiseTt; exact raise_cores ..
@[simp] theorem raiseTt_chans : (raiseTt s code sev cls ix d).chans = s.chans := by unfold raiseTt; exact raise_chans ..
@[simp] theorem raiseTt_dbanks : (raiseTt s code sev cls ix d).dbanks = s.dbanks := by unfold raiseTt; exact raise_dbanks ..
@[simp] theorem raiseTt_acts : (raiseTt s code sev cls ix d).acts = s.acts := by unfold raiseTt; exact raise_acts ..
@[simp] theorem raiseTt_jobs : (raiseTt s code sev cls ix d).jobs = s.jobs := by unfold raiseTt; exact raise_jobs ..
@[simp] theorem raiseTt_nextJob : (raiseTt s code sev cls ix d).nextJob = s.nextJob := by unfold raiseTt; exact raise_nextJob ..
@[simp] theorem raiseTt_free : (raiseTt s code sev cls ix d).free = s.free := by unfold raiseTt; exact raise_free ..
@[simp] theorem raiseTt_wearMark : (raiseTt s code sev cls ix d).wearMark = s.wearMark := by unfold raiseTt; exact raise_wearMark ..
@[simp] theorem raiseTt_tileMark : (raiseTt s code sev cls ix d).tileMark = s.tileMark := by unfold raiseTt; exact raise_tileMark ..
@[simp] theorem raiseTt_sent : (raiseTt s code sev cls ix d).sent = s.sent := by unfold raiseTt; exact raise_sent ..
@[simp] theorem raiseTt_strmTab : (raiseTt s code sev cls ix d).strmTab = s.strmTab := by unfold raiseTt; exact raise_strmTab ..
@[simp] theorem raiseTt_strmPend : (raiseTt s code sev cls ix d).strmPend = s.strmPend := by unfold raiseTt; exact raise_strmPend ..
@[simp] theorem raiseTt_home : (raiseTt s code sev cls ix d).home = s.home := by unfold raiseTt; exact raise_home ..
@[simp] theorem raiseTt_fritRefs : (raiseTt s code sev cls ix d).fritRefs = s.fritRefs := by unfold raiseTt; exact raise_fritRefs ..
@[simp] theorem raiseTt_fritDelta : (raiseTt s code sev cls ix d).fritDelta = s.fritDelta := by unfold raiseTt; exact raise_fritDelta ..
@[simp] theorem raiseTt_repairCand : (raiseTt s code sev cls ix d).repairCand = s.repairCand := by unfold raiseTt; exact raise_repairCand ..
@[simp] theorem raiseTt_candSecs : (raiseTt s code sev cls ix d).candSecs = s.candSecs := by unfold raiseTt; exact raise_candSecs ..
@[simp] theorem raiseTt_spareRows : (raiseTt s code sev cls ix d).spareRows = s.spareRows := by unfold raiseTt; exact raise_spareRows ..
@[simp] theorem raiseTt_flights : (raiseTt s code sev cls ix d).flights = s.flights := by unfold raiseTt; exact raise_flights ..
@[simp] theorem raiseTt_bins : (raiseTt s code sev cls ix d).bins = s.bins := by unfold raiseTt; exact raise_bins ..
@[simp] theorem raiseTt_bbusy : (raiseTt s code sev cls ix d).bbusy = s.bbusy := by unfold raiseTt; exact raise_bbusy ..
@[simp] theorem raiseTt_bseq : (raiseTt s code sev cls ix d).bseq = s.bseq := by unfold raiseTt; exact raise_bseq ..
@[simp] theorem raiseTt_brx : (raiseTt s code sev cls ix d).brx = s.brx := by unfold raiseTt; exact raise_brx ..
@[simp] theorem raiseTt_slotBad : (raiseTt s code sev cls ix d).slotBad = s.slotBad := by unfold raiseTt; exact raise_slotBad ..
@[simp] theorem raiseTt_links : (raiseTt s code sev cls ix d).links = s.links := by unfold raiseTt; exact raise_links ..
@[simp] theorem raiseTt_sysIn : (raiseTt s code sev cls ix d).sysIn = s.sysIn := by unfold raiseTt; exact raise_sysIn ..
@[simp] theorem raiseTt_tether : (raiseTt s code sev cls ix d).tether = s.tether := by unfold raiseTt; exact raise_tether ..
@[simp] theorem raiseTt_rootIn : (raiseTt s code sev cls ix d).rootIn = s.rootIn := by unfold raiseTt; exact raise_rootIn ..
@[simp] theorem raiseTt_shown : (raiseTt s code sev cls ix d).shown = s.shown := by unfold raiseTt; exact raise_shown ..
@[simp] theorem raiseTt_voteLinks : (raiseTt s code sev cls ix d).voteLinks = s.voteLinks := by unfold raiseTt; exact raise_voteLinks ..
@[simp] theorem raiseTt_evicted : (raiseTt s code sev cls ix d).evicted = s.evicted := by unfold raiseTt; exact raise_evicted ..
@[simp] theorem raiseTt_yawRef : (raiseTt s code sev cls ix d).yawRef = s.yawRef := by unfold raiseTt; exact raise_yawRef ..
@[simp] theorem raiseTt_yawCrl : (raiseTt s code sev cls ix d).yawCrl = s.yawCrl := by unfold raiseTt; exact raise_yawCrl ..
@[simp] theorem raiseTt_yawTake : (raiseTt s code sev cls ix d).yawTake = s.yawTake := by unfold raiseTt; exact raise_yawTake ..
@[simp] theorem raiseTt_thermal : (raiseTt s code sev cls ix d).thermal = s.thermal := by unfold raiseTt; exact raise_thermal ..
@[simp] theorem raiseTt_narrow : (raiseTt s code sev cls ix d).narrow = s.narrow := by unfold raiseTt; exact raise_narrow ..
@[simp] theorem raiseTt_rops : (raiseTt s code sev cls ix d).rops = s.rops := by unfold raiseTt; exact raise_rops ..
@[simp] theorem raiseTt_rwins : (raiseTt s code sev cls ix d).rwins = s.rwins := by unfold raiseTt; exact raise_rwins ..
@[simp] theorem raiseTt_punits : (raiseTt s code sev cls ix d).punits = s.punits := by unfold raiseTt; exact raise_punits ..
@[simp] theorem raiseTt_owners : (raiseTt s code sev cls ix d).owners = s.owners := by unfold raiseTt; exact raise_owners ..
@[simp] theorem raiseTt_causes : (raiseTt s code sev cls ix d).causes = s.causes := by unfold raiseTt; exact raise_causes ..
@[simp] theorem raiseTt_ranges : (raiseTt s code sev cls ix d).ranges = s.ranges := by unfold raiseTt; exact raise_ranges ..
@[simp] theorem raiseTt_twinPend : (raiseTt s code sev cls ix d).twinPend = s.twinPend := by unfold raiseTt; exact raise_twinPend ..
@[simp] theorem raiseTt_flash : (raiseTt s code sev cls ix d).flash = s.flash := by unfold raiseTt; exact raise_flash ..
@[simp] theorem raiseTt_stageAt : (raiseTt s code sev cls ix d).stageAt = s.stageAt := by unfold raiseTt; exact raise_stageAt ..
@[simp] theorem raiseTt_ucie : (raiseTt s code sev cls ix d).ucie = s.ucie := by unfold raiseTt; exact raise_ucie ..
@[simp] theorem raiseTt_fired : (raiseTt s code sev cls ix d).fired = s.fired := by unfold raiseTt; exact raise_fired ..
@[simp] theorem raiseTt_mirrorBad : (raiseTt s code sev cls ix d).mirrorBad = s.mirrorBad := by unfold raiseTt; exact raise_mirrorBad ..
@[simp] theorem raiseTt_routes : (raiseTt s code sev cls ix d).routes = s.routes := by unfold raiseTt; exact raise_routes ..
@[simp] theorem raiseTt_train : (raiseTt s code sev cls ix d).train = s.train := by unfold raiseTt; exact raise_train ..
@[simp] theorem raiseTt_srvs : (raiseTt s code sev cls ix d).srvs = s.srvs := by unfold raiseTt; exact raise_srvs ..
@[simp] theorem raiseTt_envKeys : (raiseTt s code sev cls ix d).envKeys = s.envKeys := by unfold raiseTt; exact raise_envKeys ..
@[simp] theorem raiseTt_listed : (raiseTt s code sev cls ix d).listed = s.listed := by unfold raiseTt; exact raise_listed ..
@[simp] theorem raiseTt_heldStreams : (raiseTt s code sev cls ix d).heldStreams = s.heldStreams := by unfold raiseTt; exact raise_heldStreams ..
@[simp] theorem raiseTt_crl : (raiseTt s code sev cls ix d).crl = s.crl := by unfold raiseTt; exact raise_crl ..
@[simp] theorem raiseTt_electors : (raiseTt s code sev cls ix d).electors = s.electors := by unfold raiseTt; exact raise_electors ..
@[simp] theorem raiseTt_actTab : (raiseTt s code sev cls ix d).actTab = s.actTab := by unfold raiseTt; exact raise_actTab ..
@[simp] theorem raiseTt_takeHomes : (raiseTt s code sev cls ix d).takeHomes = s.takeHomes := by unfold raiseTt; exact raise_takeHomes ..
@[simp] theorem raiseTt_heldLeft : (raiseTt s code sev cls ix d).heldLeft = s.heldLeft := by unfold raiseTt; exact raise_heldLeft ..
@[simp] theorem raiseTt_relays : (raiseTt s code sev cls ix d).relays = s.relays := by unfold raiseTt; exact raise_relays ..
@[simp] theorem raiseTt_relayC : (raiseTt s code sev cls ix d).relayC = s.relayC := by unfold raiseTt; exact raise_relayC ..
@[simp] theorem raiseTt_hwins : (raiseTt s code sev cls ix d).hwins = s.hwins := by unfold raiseTt; exact raise_hwins ..
@[simp] theorem raiseTt_shadow : (raiseTt s code sev cls ix d).shadow = s.shadow := by unfold raiseTt; exact raise_shadow ..
@[simp] theorem raiseTt_xfers : (raiseTt s code sev cls ix d).xfers = s.xfers := by unfold raiseTt; exact raise_xfers ..
@[simp] theorem raiseTt_hfull : (raiseTt s code sev cls ix d).hfull = s.hfull := by unfold raiseTt; exact raise_hfull ..
@[simp] theorem raiseTt_copy : (raiseTt s code sev cls ix d).copy = s.copy := by unfold raiseTt; exact raise_copy ..
@[simp] theorem raiseTt_podFwd : (raiseTt s code sev cls ix d).podFwd = s.podFwd := by unfold raiseTt; exact raise_podFwd ..
@[simp] theorem raiseTt_podPost : (raiseTt s code sev cls ix d).podPost = s.podPost := by unfold raiseTt; exact raise_podPost ..
@[simp] theorem raiseTt_staged : (raiseTt s code sev cls ix d).staged = s.staged := by unfold raiseTt; exact raise_staged ..
@[simp] theorem raiseTt_img : (raiseTt s code sev cls ix d).img = s.img := by unfold raiseTt; exact raise_img ..
@[simp] theorem raiseTt_ran : (raiseTt s code sev cls ix d).ran = s.ran := by unfold raiseTt; exact raise_ran ..
@[simp] theorem raiseTt_keys : (raiseTt s code sev cls ix d).keys = s.keys := by unfold raiseTt; exact raise_keys ..
@[simp] theorem raiseTt_kcmd : (raiseTt s code sev cls ix d).kcmd = s.kcmd := by unfold raiseTt; exact raise_kcmd ..
@[simp] theorem raiseTt_polled : (raiseTt s code sev cls ix d).polled = s.polled := by unfold raiseTt; exact raise_polled ..
@[simp] theorem raiseTt_kick : (raiseTt s code sev cls ix d).kick = s.kick := by unfold raiseTt; exact raise_kick ..
@[simp] theorem raiseTt_logLevel : (raiseTt s code sev cls ix d).logLevel = s.logLevel := by unfold raiseTt; exact raise_logLevel ..
@[simp] theorem raiseTt_tqs : (raiseTt s code sev cls ix d).tqs = s.tqs := by unfold raiseTt; exact raise_tqs ..
@[simp] theorem raiseTt_stall : (raiseTt s code sev cls ix d).stall = s.stall := by unfold raiseTt; exact raise_stall ..
@[simp] theorem raiseTt_coldDue : (raiseTt s code sev cls ix d).coldDue = s.coldDue := by unfold raiseTt; exact raise_coldDue ..
@[simp] theorem raiseTt_rstn : (raiseTt s code sev cls ix d).rstn = s.rstn := by unfold raiseTt; exact raise_rstn ..
@[simp] theorem raiseTt_pwrGood : (raiseTt s code sev cls ix d).pwrGood = s.pwrGood := by unfold raiseTt; exact raise_pwrGood ..
@[simp] theorem raiseTt_thermtrip : (raiseTt s code sev cls ix d).thermtrip = s.thermtrip := by unfold raiseTt; exact raise_thermtrip ..
@[simp] theorem raiseTt_boot : (raiseTt s code sev cls ix d).boot = s.boot := by unfold raiseTt; exact raise_boot ..
@[simp] theorem raiseTt_jtag : (raiseTt s code sev cls ix d).jtag = s.jtag := by unfold raiseTt; exact raise_jtag ..
@[simp] theorem raiseTt_jtagDrive : (raiseTt s code sev cls ix d).jtagDrive = s.jtagDrive := by unfold raiseTt; exact raise_jtagDrive ..
@[simp] theorem raiseTt_accts : (raiseTt s code sev cls ix d).accts = s.accts := by unfold raiseTt; exact raise_accts ..
@[simp] theorem raiseTt_acctAt : (raiseTt s code sev cls ix d).acctAt = s.acctAt := by unfold raiseTt; exact raise_acctAt ..
end

/-! ### modCore -/
section
variable (c : Nat) (f : Core → Core)
@[simp] theorem modCore_pending : (modCore s c f).pending = s.pending := by unfold modCore; rfl
@[simp] theorem modCore_phase : (modCore s c f).phase = s.phase := by unfold modCore; rfl
@[simp] theorem modCore_regs : (modCore s c f).regs = s.regs := by unfold modCore; rfl
@[simp] theorem modCore_mem : (modCore s c f).mem = s.mem := by unfold modCore; rfl
@[simp] theorem modCore_ecc : (modCore s c f).ecc = s.ecc := by unfold modCore; rfl
@[simp] theorem modCore_sec : (modCore s c f).sec = s.sec := by unfold modCore; rfl
@[simp] theorem modCore_uncSec : (modCore s c f).uncSec = s.uncSec := by unfold modCore; rfl
@[simp] theorem modCore_patCorr : (modCore s c f).patCorr = s.patCorr := by unfold modCore; rfl
@[simp] theorem modCore_chans : (modCore s c f).chans = s.chans := by unfold modCore; rfl
@[simp] theorem modCore_dbanks : (modCore s c f).dbanks = s.dbanks := by unfold modCore; rfl
@[simp] theorem modCore_acts : (modCore s c f).acts = s.acts := by unfold modCore; rfl
@[simp] theorem modCore_jobs : (modCore s c f).jobs = s.jobs := by unfold modCore; rfl
@[simp] theorem modCore_nextJob : (modCore s c f).nextJob = s.nextJob := by unfold modCore; rfl
@[simp] theorem modCore_free : (modCore s c f).free = s.free := by unfold modCore; rfl
@[simp] theorem modCore_faults : (modCore s c f).faults = s.faults := by unfold modCore; rfl
@[simp] theorem modCore_wearMark : (modCore s c f).wearMark = s.wearMark := by unfold modCore; rfl
@[simp] theorem modCore_tileMark : (modCore s c f).tileMark = s.tileMark := by unfold modCore; rfl
@[simp] theorem modCore_halted : (modCore s c f).halted = s.halted := by unfold modCore; rfl
@[simp] theorem modCore_evacuate : (modCore s c f).evacuate = s.evacuate := by unfold modCore; rfl
@[simp] theorem modCore_vote : (modCore s c f).vote = s.vote := by unfold modCore; rfl
@[simp] theorem modCore_sent : (modCore s c f).sent = s.sent := by unfold modCore; rfl
@[simp] theorem modCore_strmTab : (modCore s c f).strmTab = s.strmTab := by unfold modCore; rfl
@[simp] theorem modCore_strmPend : (modCore s c f).strmPend = s.strmPend := by unfold modCore; rfl
@[simp] theorem modCore_home : (modCore s c f).home = s.home := by unfold modCore; rfl
@[simp] theorem modCore_fritRefs : (modCore s c f).fritRefs = s.fritRefs := by unfold modCore; rfl
@[simp] theorem modCore_fritDelta : (modCore s c f).fritDelta = s.fritDelta := by unfold modCore; rfl
@[simp] theorem modCore_repairCand : (modCore s c f).repairCand = s.repairCand := by unfold modCore; rfl
@[simp] theorem modCore_candSecs : (modCore s c f).candSecs = s.candSecs := by unfold modCore; rfl
@[simp] theorem modCore_spareRows : (modCore s c f).spareRows = s.spareRows := by unfold modCore; rfl
@[simp] theorem modCore_flights : (modCore s c f).flights = s.flights := by unfold modCore; rfl
@[simp] theorem modCore_bins : (modCore s c f).bins = s.bins := by unfold modCore; rfl
@[simp] theorem modCore_bbusy : (modCore s c f).bbusy = s.bbusy := by unfold modCore; rfl
@[simp] theorem modCore_bseq : (modCore s c f).bseq = s.bseq := by unfold modCore; rfl
@[simp] theorem modCore_brx : (modCore s c f).brx = s.brx := by unfold modCore; rfl
@[simp] theorem modCore_slotBad : (modCore s c f).slotBad = s.slotBad := by unfold modCore; rfl
@[simp] theorem modCore_links : (modCore s c f).links = s.links := by unfold modCore; rfl
@[simp] theorem modCore_sysIn : (modCore s c f).sysIn = s.sysIn := by unfold modCore; rfl
@[simp] theorem modCore_tether : (modCore s c f).tether = s.tether := by unfold modCore; rfl
@[simp] theorem modCore_rootIn : (modCore s c f).rootIn = s.rootIn := by unfold modCore; rfl
@[simp] theorem modCore_shown : (modCore s c f).shown = s.shown := by unfold modCore; rfl
@[simp] theorem modCore_voteLinks : (modCore s c f).voteLinks = s.voteLinks := by unfold modCore; rfl
@[simp] theorem modCore_evicted : (modCore s c f).evicted = s.evicted := by unfold modCore; rfl
@[simp] theorem modCore_yawRef : (modCore s c f).yawRef = s.yawRef := by unfold modCore; rfl
@[simp] theorem modCore_yawCrl : (modCore s c f).yawCrl = s.yawCrl := by unfold modCore; rfl
@[simp] theorem modCore_yawTake : (modCore s c f).yawTake = s.yawTake := by unfold modCore; rfl
@[simp] theorem modCore_thermal : (modCore s c f).thermal = s.thermal := by unfold modCore; rfl
@[simp] theorem modCore_narrow : (modCore s c f).narrow = s.narrow := by unfold modCore; rfl
@[simp] theorem modCore_rops : (modCore s c f).rops = s.rops := by unfold modCore; rfl
@[simp] theorem modCore_rwins : (modCore s c f).rwins = s.rwins := by unfold modCore; rfl
@[simp] theorem modCore_punits : (modCore s c f).punits = s.punits := by unfold modCore; rfl
@[simp] theorem modCore_owners : (modCore s c f).owners = s.owners := by unfold modCore; rfl
@[simp] theorem modCore_causes : (modCore s c f).causes = s.causes := by unfold modCore; rfl
@[simp] theorem modCore_ranges : (modCore s c f).ranges = s.ranges := by unfold modCore; rfl
@[simp] theorem modCore_twinPend : (modCore s c f).twinPend = s.twinPend := by unfold modCore; rfl
@[simp] theorem modCore_flash : (modCore s c f).flash = s.flash := by unfold modCore; rfl
@[simp] theorem modCore_stageAt : (modCore s c f).stageAt = s.stageAt := by unfold modCore; rfl
@[simp] theorem modCore_ucie : (modCore s c f).ucie = s.ucie := by unfold modCore; rfl
@[simp] theorem modCore_fired : (modCore s c f).fired = s.fired := by unfold modCore; rfl
@[simp] theorem modCore_mirrorBad : (modCore s c f).mirrorBad = s.mirrorBad := by unfold modCore; rfl
@[simp] theorem modCore_routes : (modCore s c f).routes = s.routes := by unfold modCore; rfl
@[simp] theorem modCore_train : (modCore s c f).train = s.train := by unfold modCore; rfl
@[simp] theorem modCore_srvs : (modCore s c f).srvs = s.srvs := by unfold modCore; rfl
@[simp] theorem modCore_envKeys : (modCore s c f).envKeys = s.envKeys := by unfold modCore; rfl
@[simp] theorem modCore_listed : (modCore s c f).listed = s.listed := by unfold modCore; rfl
@[simp] theorem modCore_heldStreams : (modCore s c f).heldStreams = s.heldStreams := by unfold modCore; rfl
@[simp] theorem modCore_crl : (modCore s c f).crl = s.crl := by unfold modCore; rfl
@[simp] theorem modCore_electors : (modCore s c f).electors = s.electors := by unfold modCore; rfl
@[simp] theorem modCore_actTab : (modCore s c f).actTab = s.actTab := by unfold modCore; rfl
@[simp] theorem modCore_takeHomes : (modCore s c f).takeHomes = s.takeHomes := by unfold modCore; rfl
@[simp] theorem modCore_heldLeft : (modCore s c f).heldLeft = s.heldLeft := by unfold modCore; rfl
@[simp] theorem modCore_relays : (modCore s c f).relays = s.relays := by unfold modCore; rfl
@[simp] theorem modCore_relayC : (modCore s c f).relayC = s.relayC := by unfold modCore; rfl
@[simp] theorem modCore_hwins : (modCore s c f).hwins = s.hwins := by unfold modCore; rfl
@[simp] theorem modCore_shadow : (modCore s c f).shadow = s.shadow := by unfold modCore; rfl
@[simp] theorem modCore_xfers : (modCore s c f).xfers = s.xfers := by unfold modCore; rfl
@[simp] theorem modCore_hfull : (modCore s c f).hfull = s.hfull := by unfold modCore; rfl
@[simp] theorem modCore_copy : (modCore s c f).copy = s.copy := by unfold modCore; rfl
@[simp] theorem modCore_podFwd : (modCore s c f).podFwd = s.podFwd := by unfold modCore; rfl
@[simp] theorem modCore_podPost : (modCore s c f).podPost = s.podPost := by unfold modCore; rfl
@[simp] theorem modCore_staged : (modCore s c f).staged = s.staged := by unfold modCore; rfl
@[simp] theorem modCore_img : (modCore s c f).img = s.img := by unfold modCore; rfl
@[simp] theorem modCore_ran : (modCore s c f).ran = s.ran := by unfold modCore; rfl
@[simp] theorem modCore_keys : (modCore s c f).keys = s.keys := by unfold modCore; rfl
@[simp] theorem modCore_kcmd : (modCore s c f).kcmd = s.kcmd := by unfold modCore; rfl
@[simp] theorem modCore_polled : (modCore s c f).polled = s.polled := by unfold modCore; rfl
@[simp] theorem modCore_kick : (modCore s c f).kick = s.kick := by unfold modCore; rfl
@[simp] theorem modCore_logLevel : (modCore s c f).logLevel = s.logLevel := by unfold modCore; rfl
@[simp] theorem modCore_tqs : (modCore s c f).tqs = s.tqs := by unfold modCore; rfl
@[simp] theorem modCore_stall : (modCore s c f).stall = s.stall := by unfold modCore; rfl
@[simp] theorem modCore_coldDue : (modCore s c f).coldDue = s.coldDue := by unfold modCore; rfl
@[simp] theorem modCore_rstn : (modCore s c f).rstn = s.rstn := by unfold modCore; rfl
@[simp] theorem modCore_pwrGood : (modCore s c f).pwrGood = s.pwrGood := by unfold modCore; rfl
@[simp] theorem modCore_thermtrip : (modCore s c f).thermtrip = s.thermtrip := by unfold modCore; rfl
@[simp] theorem modCore_boot : (modCore s c f).boot = s.boot := by unfold modCore; rfl
@[simp] theorem modCore_jtag : (modCore s c f).jtag = s.jtag := by unfold modCore; rfl
@[simp] theorem modCore_jtagDrive : (modCore s c f).jtagDrive = s.jtagDrive := by unfold modCore; rfl
@[simp] theorem modCore_accts : (modCore s c f).accts = s.accts := by unfold modCore; rfl
@[simp] theorem modCore_acctAt : (modCore s c f).acctAt = s.acctAt := by unfold modCore; rfl
end

/-! ### modStrm -/
section
variable (c k : Nat) (f : Stream → Stream)
@[simp] theorem modStrm_pending : (modStrm s c k f).pending = s.pending := by unfold modStrm; exact modCore_pending ..
@[simp] theorem modStrm_phase : (modStrm s c k f).phase = s.phase := by unfold modStrm; exact modCore_phase ..
@[simp] theorem modStrm_regs : (modStrm s c k f).regs = s.regs := by unfold modStrm; exact modCore_regs ..
@[simp] theorem modStrm_mem : (modStrm s c k f).mem = s.mem := by unfold modStrm; exact modCore_mem ..
@[simp] theorem modStrm_ecc : (modStrm s c k f).ecc = s.ecc := by unfold modStrm; exact modCore_ecc ..
@[simp] theorem modStrm_sec : (modStrm s c k f).sec = s.sec := by unfold modStrm; exact modCore_sec ..
@[simp] theorem modStrm_uncSec : (modStrm s c k f).uncSec = s.uncSec := by unfold modStrm; exact modCore_uncSec ..
@[simp] theorem modStrm_patCorr : (modStrm s c k f).patCorr = s.patCorr := by unfold modStrm; exact modCore_patCorr ..
@[simp] theorem modStrm_chans : (modStrm s c k f).chans = s.chans := by unfold modStrm; exact modCore_chans ..
@[simp] theorem modStrm_dbanks : (modStrm s c k f).dbanks = s.dbanks := by unfold modStrm; exact modCore_dbanks ..
@[simp] theorem modStrm_acts : (modStrm s c k f).acts = s.acts := by unfold modStrm; exact modCore_acts ..
@[simp] theorem modStrm_jobs : (modStrm s c k f).jobs = s.jobs := by unfold modStrm; exact modCore_jobs ..
@[simp] theorem modStrm_nextJob : (modStrm s c k f).nextJob = s.nextJob := by unfold modStrm; exact modCore_nextJob ..
@[simp] theorem modStrm_free : (modStrm s c k f).free = s.free := by unfold modStrm; exact modCore_free ..
@[simp] theorem modStrm_faults : (modStrm s c k f).faults = s.faults := by unfold modStrm; exact modCore_faults ..
@[simp] theorem modStrm_wearMark : (modStrm s c k f).wearMark = s.wearMark := by unfold modStrm; exact modCore_wearMark ..
@[simp] theorem modStrm_tileMark : (modStrm s c k f).tileMark = s.tileMark := by unfold modStrm; exact modCore_tileMark ..
@[simp] theorem modStrm_halted : (modStrm s c k f).halted = s.halted := by unfold modStrm; exact modCore_halted ..
@[simp] theorem modStrm_evacuate : (modStrm s c k f).evacuate = s.evacuate := by unfold modStrm; exact modCore_evacuate ..
@[simp] theorem modStrm_vote : (modStrm s c k f).vote = s.vote := by unfold modStrm; exact modCore_vote ..
@[simp] theorem modStrm_sent : (modStrm s c k f).sent = s.sent := by unfold modStrm; exact modCore_sent ..
@[simp] theorem modStrm_strmTab : (modStrm s c k f).strmTab = s.strmTab := by unfold modStrm; exact modCore_strmTab ..
@[simp] theorem modStrm_strmPend : (modStrm s c k f).strmPend = s.strmPend := by unfold modStrm; exact modCore_strmPend ..
@[simp] theorem modStrm_home : (modStrm s c k f).home = s.home := by unfold modStrm; exact modCore_home ..
@[simp] theorem modStrm_fritRefs : (modStrm s c k f).fritRefs = s.fritRefs := by unfold modStrm; exact modCore_fritRefs ..
@[simp] theorem modStrm_fritDelta : (modStrm s c k f).fritDelta = s.fritDelta := by unfold modStrm; exact modCore_fritDelta ..
@[simp] theorem modStrm_repairCand : (modStrm s c k f).repairCand = s.repairCand := by unfold modStrm; exact modCore_repairCand ..
@[simp] theorem modStrm_candSecs : (modStrm s c k f).candSecs = s.candSecs := by unfold modStrm; exact modCore_candSecs ..
@[simp] theorem modStrm_spareRows : (modStrm s c k f).spareRows = s.spareRows := by unfold modStrm; exact modCore_spareRows ..
@[simp] theorem modStrm_flights : (modStrm s c k f).flights = s.flights := by unfold modStrm; exact modCore_flights ..
@[simp] theorem modStrm_bins : (modStrm s c k f).bins = s.bins := by unfold modStrm; exact modCore_bins ..
@[simp] theorem modStrm_bbusy : (modStrm s c k f).bbusy = s.bbusy := by unfold modStrm; exact modCore_bbusy ..
@[simp] theorem modStrm_bseq : (modStrm s c k f).bseq = s.bseq := by unfold modStrm; exact modCore_bseq ..
@[simp] theorem modStrm_brx : (modStrm s c k f).brx = s.brx := by unfold modStrm; exact modCore_brx ..
@[simp] theorem modStrm_slotBad : (modStrm s c k f).slotBad = s.slotBad := by unfold modStrm; exact modCore_slotBad ..
@[simp] theorem modStrm_links : (modStrm s c k f).links = s.links := by unfold modStrm; exact modCore_links ..
@[simp] theorem modStrm_sysIn : (modStrm s c k f).sysIn = s.sysIn := by unfold modStrm; exact modCore_sysIn ..
@[simp] theorem modStrm_tether : (modStrm s c k f).tether = s.tether := by unfold modStrm; exact modCore_tether ..
@[simp] theorem modStrm_rootIn : (modStrm s c k f).rootIn = s.rootIn := by unfold modStrm; exact modCore_rootIn ..
@[simp] theorem modStrm_shown : (modStrm s c k f).shown = s.shown := by unfold modStrm; exact modCore_shown ..
@[simp] theorem modStrm_voteLinks : (modStrm s c k f).voteLinks = s.voteLinks := by unfold modStrm; exact modCore_voteLinks ..
@[simp] theorem modStrm_evicted : (modStrm s c k f).evicted = s.evicted := by unfold modStrm; exact modCore_evicted ..
@[simp] theorem modStrm_yawRef : (modStrm s c k f).yawRef = s.yawRef := by unfold modStrm; exact modCore_yawRef ..
@[simp] theorem modStrm_yawCrl : (modStrm s c k f).yawCrl = s.yawCrl := by unfold modStrm; exact modCore_yawCrl ..
@[simp] theorem modStrm_yawTake : (modStrm s c k f).yawTake = s.yawTake := by unfold modStrm; exact modCore_yawTake ..
@[simp] theorem modStrm_thermal : (modStrm s c k f).thermal = s.thermal := by unfold modStrm; exact modCore_thermal ..
@[simp] theorem modStrm_narrow : (modStrm s c k f).narrow = s.narrow := by unfold modStrm; exact modCore_narrow ..
@[simp] theorem modStrm_rops : (modStrm s c k f).rops = s.rops := by unfold modStrm; exact modCore_rops ..
@[simp] theorem modStrm_rwins : (modStrm s c k f).rwins = s.rwins := by unfold modStrm; exact modCore_rwins ..
@[simp] theorem modStrm_punits : (modStrm s c k f).punits = s.punits := by unfold modStrm; exact modCore_punits ..
@[simp] theorem modStrm_owners : (modStrm s c k f).owners = s.owners := by unfold modStrm; exact modCore_owners ..
@[simp] theorem modStrm_causes : (modStrm s c k f).causes = s.causes := by unfold modStrm; exact modCore_causes ..
@[simp] theorem modStrm_ranges : (modStrm s c k f).ranges = s.ranges := by unfold modStrm; exact modCore_ranges ..
@[simp] theorem modStrm_twinPend : (modStrm s c k f).twinPend = s.twinPend := by unfold modStrm; exact modCore_twinPend ..
@[simp] theorem modStrm_flash : (modStrm s c k f).flash = s.flash := by unfold modStrm; exact modCore_flash ..
@[simp] theorem modStrm_stageAt : (modStrm s c k f).stageAt = s.stageAt := by unfold modStrm; exact modCore_stageAt ..
@[simp] theorem modStrm_ucie : (modStrm s c k f).ucie = s.ucie := by unfold modStrm; exact modCore_ucie ..
@[simp] theorem modStrm_fired : (modStrm s c k f).fired = s.fired := by unfold modStrm; exact modCore_fired ..
@[simp] theorem modStrm_mirrorBad : (modStrm s c k f).mirrorBad = s.mirrorBad := by unfold modStrm; exact modCore_mirrorBad ..
@[simp] theorem modStrm_routes : (modStrm s c k f).routes = s.routes := by unfold modStrm; exact modCore_routes ..
@[simp] theorem modStrm_train : (modStrm s c k f).train = s.train := by unfold modStrm; exact modCore_train ..
@[simp] theorem modStrm_srvs : (modStrm s c k f).srvs = s.srvs := by unfold modStrm; exact modCore_srvs ..
@[simp] theorem modStrm_envKeys : (modStrm s c k f).envKeys = s.envKeys := by unfold modStrm; exact modCore_envKeys ..
@[simp] theorem modStrm_listed : (modStrm s c k f).listed = s.listed := by unfold modStrm; exact modCore_listed ..
@[simp] theorem modStrm_heldStreams : (modStrm s c k f).heldStreams = s.heldStreams := by unfold modStrm; exact modCore_heldStreams ..
@[simp] theorem modStrm_crl : (modStrm s c k f).crl = s.crl := by unfold modStrm; exact modCore_crl ..
@[simp] theorem modStrm_electors : (modStrm s c k f).electors = s.electors := by unfold modStrm; exact modCore_electors ..
@[simp] theorem modStrm_actTab : (modStrm s c k f).actTab = s.actTab := by unfold modStrm; exact modCore_actTab ..
@[simp] theorem modStrm_takeHomes : (modStrm s c k f).takeHomes = s.takeHomes := by unfold modStrm; exact modCore_takeHomes ..
@[simp] theorem modStrm_heldLeft : (modStrm s c k f).heldLeft = s.heldLeft := by unfold modStrm; exact modCore_heldLeft ..
@[simp] theorem modStrm_relays : (modStrm s c k f).relays = s.relays := by unfold modStrm; exact modCore_relays ..
@[simp] theorem modStrm_relayC : (modStrm s c k f).relayC = s.relayC := by unfold modStrm; exact modCore_relayC ..
@[simp] theorem modStrm_hwins : (modStrm s c k f).hwins = s.hwins := by unfold modStrm; exact modCore_hwins ..
@[simp] theorem modStrm_shadow : (modStrm s c k f).shadow = s.shadow := by unfold modStrm; exact modCore_shadow ..
@[simp] theorem modStrm_xfers : (modStrm s c k f).xfers = s.xfers := by unfold modStrm; exact modCore_xfers ..
@[simp] theorem modStrm_hfull : (modStrm s c k f).hfull = s.hfull := by unfold modStrm; exact modCore_hfull ..
@[simp] theorem modStrm_copy : (modStrm s c k f).copy = s.copy := by unfold modStrm; exact modCore_copy ..
@[simp] theorem modStrm_podFwd : (modStrm s c k f).podFwd = s.podFwd := by unfold modStrm; exact modCore_podFwd ..
@[simp] theorem modStrm_podPost : (modStrm s c k f).podPost = s.podPost := by unfold modStrm; exact modCore_podPost ..
@[simp] theorem modStrm_staged : (modStrm s c k f).staged = s.staged := by unfold modStrm; exact modCore_staged ..
@[simp] theorem modStrm_img : (modStrm s c k f).img = s.img := by unfold modStrm; exact modCore_img ..
@[simp] theorem modStrm_ran : (modStrm s c k f).ran = s.ran := by unfold modStrm; exact modCore_ran ..
@[simp] theorem modStrm_keys : (modStrm s c k f).keys = s.keys := by unfold modStrm; exact modCore_keys ..
@[simp] theorem modStrm_kcmd : (modStrm s c k f).kcmd = s.kcmd := by unfold modStrm; exact modCore_kcmd ..
@[simp] theorem modStrm_polled : (modStrm s c k f).polled = s.polled := by unfold modStrm; exact modCore_polled ..
@[simp] theorem modStrm_kick : (modStrm s c k f).kick = s.kick := by unfold modStrm; exact modCore_kick ..
@[simp] theorem modStrm_logLevel : (modStrm s c k f).logLevel = s.logLevel := by unfold modStrm; exact modCore_logLevel ..
@[simp] theorem modStrm_tqs : (modStrm s c k f).tqs = s.tqs := by unfold modStrm; exact modCore_tqs ..
@[simp] theorem modStrm_stall : (modStrm s c k f).stall = s.stall := by unfold modStrm; exact modCore_stall ..
@[simp] theorem modStrm_coldDue : (modStrm s c k f).coldDue = s.coldDue := by unfold modStrm; exact modCore_coldDue ..
@[simp] theorem modStrm_rstn : (modStrm s c k f).rstn = s.rstn := by unfold modStrm; exact modCore_rstn ..
@[simp] theorem modStrm_pwrGood : (modStrm s c k f).pwrGood = s.pwrGood := by unfold modStrm; exact modCore_pwrGood ..
@[simp] theorem modStrm_thermtrip : (modStrm s c k f).thermtrip = s.thermtrip := by unfold modStrm; exact modCore_thermtrip ..
@[simp] theorem modStrm_boot : (modStrm s c k f).boot = s.boot := by unfold modStrm; exact modCore_boot ..
@[simp] theorem modStrm_jtag : (modStrm s c k f).jtag = s.jtag := by unfold modStrm; exact modCore_jtag ..
@[simp] theorem modStrm_jtagDrive : (modStrm s c k f).jtagDrive = s.jtagDrive := by unfold modStrm; exact modCore_jtagDrive ..
@[simp] theorem modStrm_accts : (modStrm s c k f).accts = s.accts := by unfold modStrm; exact modCore_accts ..
@[simp] theorem modStrm_acctAt : (modStrm s c k f).acctAt = s.acctAt := by unfold modStrm; exact modCore_acctAt ..
end

/-! ### modQueue -/
section
variable (c b q : Nat) (f : Queue → Queue)
@[simp] theorem modQueue_pending : (modQueue s c b q f).pending = s.pending := by unfold modQueue; exact modCore_pending ..
@[simp] theorem modQueue_phase : (modQueue s c b q f).phase = s.phase := by unfold modQueue; exact modCore_phase ..
@[simp] theorem modQueue_regs : (modQueue s c b q f).regs = s.regs := by unfold modQueue; exact modCore_regs ..
@[simp] theorem modQueue_mem : (modQueue s c b q f).mem = s.mem := by unfold modQueue; exact modCore_mem ..
@[simp] theorem modQueue_ecc : (modQueue s c b q f).ecc = s.ecc := by unfold modQueue; exact modCore_ecc ..
@[simp] theorem modQueue_sec : (modQueue s c b q f).sec = s.sec := by unfold modQueue; exact modCore_sec ..
@[simp] theorem modQueue_uncSec : (modQueue s c b q f).uncSec = s.uncSec := by unfold modQueue; exact modCore_uncSec ..
@[simp] theorem modQueue_patCorr : (modQueue s c b q f).patCorr = s.patCorr := by unfold modQueue; exact modCore_patCorr ..
@[simp] theorem modQueue_chans : (modQueue s c b q f).chans = s.chans := by unfold modQueue; exact modCore_chans ..
@[simp] theorem modQueue_dbanks : (modQueue s c b q f).dbanks = s.dbanks := by unfold modQueue; exact modCore_dbanks ..
@[simp] theorem modQueue_acts : (modQueue s c b q f).acts = s.acts := by unfold modQueue; exact modCore_acts ..
@[simp] theorem modQueue_jobs : (modQueue s c b q f).jobs = s.jobs := by unfold modQueue; exact modCore_jobs ..
@[simp] theorem modQueue_nextJob : (modQueue s c b q f).nextJob = s.nextJob := by unfold modQueue; exact modCore_nextJob ..
@[simp] theorem modQueue_free : (modQueue s c b q f).free = s.free := by unfold modQueue; exact modCore_free ..
@[simp] theorem modQueue_faults : (modQueue s c b q f).faults = s.faults := by unfold modQueue; exact modCore_faults ..
@[simp] theorem modQueue_wearMark : (modQueue s c b q f).wearMark = s.wearMark := by unfold modQueue; exact modCore_wearMark ..
@[simp] theorem modQueue_tileMark : (modQueue s c b q f).tileMark = s.tileMark := by unfold modQueue; exact modCore_tileMark ..
@[simp] theorem modQueue_halted : (modQueue s c b q f).halted = s.halted := by unfold modQueue; exact modCore_halted ..
@[simp] theorem modQueue_evacuate : (modQueue s c b q f).evacuate = s.evacuate := by unfold modQueue; exact modCore_evacuate ..
@[simp] theorem modQueue_vote : (modQueue s c b q f).vote = s.vote := by unfold modQueue; exact modCore_vote ..
@[simp] theorem modQueue_sent : (modQueue s c b q f).sent = s.sent := by unfold modQueue; exact modCore_sent ..
@[simp] theorem modQueue_strmTab : (modQueue s c b q f).strmTab = s.strmTab := by unfold modQueue; exact modCore_strmTab ..
@[simp] theorem modQueue_strmPend : (modQueue s c b q f).strmPend = s.strmPend := by unfold modQueue; exact modCore_strmPend ..
@[simp] theorem modQueue_home : (modQueue s c b q f).home = s.home := by unfold modQueue; exact modCore_home ..
@[simp] theorem modQueue_fritRefs : (modQueue s c b q f).fritRefs = s.fritRefs := by unfold modQueue; exact modCore_fritRefs ..
@[simp] theorem modQueue_fritDelta : (modQueue s c b q f).fritDelta = s.fritDelta := by unfold modQueue; exact modCore_fritDelta ..
@[simp] theorem modQueue_repairCand : (modQueue s c b q f).repairCand = s.repairCand := by unfold modQueue; exact modCore_repairCand ..
@[simp] theorem modQueue_candSecs : (modQueue s c b q f).candSecs = s.candSecs := by unfold modQueue; exact modCore_candSecs ..
@[simp] theorem modQueue_spareRows : (modQueue s c b q f).spareRows = s.spareRows := by unfold modQueue; exact modCore_spareRows ..
@[simp] theorem modQueue_flights : (modQueue s c b q f).flights = s.flights := by unfold modQueue; exact modCore_flights ..
@[simp] theorem modQueue_bins : (modQueue s c b q f).bins = s.bins := by unfold modQueue; exact modCore_bins ..
@[simp] theorem modQueue_bbusy : (modQueue s c b q f).bbusy = s.bbusy := by unfold modQueue; exact modCore_bbusy ..
@[simp] theorem modQueue_bseq : (modQueue s c b q f).bseq = s.bseq := by unfold modQueue; exact modCore_bseq ..
@[simp] theorem modQueue_brx : (modQueue s c b q f).brx = s.brx := by unfold modQueue; exact modCore_brx ..
@[simp] theorem modQueue_slotBad : (modQueue s c b q f).slotBad = s.slotBad := by unfold modQueue; exact modCore_slotBad ..
@[simp] theorem modQueue_links : (modQueue s c b q f).links = s.links := by unfold modQueue; exact modCore_links ..
@[simp] theorem modQueue_sysIn : (modQueue s c b q f).sysIn = s.sysIn := by unfold modQueue; exact modCore_sysIn ..
@[simp] theorem modQueue_tether : (modQueue s c b q f).tether = s.tether := by unfold modQueue; exact modCore_tether ..
@[simp] theorem modQueue_rootIn : (modQueue s c b q f).rootIn = s.rootIn := by unfold modQueue; exact modCore_rootIn ..
@[simp] theorem modQueue_shown : (modQueue s c b q f).shown = s.shown := by unfold modQueue; exact modCore_shown ..
@[simp] theorem modQueue_voteLinks : (modQueue s c b q f).voteLinks = s.voteLinks := by unfold modQueue; exact modCore_voteLinks ..
@[simp] theorem modQueue_evicted : (modQueue s c b q f).evicted = s.evicted := by unfold modQueue; exact modCore_evicted ..
@[simp] theorem modQueue_yawRef : (modQueue s c b q f).yawRef = s.yawRef := by unfold modQueue; exact modCore_yawRef ..
@[simp] theorem modQueue_yawCrl : (modQueue s c b q f).yawCrl = s.yawCrl := by unfold modQueue; exact modCore_yawCrl ..
@[simp] theorem modQueue_yawTake : (modQueue s c b q f).yawTake = s.yawTake := by unfold modQueue; exact modCore_yawTake ..
@[simp] theorem modQueue_thermal : (modQueue s c b q f).thermal = s.thermal := by unfold modQueue; exact modCore_thermal ..
@[simp] theorem modQueue_narrow : (modQueue s c b q f).narrow = s.narrow := by unfold modQueue; exact modCore_narrow ..
@[simp] theorem modQueue_rops : (modQueue s c b q f).rops = s.rops := by unfold modQueue; exact modCore_rops ..
@[simp] theorem modQueue_rwins : (modQueue s c b q f).rwins = s.rwins := by unfold modQueue; exact modCore_rwins ..
@[simp] theorem modQueue_punits : (modQueue s c b q f).punits = s.punits := by unfold modQueue; exact modCore_punits ..
@[simp] theorem modQueue_owners : (modQueue s c b q f).owners = s.owners := by unfold modQueue; exact modCore_owners ..
@[simp] theorem modQueue_causes : (modQueue s c b q f).causes = s.causes := by unfold modQueue; exact modCore_causes ..
@[simp] theorem modQueue_ranges : (modQueue s c b q f).ranges = s.ranges := by unfold modQueue; exact modCore_ranges ..
@[simp] theorem modQueue_twinPend : (modQueue s c b q f).twinPend = s.twinPend := by unfold modQueue; exact modCore_twinPend ..
@[simp] theorem modQueue_flash : (modQueue s c b q f).flash = s.flash := by unfold modQueue; exact modCore_flash ..
@[simp] theorem modQueue_stageAt : (modQueue s c b q f).stageAt = s.stageAt := by unfold modQueue; exact modCore_stageAt ..
@[simp] theorem modQueue_ucie : (modQueue s c b q f).ucie = s.ucie := by unfold modQueue; exact modCore_ucie ..
@[simp] theorem modQueue_fired : (modQueue s c b q f).fired = s.fired := by unfold modQueue; exact modCore_fired ..
@[simp] theorem modQueue_mirrorBad : (modQueue s c b q f).mirrorBad = s.mirrorBad := by unfold modQueue; exact modCore_mirrorBad ..
@[simp] theorem modQueue_routes : (modQueue s c b q f).routes = s.routes := by unfold modQueue; exact modCore_routes ..
@[simp] theorem modQueue_train : (modQueue s c b q f).train = s.train := by unfold modQueue; exact modCore_train ..
@[simp] theorem modQueue_srvs : (modQueue s c b q f).srvs = s.srvs := by unfold modQueue; exact modCore_srvs ..
@[simp] theorem modQueue_envKeys : (modQueue s c b q f).envKeys = s.envKeys := by unfold modQueue; exact modCore_envKeys ..
@[simp] theorem modQueue_listed : (modQueue s c b q f).listed = s.listed := by unfold modQueue; exact modCore_listed ..
@[simp] theorem modQueue_heldStreams : (modQueue s c b q f).heldStreams = s.heldStreams := by unfold modQueue; exact modCore_heldStreams ..
@[simp] theorem modQueue_crl : (modQueue s c b q f).crl = s.crl := by unfold modQueue; exact modCore_crl ..
@[simp] theorem modQueue_electors : (modQueue s c b q f).electors = s.electors := by unfold modQueue; exact modCore_electors ..
@[simp] theorem modQueue_actTab : (modQueue s c b q f).actTab = s.actTab := by unfold modQueue; exact modCore_actTab ..
@[simp] theorem modQueue_takeHomes : (modQueue s c b q f).takeHomes = s.takeHomes := by unfold modQueue; exact modCore_takeHomes ..
@[simp] theorem modQueue_heldLeft : (modQueue s c b q f).heldLeft = s.heldLeft := by unfold modQueue; exact modCore_heldLeft ..
@[simp] theorem modQueue_relays : (modQueue s c b q f).relays = s.relays := by unfold modQueue; exact modCore_relays ..
@[simp] theorem modQueue_relayC : (modQueue s c b q f).relayC = s.relayC := by unfold modQueue; exact modCore_relayC ..
@[simp] theorem modQueue_hwins : (modQueue s c b q f).hwins = s.hwins := by unfold modQueue; exact modCore_hwins ..
@[simp] theorem modQueue_shadow : (modQueue s c b q f).shadow = s.shadow := by unfold modQueue; exact modCore_shadow ..
@[simp] theorem modQueue_xfers : (modQueue s c b q f).xfers = s.xfers := by unfold modQueue; exact modCore_xfers ..
@[simp] theorem modQueue_hfull : (modQueue s c b q f).hfull = s.hfull := by unfold modQueue; exact modCore_hfull ..
@[simp] theorem modQueue_copy : (modQueue s c b q f).copy = s.copy := by unfold modQueue; exact modCore_copy ..
@[simp] theorem modQueue_podFwd : (modQueue s c b q f).podFwd = s.podFwd := by unfold modQueue; exact modCore_podFwd ..
@[simp] theorem modQueue_podPost : (modQueue s c b q f).podPost = s.podPost := by unfold modQueue; exact modCore_podPost ..
@[simp] theorem modQueue_staged : (modQueue s c b q f).staged = s.staged := by unfold modQueue; exact modCore_staged ..
@[simp] theorem modQueue_img : (modQueue s c b q f).img = s.img := by unfold modQueue; exact modCore_img ..
@[simp] theorem modQueue_ran : (modQueue s c b q f).ran = s.ran := by unfold modQueue; exact modCore_ran ..
@[simp] theorem modQueue_keys : (modQueue s c b q f).keys = s.keys := by unfold modQueue; exact modCore_keys ..
@[simp] theorem modQueue_kcmd : (modQueue s c b q f).kcmd = s.kcmd := by unfold modQueue; exact modCore_kcmd ..
@[simp] theorem modQueue_polled : (modQueue s c b q f).polled = s.polled := by unfold modQueue; exact modCore_polled ..
@[simp] theorem modQueue_kick : (modQueue s c b q f).kick = s.kick := by unfold modQueue; exact modCore_kick ..
@[simp] theorem modQueue_logLevel : (modQueue s c b q f).logLevel = s.logLevel := by unfold modQueue; exact modCore_logLevel ..
@[simp] theorem modQueue_tqs : (modQueue s c b q f).tqs = s.tqs := by unfold modQueue; exact modCore_tqs ..
@[simp] theorem modQueue_stall : (modQueue s c b q f).stall = s.stall := by unfold modQueue; exact modCore_stall ..
@[simp] theorem modQueue_coldDue : (modQueue s c b q f).coldDue = s.coldDue := by unfold modQueue; exact modCore_coldDue ..
@[simp] theorem modQueue_rstn : (modQueue s c b q f).rstn = s.rstn := by unfold modQueue; exact modCore_rstn ..
@[simp] theorem modQueue_pwrGood : (modQueue s c b q f).pwrGood = s.pwrGood := by unfold modQueue; exact modCore_pwrGood ..
@[simp] theorem modQueue_thermtrip : (modQueue s c b q f).thermtrip = s.thermtrip := by unfold modQueue; exact modCore_thermtrip ..
@[simp] theorem modQueue_boot : (modQueue s c b q f).boot = s.boot := by unfold modQueue; exact modCore_boot ..
@[simp] theorem modQueue_jtag : (modQueue s c b q f).jtag = s.jtag := by unfold modQueue; exact modCore_jtag ..
@[simp] theorem modQueue_jtagDrive : (modQueue s c b q f).jtagDrive = s.jtagDrive := by unfold modQueue; exact modCore_jtagDrive ..
@[simp] theorem modQueue_accts : (modQueue s c b q f).accts = s.accts := by unfold modQueue; exact modCore_accts ..
@[simp] theorem modQueue_acctAt : (modQueue s c b q f).acctAt = s.acctAt := by unfold modQueue; exact modCore_acctAt ..
end

/-! ### setCcnt -/
section
variable (c k v : Nat)
@[simp] theorem setCcnt_pending : (setCcnt s c k v).pending = s.pending := by unfold setCcnt; exact modCore_pending ..
@[simp] theorem setCcnt_phase : (setCcnt s c k v).phase = s.phase := by unfold setCcnt; exact modCore_phase ..
@[simp] theorem setCcnt_regs : (setCcnt s c k v).regs = s.regs := by unfold setCcnt; exact modCore_regs ..
@[simp] theorem setCcnt_mem : (setCcnt s c k v).mem = s.mem := by unfold setCcnt; exact modCore_mem ..
@[simp] theorem setCcnt_ecc : (setCcnt s c k v).ecc = s.ecc := by unfold setCcnt; exact modCore_ecc ..
@[simp] theorem setCcnt_sec : (setCcnt s c k v).sec = s.sec := by unfold setCcnt; exact modCore_sec ..
@[simp] theorem setCcnt_uncSec : (setCcnt s c k v).uncSec = s.uncSec := by unfold setCcnt; exact modCore_uncSec ..
@[simp] theorem setCcnt_patCorr : (setCcnt s c k v).patCorr = s.patCorr := by unfold setCcnt; exact modCore_patCorr ..
@[simp] theorem setCcnt_chans : (setCcnt s c k v).chans = s.chans := by unfold setCcnt; exact modCore_chans ..
@[simp] theorem setCcnt_dbanks : (setCcnt s c k v).dbanks = s.dbanks := by unfold setCcnt; exact modCore_dbanks ..
@[simp] theorem setCcnt_acts : (setCcnt s c k v).acts = s.acts := by unfold setCcnt; exact modCore_acts ..
@[simp] theorem setCcnt_jobs : (setCcnt s c k v).jobs = s.jobs := by unfold setCcnt; exact modCore_jobs ..
@[simp] theorem setCcnt_nextJob : (setCcnt s c k v).nextJob = s.nextJob := by unfold setCcnt; exact modCore_nextJob ..
@[simp] theorem setCcnt_free : (setCcnt s c k v).free = s.free := by unfold setCcnt; exact modCore_free ..
@[simp] theorem setCcnt_faults : (setCcnt s c k v).faults = s.faults := by unfold setCcnt; exact modCore_faults ..
@[simp] theorem setCcnt_wearMark : (setCcnt s c k v).wearMark = s.wearMark := by unfold setCcnt; exact modCore_wearMark ..
@[simp] theorem setCcnt_tileMark : (setCcnt s c k v).tileMark = s.tileMark := by unfold setCcnt; exact modCore_tileMark ..
@[simp] theorem setCcnt_halted : (setCcnt s c k v).halted = s.halted := by unfold setCcnt; exact modCore_halted ..
@[simp] theorem setCcnt_evacuate : (setCcnt s c k v).evacuate = s.evacuate := by unfold setCcnt; exact modCore_evacuate ..
@[simp] theorem setCcnt_vote : (setCcnt s c k v).vote = s.vote := by unfold setCcnt; exact modCore_vote ..
@[simp] theorem setCcnt_sent : (setCcnt s c k v).sent = s.sent := by unfold setCcnt; exact modCore_sent ..
@[simp] theorem setCcnt_strmTab : (setCcnt s c k v).strmTab = s.strmTab := by unfold setCcnt; exact modCore_strmTab ..
@[simp] theorem setCcnt_strmPend : (setCcnt s c k v).strmPend = s.strmPend := by unfold setCcnt; exact modCore_strmPend ..
@[simp] theorem setCcnt_home : (setCcnt s c k v).home = s.home := by unfold setCcnt; exact modCore_home ..
@[simp] theorem setCcnt_fritRefs : (setCcnt s c k v).fritRefs = s.fritRefs := by unfold setCcnt; exact modCore_fritRefs ..
@[simp] theorem setCcnt_fritDelta : (setCcnt s c k v).fritDelta = s.fritDelta := by unfold setCcnt; exact modCore_fritDelta ..
@[simp] theorem setCcnt_repairCand : (setCcnt s c k v).repairCand = s.repairCand := by unfold setCcnt; exact modCore_repairCand ..
@[simp] theorem setCcnt_candSecs : (setCcnt s c k v).candSecs = s.candSecs := by unfold setCcnt; exact modCore_candSecs ..
@[simp] theorem setCcnt_spareRows : (setCcnt s c k v).spareRows = s.spareRows := by unfold setCcnt; exact modCore_spareRows ..
@[simp] theorem setCcnt_flights : (setCcnt s c k v).flights = s.flights := by unfold setCcnt; exact modCore_flights ..
@[simp] theorem setCcnt_bins : (setCcnt s c k v).bins = s.bins := by unfold setCcnt; exact modCore_bins ..
@[simp] theorem setCcnt_bbusy : (setCcnt s c k v).bbusy = s.bbusy := by unfold setCcnt; exact modCore_bbusy ..
@[simp] theorem setCcnt_bseq : (setCcnt s c k v).bseq = s.bseq := by unfold setCcnt; exact modCore_bseq ..
@[simp] theorem setCcnt_brx : (setCcnt s c k v).brx = s.brx := by unfold setCcnt; exact modCore_brx ..
@[simp] theorem setCcnt_slotBad : (setCcnt s c k v).slotBad = s.slotBad := by unfold setCcnt; exact modCore_slotBad ..
@[simp] theorem setCcnt_links : (setCcnt s c k v).links = s.links := by unfold setCcnt; exact modCore_links ..
@[simp] theorem setCcnt_sysIn : (setCcnt s c k v).sysIn = s.sysIn := by unfold setCcnt; exact modCore_sysIn ..
@[simp] theorem setCcnt_tether : (setCcnt s c k v).tether = s.tether := by unfold setCcnt; exact modCore_tether ..
@[simp] theorem setCcnt_rootIn : (setCcnt s c k v).rootIn = s.rootIn := by unfold setCcnt; exact modCore_rootIn ..
@[simp] theorem setCcnt_shown : (setCcnt s c k v).shown = s.shown := by unfold setCcnt; exact modCore_shown ..
@[simp] theorem setCcnt_voteLinks : (setCcnt s c k v).voteLinks = s.voteLinks := by unfold setCcnt; exact modCore_voteLinks ..
@[simp] theorem setCcnt_evicted : (setCcnt s c k v).evicted = s.evicted := by unfold setCcnt; exact modCore_evicted ..
@[simp] theorem setCcnt_yawRef : (setCcnt s c k v).yawRef = s.yawRef := by unfold setCcnt; exact modCore_yawRef ..
@[simp] theorem setCcnt_yawCrl : (setCcnt s c k v).yawCrl = s.yawCrl := by unfold setCcnt; exact modCore_yawCrl ..
@[simp] theorem setCcnt_yawTake : (setCcnt s c k v).yawTake = s.yawTake := by unfold setCcnt; exact modCore_yawTake ..
@[simp] theorem setCcnt_thermal : (setCcnt s c k v).thermal = s.thermal := by unfold setCcnt; exact modCore_thermal ..
@[simp] theorem setCcnt_narrow : (setCcnt s c k v).narrow = s.narrow := by unfold setCcnt; exact modCore_narrow ..
@[simp] theorem setCcnt_rops : (setCcnt s c k v).rops = s.rops := by unfold setCcnt; exact modCore_rops ..
@[simp] theorem setCcnt_rwins : (setCcnt s c k v).rwins = s.rwins := by unfold setCcnt; exact modCore_rwins ..
@[simp] theorem setCcnt_punits : (setCcnt s c k v).punits = s.punits := by unfold setCcnt; exact modCore_punits ..
@[simp] theorem setCcnt_owners : (setCcnt s c k v).owners = s.owners := by unfold setCcnt; exact modCore_owners ..
@[simp] theorem setCcnt_causes : (setCcnt s c k v).causes = s.causes := by unfold setCcnt; exact modCore_causes ..
@[simp] theorem setCcnt_ranges : (setCcnt s c k v).ranges = s.ranges := by unfold setCcnt; exact modCore_ranges ..
@[simp] theorem setCcnt_twinPend : (setCcnt s c k v).twinPend = s.twinPend := by unfold setCcnt; exact modCore_twinPend ..
@[simp] theorem setCcnt_flash : (setCcnt s c k v).flash = s.flash := by unfold setCcnt; exact modCore_flash ..
@[simp] theorem setCcnt_stageAt : (setCcnt s c k v).stageAt = s.stageAt := by unfold setCcnt; exact modCore_stageAt ..
@[simp] theorem setCcnt_ucie : (setCcnt s c k v).ucie = s.ucie := by unfold setCcnt; exact modCore_ucie ..
@[simp] theorem setCcnt_fired : (setCcnt s c k v).fired = s.fired := by unfold setCcnt; exact modCore_fired ..
@[simp] theorem setCcnt_mirrorBad : (setCcnt s c k v).mirrorBad = s.mirrorBad := by unfold setCcnt; exact modCore_mirrorBad ..
@[simp] theorem setCcnt_routes : (setCcnt s c k v).routes = s.routes := by unfold setCcnt; exact modCore_routes ..
@[simp] theorem setCcnt_train : (setCcnt s c k v).train = s.train := by unfold setCcnt; exact modCore_train ..
@[simp] theorem setCcnt_srvs : (setCcnt s c k v).srvs = s.srvs := by unfold setCcnt; exact modCore_srvs ..
@[simp] theorem setCcnt_envKeys : (setCcnt s c k v).envKeys = s.envKeys := by unfold setCcnt; exact modCore_envKeys ..
@[simp] theorem setCcnt_listed : (setCcnt s c k v).listed = s.listed := by unfold setCcnt; exact modCore_listed ..
@[simp] theorem setCcnt_heldStreams : (setCcnt s c k v).heldStreams = s.heldStreams := by unfold setCcnt; exact modCore_heldStreams ..
@[simp] theorem setCcnt_crl : (setCcnt s c k v).crl = s.crl := by unfold setCcnt; exact modCore_crl ..
@[simp] theorem setCcnt_electors : (setCcnt s c k v).electors = s.electors := by unfold setCcnt; exact modCore_electors ..
@[simp] theorem setCcnt_actTab : (setCcnt s c k v).actTab = s.actTab := by unfold setCcnt; exact modCore_actTab ..
@[simp] theorem setCcnt_takeHomes : (setCcnt s c k v).takeHomes = s.takeHomes := by unfold setCcnt; exact modCore_takeHomes ..
@[simp] theorem setCcnt_heldLeft : (setCcnt s c k v).heldLeft = s.heldLeft := by unfold setCcnt; exact modCore_heldLeft ..
@[simp] theorem setCcnt_relays : (setCcnt s c k v).relays = s.relays := by unfold setCcnt; exact modCore_relays ..
@[simp] theorem setCcnt_relayC : (setCcnt s c k v).relayC = s.relayC := by unfold setCcnt; exact modCore_relayC ..
@[simp] theorem setCcnt_hwins : (setCcnt s c k v).hwins = s.hwins := by unfold setCcnt; exact modCore_hwins ..
@[simp] theorem setCcnt_shadow : (setCcnt s c k v).shadow = s.shadow := by unfold setCcnt; exact modCore_shadow ..
@[simp] theorem setCcnt_xfers : (setCcnt s c k v).xfers = s.xfers := by unfold setCcnt; exact modCore_xfers ..
@[simp] theorem setCcnt_hfull : (setCcnt s c k v).hfull = s.hfull := by unfold setCcnt; exact modCore_hfull ..
@[simp] theorem setCcnt_copy : (setCcnt s c k v).copy = s.copy := by unfold setCcnt; exact modCore_copy ..
@[simp] theorem setCcnt_podFwd : (setCcnt s c k v).podFwd = s.podFwd := by unfold setCcnt; exact modCore_podFwd ..
@[simp] theorem setCcnt_podPost : (setCcnt s c k v).podPost = s.podPost := by unfold setCcnt; exact modCore_podPost ..
@[simp] theorem setCcnt_staged : (setCcnt s c k v).staged = s.staged := by unfold setCcnt; exact modCore_staged ..
@[simp] theorem setCcnt_img : (setCcnt s c k v).img = s.img := by unfold setCcnt; exact modCore_img ..
@[simp] theorem setCcnt_ran : (setCcnt s c k v).ran = s.ran := by unfold setCcnt; exact modCore_ran ..
@[simp] theorem setCcnt_keys : (setCcnt s c k v).keys = s.keys := by unfold setCcnt; exact modCore_keys ..
@[simp] theorem setCcnt_kcmd : (setCcnt s c k v).kcmd = s.kcmd := by unfold setCcnt; exact modCore_kcmd ..
@[simp] theorem setCcnt_polled : (setCcnt s c k v).polled = s.polled := by unfold setCcnt; exact modCore_polled ..
@[simp] theorem setCcnt_kick : (setCcnt s c k v).kick = s.kick := by unfold setCcnt; exact modCore_kick ..
@[simp] theorem setCcnt_logLevel : (setCcnt s c k v).logLevel = s.logLevel := by unfold setCcnt; exact modCore_logLevel ..
@[simp] theorem setCcnt_tqs : (setCcnt s c k v).tqs = s.tqs := by unfold setCcnt; exact modCore_tqs ..
@[simp] theorem setCcnt_stall : (setCcnt s c k v).stall = s.stall := by unfold setCcnt; exact modCore_stall ..
@[simp] theorem setCcnt_coldDue : (setCcnt s c k v).coldDue = s.coldDue := by unfold setCcnt; exact modCore_coldDue ..
@[simp] theorem setCcnt_rstn : (setCcnt s c k v).rstn = s.rstn := by unfold setCcnt; exact modCore_rstn ..
@[simp] theorem setCcnt_pwrGood : (setCcnt s c k v).pwrGood = s.pwrGood := by unfold setCcnt; exact modCore_pwrGood ..
@[simp] theorem setCcnt_thermtrip : (setCcnt s c k v).thermtrip = s.thermtrip := by unfold setCcnt; exact modCore_thermtrip ..
@[simp] theorem setCcnt_boot : (setCcnt s c k v).boot = s.boot := by unfold setCcnt; exact modCore_boot ..
@[simp] theorem setCcnt_jtag : (setCcnt s c k v).jtag = s.jtag := by unfold setCcnt; exact modCore_jtag ..
@[simp] theorem setCcnt_jtagDrive : (setCcnt s c k v).jtagDrive = s.jtagDrive := by unfold setCcnt; exact modCore_jtagDrive ..
@[simp] theorem setCcnt_accts : (setCcnt s c k v).accts = s.accts := by unfold setCcnt; exact modCore_accts ..
@[simp] theorem setCcnt_acctAt : (setCcnt s c k v).acctAt = s.acctAt := by unfold setCcnt; exact modCore_acctAt ..
end

/-! ### modGaf -/
section
variable (c : Nat) (f : Gaffer → Gaffer)
@[simp] theorem modGaf_pending : (modGaf s c f).pending = s.pending := by unfold modGaf; exact modCore_pending ..
@[simp] theorem modGaf_phase : (modGaf s c f).phase = s.phase := by unfold modGaf; exact modCore_phase ..
@[simp] theorem modGaf_regs : (modGaf s c f).regs = s.regs := by unfold modGaf; exact modCore_regs ..
@[simp] theorem modGaf_mem : (modGaf s c f).mem = s.mem := by unfold modGaf; exact modCore_mem ..
@[simp] theorem modGaf_ecc : (modGaf s c f).ecc = s.ecc := by unfold modGaf; exact modCore_ecc ..
@[simp] theorem modGaf_sec : (modGaf s c f).sec = s.sec := by unfold modGaf; exact modCore_sec ..
@[simp] theorem modGaf_uncSec : (modGaf s c f).uncSec = s.uncSec := by unfold modGaf; exact modCore_uncSec ..
@[simp] theorem modGaf_patCorr : (modGaf s c f).patCorr = s.patCorr := by unfold modGaf; exact modCore_patCorr ..
@[simp] theorem modGaf_chans : (modGaf s c f).chans = s.chans := by unfold modGaf; exact modCore_chans ..
@[simp] theorem modGaf_dbanks : (modGaf s c f).dbanks = s.dbanks := by unfold modGaf; exact modCore_dbanks ..
@[simp] theorem modGaf_acts : (modGaf s c f).acts = s.acts := by unfold modGaf; exact modCore_acts ..
@[simp] theorem modGaf_jobs : (modGaf s c f).jobs = s.jobs := by unfold modGaf; exact modCore_jobs ..
@[simp] theorem modGaf_nextJob : (modGaf s c f).nextJob = s.nextJob := by unfold modGaf; exact modCore_nextJob ..
@[simp] theorem modGaf_free : (modGaf s c f).free = s.free := by unfold modGaf; exact modCore_free ..
@[simp] theorem modGaf_faults : (modGaf s c f).faults = s.faults := by unfold modGaf; exact modCore_faults ..
@[simp] theorem modGaf_wearMark : (modGaf s c f).wearMark = s.wearMark := by unfold modGaf; exact modCore_wearMark ..
@[simp] theorem modGaf_tileMark : (modGaf s c f).tileMark = s.tileMark := by unfold modGaf; exact modCore_tileMark ..
@[simp] theorem modGaf_halted : (modGaf s c f).halted = s.halted := by unfold modGaf; exact modCore_halted ..
@[simp] theorem modGaf_evacuate : (modGaf s c f).evacuate = s.evacuate := by unfold modGaf; exact modCore_evacuate ..
@[simp] theorem modGaf_vote : (modGaf s c f).vote = s.vote := by unfold modGaf; exact modCore_vote ..
@[simp] theorem modGaf_sent : (modGaf s c f).sent = s.sent := by unfold modGaf; exact modCore_sent ..
@[simp] theorem modGaf_strmTab : (modGaf s c f).strmTab = s.strmTab := by unfold modGaf; exact modCore_strmTab ..
@[simp] theorem modGaf_strmPend : (modGaf s c f).strmPend = s.strmPend := by unfold modGaf; exact modCore_strmPend ..
@[simp] theorem modGaf_home : (modGaf s c f).home = s.home := by unfold modGaf; exact modCore_home ..
@[simp] theorem modGaf_fritRefs : (modGaf s c f).fritRefs = s.fritRefs := by unfold modGaf; exact modCore_fritRefs ..
@[simp] theorem modGaf_fritDelta : (modGaf s c f).fritDelta = s.fritDelta := by unfold modGaf; exact modCore_fritDelta ..
@[simp] theorem modGaf_repairCand : (modGaf s c f).repairCand = s.repairCand := by unfold modGaf; exact modCore_repairCand ..
@[simp] theorem modGaf_candSecs : (modGaf s c f).candSecs = s.candSecs := by unfold modGaf; exact modCore_candSecs ..
@[simp] theorem modGaf_spareRows : (modGaf s c f).spareRows = s.spareRows := by unfold modGaf; exact modCore_spareRows ..
@[simp] theorem modGaf_flights : (modGaf s c f).flights = s.flights := by unfold modGaf; exact modCore_flights ..
@[simp] theorem modGaf_bins : (modGaf s c f).bins = s.bins := by unfold modGaf; exact modCore_bins ..
@[simp] theorem modGaf_bbusy : (modGaf s c f).bbusy = s.bbusy := by unfold modGaf; exact modCore_bbusy ..
@[simp] theorem modGaf_bseq : (modGaf s c f).bseq = s.bseq := by unfold modGaf; exact modCore_bseq ..
@[simp] theorem modGaf_brx : (modGaf s c f).brx = s.brx := by unfold modGaf; exact modCore_brx ..
@[simp] theorem modGaf_slotBad : (modGaf s c f).slotBad = s.slotBad := by unfold modGaf; exact modCore_slotBad ..
@[simp] theorem modGaf_links : (modGaf s c f).links = s.links := by unfold modGaf; exact modCore_links ..
@[simp] theorem modGaf_sysIn : (modGaf s c f).sysIn = s.sysIn := by unfold modGaf; exact modCore_sysIn ..
@[simp] theorem modGaf_tether : (modGaf s c f).tether = s.tether := by unfold modGaf; exact modCore_tether ..
@[simp] theorem modGaf_rootIn : (modGaf s c f).rootIn = s.rootIn := by unfold modGaf; exact modCore_rootIn ..
@[simp] theorem modGaf_shown : (modGaf s c f).shown = s.shown := by unfold modGaf; exact modCore_shown ..
@[simp] theorem modGaf_voteLinks : (modGaf s c f).voteLinks = s.voteLinks := by unfold modGaf; exact modCore_voteLinks ..
@[simp] theorem modGaf_evicted : (modGaf s c f).evicted = s.evicted := by unfold modGaf; exact modCore_evicted ..
@[simp] theorem modGaf_yawRef : (modGaf s c f).yawRef = s.yawRef := by unfold modGaf; exact modCore_yawRef ..
@[simp] theorem modGaf_yawCrl : (modGaf s c f).yawCrl = s.yawCrl := by unfold modGaf; exact modCore_yawCrl ..
@[simp] theorem modGaf_yawTake : (modGaf s c f).yawTake = s.yawTake := by unfold modGaf; exact modCore_yawTake ..
@[simp] theorem modGaf_thermal : (modGaf s c f).thermal = s.thermal := by unfold modGaf; exact modCore_thermal ..
@[simp] theorem modGaf_narrow : (modGaf s c f).narrow = s.narrow := by unfold modGaf; exact modCore_narrow ..
@[simp] theorem modGaf_rops : (modGaf s c f).rops = s.rops := by unfold modGaf; exact modCore_rops ..
@[simp] theorem modGaf_rwins : (modGaf s c f).rwins = s.rwins := by unfold modGaf; exact modCore_rwins ..
@[simp] theorem modGaf_punits : (modGaf s c f).punits = s.punits := by unfold modGaf; exact modCore_punits ..
@[simp] theorem modGaf_owners : (modGaf s c f).owners = s.owners := by unfold modGaf; exact modCore_owners ..
@[simp] theorem modGaf_causes : (modGaf s c f).causes = s.causes := by unfold modGaf; exact modCore_causes ..
@[simp] theorem modGaf_ranges : (modGaf s c f).ranges = s.ranges := by unfold modGaf; exact modCore_ranges ..
@[simp] theorem modGaf_twinPend : (modGaf s c f).twinPend = s.twinPend := by unfold modGaf; exact modCore_twinPend ..
@[simp] theorem modGaf_flash : (modGaf s c f).flash = s.flash := by unfold modGaf; exact modCore_flash ..
@[simp] theorem modGaf_stageAt : (modGaf s c f).stageAt = s.stageAt := by unfold modGaf; exact modCore_stageAt ..
@[simp] theorem modGaf_ucie : (modGaf s c f).ucie = s.ucie := by unfold modGaf; exact modCore_ucie ..
@[simp] theorem modGaf_fired : (modGaf s c f).fired = s.fired := by unfold modGaf; exact modCore_fired ..
@[simp] theorem modGaf_mirrorBad : (modGaf s c f).mirrorBad = s.mirrorBad := by unfold modGaf; exact modCore_mirrorBad ..
@[simp] theorem modGaf_routes : (modGaf s c f).routes = s.routes := by unfold modGaf; exact modCore_routes ..
@[simp] theorem modGaf_train : (modGaf s c f).train = s.train := by unfold modGaf; exact modCore_train ..
@[simp] theorem modGaf_srvs : (modGaf s c f).srvs = s.srvs := by unfold modGaf; exact modCore_srvs ..
@[simp] theorem modGaf_envKeys : (modGaf s c f).envKeys = s.envKeys := by unfold modGaf; exact modCore_envKeys ..
@[simp] theorem modGaf_listed : (modGaf s c f).listed = s.listed := by unfold modGaf; exact modCore_listed ..
@[simp] theorem modGaf_heldStreams : (modGaf s c f).heldStreams = s.heldStreams := by unfold modGaf; exact modCore_heldStreams ..
@[simp] theorem modGaf_crl : (modGaf s c f).crl = s.crl := by unfold modGaf; exact modCore_crl ..
@[simp] theorem modGaf_electors : (modGaf s c f).electors = s.electors := by unfold modGaf; exact modCore_electors ..
@[simp] theorem modGaf_actTab : (modGaf s c f).actTab = s.actTab := by unfold modGaf; exact modCore_actTab ..
@[simp] theorem modGaf_takeHomes : (modGaf s c f).takeHomes = s.takeHomes := by unfold modGaf; exact modCore_takeHomes ..
@[simp] theorem modGaf_heldLeft : (modGaf s c f).heldLeft = s.heldLeft := by unfold modGaf; exact modCore_heldLeft ..
@[simp] theorem modGaf_relays : (modGaf s c f).relays = s.relays := by unfold modGaf; exact modCore_relays ..
@[simp] theorem modGaf_relayC : (modGaf s c f).relayC = s.relayC := by unfold modGaf; exact modCore_relayC ..
@[simp] theorem modGaf_hwins : (modGaf s c f).hwins = s.hwins := by unfold modGaf; exact modCore_hwins ..
@[simp] theorem modGaf_shadow : (modGaf s c f).shadow = s.shadow := by unfold modGaf; exact modCore_shadow ..
@[simp] theorem modGaf_xfers : (modGaf s c f).xfers = s.xfers := by unfold modGaf; exact modCore_xfers ..
@[simp] theorem modGaf_hfull : (modGaf s c f).hfull = s.hfull := by unfold modGaf; exact modCore_hfull ..
@[simp] theorem modGaf_copy : (modGaf s c f).copy = s.copy := by unfold modGaf; exact modCore_copy ..
@[simp] theorem modGaf_podFwd : (modGaf s c f).podFwd = s.podFwd := by unfold modGaf; exact modCore_podFwd ..
@[simp] theorem modGaf_podPost : (modGaf s c f).podPost = s.podPost := by unfold modGaf; exact modCore_podPost ..
@[simp] theorem modGaf_staged : (modGaf s c f).staged = s.staged := by unfold modGaf; exact modCore_staged ..
@[simp] theorem modGaf_img : (modGaf s c f).img = s.img := by unfold modGaf; exact modCore_img ..
@[simp] theorem modGaf_ran : (modGaf s c f).ran = s.ran := by unfold modGaf; exact modCore_ran ..
@[simp] theorem modGaf_keys : (modGaf s c f).keys = s.keys := by unfold modGaf; exact modCore_keys ..
@[simp] theorem modGaf_kcmd : (modGaf s c f).kcmd = s.kcmd := by unfold modGaf; exact modCore_kcmd ..
@[simp] theorem modGaf_polled : (modGaf s c f).polled = s.polled := by unfold modGaf; exact modCore_polled ..
@[simp] theorem modGaf_kick : (modGaf s c f).kick = s.kick := by unfold modGaf; exact modCore_kick ..
@[simp] theorem modGaf_logLevel : (modGaf s c f).logLevel = s.logLevel := by unfold modGaf; exact modCore_logLevel ..
@[simp] theorem modGaf_tqs : (modGaf s c f).tqs = s.tqs := by unfold modGaf; exact modCore_tqs ..
@[simp] theorem modGaf_stall : (modGaf s c f).stall = s.stall := by unfold modGaf; exact modCore_stall ..
@[simp] theorem modGaf_coldDue : (modGaf s c f).coldDue = s.coldDue := by unfold modGaf; exact modCore_coldDue ..
@[simp] theorem modGaf_rstn : (modGaf s c f).rstn = s.rstn := by unfold modGaf; exact modCore_rstn ..
@[simp] theorem modGaf_pwrGood : (modGaf s c f).pwrGood = s.pwrGood := by unfold modGaf; exact modCore_pwrGood ..
@[simp] theorem modGaf_thermtrip : (modGaf s c f).thermtrip = s.thermtrip := by unfold modGaf; exact modCore_thermtrip ..
@[simp] theorem modGaf_boot : (modGaf s c f).boot = s.boot := by unfold modGaf; exact modCore_boot ..
@[simp] theorem modGaf_jtag : (modGaf s c f).jtag = s.jtag := by unfold modGaf; exact modCore_jtag ..
@[simp] theorem modGaf_jtagDrive : (modGaf s c f).jtagDrive = s.jtagDrive := by unfold modGaf; exact modCore_jtagDrive ..
@[simp] theorem modGaf_accts : (modGaf s c f).accts = s.accts := by unfold modGaf; exact modCore_accts ..
@[simp] theorem modGaf_acctAt : (modGaf s c f).acctAt = s.acctAt := by unfold modGaf; exact modCore_acctAt ..
end

/-! ### addAct -/
section
variable (x : Act)
@[simp] theorem addAct_pending : (addAct s x).pending = s.pending := by unfold addAct; rfl
@[simp] theorem addAct_phase : (addAct s x).phase = s.phase := by unfold addAct; rfl
@[simp] theorem addAct_regs : (addAct s x).regs = s.regs := by unfold addAct; rfl
@[simp] theorem addAct_mem : (addAct s x).mem = s.mem := by unfold addAct; rfl
@[simp] theorem addAct_ecc : (addAct s x).ecc = s.ecc := by unfold addAct; rfl
@[simp] theorem addAct_sec : (addAct s x).sec = s.sec := by unfold addAct; rfl
@[simp] theorem addAct_uncSec : (addAct s x).uncSec = s.uncSec := by unfold addAct; rfl
@[simp] theorem addAct_patCorr : (addAct s x).patCorr = s.patCorr := by unfold addAct; rfl
@[simp] theorem addAct_cores : (addAct s x).cores = s.cores := by unfold addAct; rfl
@[simp] theorem addAct_chans : (addAct s x).chans = s.chans := by unfold addAct; rfl
@[simp] theorem addAct_dbanks : (addAct s x).dbanks = s.dbanks := by unfold addAct; rfl
@[simp] theorem addAct_jobs : (addAct s x).jobs = s.jobs := by unfold addAct; rfl
@[simp] theorem addAct_nextJob : (addAct s x).nextJob = s.nextJob := by unfold addAct; rfl
@[simp] theorem addAct_free : (addAct s x).free = s.free := by unfold addAct; rfl
@[simp] theorem addAct_faults : (addAct s x).faults = s.faults := by unfold addAct; rfl
@[simp] theorem addAct_wearMark : (addAct s x).wearMark = s.wearMark := by unfold addAct; rfl
@[simp] theorem addAct_tileMark : (addAct s x).tileMark = s.tileMark := by unfold addAct; rfl
@[simp] theorem addAct_halted : (addAct s x).halted = s.halted := by unfold addAct; rfl
@[simp] theorem addAct_evacuate : (addAct s x).evacuate = s.evacuate := by unfold addAct; rfl
@[simp] theorem addAct_vote : (addAct s x).vote = s.vote := by unfold addAct; rfl
@[simp] theorem addAct_sent : (addAct s x).sent = s.sent := by unfold addAct; rfl
@[simp] theorem addAct_strmTab : (addAct s x).strmTab = s.strmTab := by unfold addAct; rfl
@[simp] theorem addAct_strmPend : (addAct s x).strmPend = s.strmPend := by unfold addAct; rfl
@[simp] theorem addAct_home : (addAct s x).home = s.home := by unfold addAct; rfl
@[simp] theorem addAct_fritRefs : (addAct s x).fritRefs = s.fritRefs := by unfold addAct; rfl
@[simp] theorem addAct_fritDelta : (addAct s x).fritDelta = s.fritDelta := by unfold addAct; rfl
@[simp] theorem addAct_repairCand : (addAct s x).repairCand = s.repairCand := by unfold addAct; rfl
@[simp] theorem addAct_candSecs : (addAct s x).candSecs = s.candSecs := by unfold addAct; rfl
@[simp] theorem addAct_spareRows : (addAct s x).spareRows = s.spareRows := by unfold addAct; rfl
@[simp] theorem addAct_flights : (addAct s x).flights = s.flights := by unfold addAct; rfl
@[simp] theorem addAct_bins : (addAct s x).bins = s.bins := by unfold addAct; rfl
@[simp] theorem addAct_bbusy : (addAct s x).bbusy = s.bbusy := by unfold addAct; rfl
@[simp] theorem addAct_bseq : (addAct s x).bseq = s.bseq := by unfold addAct; rfl
@[simp] theorem addAct_brx : (addAct s x).brx = s.brx := by unfold addAct; rfl
@[simp] theorem addAct_slotBad : (addAct s x).slotBad = s.slotBad := by unfold addAct; rfl
@[simp] theorem addAct_links : (addAct s x).links = s.links := by unfold addAct; rfl
@[simp] theorem addAct_sysIn : (addAct s x).sysIn = s.sysIn := by unfold addAct; rfl
@[simp] theorem addAct_tether : (addAct s x).tether = s.tether := by unfold addAct; rfl
@[simp] theorem addAct_rootIn : (addAct s x).rootIn = s.rootIn := by unfold addAct; rfl
@[simp] theorem addAct_shown : (addAct s x).shown = s.shown := by unfold addAct; rfl
@[simp] theorem addAct_voteLinks : (addAct s x).voteLinks = s.voteLinks := by unfold addAct; rfl
@[simp] theorem addAct_evicted : (addAct s x).evicted = s.evicted := by unfold addAct; rfl
@[simp] theorem addAct_yawRef : (addAct s x).yawRef = s.yawRef := by unfold addAct; rfl
@[simp] theorem addAct_yawCrl : (addAct s x).yawCrl = s.yawCrl := by unfold addAct; rfl
@[simp] theorem addAct_yawTake : (addAct s x).yawTake = s.yawTake := by unfold addAct; rfl
@[simp] theorem addAct_thermal : (addAct s x).thermal = s.thermal := by unfold addAct; rfl
@[simp] theorem addAct_narrow : (addAct s x).narrow = s.narrow := by unfold addAct; rfl
@[simp] theorem addAct_rops : (addAct s x).rops = s.rops := by unfold addAct; rfl
@[simp] theorem addAct_rwins : (addAct s x).rwins = s.rwins := by unfold addAct; rfl
@[simp] theorem addAct_punits : (addAct s x).punits = s.punits := by unfold addAct; rfl
@[simp] theorem addAct_owners : (addAct s x).owners = s.owners := by unfold addAct; rfl
@[simp] theorem addAct_causes : (addAct s x).causes = s.causes := by unfold addAct; rfl
@[simp] theorem addAct_ranges : (addAct s x).ranges = s.ranges := by unfold addAct; rfl
@[simp] theorem addAct_twinPend : (addAct s x).twinPend = s.twinPend := by unfold addAct; rfl
@[simp] theorem addAct_flash : (addAct s x).flash = s.flash := by unfold addAct; rfl
@[simp] theorem addAct_stageAt : (addAct s x).stageAt = s.stageAt := by unfold addAct; rfl
@[simp] theorem addAct_ucie : (addAct s x).ucie = s.ucie := by unfold addAct; rfl
@[simp] theorem addAct_fired : (addAct s x).fired = s.fired := by unfold addAct; rfl
@[simp] theorem addAct_mirrorBad : (addAct s x).mirrorBad = s.mirrorBad := by unfold addAct; rfl
@[simp] theorem addAct_routes : (addAct s x).routes = s.routes := by unfold addAct; rfl
@[simp] theorem addAct_train : (addAct s x).train = s.train := by unfold addAct; rfl
@[simp] theorem addAct_srvs : (addAct s x).srvs = s.srvs := by unfold addAct; rfl
@[simp] theorem addAct_envKeys : (addAct s x).envKeys = s.envKeys := by unfold addAct; rfl
@[simp] theorem addAct_listed : (addAct s x).listed = s.listed := by unfold addAct; rfl
@[simp] theorem addAct_heldStreams : (addAct s x).heldStreams = s.heldStreams := by unfold addAct; rfl
@[simp] theorem addAct_crl : (addAct s x).crl = s.crl := by unfold addAct; rfl
@[simp] theorem addAct_electors : (addAct s x).electors = s.electors := by unfold addAct; rfl
@[simp] theorem addAct_actTab : (addAct s x).actTab = s.actTab := by unfold addAct; rfl
@[simp] theorem addAct_takeHomes : (addAct s x).takeHomes = s.takeHomes := by unfold addAct; rfl
@[simp] theorem addAct_heldLeft : (addAct s x).heldLeft = s.heldLeft := by unfold addAct; rfl
@[simp] theorem addAct_relays : (addAct s x).relays = s.relays := by unfold addAct; rfl
@[simp] theorem addAct_relayC : (addAct s x).relayC = s.relayC := by unfold addAct; rfl
@[simp] theorem addAct_hwins : (addAct s x).hwins = s.hwins := by unfold addAct; rfl
@[simp] theorem addAct_shadow : (addAct s x).shadow = s.shadow := by unfold addAct; rfl
@[simp] theorem addAct_xfers : (addAct s x).xfers = s.xfers := by unfold addAct; rfl
@[simp] theorem addAct_hfull : (addAct s x).hfull = s.hfull := by unfold addAct; rfl
@[simp] theorem addAct_copy : (addAct s x).copy = s.copy := by unfold addAct; rfl
@[simp] theorem addAct_podFwd : (addAct s x).podFwd = s.podFwd := by unfold addAct; rfl
@[simp] theorem addAct_podPost : (addAct s x).podPost = s.podPost := by unfold addAct; rfl
@[simp] theorem addAct_staged : (addAct s x).staged = s.staged := by unfold addAct; rfl
@[simp] theorem addAct_img : (addAct s x).img = s.img := by unfold addAct; rfl
@[simp] theorem addAct_ran : (addAct s x).ran = s.ran := by unfold addAct; rfl
@[simp] theorem addAct_keys : (addAct s x).keys = s.keys := by unfold addAct; rfl
@[simp] theorem addAct_kcmd : (addAct s x).kcmd = s.kcmd := by unfold addAct; rfl
@[simp] theorem addAct_polled : (addAct s x).polled = s.polled := by unfold addAct; rfl
@[simp] theorem addAct_kick : (addAct s x).kick = s.kick := by unfold addAct; rfl
@[simp] theorem addAct_logLevel : (addAct s x).logLevel = s.logLevel := by unfold addAct; rfl
@[simp] theorem addAct_tqs : (addAct s x).tqs = s.tqs := by unfold addAct; rfl
@[simp] theorem addAct_stall : (addAct s x).stall = s.stall := by unfold addAct; rfl
@[simp] theorem addAct_coldDue : (addAct s x).coldDue = s.coldDue := by unfold addAct; rfl
@[simp] theorem addAct_rstn : (addAct s x).rstn = s.rstn := by unfold addAct; rfl
@[simp] theorem addAct_pwrGood : (addAct s x).pwrGood = s.pwrGood := by unfold addAct; rfl
@[simp] theorem addAct_thermtrip : (addAct s x).thermtrip = s.thermtrip := by unfold addAct; rfl
@[simp] theorem addAct_boot : (addAct s x).boot = s.boot := by unfold addAct; rfl
@[simp] theorem addAct_jtag : (addAct s x).jtag = s.jtag := by unfold addAct; rfl
@[simp] theorem addAct_jtagDrive : (addAct s x).jtagDrive = s.jtagDrive := by unfold addAct; rfl
@[simp] theorem addAct_accts : (addAct s x).accts = s.accts := by unfold addAct; rfl
@[simp] theorem addAct_acctAt : (addAct s x).acctAt = s.acctAt := by unfold addAct; rfl
end

/-! ### emit -/
section
variable (o : Out)
@[simp] theorem emit_pending : (emit s o).pending = s.pending := by unfold emit; rfl
@[simp] theorem emit_phase : (emit s o).phase = s.phase := by unfold emit; rfl
@[simp] theorem emit_regs : (emit s o).regs = s.regs := by unfold emit; rfl
@[simp] theorem emit_mem : (emit s o).mem = s.mem := by unfold emit; rfl
@[simp] theorem emit_ecc : (emit s o).ecc = s.ecc := by unfold emit; rfl
@[simp] theorem emit_sec : (emit s o).sec = s.sec := by unfold emit; rfl
@[simp] theorem emit_uncSec : (emit s o).uncSec = s.uncSec := by unfold emit; rfl
@[simp] theorem emit_patCorr : (emit s o).patCorr = s.patCorr := by unfold emit; rfl
@[simp] theorem emit_cores : (emit s o).cores = s.cores := by unfold emit; rfl
@[simp] theorem emit_chans : (emit s o).chans = s.chans := by unfold emit; rfl
@[simp] theorem emit_dbanks : (emit s o).dbanks = s.dbanks := by unfold emit; rfl
@[simp] theorem emit_acts : (emit s o).acts = s.acts := by unfold emit; rfl
@[simp] theorem emit_jobs : (emit s o).jobs = s.jobs := by unfold emit; rfl
@[simp] theorem emit_nextJob : (emit s o).nextJob = s.nextJob := by unfold emit; rfl
@[simp] theorem emit_free : (emit s o).free = s.free := by unfold emit; rfl
@[simp] theorem emit_faults : (emit s o).faults = s.faults := by unfold emit; rfl
@[simp] theorem emit_wearMark : (emit s o).wearMark = s.wearMark := by unfold emit; rfl
@[simp] theorem emit_tileMark : (emit s o).tileMark = s.tileMark := by unfold emit; rfl
@[simp] theorem emit_halted : (emit s o).halted = s.halted := by unfold emit; rfl
@[simp] theorem emit_evacuate : (emit s o).evacuate = s.evacuate := by unfold emit; rfl
@[simp] theorem emit_vote : (emit s o).vote = s.vote := by unfold emit; rfl
@[simp] theorem emit_strmTab : (emit s o).strmTab = s.strmTab := by unfold emit; rfl
@[simp] theorem emit_strmPend : (emit s o).strmPend = s.strmPend := by unfold emit; rfl
@[simp] theorem emit_home : (emit s o).home = s.home := by unfold emit; rfl
@[simp] theorem emit_fritRefs : (emit s o).fritRefs = s.fritRefs := by unfold emit; rfl
@[simp] theorem emit_fritDelta : (emit s o).fritDelta = s.fritDelta := by unfold emit; rfl
@[simp] theorem emit_repairCand : (emit s o).repairCand = s.repairCand := by unfold emit; rfl
@[simp] theorem emit_candSecs : (emit s o).candSecs = s.candSecs := by unfold emit; rfl
@[simp] theorem emit_spareRows : (emit s o).spareRows = s.spareRows := by unfold emit; rfl
@[simp] theorem emit_flights : (emit s o).flights = s.flights := by unfold emit; rfl
@[simp] theorem emit_bins : (emit s o).bins = s.bins := by unfold emit; rfl
@[simp] theorem emit_bbusy : (emit s o).bbusy = s.bbusy := by unfold emit; rfl
@[simp] theorem emit_bseq : (emit s o).bseq = s.bseq := by unfold emit; rfl
@[simp] theorem emit_brx : (emit s o).brx = s.brx := by unfold emit; rfl
@[simp] theorem emit_slotBad : (emit s o).slotBad = s.slotBad := by unfold emit; rfl
@[simp] theorem emit_links : (emit s o).links = s.links := by unfold emit; rfl
@[simp] theorem emit_sysIn : (emit s o).sysIn = s.sysIn := by unfold emit; rfl
@[simp] theorem emit_tether : (emit s o).tether = s.tether := by unfold emit; rfl
@[simp] theorem emit_rootIn : (emit s o).rootIn = s.rootIn := by unfold emit; rfl
@[simp] theorem emit_shown : (emit s o).shown = s.shown := by unfold emit; rfl
@[simp] theorem emit_voteLinks : (emit s o).voteLinks = s.voteLinks := by unfold emit; rfl
@[simp] theorem emit_evicted : (emit s o).evicted = s.evicted := by unfold emit; rfl
@[simp] theorem emit_yawRef : (emit s o).yawRef = s.yawRef := by unfold emit; rfl
@[simp] theorem emit_yawCrl : (emit s o).yawCrl = s.yawCrl := by unfold emit; rfl
@[simp] theorem emit_yawTake : (emit s o).yawTake = s.yawTake := by unfold emit; rfl
@[simp] theorem emit_thermal : (emit s o).thermal = s.thermal := by unfold emit; rfl
@[simp] theorem emit_narrow : (emit s o).narrow = s.narrow := by unfold emit; rfl
@[simp] theorem emit_rops : (emit s o).rops = s.rops := by unfold emit; rfl
@[simp] theorem emit_rwins : (emit s o).rwins = s.rwins := by unfold emit; rfl
@[simp] theorem emit_punits : (emit s o).punits = s.punits := by unfold emit; rfl
@[simp] theorem emit_owners : (emit s o).owners = s.owners := by unfold emit; rfl
@[simp] theorem emit_causes : (emit s o).causes = s.causes := by unfold emit; rfl
@[simp] theorem emit_ranges : (emit s o).ranges = s.ranges := by unfold emit; rfl
@[simp] theorem emit_twinPend : (emit s o).twinPend = s.twinPend := by unfold emit; rfl
@[simp] theorem emit_flash : (emit s o).flash = s.flash := by unfold emit; rfl
@[simp] theorem emit_stageAt : (emit s o).stageAt = s.stageAt := by unfold emit; rfl
@[simp] theorem emit_ucie : (emit s o).ucie = s.ucie := by unfold emit; rfl
@[simp] theorem emit_fired : (emit s o).fired = s.fired := by unfold emit; rfl
@[simp] theorem emit_mirrorBad : (emit s o).mirrorBad = s.mirrorBad := by unfold emit; rfl
@[simp] theorem emit_routes : (emit s o).routes = s.routes := by unfold emit; rfl
@[simp] theorem emit_train : (emit s o).train = s.train := by unfold emit; rfl
@[simp] theorem emit_srvs : (emit s o).srvs = s.srvs := by unfold emit; rfl
@[simp] theorem emit_envKeys : (emit s o).envKeys = s.envKeys := by unfold emit; rfl
@[simp] theorem emit_listed : (emit s o).listed = s.listed := by unfold emit; rfl
@[simp] theorem emit_heldStreams : (emit s o).heldStreams = s.heldStreams := by unfold emit; rfl
@[simp] theorem emit_crl : (emit s o).crl = s.crl := by unfold emit; rfl
@[simp] theorem emit_electors : (emit s o).electors = s.electors := by unfold emit; rfl
@[simp] theorem emit_actTab : (emit s o).actTab = s.actTab := by unfold emit; rfl
@[simp] theorem emit_takeHomes : (emit s o).takeHomes = s.takeHomes := by unfold emit; rfl
@[simp] theorem emit_heldLeft : (emit s o).heldLeft = s.heldLeft := by unfold emit; rfl
@[simp] theorem emit_relays : (emit s o).relays = s.relays := by unfold emit; rfl
@[simp] theorem emit_relayC : (emit s o).relayC = s.relayC := by unfold emit; rfl
@[simp] theorem emit_hwins : (emit s o).hwins = s.hwins := by unfold emit; rfl
@[simp] theorem emit_shadow : (emit s o).shadow = s.shadow := by unfold emit; rfl
@[simp] theorem emit_xfers : (emit s o).xfers = s.xfers := by unfold emit; rfl
@[simp] theorem emit_hfull : (emit s o).hfull = s.hfull := by unfold emit; rfl
@[simp] theorem emit_copy : (emit s o).copy = s.copy := by unfold emit; rfl
@[simp] theorem emit_podFwd : (emit s o).podFwd = s.podFwd := by unfold emit; rfl
@[simp] theorem emit_podPost : (emit s o).podPost = s.podPost := by unfold emit; rfl
@[simp] theorem emit_staged : (emit s o).staged = s.staged := by unfold emit; rfl
@[simp] theorem emit_img : (emit s o).img = s.img := by unfold emit; rfl
@[simp] theorem emit_ran : (emit s o).ran = s.ran := by unfold emit; rfl
@[simp] theorem emit_keys : (emit s o).keys = s.keys := by unfold emit; rfl
@[simp] theorem emit_kcmd : (emit s o).kcmd = s.kcmd := by unfold emit; rfl
@[simp] theorem emit_polled : (emit s o).polled = s.polled := by unfold emit; rfl
@[simp] theorem emit_kick : (emit s o).kick = s.kick := by unfold emit; rfl
@[simp] theorem emit_logLevel : (emit s o).logLevel = s.logLevel := by unfold emit; rfl
@[simp] theorem emit_tqs : (emit s o).tqs = s.tqs := by unfold emit; rfl
@[simp] theorem emit_stall : (emit s o).stall = s.stall := by unfold emit; rfl
@[simp] theorem emit_coldDue : (emit s o).coldDue = s.coldDue := by unfold emit; rfl
@[simp] theorem emit_rstn : (emit s o).rstn = s.rstn := by unfold emit; rfl
@[simp] theorem emit_pwrGood : (emit s o).pwrGood = s.pwrGood := by unfold emit; rfl
@[simp] theorem emit_thermtrip : (emit s o).thermtrip = s.thermtrip := by unfold emit; rfl
@[simp] theorem emit_boot : (emit s o).boot = s.boot := by unfold emit; rfl
@[simp] theorem emit_jtag : (emit s o).jtag = s.jtag := by unfold emit; rfl
@[simp] theorem emit_jtagDrive : (emit s o).jtagDrive = s.jtagDrive := by unfold emit; rfl
@[simp] theorem emit_accts : (emit s o).accts = s.accts := by unfold emit; rfl
@[simp] theorem emit_acctAt : (emit s o).acctAt = s.acctAt := by unfold emit; rfl
end

/-! ### startJob -/
section
variable (x : Job) (ops : List (Nat × Micro))
@[simp] theorem startJob_pending : (startJob s x ops).pending = s.pending := by unfold startJob; rfl
@[simp] theorem startJob_phase : (startJob s x ops).phase = s.phase := by unfold startJob; rfl
@[simp] theorem startJob_regs : (startJob s x ops).regs = s.regs := by unfold startJob; rfl
@[simp] theorem startJob_mem : (startJob s x ops).mem = s.mem := by unfold startJob; rfl
@[simp] theorem startJob_ecc : (startJob s x ops).ecc = s.ecc := by unfold startJob; rfl
@[simp] theorem startJob_sec : (startJob s x ops).sec = s.sec := by unfold startJob; rfl
@[simp] theorem startJob_uncSec : (startJob s x ops).uncSec = s.uncSec := by unfold startJob; rfl
@[simp] theorem startJob_patCorr : (startJob s x ops).patCorr = s.patCorr := by unfold startJob; rfl
@[simp] theorem startJob_cores : (startJob s x ops).cores = s.cores := by unfold startJob; rfl
@[simp] theorem startJob_chans : (startJob s x ops).chans = s.chans := by unfold startJob; rfl
@[simp] theorem startJob_dbanks : (startJob s x ops).dbanks = s.dbanks := by unfold startJob; rfl
@[simp] theorem startJob_free : (startJob s x ops).free = s.free := by unfold startJob; rfl
@[simp] theorem startJob_faults : (startJob s x ops).faults = s.faults := by unfold startJob; rfl
@[simp] theorem startJob_wearMark : (startJob s x ops).wearMark = s.wearMark := by unfold startJob; rfl
@[simp] theorem startJob_tileMark : (startJob s x ops).tileMark = s.tileMark := by unfold startJob; rfl
@[simp] theorem startJob_halted : (startJob s x ops).halted = s.halted := by unfold startJob; rfl
@[simp] theorem startJob_evacuate : (startJob s x ops).evacuate = s.evacuate := by unfold startJob; rfl
@[simp] theorem startJob_vote : (startJob s x ops).vote = s.vote := by unfold startJob; rfl
@[simp] theorem startJob_sent : (startJob s x ops).sent = s.sent := by unfold startJob; rfl
@[simp] theorem startJob_strmTab : (startJob s x ops).strmTab = s.strmTab := by unfold startJob; rfl
@[simp] theorem startJob_strmPend : (startJob s x ops).strmPend = s.strmPend := by unfold startJob; rfl
@[simp] theorem startJob_home : (startJob s x ops).home = s.home := by unfold startJob; rfl
@[simp] theorem startJob_fritRefs : (startJob s x ops).fritRefs = s.fritRefs := by unfold startJob; rfl
@[simp] theorem startJob_fritDelta : (startJob s x ops).fritDelta = s.fritDelta := by unfold startJob; rfl
@[simp] theorem startJob_repairCand : (startJob s x ops).repairCand = s.repairCand := by unfold startJob; rfl
@[simp] theorem startJob_candSecs : (startJob s x ops).candSecs = s.candSecs := by unfold startJob; rfl
@[simp] theorem startJob_spareRows : (startJob s x ops).spareRows = s.spareRows := by unfold startJob; rfl
@[simp] theorem startJob_flights : (startJob s x ops).flights = s.flights := by unfold startJob; rfl
@[simp] theorem startJob_bins : (startJob s x ops).bins = s.bins := by unfold startJob; rfl
@[simp] theorem startJob_bbusy : (startJob s x ops).bbusy = s.bbusy := by unfold startJob; rfl
@[simp] theorem startJob_bseq : (startJob s x ops).bseq = s.bseq := by unfold startJob; rfl
@[simp] theorem startJob_brx : (startJob s x ops).brx = s.brx := by unfold startJob; rfl
@[simp] theorem startJob_slotBad : (startJob s x ops).slotBad = s.slotBad := by unfold startJob; rfl
@[simp] theorem startJob_links : (startJob s x ops).links = s.links := by unfold startJob; rfl
@[simp] theorem startJob_sysIn : (startJob s x ops).sysIn = s.sysIn := by unfold startJob; rfl
@[simp] theorem startJob_tether : (startJob s x ops).tether = s.tether := by unfold startJob; rfl
@[simp] theorem startJob_rootIn : (startJob s x ops).rootIn = s.rootIn := by unfold startJob; rfl
@[simp] theorem startJob_shown : (startJob s x ops).shown = s.shown := by unfold startJob; rfl
@[simp] theorem startJob_voteLinks : (startJob s x ops).voteLinks = s.voteLinks := by unfold startJob; rfl
@[simp] theorem startJob_evicted : (startJob s x ops).evicted = s.evicted := by unfold startJob; rfl
@[simp] theorem startJob_yawRef : (startJob s x ops).yawRef = s.yawRef := by unfold startJob; rfl
@[simp] theorem startJob_yawCrl : (startJob s x ops).yawCrl = s.yawCrl := by unfold startJob; rfl
@[simp] theorem startJob_yawTake : (startJob s x ops).yawTake = s.yawTake := by unfold startJob; rfl
@[simp] theorem startJob_thermal : (startJob s x ops).thermal = s.thermal := by unfold startJob; rfl
@[simp] theorem startJob_narrow : (startJob s x ops).narrow = s.narrow := by unfold startJob; rfl
@[simp] theorem startJob_rops : (startJob s x ops).rops = s.rops := by unfold startJob; rfl
@[simp] theorem startJob_rwins : (startJob s x ops).rwins = s.rwins := by unfold startJob; rfl
@[simp] theorem startJob_punits : (startJob s x ops).punits = s.punits := by unfold startJob; rfl
@[simp] theorem startJob_owners : (startJob s x ops).owners = s.owners := by unfold startJob; rfl
@[simp] theorem startJob_causes : (startJob s x ops).causes = s.causes := by unfold startJob; rfl
@[simp] theorem startJob_ranges : (startJob s x ops).ranges = s.ranges := by unfold startJob; rfl
@[simp] theorem startJob_twinPend : (startJob s x ops).twinPend = s.twinPend := by unfold startJob; rfl
@[simp] theorem startJob_flash : (startJob s x ops).flash = s.flash := by unfold startJob; rfl
@[simp] theorem startJob_stageAt : (startJob s x ops).stageAt = s.stageAt := by unfold startJob; rfl
@[simp] theorem startJob_ucie : (startJob s x ops).ucie = s.ucie := by unfold startJob; rfl
@[simp] theorem startJob_fired : (startJob s x ops).fired = s.fired := by unfold startJob; rfl
@[simp] theorem startJob_mirrorBad : (startJob s x ops).mirrorBad = s.mirrorBad := by unfold startJob; rfl
@[simp] theorem startJob_routes : (startJob s x ops).routes = s.routes := by unfold startJob; rfl
@[simp] theorem startJob_train : (startJob s x ops).train = s.train := by unfold startJob; rfl
@[simp] theorem startJob_srvs : (startJob s x ops).srvs = s.srvs := by unfold startJob; rfl
@[simp] theorem startJob_envKeys : (startJob s x ops).envKeys = s.envKeys := by unfold startJob; rfl
@[simp] theorem startJob_listed : (startJob s x ops).listed = s.listed := by unfold startJob; rfl
@[simp] theorem startJob_heldStreams : (startJob s x ops).heldStreams = s.heldStreams := by unfold startJob; rfl
@[simp] theorem startJob_crl : (startJob s x ops).crl = s.crl := by unfold startJob; rfl
@[simp] theorem startJob_electors : (startJob s x ops).electors = s.electors := by unfold startJob; rfl
@[simp] theorem startJob_actTab : (startJob s x ops).actTab = s.actTab := by unfold startJob; rfl
@[simp] theorem startJob_takeHomes : (startJob s x ops).takeHomes = s.takeHomes := by unfold startJob; rfl
@[simp] theorem startJob_heldLeft : (startJob s x ops).heldLeft = s.heldLeft := by unfold startJob; rfl
@[simp] theorem startJob_relays : (startJob s x ops).relays = s.relays := by unfold startJob; rfl
@[simp] theorem startJob_relayC : (startJob s x ops).relayC = s.relayC := by unfold startJob; rfl
@[simp] theorem startJob_hwins : (startJob s x ops).hwins = s.hwins := by unfold startJob; rfl
@[simp] theorem startJob_shadow : (startJob s x ops).shadow = s.shadow := by unfold startJob; rfl
@[simp] theorem startJob_xfers : (startJob s x ops).xfers = s.xfers := by unfold startJob; rfl
@[simp] theorem startJob_hfull : (startJob s x ops).hfull = s.hfull := by unfold startJob; rfl
@[simp] theorem startJob_copy : (startJob s x ops).copy = s.copy := by unfold startJob; rfl
@[simp] theorem startJob_podFwd : (startJob s x ops).podFwd = s.podFwd := by unfold startJob; rfl
@[simp] theorem startJob_podPost : (startJob s x ops).podPost = s.podPost := by unfold startJob; rfl
@[simp] theorem startJob_staged : (startJob s x ops).staged = s.staged := by unfold startJob; rfl
@[simp] theorem startJob_img : (startJob s x ops).img = s.img := by unfold startJob; rfl
@[simp] theorem startJob_ran : (startJob s x ops).ran = s.ran := by unfold startJob; rfl
@[simp] theorem startJob_keys : (startJob s x ops).keys = s.keys := by unfold startJob; rfl
@[simp] theorem startJob_kcmd : (startJob s x ops).kcmd = s.kcmd := by unfold startJob; rfl
@[simp] theorem startJob_polled : (startJob s x ops).polled = s.polled := by unfold startJob; rfl
@[simp] theorem startJob_kick : (startJob s x ops).kick = s.kick := by unfold startJob; rfl
@[simp] theorem startJob_logLevel : (startJob s x ops).logLevel = s.logLevel := by unfold startJob; rfl
@[simp] theorem startJob_tqs : (startJob s x ops).tqs = s.tqs := by unfold startJob; rfl
@[simp] theorem startJob_stall : (startJob s x ops).stall = s.stall := by unfold startJob; rfl
@[simp] theorem startJob_coldDue : (startJob s x ops).coldDue = s.coldDue := by unfold startJob; rfl
@[simp] theorem startJob_rstn : (startJob s x ops).rstn = s.rstn := by unfold startJob; rfl
@[simp] theorem startJob_pwrGood : (startJob s x ops).pwrGood = s.pwrGood := by unfold startJob; rfl
@[simp] theorem startJob_thermtrip : (startJob s x ops).thermtrip = s.thermtrip := by unfold startJob; rfl
@[simp] theorem startJob_boot : (startJob s x ops).boot = s.boot := by unfold startJob; rfl
@[simp] theorem startJob_jtag : (startJob s x ops).jtag = s.jtag := by unfold startJob; rfl
@[simp] theorem startJob_jtagDrive : (startJob s x ops).jtagDrive = s.jtagDrive := by unfold startJob; rfl
@[simp] theorem startJob_accts : (startJob s x ops).accts = s.accts := by unfold startJob; rfl
@[simp] theorem startJob_acctAt : (startJob s x ops).acctAt = s.acctAt := by unfold startJob; rfl
end

/-! ### modJob -/
section
variable (j : Nat) (f : Job → Job)
@[simp] theorem modJob_pending : (modJob s j f).pending = s.pending := by unfold modJob; rfl
@[simp] theorem modJob_phase : (modJob s j f).phase = s.phase := by unfold modJob; rfl
@[simp] theorem modJob_regs : (modJob s j f).regs = s.regs := by unfold modJob; rfl
@[simp] theorem modJob_mem : (modJob s j f).mem = s.mem := by unfold modJob; rfl
@[simp] theorem modJob_ecc : (modJob s j f).ecc = s.ecc := by unfold modJob; rfl
@[simp] theorem modJob_sec : (modJob s j f).sec = s.sec := by unfold modJob; rfl
@[simp] theorem modJob_uncSec : (modJob s j f).uncSec = s.uncSec := by unfold modJob; rfl
@[simp] theorem modJob_patCorr : (modJob s j f).patCorr = s.patCorr := by unfold modJob; rfl
@[simp] theorem modJob_cores : (modJob s j f).cores = s.cores := by unfold modJob; rfl
@[simp] theorem modJob_chans : (modJob s j f).chans = s.chans := by unfold modJob; rfl
@[simp] theorem modJob_dbanks : (modJob s j f).dbanks = s.dbanks := by unfold modJob; rfl
@[simp] theorem modJob_acts : (modJob s j f).acts = s.acts := by unfold modJob; rfl
@[simp] theorem modJob_nextJob : (modJob s j f).nextJob = s.nextJob := by unfold modJob; rfl
@[simp] theorem modJob_free : (modJob s j f).free = s.free := by unfold modJob; rfl
@[simp] theorem modJob_faults : (modJob s j f).faults = s.faults := by unfold modJob; rfl
@[simp] theorem modJob_wearMark : (modJob s j f).wearMark = s.wearMark := by unfold modJob; rfl
@[simp] theorem modJob_tileMark : (modJob s j f).tileMark = s.tileMark := by unfold modJob; rfl
@[simp] theorem modJob_halted : (modJob s j f).halted = s.halted := by unfold modJob; rfl
@[simp] theorem modJob_evacuate : (modJob s j f).evacuate = s.evacuate := by unfold modJob; rfl
@[simp] theorem modJob_vote : (modJob s j f).vote = s.vote := by unfold modJob; rfl
@[simp] theorem modJob_sent : (modJob s j f).sent = s.sent := by unfold modJob; rfl
@[simp] theorem modJob_strmTab : (modJob s j f).strmTab = s.strmTab := by unfold modJob; rfl
@[simp] theorem modJob_strmPend : (modJob s j f).strmPend = s.strmPend := by unfold modJob; rfl
@[simp] theorem modJob_home : (modJob s j f).home = s.home := by unfold modJob; rfl
@[simp] theorem modJob_fritRefs : (modJob s j f).fritRefs = s.fritRefs := by unfold modJob; rfl
@[simp] theorem modJob_fritDelta : (modJob s j f).fritDelta = s.fritDelta := by unfold modJob; rfl
@[simp] theorem modJob_repairCand : (modJob s j f).repairCand = s.repairCand := by unfold modJob; rfl
@[simp] theorem modJob_candSecs : (modJob s j f).candSecs = s.candSecs := by unfold modJob; rfl
@[simp] theorem modJob_spareRows : (modJob s j f).spareRows = s.spareRows := by unfold modJob; rfl
@[simp] theorem modJob_flights : (modJob s j f).flights = s.flights := by unfold modJob; rfl
@[simp] theorem modJob_bins : (modJob s j f).bins = s.bins := by unfold modJob; rfl
@[simp] theorem modJob_bbusy : (modJob s j f).bbusy = s.bbusy := by unfold modJob; rfl
@[simp] theorem modJob_bseq : (modJob s j f).bseq = s.bseq := by unfold modJob; rfl
@[simp] theorem modJob_brx : (modJob s j f).brx = s.brx := by unfold modJob; rfl
@[simp] theorem modJob_slotBad : (modJob s j f).slotBad = s.slotBad := by unfold modJob; rfl
@[simp] theorem modJob_links : (modJob s j f).links = s.links := by unfold modJob; rfl
@[simp] theorem modJob_sysIn : (modJob s j f).sysIn = s.sysIn := by unfold modJob; rfl
@[simp] theorem modJob_tether : (modJob s j f).tether = s.tether := by unfold modJob; rfl
@[simp] theorem modJob_rootIn : (modJob s j f).rootIn = s.rootIn := by unfold modJob; rfl
@[simp] theorem modJob_shown : (modJob s j f).shown = s.shown := by unfold modJob; rfl
@[simp] theorem modJob_voteLinks : (modJob s j f).voteLinks = s.voteLinks := by unfold modJob; rfl
@[simp] theorem modJob_evicted : (modJob s j f).evicted = s.evicted := by unfold modJob; rfl
@[simp] theorem modJob_yawRef : (modJob s j f).yawRef = s.yawRef := by unfold modJob; rfl
@[simp] theorem modJob_yawCrl : (modJob s j f).yawCrl = s.yawCrl := by unfold modJob; rfl
@[simp] theorem modJob_yawTake : (modJob s j f).yawTake = s.yawTake := by unfold modJob; rfl
@[simp] theorem modJob_thermal : (modJob s j f).thermal = s.thermal := by unfold modJob; rfl
@[simp] theorem modJob_narrow : (modJob s j f).narrow = s.narrow := by unfold modJob; rfl
@[simp] theorem modJob_rops : (modJob s j f).rops = s.rops := by unfold modJob; rfl
@[simp] theorem modJob_rwins : (modJob s j f).rwins = s.rwins := by unfold modJob; rfl
@[simp] theorem modJob_punits : (modJob s j f).punits = s.punits := by unfold modJob; rfl
@[simp] theorem modJob_owners : (modJob s j f).owners = s.owners := by unfold modJob; rfl
@[simp] theorem modJob_causes : (modJob s j f).causes = s.causes := by unfold modJob; rfl
@[simp] theorem modJob_ranges : (modJob s j f).ranges = s.ranges := by unfold modJob; rfl
@[simp] theorem modJob_twinPend : (modJob s j f).twinPend = s.twinPend := by unfold modJob; rfl
@[simp] theorem modJob_flash : (modJob s j f).flash = s.flash := by unfold modJob; rfl
@[simp] theorem modJob_stageAt : (modJob s j f).stageAt = s.stageAt := by unfold modJob; rfl
@[simp] theorem modJob_ucie : (modJob s j f).ucie = s.ucie := by unfold modJob; rfl
@[simp] theorem modJob_fired : (modJob s j f).fired = s.fired := by unfold modJob; rfl
@[simp] theorem modJob_mirrorBad : (modJob s j f).mirrorBad = s.mirrorBad := by unfold modJob; rfl
@[simp] theorem modJob_routes : (modJob s j f).routes = s.routes := by unfold modJob; rfl
@[simp] theorem modJob_train : (modJob s j f).train = s.train := by unfold modJob; rfl
@[simp] theorem modJob_srvs : (modJob s j f).srvs = s.srvs := by unfold modJob; rfl
@[simp] theorem modJob_envKeys : (modJob s j f).envKeys = s.envKeys := by unfold modJob; rfl
@[simp] theorem modJob_listed : (modJob s j f).listed = s.listed := by unfold modJob; rfl
@[simp] theorem modJob_heldStreams : (modJob s j f).heldStreams = s.heldStreams := by unfold modJob; rfl
@[simp] theorem modJob_crl : (modJob s j f).crl = s.crl := by unfold modJob; rfl
@[simp] theorem modJob_electors : (modJob s j f).electors = s.electors := by unfold modJob; rfl
@[simp] theorem modJob_actTab : (modJob s j f).actTab = s.actTab := by unfold modJob; rfl
@[simp] theorem modJob_takeHomes : (modJob s j f).takeHomes = s.takeHomes := by unfold modJob; rfl
@[simp] theorem modJob_heldLeft : (modJob s j f).heldLeft = s.heldLeft := by unfold modJob; rfl
@[simp] theorem modJob_relays : (modJob s j f).relays = s.relays := by unfold modJob; rfl
@[simp] theorem modJob_relayC : (modJob s j f).relayC = s.relayC := by unfold modJob; rfl
@[simp] theorem modJob_hwins : (modJob s j f).hwins = s.hwins := by unfold modJob; rfl
@[simp] theorem modJob_shadow : (modJob s j f).shadow = s.shadow := by unfold modJob; rfl
@[simp] theorem modJob_xfers : (modJob s j f).xfers = s.xfers := by unfold modJob; rfl
@[simp] theorem modJob_hfull : (modJob s j f).hfull = s.hfull := by unfold modJob; rfl
@[simp] theorem modJob_copy : (modJob s j f).copy = s.copy := by unfold modJob; rfl
@[simp] theorem modJob_podFwd : (modJob s j f).podFwd = s.podFwd := by unfold modJob; rfl
@[simp] theorem modJob_podPost : (modJob s j f).podPost = s.podPost := by unfold modJob; rfl
@[simp] theorem modJob_staged : (modJob s j f).staged = s.staged := by unfold modJob; rfl
@[simp] theorem modJob_img : (modJob s j f).img = s.img := by unfold modJob; rfl
@[simp] theorem modJob_ran : (modJob s j f).ran = s.ran := by unfold modJob; rfl
@[simp] theorem modJob_keys : (modJob s j f).keys = s.keys := by unfold modJob; rfl
@[simp] theorem modJob_kcmd : (modJob s j f).kcmd = s.kcmd := by unfold modJob; rfl
@[simp] theorem modJob_polled : (modJob s j f).polled = s.polled := by unfold modJob; rfl
@[simp] theorem modJob_kick : (modJob s j f).kick = s.kick := by unfold modJob; rfl
@[simp] theorem modJob_logLevel : (modJob s j f).logLevel = s.logLevel := by unfold modJob; rfl
@[simp] theorem modJob_tqs : (modJob s j f).tqs = s.tqs := by unfold modJob; rfl
@[simp] theorem modJob_stall : (modJob s j f).stall = s.stall := by unfold modJob; rfl
@[simp] theorem modJob_coldDue : (modJob s j f).coldDue = s.coldDue := by unfold modJob; rfl
@[simp] theorem modJob_rstn : (modJob s j f).rstn = s.rstn := by unfold modJob; rfl
@[simp] theorem modJob_pwrGood : (modJob s j f).pwrGood = s.pwrGood := by unfold modJob; rfl
@[simp] theorem modJob_thermtrip : (modJob s j f).thermtrip = s.thermtrip := by unfold modJob; rfl
@[simp] theorem modJob_boot : (modJob s j f).boot = s.boot := by unfold modJob; rfl
@[simp] theorem modJob_jtag : (modJob s j f).jtag = s.jtag := by unfold modJob; rfl
@[simp] theorem modJob_jtagDrive : (modJob s j f).jtagDrive = s.jtagDrive := by unfold modJob; rfl
@[simp] theorem modJob_accts : (modJob s j f).accts = s.accts := by unfold modJob; rfl
@[simp] theorem modJob_acctAt : (modJob s j f).acctAt = s.acctAt := by unfold modJob; rfl
end

/-! ### modChan -/
section
variable (i : Nat) (f : Chan → Chan)
@[simp] theorem modChan_pending : (modChan s i f).pending = s.pending := by unfold modChan; rfl
@[simp] theorem modChan_phase : (modChan s i f).phase = s.phase := by unfold modChan; rfl
@[simp] theorem modChan_regs : (modChan s i f).regs = s.regs := by unfold modChan; rfl
@[simp] theorem modChan_mem : (modChan s i f).mem = s.mem := by unfold modChan; rfl
@[simp] theorem modChan_ecc : (modChan s i f).ecc = s.ecc := by unfold modChan; rfl
@[simp] theorem modChan_sec : (modChan s i f).sec = s.sec := by unfold modChan; rfl
@[simp] theorem modChan_uncSec : (modChan s i f).uncSec = s.uncSec := by unfold modChan; rfl
@[simp] theorem modChan_patCorr : (modChan s i f).patCorr = s.patCorr := by unfold modChan; rfl
@[simp] theorem modChan_cores : (modChan s i f).cores = s.cores := by unfold modChan; rfl
@[simp] theorem modChan_dbanks : (modChan s i f).dbanks = s.dbanks := by unfold modChan; rfl
@[simp] theorem modChan_acts : (modChan s i f).acts = s.acts := by unfold modChan; rfl
@[simp] theorem modChan_jobs : (modChan s i f).jobs = s.jobs := by unfold modChan; rfl
@[simp] theorem modChan_nextJob : (modChan s i f).nextJob = s.nextJob := by unfold modChan; rfl
@[simp] theorem modChan_free : (modChan s i f).free = s.free := by unfold modChan; rfl
@[simp] theorem modChan_faults : (modChan s i f).faults = s.faults := by unfold modChan; rfl
@[simp] theorem modChan_wearMark : (modChan s i f).wearMark = s.wearMark := by unfold modChan; rfl
@[simp] theorem modChan_tileMark : (modChan s i f).tileMark = s.tileMark := by unfold modChan; rfl
@[simp] theorem modChan_halted : (modChan s i f).halted = s.halted := by unfold modChan; rfl
@[simp] theorem modChan_evacuate : (modChan s i f).evacuate = s.evacuate := by unfold modChan; rfl
@[simp] theorem modChan_vote : (modChan s i f).vote = s.vote := by unfold modChan; rfl
@[simp] theorem modChan_sent : (modChan s i f).sent = s.sent := by unfold modChan; rfl
@[simp] theorem modChan_strmTab : (modChan s i f).strmTab = s.strmTab := by unfold modChan; rfl
@[simp] theorem modChan_strmPend : (modChan s i f).strmPend = s.strmPend := by unfold modChan; rfl
@[simp] theorem modChan_home : (modChan s i f).home = s.home := by unfold modChan; rfl
@[simp] theorem modChan_fritRefs : (modChan s i f).fritRefs = s.fritRefs := by unfold modChan; rfl
@[simp] theorem modChan_fritDelta : (modChan s i f).fritDelta = s.fritDelta := by unfold modChan; rfl
@[simp] theorem modChan_repairCand : (modChan s i f).repairCand = s.repairCand := by unfold modChan; rfl
@[simp] theorem modChan_candSecs : (modChan s i f).candSecs = s.candSecs := by unfold modChan; rfl
@[simp] theorem modChan_spareRows : (modChan s i f).spareRows = s.spareRows := by unfold modChan; rfl
@[simp] theorem modChan_flights : (modChan s i f).flights = s.flights := by unfold modChan; rfl
@[simp] theorem modChan_bins : (modChan s i f).bins = s.bins := by unfold modChan; rfl
@[simp] theorem modChan_bbusy : (modChan s i f).bbusy = s.bbusy := by unfold modChan; rfl
@[simp] theorem modChan_bseq : (modChan s i f).bseq = s.bseq := by unfold modChan; rfl
@[simp] theorem modChan_brx : (modChan s i f).brx = s.brx := by unfold modChan; rfl
@[simp] theorem modChan_slotBad : (modChan s i f).slotBad = s.slotBad := by unfold modChan; rfl
@[simp] theorem modChan_links : (modChan s i f).links = s.links := by unfold modChan; rfl
@[simp] theorem modChan_sysIn : (modChan s i f).sysIn = s.sysIn := by unfold modChan; rfl
@[simp] theorem modChan_tether : (modChan s i f).tether = s.tether := by unfold modChan; rfl
@[simp] theorem modChan_rootIn : (modChan s i f).rootIn = s.rootIn := by unfold modChan; rfl
@[simp] theorem modChan_shown : (modChan s i f).shown = s.shown := by unfold modChan; rfl
@[simp] theorem modChan_voteLinks : (modChan s i f).voteLinks = s.voteLinks := by unfold modChan; rfl
@[simp] theorem modChan_evicted : (modChan s i f).evicted = s.evicted := by unfold modChan; rfl
@[simp] theorem modChan_yawRef : (modChan s i f).yawRef = s.yawRef := by unfold modChan; rfl
@[simp] theorem modChan_yawCrl : (modChan s i f).yawCrl = s.yawCrl := by unfold modChan; rfl
@[simp] theorem modChan_yawTake : (modChan s i f).yawTake = s.yawTake := by unfold modChan; rfl
@[simp] theorem modChan_thermal : (modChan s i f).thermal = s.thermal := by unfold modChan; rfl
@[simp] theorem modChan_narrow : (modChan s i f).narrow = s.narrow := by unfold modChan; rfl
@[simp] theorem modChan_rops : (modChan s i f).rops = s.rops := by unfold modChan; rfl
@[simp] theorem modChan_rwins : (modChan s i f).rwins = s.rwins := by unfold modChan; rfl
@[simp] theorem modChan_punits : (modChan s i f).punits = s.punits := by unfold modChan; rfl
@[simp] theorem modChan_owners : (modChan s i f).owners = s.owners := by unfold modChan; rfl
@[simp] theorem modChan_causes : (modChan s i f).causes = s.causes := by unfold modChan; rfl
@[simp] theorem modChan_ranges : (modChan s i f).ranges = s.ranges := by unfold modChan; rfl
@[simp] theorem modChan_twinPend : (modChan s i f).twinPend = s.twinPend := by unfold modChan; rfl
@[simp] theorem modChan_flash : (modChan s i f).flash = s.flash := by unfold modChan; rfl
@[simp] theorem modChan_stageAt : (modChan s i f).stageAt = s.stageAt := by unfold modChan; rfl
@[simp] theorem modChan_ucie : (modChan s i f).ucie = s.ucie := by unfold modChan; rfl
@[simp] theorem modChan_fired : (modChan s i f).fired = s.fired := by unfold modChan; rfl
@[simp] theorem modChan_mirrorBad : (modChan s i f).mirrorBad = s.mirrorBad := by unfold modChan; rfl
@[simp] theorem modChan_routes : (modChan s i f).routes = s.routes := by unfold modChan; rfl
@[simp] theorem modChan_train : (modChan s i f).train = s.train := by unfold modChan; rfl
@[simp] theorem modChan_srvs : (modChan s i f).srvs = s.srvs := by unfold modChan; rfl
@[simp] theorem modChan_envKeys : (modChan s i f).envKeys = s.envKeys := by unfold modChan; rfl
@[simp] theorem modChan_listed : (modChan s i f).listed = s.listed := by unfold modChan; rfl
@[simp] theorem modChan_heldStreams : (modChan s i f).heldStreams = s.heldStreams := by unfold modChan; rfl
@[simp] theorem modChan_crl : (modChan s i f).crl = s.crl := by unfold modChan; rfl
@[simp] theorem modChan_electors : (modChan s i f).electors = s.electors := by unfold modChan; rfl
@[simp] theorem modChan_actTab : (modChan s i f).actTab = s.actTab := by unfold modChan; rfl
@[simp] theorem modChan_takeHomes : (modChan s i f).takeHomes = s.takeHomes := by unfold modChan; rfl
@[simp] theorem modChan_heldLeft : (modChan s i f).heldLeft = s.heldLeft := by unfold modChan; rfl
@[simp] theorem modChan_relays : (modChan s i f).relays = s.relays := by unfold modChan; rfl
@[simp] theorem modChan_relayC : (modChan s i f).relayC = s.relayC := by unfold modChan; rfl
@[simp] theorem modChan_hwins : (modChan s i f).hwins = s.hwins := by unfold modChan; rfl
@[simp] theorem modChan_shadow : (modChan s i f).shadow = s.shadow := by unfold modChan; rfl
@[simp] theorem modChan_xfers : (modChan s i f).xfers = s.xfers := by unfold modChan; rfl
@[simp] theorem modChan_hfull : (modChan s i f).hfull = s.hfull := by unfold modChan; rfl
@[simp] theorem modChan_copy : (modChan s i f).copy = s.copy := by unfold modChan; rfl
@[simp] theorem modChan_podFwd : (modChan s i f).podFwd = s.podFwd := by unfold modChan; rfl
@[simp] theorem modChan_podPost : (modChan s i f).podPost = s.podPost := by unfold modChan; rfl
@[simp] theorem modChan_staged : (modChan s i f).staged = s.staged := by unfold modChan; rfl
@[simp] theorem modChan_img : (modChan s i f).img = s.img := by unfold modChan; rfl
@[simp] theorem modChan_ran : (modChan s i f).ran = s.ran := by unfold modChan; rfl
@[simp] theorem modChan_keys : (modChan s i f).keys = s.keys := by unfold modChan; rfl
@[simp] theorem modChan_kcmd : (modChan s i f).kcmd = s.kcmd := by unfold modChan; rfl
@[simp] theorem modChan_polled : (modChan s i f).polled = s.polled := by unfold modChan; rfl
@[simp] theorem modChan_kick : (modChan s i f).kick = s.kick := by unfold modChan; rfl
@[simp] theorem modChan_logLevel : (modChan s i f).logLevel = s.logLevel := by unfold modChan; rfl
@[simp] theorem modChan_tqs : (modChan s i f).tqs = s.tqs := by unfold modChan; rfl
@[simp] theorem modChan_stall : (modChan s i f).stall = s.stall := by unfold modChan; rfl
@[simp] theorem modChan_coldDue : (modChan s i f).coldDue = s.coldDue := by unfold modChan; rfl
@[simp] theorem modChan_rstn : (modChan s i f).rstn = s.rstn := by unfold modChan; rfl
@[simp] theorem modChan_pwrGood : (modChan s i f).pwrGood = s.pwrGood := by unfold modChan; rfl
@[simp] theorem modChan_thermtrip : (modChan s i f).thermtrip = s.thermtrip := by unfold modChan; rfl
@[simp] theorem modChan_boot : (modChan s i f).boot = s.boot := by unfold modChan; rfl
@[simp] theorem modChan_jtag : (modChan s i f).jtag = s.jtag := by unfold modChan; rfl
@[simp] theorem modChan_jtagDrive : (modChan s i f).jtagDrive = s.jtagDrive := by unfold modChan; rfl
@[simp] theorem modChan_accts : (modChan s i f).accts = s.accts := by unfold modChan; rfl
@[simp] theorem modChan_acctAt : (modChan s i f).acctAt = s.acctAt := by unfold modChan; rfl
end

/-! ### modBank -/
section
variable (i : Nat) (f : DBank → DBank)
@[simp] theorem modBank_pending : (modBank s i f).pending = s.pending := by unfold modBank; rfl
@[simp] theorem modBank_phase : (modBank s i f).phase = s.phase := by unfold modBank; rfl
@[simp] theorem modBank_regs : (modBank s i f).regs = s.regs := by unfold modBank; rfl
@[simp] theorem modBank_mem : (modBank s i f).mem = s.mem := by unfold modBank; rfl
@[simp] theorem modBank_ecc : (modBank s i f).ecc = s.ecc := by unfold modBank; rfl
@[simp] theorem modBank_sec : (modBank s i f).sec = s.sec := by unfold modBank; rfl
@[simp] theorem modBank_uncSec : (modBank s i f).uncSec = s.uncSec := by unfold modBank; rfl
@[simp] theorem modBank_patCorr : (modBank s i f).patCorr = s.patCorr := by unfold modBank; rfl
@[simp] theorem modBank_cores : (modBank s i f).cores = s.cores := by unfold modBank; rfl
@[simp] theorem modBank_chans : (modBank s i f).chans = s.chans := by unfold modBank; rfl
@[simp] theorem modBank_acts : (modBank s i f).acts = s.acts := by unfold modBank; rfl
@[simp] theorem modBank_jobs : (modBank s i f).jobs = s.jobs := by unfold modBank; rfl
@[simp] theorem modBank_nextJob : (modBank s i f).nextJob = s.nextJob := by unfold modBank; rfl
@[simp] theorem modBank_free : (modBank s i f).free = s.free := by unfold modBank; rfl
@[simp] theorem modBank_faults : (modBank s i f).faults = s.faults := by unfold modBank; rfl
@[simp] theorem modBank_wearMark : (modBank s i f).wearMark = s.wearMark := by unfold modBank; rfl
@[simp] theorem modBank_tileMark : (modBank s i f).tileMark = s.tileMark := by unfold modBank; rfl
@[simp] theorem modBank_halted : (modBank s i f).halted = s.halted := by unfold modBank; rfl
@[simp] theorem modBank_evacuate : (modBank s i f).evacuate = s.evacuate := by unfold modBank; rfl
@[simp] theorem modBank_vote : (modBank s i f).vote = s.vote := by unfold modBank; rfl
@[simp] theorem modBank_sent : (modBank s i f).sent = s.sent := by unfold modBank; rfl
@[simp] theorem modBank_strmTab : (modBank s i f).strmTab = s.strmTab := by unfold modBank; rfl
@[simp] theorem modBank_strmPend : (modBank s i f).strmPend = s.strmPend := by unfold modBank; rfl
@[simp] theorem modBank_home : (modBank s i f).home = s.home := by unfold modBank; rfl
@[simp] theorem modBank_fritRefs : (modBank s i f).fritRefs = s.fritRefs := by unfold modBank; rfl
@[simp] theorem modBank_fritDelta : (modBank s i f).fritDelta = s.fritDelta := by unfold modBank; rfl
@[simp] theorem modBank_repairCand : (modBank s i f).repairCand = s.repairCand := by unfold modBank; rfl
@[simp] theorem modBank_candSecs : (modBank s i f).candSecs = s.candSecs := by unfold modBank; rfl
@[simp] theorem modBank_spareRows : (modBank s i f).spareRows = s.spareRows := by unfold modBank; rfl
@[simp] theorem modBank_flights : (modBank s i f).flights = s.flights := by unfold modBank; rfl
@[simp] theorem modBank_bins : (modBank s i f).bins = s.bins := by unfold modBank; rfl
@[simp] theorem modBank_bbusy : (modBank s i f).bbusy = s.bbusy := by unfold modBank; rfl
@[simp] theorem modBank_bseq : (modBank s i f).bseq = s.bseq := by unfold modBank; rfl
@[simp] theorem modBank_brx : (modBank s i f).brx = s.brx := by unfold modBank; rfl
@[simp] theorem modBank_slotBad : (modBank s i f).slotBad = s.slotBad := by unfold modBank; rfl
@[simp] theorem modBank_links : (modBank s i f).links = s.links := by unfold modBank; rfl
@[simp] theorem modBank_sysIn : (modBank s i f).sysIn = s.sysIn := by unfold modBank; rfl
@[simp] theorem modBank_tether : (modBank s i f).tether = s.tether := by unfold modBank; rfl
@[simp] theorem modBank_rootIn : (modBank s i f).rootIn = s.rootIn := by unfold modBank; rfl
@[simp] theorem modBank_shown : (modBank s i f).shown = s.shown := by unfold modBank; rfl
@[simp] theorem modBank_voteLinks : (modBank s i f).voteLinks = s.voteLinks := by unfold modBank; rfl
@[simp] theorem modBank_evicted : (modBank s i f).evicted = s.evicted := by unfold modBank; rfl
@[simp] theorem modBank_yawRef : (modBank s i f).yawRef = s.yawRef := by unfold modBank; rfl
@[simp] theorem modBank_yawCrl : (modBank s i f).yawCrl = s.yawCrl := by unfold modBank; rfl
@[simp] theorem modBank_yawTake : (modBank s i f).yawTake = s.yawTake := by unfold modBank; rfl
@[simp] theorem modBank_thermal : (modBank s i f).thermal = s.thermal := by unfold modBank; rfl
@[simp] theorem modBank_narrow : (modBank s i f).narrow = s.narrow := by unfold modBank; rfl
@[simp] theorem modBank_rops : (modBank s i f).rops = s.rops := by unfold modBank; rfl
@[simp] theorem modBank_rwins : (modBank s i f).rwins = s.rwins := by unfold modBank; rfl
@[simp] theorem modBank_punits : (modBank s i f).punits = s.punits := by unfold modBank; rfl
@[simp] theorem modBank_owners : (modBank s i f).owners = s.owners := by unfold modBank; rfl
@[simp] theorem modBank_causes : (modBank s i f).causes = s.causes := by unfold modBank; rfl
@[simp] theorem modBank_ranges : (modBank s i f).ranges = s.ranges := by unfold modBank; rfl
@[simp] theorem modBank_twinPend : (modBank s i f).twinPend = s.twinPend := by unfold modBank; rfl
@[simp] theorem modBank_flash : (modBank s i f).flash = s.flash := by unfold modBank; rfl
@[simp] theorem modBank_stageAt : (modBank s i f).stageAt = s.stageAt := by unfold modBank; rfl
@[simp] theorem modBank_ucie : (modBank s i f).ucie = s.ucie := by unfold modBank; rfl
@[simp] theorem modBank_fired : (modBank s i f).fired = s.fired := by unfold modBank; rfl
@[simp] theorem modBank_mirrorBad : (modBank s i f).mirrorBad = s.mirrorBad := by unfold modBank; rfl
@[simp] theorem modBank_routes : (modBank s i f).routes = s.routes := by unfold modBank; rfl
@[simp] theorem modBank_train : (modBank s i f).train = s.train := by unfold modBank; rfl
@[simp] theorem modBank_srvs : (modBank s i f).srvs = s.srvs := by unfold modBank; rfl
@[simp] theorem modBank_envKeys : (modBank s i f).envKeys = s.envKeys := by unfold modBank; rfl
@[simp] theorem modBank_listed : (modBank s i f).listed = s.listed := by unfold modBank; rfl
@[simp] theorem modBank_heldStreams : (modBank s i f).heldStreams = s.heldStreams := by unfold modBank; rfl
@[simp] theorem modBank_crl : (modBank s i f).crl = s.crl := by unfold modBank; rfl
@[simp] theorem modBank_electors : (modBank s i f).electors = s.electors := by unfold modBank; rfl
@[simp] theorem modBank_actTab : (modBank s i f).actTab = s.actTab := by unfold modBank; rfl
@[simp] theorem modBank_takeHomes : (modBank s i f).takeHomes = s.takeHomes := by unfold modBank; rfl
@[simp] theorem modBank_heldLeft : (modBank s i f).heldLeft = s.heldLeft := by unfold modBank; rfl
@[simp] theorem modBank_relays : (modBank s i f).relays = s.relays := by unfold modBank; rfl
@[simp] theorem modBank_relayC : (modBank s i f).relayC = s.relayC := by unfold modBank; rfl
@[simp] theorem modBank_hwins : (modBank s i f).hwins = s.hwins := by unfold modBank; rfl
@[simp] theorem modBank_shadow : (modBank s i f).shadow = s.shadow := by unfold modBank; rfl
@[simp] theorem modBank_xfers : (modBank s i f).xfers = s.xfers := by unfold modBank; rfl
@[simp] theorem modBank_hfull : (modBank s i f).hfull = s.hfull := by unfold modBank; rfl
@[simp] theorem modBank_copy : (modBank s i f).copy = s.copy := by unfold modBank; rfl
@[simp] theorem modBank_podFwd : (modBank s i f).podFwd = s.podFwd := by unfold modBank; rfl
@[simp] theorem modBank_podPost : (modBank s i f).podPost = s.podPost := by unfold modBank; rfl
@[simp] theorem modBank_staged : (modBank s i f).staged = s.staged := by unfold modBank; rfl
@[simp] theorem modBank_img : (modBank s i f).img = s.img := by unfold modBank; rfl
@[simp] theorem modBank_ran : (modBank s i f).ran = s.ran := by unfold modBank; rfl
@[simp] theorem modBank_keys : (modBank s i f).keys = s.keys := by unfold modBank; rfl
@[simp] theorem modBank_kcmd : (modBank s i f).kcmd = s.kcmd := by unfold modBank; rfl
@[simp] theorem modBank_polled : (modBank s i f).polled = s.polled := by unfold modBank; rfl
@[simp] theorem modBank_kick : (modBank s i f).kick = s.kick := by unfold modBank; rfl
@[simp] theorem modBank_logLevel : (modBank s i f).logLevel = s.logLevel := by unfold modBank; rfl
@[simp] theorem modBank_tqs : (modBank s i f).tqs = s.tqs := by unfold modBank; rfl
@[simp] theorem modBank_stall : (modBank s i f).stall = s.stall := by unfold modBank; rfl
@[simp] theorem modBank_coldDue : (modBank s i f).coldDue = s.coldDue := by unfold modBank; rfl
@[simp] theorem modBank_rstn : (modBank s i f).rstn = s.rstn := by unfold modBank; rfl
@[simp] theorem modBank_pwrGood : (modBank s i f).pwrGood = s.pwrGood := by unfold modBank; rfl
@[simp] theorem modBank_thermtrip : (modBank s i f).thermtrip = s.thermtrip := by unfold modBank; rfl
@[simp] theorem modBank_boot : (modBank s i f).boot = s.boot := by unfold modBank; rfl
@[simp] theorem modBank_jtag : (modBank s i f).jtag = s.jtag := by unfold modBank; rfl
@[simp] theorem modBank_jtagDrive : (modBank s i f).jtagDrive = s.jtagDrive := by unfold modBank; rfl
@[simp] theorem modBank_accts : (modBank s i f).accts = s.accts := by unfold modBank; rfl
@[simp] theorem modBank_acctAt : (modBank s i f).acctAt = s.acctAt := by unfold modBank; rfl
end

/-! ### modLink -/
section
variable (n : Nat) (f : LinkS → LinkS)
@[simp] theorem modLink_pending : (modLink s n f).pending = s.pending := by unfold modLink; rfl
@[simp] theorem modLink_phase : (modLink s n f).phase = s.phase := by unfold modLink; rfl
@[simp] theorem modLink_regs : (modLink s n f).regs = s.regs := by unfold modLink; rfl
@[simp] theorem modLink_mem : (modLink s n f).mem = s.mem := by unfold modLink; rfl
@[simp] theorem modLink_ecc : (modLink s n f).ecc = s.ecc := by unfold modLink; rfl
@[simp] theorem modLink_sec : (modLink s n f).sec = s.sec := by unfold modLink; rfl
@[simp] theorem modLink_uncSec : (modLink s n f).uncSec = s.uncSec := by unfold modLink; rfl
@[simp] theorem modLink_patCorr : (modLink s n f).patCorr = s.patCorr := by unfold modLink; rfl
@[simp] theorem modLink_cores : (modLink s n f).cores = s.cores := by unfold modLink; rfl
@[simp] theorem modLink_chans : (modLink s n f).chans = s.chans := by unfold modLink; rfl
@[simp] theorem modLink_dbanks : (modLink s n f).dbanks = s.dbanks := by unfold modLink; rfl
@[simp] theorem modLink_acts : (modLink s n f).acts = s.acts := by unfold modLink; rfl
@[simp] theorem modLink_jobs : (modLink s n f).jobs = s.jobs := by unfold modLink; rfl
@[simp] theorem modLink_nextJob : (modLink s n f).nextJob = s.nextJob := by unfold modLink; rfl
@[simp] theorem modLink_free : (modLink s n f).free = s.free := by unfold modLink; rfl
@[simp] theorem modLink_faults : (modLink s n f).faults = s.faults := by unfold modLink; rfl
@[simp] theorem modLink_wearMark : (modLink s n f).wearMark = s.wearMark := by unfold modLink; rfl
@[simp] theorem modLink_tileMark : (modLink s n f).tileMark = s.tileMark := by unfold modLink; rfl
@[simp] theorem modLink_halted : (modLink s n f).halted = s.halted := by unfold modLink; rfl
@[simp] theorem modLink_evacuate : (modLink s n f).evacuate = s.evacuate := by unfold modLink; rfl
@[simp] theorem modLink_vote : (modLink s n f).vote = s.vote := by unfold modLink; rfl
@[simp] theorem modLink_sent : (modLink s n f).sent = s.sent := by unfold modLink; rfl
@[simp] theorem modLink_strmTab : (modLink s n f).strmTab = s.strmTab := by unfold modLink; rfl
@[simp] theorem modLink_strmPend : (modLink s n f).strmPend = s.strmPend := by unfold modLink; rfl
@[simp] theorem modLink_home : (modLink s n f).home = s.home := by unfold modLink; rfl
@[simp] theorem modLink_fritRefs : (modLink s n f).fritRefs = s.fritRefs := by unfold modLink; rfl
@[simp] theorem modLink_fritDelta : (modLink s n f).fritDelta = s.fritDelta := by unfold modLink; rfl
@[simp] theorem modLink_repairCand : (modLink s n f).repairCand = s.repairCand := by unfold modLink; rfl
@[simp] theorem modLink_candSecs : (modLink s n f).candSecs = s.candSecs := by unfold modLink; rfl
@[simp] theorem modLink_spareRows : (modLink s n f).spareRows = s.spareRows := by unfold modLink; rfl
@[simp] theorem modLink_flights : (modLink s n f).flights = s.flights := by unfold modLink; rfl
@[simp] theorem modLink_bins : (modLink s n f).bins = s.bins := by unfold modLink; rfl
@[simp] theorem modLink_bbusy : (modLink s n f).bbusy = s.bbusy := by unfold modLink; rfl
@[simp] theorem modLink_bseq : (modLink s n f).bseq = s.bseq := by unfold modLink; rfl
@[simp] theorem modLink_brx : (modLink s n f).brx = s.brx := by unfold modLink; rfl
@[simp] theorem modLink_slotBad : (modLink s n f).slotBad = s.slotBad := by unfold modLink; rfl
@[simp] theorem modLink_sysIn : (modLink s n f).sysIn = s.sysIn := by unfold modLink; rfl
@[simp] theorem modLink_tether : (modLink s n f).tether = s.tether := by unfold modLink; rfl
@[simp] theorem modLink_rootIn : (modLink s n f).rootIn = s.rootIn := by unfold modLink; rfl
@[simp] theorem modLink_shown : (modLink s n f).shown = s.shown := by unfold modLink; rfl
@[simp] theorem modLink_voteLinks : (modLink s n f).voteLinks = s.voteLinks := by unfold modLink; rfl
@[simp] theorem modLink_evicted : (modLink s n f).evicted = s.evicted := by unfold modLink; rfl
@[simp] theorem modLink_yawRef : (modLink s n f).yawRef = s.yawRef := by unfold modLink; rfl
@[simp] theorem modLink_yawCrl : (modLink s n f).yawCrl = s.yawCrl := by unfold modLink; rfl
@[simp] theorem modLink_yawTake : (modLink s n f).yawTake = s.yawTake := by unfold modLink; rfl
@[simp] theorem modLink_thermal : (modLink s n f).thermal = s.thermal := by unfold modLink; rfl
@[simp] theorem modLink_narrow : (modLink s n f).narrow = s.narrow := by unfold modLink; rfl
@[simp] theorem modLink_rops : (modLink s n f).rops = s.rops := by unfold modLink; rfl
@[simp] theorem modLink_rwins : (modLink s n f).rwins = s.rwins := by unfold modLink; rfl
@[simp] theorem modLink_punits : (modLink s n f).punits = s.punits := by unfold modLink; rfl
@[simp] theorem modLink_owners : (modLink s n f).owners = s.owners := by unfold modLink; rfl
@[simp] theorem modLink_causes : (modLink s n f).causes = s.causes := by unfold modLink; rfl
@[simp] theorem modLink_ranges : (modLink s n f).ranges = s.ranges := by unfold modLink; rfl
@[simp] theorem modLink_twinPend : (modLink s n f).twinPend = s.twinPend := by unfold modLink; rfl
@[simp] theorem modLink_flash : (modLink s n f).flash = s.flash := by unfold modLink; rfl
@[simp] theorem modLink_stageAt : (modLink s n f).stageAt = s.stageAt := by unfold modLink; rfl
@[simp] theorem modLink_ucie : (modLink s n f).ucie = s.ucie := by unfold modLink; rfl
@[simp] theorem modLink_fired : (modLink s n f).fired = s.fired := by unfold modLink; rfl
@[simp] theorem modLink_mirrorBad : (modLink s n f).mirrorBad = s.mirrorBad := by unfold modLink; rfl
@[simp] theorem modLink_routes : (modLink s n f).routes = s.routes := by unfold modLink; rfl
@[simp] theorem modLink_train : (modLink s n f).train = s.train := by unfold modLink; rfl
@[simp] theorem modLink_srvs : (modLink s n f).srvs = s.srvs := by unfold modLink; rfl
@[simp] theorem modLink_envKeys : (modLink s n f).envKeys = s.envKeys := by unfold modLink; rfl
@[simp] theorem modLink_listed : (modLink s n f).listed = s.listed := by unfold modLink; rfl
@[simp] theorem modLink_heldStreams : (modLink s n f).heldStreams = s.heldStreams := by unfold modLink; rfl
@[simp] theorem modLink_crl : (modLink s n f).crl = s.crl := by unfold modLink; rfl
@[simp] theorem modLink_electors : (modLink s n f).electors = s.electors := by unfold modLink; rfl
@[simp] theorem modLink_actTab : (modLink s n f).actTab = s.actTab := by unfold modLink; rfl
@[simp] theorem modLink_takeHomes : (modLink s n f).takeHomes = s.takeHomes := by unfold modLink; rfl
@[simp] theorem modLink_heldLeft : (modLink s n f).heldLeft = s.heldLeft := by unfold modLink; rfl
@[simp] theorem modLink_relays : (modLink s n f).relays = s.relays := by unfold modLink; rfl
@[simp] theorem modLink_relayC : (modLink s n f).relayC = s.relayC := by unfold modLink; rfl
@[simp] theorem modLink_hwins : (modLink s n f).hwins = s.hwins := by unfold modLink; rfl
@[simp] theorem modLink_shadow : (modLink s n f).shadow = s.shadow := by unfold modLink; rfl
@[simp] theorem modLink_xfers : (modLink s n f).xfers = s.xfers := by unfold modLink; rfl
@[simp] theorem modLink_hfull : (modLink s n f).hfull = s.hfull := by unfold modLink; rfl
@[simp] theorem modLink_copy : (modLink s n f).copy = s.copy := by unfold modLink; rfl
@[simp] theorem modLink_podFwd : (modLink s n f).podFwd = s.podFwd := by unfold modLink; rfl
@[simp] theorem modLink_podPost : (modLink s n f).podPost = s.podPost := by unfold modLink; rfl
@[simp] theorem modLink_staged : (modLink s n f).staged = s.staged := by unfold modLink; rfl
@[simp] theorem modLink_img : (modLink s n f).img = s.img := by unfold modLink; rfl
@[simp] theorem modLink_ran : (modLink s n f).ran = s.ran := by unfold modLink; rfl
@[simp] theorem modLink_keys : (modLink s n f).keys = s.keys := by unfold modLink; rfl
@[simp] theorem modLink_kcmd : (modLink s n f).kcmd = s.kcmd := by unfold modLink; rfl
@[simp] theorem modLink_polled : (modLink s n f).polled = s.polled := by unfold modLink; rfl
@[simp] theorem modLink_kick : (modLink s n f).kick = s.kick := by unfold modLink; rfl
@[simp] theorem modLink_logLevel : (modLink s n f).logLevel = s.logLevel := by unfold modLink; rfl
@[simp] theorem modLink_tqs : (modLink s n f).tqs = s.tqs := by unfold modLink; rfl
@[simp] theorem modLink_stall : (modLink s n f).stall = s.stall := by unfold modLink; rfl
@[simp] theorem modLink_coldDue : (modLink s n f).coldDue = s.coldDue := by unfold modLink; rfl
@[simp] theorem modLink_rstn : (modLink s n f).rstn = s.rstn := by unfold modLink; rfl
@[simp] theorem modLink_pwrGood : (modLink s n f).pwrGood = s.pwrGood := by unfold modLink; rfl
@[simp] theorem modLink_thermtrip : (modLink s n f).thermtrip = s.thermtrip := by unfold modLink; rfl
@[simp] theorem modLink_boot : (modLink s n f).boot = s.boot := by unfold modLink; rfl
@[simp] theorem modLink_jtag : (modLink s n f).jtag = s.jtag := by unfold modLink; rfl
@[simp] theorem modLink_jtagDrive : (modLink s n f).jtagDrive = s.jtagDrive := by unfold modLink; rfl
@[simp] theorem modLink_accts : (modLink s n f).accts = s.accts := by unfold modLink; rfl
@[simp] theorem modLink_acctAt : (modLink s n f).acctAt = s.acctAt := by unfold modLink; rfl
end

/-! ### setLnkSt -/
section
variable (n v : Nat)
@[simp] theorem setLnkSt_pending : (setLnkSt s n v).pending = s.pending := by unfold setLnkSt; exact setRf_pending ..
@[simp] theorem setLnkSt_phase : (setLnkSt s n v).phase = s.phase := by unfold setLnkSt; exact setRf_phase ..
@[simp] theorem setLnkSt_mem : (setLnkSt s n v).mem = s.mem := by unfold setLnkSt; exact setRf_mem ..
@[simp] theorem setLnkSt_ecc : (setLnkSt s n v).ecc = s.ecc := by unfold setLnkSt; exact setRf_ecc ..
@[simp] theorem setLnkSt_sec : (setLnkSt s n v).sec = s.sec := by unfold setLnkSt; exact setRf_sec ..
@[simp] theorem setLnkSt_uncSec : (setLnkSt s n v).uncSec = s.uncSec := by unfold setLnkSt; exact setRf_uncSec ..
@[simp] theorem setLnkSt_patCorr : (setLnkSt s n v).patCorr = s.patCorr := by unfold setLnkSt; exact setRf_patCorr ..
@[simp] theorem setLnkSt_cores : (setLnkSt s n v).cores = s.cores := by unfold setLnkSt; exact setRf_cores ..
@[simp] theorem setLnkSt_chans : (setLnkSt s n v).chans = s.chans := by unfold setLnkSt; exact setRf_chans ..
@[simp] theorem setLnkSt_dbanks : (setLnkSt s n v).dbanks = s.dbanks := by unfold setLnkSt; exact setRf_dbanks ..
@[simp] theorem setLnkSt_acts : (setLnkSt s n v).acts = s.acts := by unfold setLnkSt; exact setRf_acts ..
@[simp] theorem setLnkSt_jobs : (setLnkSt s n v).jobs = s.jobs := by unfold setLnkSt; exact setRf_jobs ..
@[simp] theorem setLnkSt_nextJob : (setLnkSt s n v).nextJob = s.nextJob := by unfold setLnkSt; exact setRf_nextJob ..
@[simp] theorem setLnkSt_free : (setLnkSt s n v).free = s.free := by unfold setLnkSt; exact setRf_free ..
@[simp] theorem setLnkSt_faults : (setLnkSt s n v).faults = s.faults := by unfold setLnkSt; exact setRf_faults ..
@[simp] theorem setLnkSt_wearMark : (setLnkSt s n v).wearMark = s.wearMark := by unfold setLnkSt; exact setRf_wearMark ..
@[simp] theorem setLnkSt_tileMark : (setLnkSt s n v).tileMark = s.tileMark := by unfold setLnkSt; exact setRf_tileMark ..
@[simp] theorem setLnkSt_halted : (setLnkSt s n v).halted = s.halted := by unfold setLnkSt; exact setRf_halted ..
@[simp] theorem setLnkSt_evacuate : (setLnkSt s n v).evacuate = s.evacuate := by unfold setLnkSt; exact setRf_evacuate ..
@[simp] theorem setLnkSt_vote : (setLnkSt s n v).vote = s.vote := by unfold setLnkSt; exact setRf_vote ..
@[simp] theorem setLnkSt_sent : (setLnkSt s n v).sent = s.sent := by unfold setLnkSt; exact setRf_sent ..
@[simp] theorem setLnkSt_strmTab : (setLnkSt s n v).strmTab = s.strmTab := by unfold setLnkSt; exact setRf_strmTab ..
@[simp] theorem setLnkSt_strmPend : (setLnkSt s n v).strmPend = s.strmPend := by unfold setLnkSt; exact setRf_strmPend ..
@[simp] theorem setLnkSt_home : (setLnkSt s n v).home = s.home := by unfold setLnkSt; exact setRf_home ..
@[simp] theorem setLnkSt_fritRefs : (setLnkSt s n v).fritRefs = s.fritRefs := by unfold setLnkSt; exact setRf_fritRefs ..
@[simp] theorem setLnkSt_fritDelta : (setLnkSt s n v).fritDelta = s.fritDelta := by unfold setLnkSt; exact setRf_fritDelta ..
@[simp] theorem setLnkSt_repairCand : (setLnkSt s n v).repairCand = s.repairCand := by unfold setLnkSt; exact setRf_repairCand ..
@[simp] theorem setLnkSt_candSecs : (setLnkSt s n v).candSecs = s.candSecs := by unfold setLnkSt; exact setRf_candSecs ..
@[simp] theorem setLnkSt_spareRows : (setLnkSt s n v).spareRows = s.spareRows := by unfold setLnkSt; exact setRf_spareRows ..
@[simp] theorem setLnkSt_flights : (setLnkSt s n v).flights = s.flights := by unfold setLnkSt; exact setRf_flights ..
@[simp] theorem setLnkSt_bins : (setLnkSt s n v).bins = s.bins := by unfold setLnkSt; exact setRf_bins ..
@[simp] theorem setLnkSt_bbusy : (setLnkSt s n v).bbusy = s.bbusy := by unfold setLnkSt; exact setRf_bbusy ..
@[simp] theorem setLnkSt_bseq : (setLnkSt s n v).bseq = s.bseq := by unfold setLnkSt; exact setRf_bseq ..
@[simp] theorem setLnkSt_brx : (setLnkSt s n v).brx = s.brx := by unfold setLnkSt; exact setRf_brx ..
@[simp] theorem setLnkSt_slotBad : (setLnkSt s n v).slotBad = s.slotBad := by unfold setLnkSt; exact setRf_slotBad ..
@[simp] theorem setLnkSt_links : (setLnkSt s n v).links = s.links := by unfold setLnkSt; exact setRf_links ..
@[simp] theorem setLnkSt_sysIn : (setLnkSt s n v).sysIn = s.sysIn := by unfold setLnkSt; exact setRf_sysIn ..
@[simp] theorem setLnkSt_tether : (setLnkSt s n v).tether = s.tether := by unfold setLnkSt; exact setRf_tether ..
@[simp] theorem setLnkSt_rootIn : (setLnkSt s n v).rootIn = s.rootIn := by unfold setLnkSt; exact setRf_rootIn ..
@[simp] theorem setLnkSt_shown : (setLnkSt s n v).shown = s.shown := by unfold setLnkSt; exact setRf_shown ..
@[simp] theorem setLnkSt_voteLinks : (setLnkSt s n v).voteLinks = s.voteLinks := by unfold setLnkSt; exact setRf_voteLinks ..
@[simp] theorem setLnkSt_evicted : (setLnkSt s n v).evicted = s.evicted := by unfold setLnkSt; exact setRf_evicted ..
@[simp] theorem setLnkSt_yawRef : (setLnkSt s n v).yawRef = s.yawRef := by unfold setLnkSt; exact setRf_yawRef ..
@[simp] theorem setLnkSt_yawCrl : (setLnkSt s n v).yawCrl = s.yawCrl := by unfold setLnkSt; exact setRf_yawCrl ..
@[simp] theorem setLnkSt_yawTake : (setLnkSt s n v).yawTake = s.yawTake := by unfold setLnkSt; exact setRf_yawTake ..
@[simp] theorem setLnkSt_thermal : (setLnkSt s n v).thermal = s.thermal := by unfold setLnkSt; exact setRf_thermal ..
@[simp] theorem setLnkSt_narrow : (setLnkSt s n v).narrow = s.narrow := by unfold setLnkSt; exact setRf_narrow ..
@[simp] theorem setLnkSt_rops : (setLnkSt s n v).rops = s.rops := by unfold setLnkSt; exact setRf_rops ..
@[simp] theorem setLnkSt_rwins : (setLnkSt s n v).rwins = s.rwins := by unfold setLnkSt; exact setRf_rwins ..
@[simp] theorem setLnkSt_punits : (setLnkSt s n v).punits = s.punits := by unfold setLnkSt; exact setRf_punits ..
@[simp] theorem setLnkSt_owners : (setLnkSt s n v).owners = s.owners := by unfold setLnkSt; exact setRf_owners ..
@[simp] theorem setLnkSt_causes : (setLnkSt s n v).causes = s.causes := by unfold setLnkSt; exact setRf_causes ..
@[simp] theorem setLnkSt_ranges : (setLnkSt s n v).ranges = s.ranges := by unfold setLnkSt; exact setRf_ranges ..
@[simp] theorem setLnkSt_twinPend : (setLnkSt s n v).twinPend = s.twinPend := by unfold setLnkSt; exact setRf_twinPend ..
@[simp] theorem setLnkSt_flash : (setLnkSt s n v).flash = s.flash := by unfold setLnkSt; exact setRf_flash ..
@[simp] theorem setLnkSt_stageAt : (setLnkSt s n v).stageAt = s.stageAt := by unfold setLnkSt; exact setRf_stageAt ..
@[simp] theorem setLnkSt_ucie : (setLnkSt s n v).ucie = s.ucie := by unfold setLnkSt; exact setRf_ucie ..
@[simp] theorem setLnkSt_fired : (setLnkSt s n v).fired = s.fired := by unfold setLnkSt; exact setRf_fired ..
@[simp] theorem setLnkSt_mirrorBad : (setLnkSt s n v).mirrorBad = s.mirrorBad := by unfold setLnkSt; exact setRf_mirrorBad ..
@[simp] theorem setLnkSt_routes : (setLnkSt s n v).routes = s.routes := by unfold setLnkSt; exact setRf_routes ..
@[simp] theorem setLnkSt_train : (setLnkSt s n v).train = s.train := by unfold setLnkSt; exact setRf_train ..
@[simp] theorem setLnkSt_srvs : (setLnkSt s n v).srvs = s.srvs := by unfold setLnkSt; exact setRf_srvs ..
@[simp] theorem setLnkSt_envKeys : (setLnkSt s n v).envKeys = s.envKeys := by unfold setLnkSt; exact setRf_envKeys ..
@[simp] theorem setLnkSt_listed : (setLnkSt s n v).listed = s.listed := by unfold setLnkSt; exact setRf_listed ..
@[simp] theorem setLnkSt_heldStreams : (setLnkSt s n v).heldStreams = s.heldStreams := by unfold setLnkSt; exact setRf_heldStreams ..
@[simp] theorem setLnkSt_crl : (setLnkSt s n v).crl = s.crl := by unfold setLnkSt; exact setRf_crl ..
@[simp] theorem setLnkSt_electors : (setLnkSt s n v).electors = s.electors := by unfold setLnkSt; exact setRf_electors ..
@[simp] theorem setLnkSt_actTab : (setLnkSt s n v).actTab = s.actTab := by unfold setLnkSt; exact setRf_actTab ..
@[simp] theorem setLnkSt_takeHomes : (setLnkSt s n v).takeHomes = s.takeHomes := by unfold setLnkSt; exact setRf_takeHomes ..
@[simp] theorem setLnkSt_heldLeft : (setLnkSt s n v).heldLeft = s.heldLeft := by unfold setLnkSt; exact setRf_heldLeft ..
@[simp] theorem setLnkSt_relays : (setLnkSt s n v).relays = s.relays := by unfold setLnkSt; exact setRf_relays ..
@[simp] theorem setLnkSt_relayC : (setLnkSt s n v).relayC = s.relayC := by unfold setLnkSt; exact setRf_relayC ..
@[simp] theorem setLnkSt_hwins : (setLnkSt s n v).hwins = s.hwins := by unfold setLnkSt; exact setRf_hwins ..
@[simp] theorem setLnkSt_shadow : (setLnkSt s n v).shadow = s.shadow := by unfold setLnkSt; exact setRf_shadow ..
@[simp] theorem setLnkSt_xfers : (setLnkSt s n v).xfers = s.xfers := by unfold setLnkSt; exact setRf_xfers ..
@[simp] theorem setLnkSt_hfull : (setLnkSt s n v).hfull = s.hfull := by unfold setLnkSt; exact setRf_hfull ..
@[simp] theorem setLnkSt_copy : (setLnkSt s n v).copy = s.copy := by unfold setLnkSt; exact setRf_copy ..
@[simp] theorem setLnkSt_podFwd : (setLnkSt s n v).podFwd = s.podFwd := by unfold setLnkSt; exact setRf_podFwd ..
@[simp] theorem setLnkSt_podPost : (setLnkSt s n v).podPost = s.podPost := by unfold setLnkSt; exact setRf_podPost ..
@[simp] theorem setLnkSt_staged : (setLnkSt s n v).staged = s.staged := by unfold setLnkSt; exact setRf_staged ..
@[simp] theorem setLnkSt_img : (setLnkSt s n v).img = s.img := by unfold setLnkSt; exact setRf_img ..
@[simp] theorem setLnkSt_ran : (setLnkSt s n v).ran = s.ran := by unfold setLnkSt; exact setRf_ran ..
@[simp] theorem setLnkSt_keys : (setLnkSt s n v).keys = s.keys := by unfold setLnkSt; exact setRf_keys ..
@[simp] theorem setLnkSt_kcmd : (setLnkSt s n v).kcmd = s.kcmd := by unfold setLnkSt; exact setRf_kcmd ..
@[simp] theorem setLnkSt_polled : (setLnkSt s n v).polled = s.polled := by unfold setLnkSt; exact setRf_polled ..
@[simp] theorem setLnkSt_kick : (setLnkSt s n v).kick = s.kick := by unfold setLnkSt; exact setRf_kick ..
@[simp] theorem setLnkSt_logLevel : (setLnkSt s n v).logLevel = s.logLevel := by unfold setLnkSt; exact setRf_logLevel ..
@[simp] theorem setLnkSt_tqs : (setLnkSt s n v).tqs = s.tqs := by unfold setLnkSt; exact setRf_tqs ..
@[simp] theorem setLnkSt_stall : (setLnkSt s n v).stall = s.stall := by unfold setLnkSt; exact setRf_stall ..
@[simp] theorem setLnkSt_coldDue : (setLnkSt s n v).coldDue = s.coldDue := by unfold setLnkSt; exact setRf_coldDue ..
@[simp] theorem setLnkSt_rstn : (setLnkSt s n v).rstn = s.rstn := by unfold setLnkSt; exact setRf_rstn ..
@[simp] theorem setLnkSt_pwrGood : (setLnkSt s n v).pwrGood = s.pwrGood := by unfold setLnkSt; exact setRf_pwrGood ..
@[simp] theorem setLnkSt_thermtrip : (setLnkSt s n v).thermtrip = s.thermtrip := by unfold setLnkSt; exact setRf_thermtrip ..
@[simp] theorem setLnkSt_boot : (setLnkSt s n v).boot = s.boot := by unfold setLnkSt; exact setRf_boot ..
@[simp] theorem setLnkSt_jtag : (setLnkSt s n v).jtag = s.jtag := by unfold setLnkSt; exact setRf_jtag ..
@[simp] theorem setLnkSt_jtagDrive : (setLnkSt s n v).jtagDrive = s.jtagDrive := by unfold setLnkSt; exact setRf_jtagDrive ..
@[simp] theorem setLnkSt_accts : (setLnkSt s n v).accts = s.accts := by unfold setLnkSt; exact setRf_accts ..
@[simp] theorem setLnkSt_acctAt : (setLnkSt s n v).acctAt = s.acctAt := by unfold setLnkSt; exact setRf_acctAt ..
end

/-! ### modPunit -/
section
variable (n : Nat) (f : PUnit → PUnit)
@[simp] theorem modPunit_pending : (modPunit s n f).pending = s.pending := by unfold modPunit; rfl
@[simp] theorem modPunit_phase : (modPunit s n f).phase = s.phase := by unfold modPunit; rfl
@[simp] theorem modPunit_regs : (modPunit s n f).regs = s.regs := by unfold modPunit; rfl
@[simp] theorem modPunit_mem : (modPunit s n f).mem = s.mem := by unfold modPunit; rfl
@[simp] theorem modPunit_ecc : (modPunit s n f).ecc = s.ecc := by unfold modPunit; rfl
@[simp] theorem modPunit_sec : (modPunit s n f).sec = s.sec := by unfold modPunit; rfl
@[simp] theorem modPunit_uncSec : (modPunit s n f).uncSec = s.uncSec := by unfold modPunit; rfl
@[simp] theorem modPunit_patCorr : (modPunit s n f).patCorr = s.patCorr := by unfold modPunit; rfl
@[simp] theorem modPunit_cores : (modPunit s n f).cores = s.cores := by unfold modPunit; rfl
@[simp] theorem modPunit_chans : (modPunit s n f).chans = s.chans := by unfold modPunit; rfl
@[simp] theorem modPunit_dbanks : (modPunit s n f).dbanks = s.dbanks := by unfold modPunit; rfl
@[simp] theorem modPunit_acts : (modPunit s n f).acts = s.acts := by unfold modPunit; rfl
@[simp] theorem modPunit_jobs : (modPunit s n f).jobs = s.jobs := by unfold modPunit; rfl
@[simp] theorem modPunit_nextJob : (modPunit s n f).nextJob = s.nextJob := by unfold modPunit; rfl
@[simp] theorem modPunit_free : (modPunit s n f).free = s.free := by unfold modPunit; rfl
@[simp] theorem modPunit_faults : (modPunit s n f).faults = s.faults := by unfold modPunit; rfl
@[simp] theorem modPunit_wearMark : (modPunit s n f).wearMark = s.wearMark := by unfold modPunit; rfl
@[simp] theorem modPunit_tileMark : (modPunit s n f).tileMark = s.tileMark := by unfold modPunit; rfl
@[simp] theorem modPunit_halted : (modPunit s n f).halted = s.halted := by unfold modPunit; rfl
@[simp] theorem modPunit_evacuate : (modPunit s n f).evacuate = s.evacuate := by unfold modPunit; rfl
@[simp] theorem modPunit_vote : (modPunit s n f).vote = s.vote := by unfold modPunit; rfl
@[simp] theorem modPunit_sent : (modPunit s n f).sent = s.sent := by unfold modPunit; rfl
@[simp] theorem modPunit_strmTab : (modPunit s n f).strmTab = s.strmTab := by unfold modPunit; rfl
@[simp] theorem modPunit_strmPend : (modPunit s n f).strmPend = s.strmPend := by unfold modPunit; rfl
@[simp] theorem modPunit_home : (modPunit s n f).home = s.home := by unfold modPunit; rfl
@[simp] theorem modPunit_fritRefs : (modPunit s n f).fritRefs = s.fritRefs := by unfold modPunit; rfl
@[simp] theorem modPunit_fritDelta : (modPunit s n f).fritDelta = s.fritDelta := by unfold modPunit; rfl
@[simp] theorem modPunit_repairCand : (modPunit s n f).repairCand = s.repairCand := by unfold modPunit; rfl
@[simp] theorem modPunit_candSecs : (modPunit s n f).candSecs = s.candSecs := by unfold modPunit; rfl
@[simp] theorem modPunit_spareRows : (modPunit s n f).spareRows = s.spareRows := by unfold modPunit; rfl
@[simp] theorem modPunit_flights : (modPunit s n f).flights = s.flights := by unfold modPunit; rfl
@[simp] theorem modPunit_bins : (modPunit s n f).bins = s.bins := by unfold modPunit; rfl
@[simp] theorem modPunit_bbusy : (modPunit s n f).bbusy = s.bbusy := by unfold modPunit; rfl
@[simp] theorem modPunit_bseq : (modPunit s n f).bseq = s.bseq := by unfold modPunit; rfl
@[simp] theorem modPunit_brx : (modPunit s n f).brx = s.brx := by unfold modPunit; rfl
@[simp] theorem modPunit_slotBad : (modPunit s n f).slotBad = s.slotBad := by unfold modPunit; rfl
@[simp] theorem modPunit_links : (modPunit s n f).links = s.links := by unfold modPunit; rfl
@[simp] theorem modPunit_sysIn : (modPunit s n f).sysIn = s.sysIn := by unfold modPunit; rfl
@[simp] theorem modPunit_tether : (modPunit s n f).tether = s.tether := by unfold modPunit; rfl
@[simp] theorem modPunit_rootIn : (modPunit s n f).rootIn = s.rootIn := by unfold modPunit; rfl
@[simp] theorem modPunit_shown : (modPunit s n f).shown = s.shown := by unfold modPunit; rfl
@[simp] theorem modPunit_voteLinks : (modPunit s n f).voteLinks = s.voteLinks := by unfold modPunit; rfl
@[simp] theorem modPunit_evicted : (modPunit s n f).evicted = s.evicted := by unfold modPunit; rfl
@[simp] theorem modPunit_yawRef : (modPunit s n f).yawRef = s.yawRef := by unfold modPunit; rfl
@[simp] theorem modPunit_yawCrl : (modPunit s n f).yawCrl = s.yawCrl := by unfold modPunit; rfl
@[simp] theorem modPunit_yawTake : (modPunit s n f).yawTake = s.yawTake := by unfold modPunit; rfl
@[simp] theorem modPunit_thermal : (modPunit s n f).thermal = s.thermal := by unfold modPunit; rfl
@[simp] theorem modPunit_narrow : (modPunit s n f).narrow = s.narrow := by unfold modPunit; rfl
@[simp] theorem modPunit_rops : (modPunit s n f).rops = s.rops := by unfold modPunit; rfl
@[simp] theorem modPunit_rwins : (modPunit s n f).rwins = s.rwins := by unfold modPunit; rfl
@[simp] theorem modPunit_owners : (modPunit s n f).owners = s.owners := by unfold modPunit; rfl
@[simp] theorem modPunit_causes : (modPunit s n f).causes = s.causes := by unfold modPunit; rfl
@[simp] theorem modPunit_ranges : (modPunit s n f).ranges = s.ranges := by unfold modPunit; rfl
@[simp] theorem modPunit_twinPend : (modPunit s n f).twinPend = s.twinPend := by unfold modPunit; rfl
@[simp] theorem modPunit_flash : (modPunit s n f).flash = s.flash := by unfold modPunit; rfl
@[simp] theorem modPunit_stageAt : (modPunit s n f).stageAt = s.stageAt := by unfold modPunit; rfl
@[simp] theorem modPunit_ucie : (modPunit s n f).ucie = s.ucie := by unfold modPunit; rfl
@[simp] theorem modPunit_fired : (modPunit s n f).fired = s.fired := by unfold modPunit; rfl
@[simp] theorem modPunit_mirrorBad : (modPunit s n f).mirrorBad = s.mirrorBad := by unfold modPunit; rfl
@[simp] theorem modPunit_routes : (modPunit s n f).routes = s.routes := by unfold modPunit; rfl
@[simp] theorem modPunit_train : (modPunit s n f).train = s.train := by unfold modPunit; rfl
@[simp] theorem modPunit_srvs : (modPunit s n f).srvs = s.srvs := by unfold modPunit; rfl
@[simp] theorem modPunit_envKeys : (modPunit s n f).envKeys = s.envKeys := by unfold modPunit; rfl
@[simp] theorem modPunit_listed : (modPunit s n f).listed = s.listed := by unfold modPunit; rfl
@[simp] theorem modPunit_heldStreams : (modPunit s n f).heldStreams = s.heldStreams := by unfold modPunit; rfl
@[simp] theorem modPunit_crl : (modPunit s n f).crl = s.crl := by unfold modPunit; rfl
@[simp] theorem modPunit_electors : (modPunit s n f).electors = s.electors := by unfold modPunit; rfl
@[simp] theorem modPunit_actTab : (modPunit s n f).actTab = s.actTab := by unfold modPunit; rfl
@[simp] theorem modPunit_takeHomes : (modPunit s n f).takeHomes = s.takeHomes := by unfold modPunit; rfl
@[simp] theorem modPunit_heldLeft : (modPunit s n f).heldLeft = s.heldLeft := by unfold modPunit; rfl
@[simp] theorem modPunit_relays : (modPunit s n f).relays = s.relays := by unfold modPunit; rfl
@[simp] theorem modPunit_relayC : (modPunit s n f).relayC = s.relayC := by unfold modPunit; rfl
@[simp] theorem modPunit_hwins : (modPunit s n f).hwins = s.hwins := by unfold modPunit; rfl
@[simp] theorem modPunit_shadow : (modPunit s n f).shadow = s.shadow := by unfold modPunit; rfl
@[simp] theorem modPunit_xfers : (modPunit s n f).xfers = s.xfers := by unfold modPunit; rfl
@[simp] theorem modPunit_hfull : (modPunit s n f).hfull = s.hfull := by unfold modPunit; rfl
@[simp] theorem modPunit_copy : (modPunit s n f).copy = s.copy := by unfold modPunit; rfl
@[simp] theorem modPunit_podFwd : (modPunit s n f).podFwd = s.podFwd := by unfold modPunit; rfl
@[simp] theorem modPunit_podPost : (modPunit s n f).podPost = s.podPost := by unfold modPunit; rfl
@[simp] theorem modPunit_staged : (modPunit s n f).staged = s.staged := by unfold modPunit; rfl
@[simp] theorem modPunit_img : (modPunit s n f).img = s.img := by unfold modPunit; rfl
@[simp] theorem modPunit_ran : (modPunit s n f).ran = s.ran := by unfold modPunit; rfl
@[simp] theorem modPunit_keys : (modPunit s n f).keys = s.keys := by unfold modPunit; rfl
@[simp] theorem modPunit_kcmd : (modPunit s n f).kcmd = s.kcmd := by unfold modPunit; rfl
@[simp] theorem modPunit_polled : (modPunit s n f).polled = s.polled := by unfold modPunit; rfl
@[simp] theorem modPunit_kick : (modPunit s n f).kick = s.kick := by unfold modPunit; rfl
@[simp] theorem modPunit_logLevel : (modPunit s n f).logLevel = s.logLevel := by unfold modPunit; rfl
@[simp] theorem modPunit_tqs : (modPunit s n f).tqs = s.tqs := by unfold modPunit; rfl
@[simp] theorem modPunit_stall : (modPunit s n f).stall = s.stall := by unfold modPunit; rfl
@[simp] theorem modPunit_coldDue : (modPunit s n f).coldDue = s.coldDue := by unfold modPunit; rfl
@[simp] theorem modPunit_rstn : (modPunit s n f).rstn = s.rstn := by unfold modPunit; rfl
@[simp] theorem modPunit_pwrGood : (modPunit s n f).pwrGood = s.pwrGood := by unfold modPunit; rfl
@[simp] theorem modPunit_thermtrip : (modPunit s n f).thermtrip = s.thermtrip := by unfold modPunit; rfl
@[simp] theorem modPunit_boot : (modPunit s n f).boot = s.boot := by unfold modPunit; rfl
@[simp] theorem modPunit_jtag : (modPunit s n f).jtag = s.jtag := by unfold modPunit; rfl
@[simp] theorem modPunit_jtagDrive : (modPunit s n f).jtagDrive = s.jtagDrive := by unfold modPunit; rfl
@[simp] theorem modPunit_accts : (modPunit s n f).accts = s.accts := by unfold modPunit; rfl
@[simp] theorem modPunit_acctAt : (modPunit s n f).acctAt = s.acctAt := by unfold modPunit; rfl
end

/-! ### modRop -/
section
variable (k : Nat) (f : RopS → RopS)
@[simp] theorem modRop_pending : (modRop s k f).pending = s.pending := by unfold modRop; rfl
@[simp] theorem modRop_phase : (modRop s k f).phase = s.phase := by unfold modRop; rfl
@[simp] theorem modRop_regs : (modRop s k f).regs = s.regs := by unfold modRop; rfl
@[simp] theorem modRop_mem : (modRop s k f).mem = s.mem := by unfold modRop; rfl
@[simp] theorem modRop_ecc : (modRop s k f).ecc = s.ecc := by unfold modRop; rfl
@[simp] theorem modRop_sec : (modRop s k f).sec = s.sec := by unfold modRop; rfl
@[simp] theorem modRop_uncSec : (modRop s k f).uncSec = s.uncSec := by unfold modRop; rfl
@[simp] theorem modRop_patCorr : (modRop s k f).patCorr = s.patCorr := by unfold modRop; rfl
@[simp] theorem modRop_cores : (modRop s k f).cores = s.cores := by unfold modRop; rfl
@[simp] theorem modRop_chans : (modRop s k f).chans = s.chans := by unfold modRop; rfl
@[simp] theorem modRop_dbanks : (modRop s k f).dbanks = s.dbanks := by unfold modRop; rfl
@[simp] theorem modRop_acts : (modRop s k f).acts = s.acts := by unfold modRop; rfl
@[simp] theorem modRop_jobs : (modRop s k f).jobs = s.jobs := by unfold modRop; rfl
@[simp] theorem modRop_nextJob : (modRop s k f).nextJob = s.nextJob := by unfold modRop; rfl
@[simp] theorem modRop_free : (modRop s k f).free = s.free := by unfold modRop; rfl
@[simp] theorem modRop_faults : (modRop s k f).faults = s.faults := by unfold modRop; rfl
@[simp] theorem modRop_wearMark : (modRop s k f).wearMark = s.wearMark := by unfold modRop; rfl
@[simp] theorem modRop_tileMark : (modRop s k f).tileMark = s.tileMark := by unfold modRop; rfl
@[simp] theorem modRop_halted : (modRop s k f).halted = s.halted := by unfold modRop; rfl
@[simp] theorem modRop_evacuate : (modRop s k f).evacuate = s.evacuate := by unfold modRop; rfl
@[simp] theorem modRop_vote : (modRop s k f).vote = s.vote := by unfold modRop; rfl
@[simp] theorem modRop_sent : (modRop s k f).sent = s.sent := by unfold modRop; rfl
@[simp] theorem modRop_strmTab : (modRop s k f).strmTab = s.strmTab := by unfold modRop; rfl
@[simp] theorem modRop_strmPend : (modRop s k f).strmPend = s.strmPend := by unfold modRop; rfl
@[simp] theorem modRop_home : (modRop s k f).home = s.home := by unfold modRop; rfl
@[simp] theorem modRop_fritRefs : (modRop s k f).fritRefs = s.fritRefs := by unfold modRop; rfl
@[simp] theorem modRop_fritDelta : (modRop s k f).fritDelta = s.fritDelta := by unfold modRop; rfl
@[simp] theorem modRop_repairCand : (modRop s k f).repairCand = s.repairCand := by unfold modRop; rfl
@[simp] theorem modRop_candSecs : (modRop s k f).candSecs = s.candSecs := by unfold modRop; rfl
@[simp] theorem modRop_spareRows : (modRop s k f).spareRows = s.spareRows := by unfold modRop; rfl
@[simp] theorem modRop_flights : (modRop s k f).flights = s.flights := by unfold modRop; rfl
@[simp] theorem modRop_bins : (modRop s k f).bins = s.bins := by unfold modRop; rfl
@[simp] theorem modRop_bbusy : (modRop s k f).bbusy = s.bbusy := by unfold modRop; rfl
@[simp] theorem modRop_bseq : (modRop s k f).bseq = s.bseq := by unfold modRop; rfl
@[simp] theorem modRop_brx : (modRop s k f).brx = s.brx := by unfold modRop; rfl
@[simp] theorem modRop_slotBad : (modRop s k f).slotBad = s.slotBad := by unfold modRop; rfl
@[simp] theorem modRop_links : (modRop s k f).links = s.links := by unfold modRop; rfl
@[simp] theorem modRop_sysIn : (modRop s k f).sysIn = s.sysIn := by unfold modRop; rfl
@[simp] theorem modRop_tether : (modRop s k f).tether = s.tether := by unfold modRop; rfl
@[simp] theorem modRop_rootIn : (modRop s k f).rootIn = s.rootIn := by unfold modRop; rfl
@[simp] theorem modRop_shown : (modRop s k f).shown = s.shown := by unfold modRop; rfl
@[simp] theorem modRop_voteLinks : (modRop s k f).voteLinks = s.voteLinks := by unfold modRop; rfl
@[simp] theorem modRop_evicted : (modRop s k f).evicted = s.evicted := by unfold modRop; rfl
@[simp] theorem modRop_yawRef : (modRop s k f).yawRef = s.yawRef := by unfold modRop; rfl
@[simp] theorem modRop_yawCrl : (modRop s k f).yawCrl = s.yawCrl := by unfold modRop; rfl
@[simp] theorem modRop_yawTake : (modRop s k f).yawTake = s.yawTake := by unfold modRop; rfl
@[simp] theorem modRop_thermal : (modRop s k f).thermal = s.thermal := by unfold modRop; rfl
@[simp] theorem modRop_narrow : (modRop s k f).narrow = s.narrow := by unfold modRop; rfl
@[simp] theorem modRop_rwins : (modRop s k f).rwins = s.rwins := by unfold modRop; rfl
@[simp] theorem modRop_punits : (modRop s k f).punits = s.punits := by unfold modRop; rfl
@[simp] theorem modRop_owners : (modRop s k f).owners = s.owners := by unfold modRop; rfl
@[simp] theorem modRop_causes : (modRop s k f).causes = s.causes := by unfold modRop; rfl
@[simp] theorem modRop_ranges : (modRop s k f).ranges = s.ranges := by unfold modRop; rfl
@[simp] theorem modRop_twinPend : (modRop s k f).twinPend = s.twinPend := by unfold modRop; rfl
@[simp] theorem modRop_flash : (modRop s k f).flash = s.flash := by unfold modRop; rfl
@[simp] theorem modRop_stageAt : (modRop s k f).stageAt = s.stageAt := by unfold modRop; rfl
@[simp] theorem modRop_ucie : (modRop s k f).ucie = s.ucie := by unfold modRop; rfl
@[simp] theorem modRop_fired : (modRop s k f).fired = s.fired := by unfold modRop; rfl
@[simp] theorem modRop_mirrorBad : (modRop s k f).mirrorBad = s.mirrorBad := by unfold modRop; rfl
@[simp] theorem modRop_routes : (modRop s k f).routes = s.routes := by unfold modRop; rfl
@[simp] theorem modRop_train : (modRop s k f).train = s.train := by unfold modRop; rfl
@[simp] theorem modRop_srvs : (modRop s k f).srvs = s.srvs := by unfold modRop; rfl
@[simp] theorem modRop_envKeys : (modRop s k f).envKeys = s.envKeys := by unfold modRop; rfl
@[simp] theorem modRop_listed : (modRop s k f).listed = s.listed := by unfold modRop; rfl
@[simp] theorem modRop_heldStreams : (modRop s k f).heldStreams = s.heldStreams := by unfold modRop; rfl
@[simp] theorem modRop_crl : (modRop s k f).crl = s.crl := by unfold modRop; rfl
@[simp] theorem modRop_electors : (modRop s k f).electors = s.electors := by unfold modRop; rfl
@[simp] theorem modRop_actTab : (modRop s k f).actTab = s.actTab := by unfold modRop; rfl
@[simp] theorem modRop_takeHomes : (modRop s k f).takeHomes = s.takeHomes := by unfold modRop; rfl
@[simp] theorem modRop_heldLeft : (modRop s k f).heldLeft = s.heldLeft := by unfold modRop; rfl
@[simp] theorem modRop_relays : (modRop s k f).relays = s.relays := by unfold modRop; rfl
@[simp] theorem modRop_relayC : (modRop s k f).relayC = s.relayC := by unfold modRop; rfl
@[simp] theorem modRop_hwins : (modRop s k f).hwins = s.hwins := by unfold modRop; rfl
@[simp] theorem modRop_shadow : (modRop s k f).shadow = s.shadow := by unfold modRop; rfl
@[simp] theorem modRop_xfers : (modRop s k f).xfers = s.xfers := by unfold modRop; rfl
@[simp] theorem modRop_hfull : (modRop s k f).hfull = s.hfull := by unfold modRop; rfl
@[simp] theorem modRop_copy : (modRop s k f).copy = s.copy := by unfold modRop; rfl
@[simp] theorem modRop_podFwd : (modRop s k f).podFwd = s.podFwd := by unfold modRop; rfl
@[simp] theorem modRop_podPost : (modRop s k f).podPost = s.podPost := by unfold modRop; rfl
@[simp] theorem modRop_staged : (modRop s k f).staged = s.staged := by unfold modRop; rfl
@[simp] theorem modRop_img : (modRop s k f).img = s.img := by unfold modRop; rfl
@[simp] theorem modRop_ran : (modRop s k f).ran = s.ran := by unfold modRop; rfl
@[simp] theorem modRop_keys : (modRop s k f).keys = s.keys := by unfold modRop; rfl
@[simp] theorem modRop_kcmd : (modRop s k f).kcmd = s.kcmd := by unfold modRop; rfl
@[simp] theorem modRop_polled : (modRop s k f).polled = s.polled := by unfold modRop; rfl
@[simp] theorem modRop_kick : (modRop s k f).kick = s.kick := by unfold modRop; rfl
@[simp] theorem modRop_logLevel : (modRop s k f).logLevel = s.logLevel := by unfold modRop; rfl
@[simp] theorem modRop_tqs : (modRop s k f).tqs = s.tqs := by unfold modRop; rfl
@[simp] theorem modRop_stall : (modRop s k f).stall = s.stall := by unfold modRop; rfl
@[simp] theorem modRop_coldDue : (modRop s k f).coldDue = s.coldDue := by unfold modRop; rfl
@[simp] theorem modRop_rstn : (modRop s k f).rstn = s.rstn := by unfold modRop; rfl
@[simp] theorem modRop_pwrGood : (modRop s k f).pwrGood = s.pwrGood := by unfold modRop; rfl
@[simp] theorem modRop_thermtrip : (modRop s k f).thermtrip = s.thermtrip := by unfold modRop; rfl
@[simp] theorem modRop_boot : (modRop s k f).boot = s.boot := by unfold modRop; rfl
@[simp] theorem modRop_jtag : (modRop s k f).jtag = s.jtag := by unfold modRop; rfl
@[simp] theorem modRop_jtagDrive : (modRop s k f).jtagDrive = s.jtagDrive := by unfold modRop; rfl
@[simp] theorem modRop_accts : (modRop s k f).accts = s.accts := by unfold modRop; rfl
@[simp] theorem modRop_acctAt : (modRop s k f).acctAt = s.acctAt := by unfold modRop; rfl
end

/-! ### modSrv -/
section
variable (e : Nat) (f : Srv → Srv)
@[simp] theorem modSrv_pending : (modSrv s e f).pending = s.pending := by unfold modSrv; rfl
@[simp] theorem modSrv_phase : (modSrv s e f).phase = s.phase := by unfold modSrv; rfl
@[simp] theorem modSrv_regs : (modSrv s e f).regs = s.regs := by unfold modSrv; rfl
@[simp] theorem modSrv_mem : (modSrv s e f).mem = s.mem := by unfold modSrv; rfl
@[simp] theorem modSrv_ecc : (modSrv s e f).ecc = s.ecc := by unfold modSrv; rfl
@[simp] theorem modSrv_sec : (modSrv s e f).sec = s.sec := by unfold modSrv; rfl
@[simp] theorem modSrv_uncSec : (modSrv s e f).uncSec = s.uncSec := by unfold modSrv; rfl
@[simp] theorem modSrv_patCorr : (modSrv s e f).patCorr = s.patCorr := by unfold modSrv; rfl
@[simp] theorem modSrv_cores : (modSrv s e f).cores = s.cores := by unfold modSrv; rfl
@[simp] theorem modSrv_chans : (modSrv s e f).chans = s.chans := by unfold modSrv; rfl
@[simp] theorem modSrv_dbanks : (modSrv s e f).dbanks = s.dbanks := by unfold modSrv; rfl
@[simp] theorem modSrv_acts : (modSrv s e f).acts = s.acts := by unfold modSrv; rfl
@[simp] theorem modSrv_jobs : (modSrv s e f).jobs = s.jobs := by unfold modSrv; rfl
@[simp] theorem modSrv_nextJob : (modSrv s e f).nextJob = s.nextJob := by unfold modSrv; rfl
@[simp] theorem modSrv_free : (modSrv s e f).free = s.free := by unfold modSrv; rfl
@[simp] theorem modSrv_faults : (modSrv s e f).faults = s.faults := by unfold modSrv; rfl
@[simp] theorem modSrv_wearMark : (modSrv s e f).wearMark = s.wearMark := by unfold modSrv; rfl
@[simp] theorem modSrv_tileMark : (modSrv s e f).tileMark = s.tileMark := by unfold modSrv; rfl
@[simp] theorem modSrv_halted : (modSrv s e f).halted = s.halted := by unfold modSrv; rfl
@[simp] theorem modSrv_evacuate : (modSrv s e f).evacuate = s.evacuate := by unfold modSrv; rfl
@[simp] theorem modSrv_vote : (modSrv s e f).vote = s.vote := by unfold modSrv; rfl
@[simp] theorem modSrv_sent : (modSrv s e f).sent = s.sent := by unfold modSrv; rfl
@[simp] theorem modSrv_strmTab : (modSrv s e f).strmTab = s.strmTab := by unfold modSrv; rfl
@[simp] theorem modSrv_strmPend : (modSrv s e f).strmPend = s.strmPend := by unfold modSrv; rfl
@[simp] theorem modSrv_home : (modSrv s e f).home = s.home := by unfold modSrv; rfl
@[simp] theorem modSrv_fritRefs : (modSrv s e f).fritRefs = s.fritRefs := by unfold modSrv; rfl
@[simp] theorem modSrv_fritDelta : (modSrv s e f).fritDelta = s.fritDelta := by unfold modSrv; rfl
@[simp] theorem modSrv_repairCand : (modSrv s e f).repairCand = s.repairCand := by unfold modSrv; rfl
@[simp] theorem modSrv_candSecs : (modSrv s e f).candSecs = s.candSecs := by unfold modSrv; rfl
@[simp] theorem modSrv_spareRows : (modSrv s e f).spareRows = s.spareRows := by unfold modSrv; rfl
@[simp] theorem modSrv_flights : (modSrv s e f).flights = s.flights := by unfold modSrv; rfl
@[simp] theorem modSrv_bins : (modSrv s e f).bins = s.bins := by unfold modSrv; rfl
@[simp] theorem modSrv_bbusy : (modSrv s e f).bbusy = s.bbusy := by unfold modSrv; rfl
@[simp] theorem modSrv_bseq : (modSrv s e f).bseq = s.bseq := by unfold modSrv; rfl
@[simp] theorem modSrv_brx : (modSrv s e f).brx = s.brx := by unfold modSrv; rfl
@[simp] theorem modSrv_slotBad : (modSrv s e f).slotBad = s.slotBad := by unfold modSrv; rfl
@[simp] theorem modSrv_links : (modSrv s e f).links = s.links := by unfold modSrv; rfl
@[simp] theorem modSrv_sysIn : (modSrv s e f).sysIn = s.sysIn := by unfold modSrv; rfl
@[simp] theorem modSrv_tether : (modSrv s e f).tether = s.tether := by unfold modSrv; rfl
@[simp] theorem modSrv_rootIn : (modSrv s e f).rootIn = s.rootIn := by unfold modSrv; rfl
@[simp] theorem modSrv_shown : (modSrv s e f).shown = s.shown := by unfold modSrv; rfl
@[simp] theorem modSrv_voteLinks : (modSrv s e f).voteLinks = s.voteLinks := by unfold modSrv; rfl
@[simp] theorem modSrv_evicted : (modSrv s e f).evicted = s.evicted := by unfold modSrv; rfl
@[simp] theorem modSrv_yawRef : (modSrv s e f).yawRef = s.yawRef := by unfold modSrv; rfl
@[simp] theorem modSrv_yawCrl : (modSrv s e f).yawCrl = s.yawCrl := by unfold modSrv; rfl
@[simp] theorem modSrv_yawTake : (modSrv s e f).yawTake = s.yawTake := by unfold modSrv; rfl
@[simp] theorem modSrv_thermal : (modSrv s e f).thermal = s.thermal := by unfold modSrv; rfl
@[simp] theorem modSrv_narrow : (modSrv s e f).narrow = s.narrow := by unfold modSrv; rfl
@[simp] theorem modSrv_rops : (modSrv s e f).rops = s.rops := by unfold modSrv; rfl
@[simp] theorem modSrv_rwins : (modSrv s e f).rwins = s.rwins := by unfold modSrv; rfl
@[simp] theorem modSrv_punits : (modSrv s e f).punits = s.punits := by unfold modSrv; rfl
@[simp] theorem modSrv_owners : (modSrv s e f).owners = s.owners := by unfold modSrv; rfl
@[simp] theorem modSrv_causes : (modSrv s e f).causes = s.causes := by unfold modSrv; rfl
@[simp] theorem modSrv_ranges : (modSrv s e f).ranges = s.ranges := by unfold modSrv; rfl
@[simp] theorem modSrv_twinPend : (modSrv s e f).twinPend = s.twinPend := by unfold modSrv; rfl
@[simp] theorem modSrv_flash : (modSrv s e f).flash = s.flash := by unfold modSrv; rfl
@[simp] theorem modSrv_stageAt : (modSrv s e f).stageAt = s.stageAt := by unfold modSrv; rfl
@[simp] theorem modSrv_ucie : (modSrv s e f).ucie = s.ucie := by unfold modSrv; rfl
@[simp] theorem modSrv_fired : (modSrv s e f).fired = s.fired := by unfold modSrv; rfl
@[simp] theorem modSrv_mirrorBad : (modSrv s e f).mirrorBad = s.mirrorBad := by unfold modSrv; rfl
@[simp] theorem modSrv_routes : (modSrv s e f).routes = s.routes := by unfold modSrv; rfl
@[simp] theorem modSrv_train : (modSrv s e f).train = s.train := by unfold modSrv; rfl
@[simp] theorem modSrv_envKeys : (modSrv s e f).envKeys = s.envKeys := by unfold modSrv; rfl
@[simp] theorem modSrv_listed : (modSrv s e f).listed = s.listed := by unfold modSrv; rfl
@[simp] theorem modSrv_heldStreams : (modSrv s e f).heldStreams = s.heldStreams := by unfold modSrv; rfl
@[simp] theorem modSrv_crl : (modSrv s e f).crl = s.crl := by unfold modSrv; rfl
@[simp] theorem modSrv_electors : (modSrv s e f).electors = s.electors := by unfold modSrv; rfl
@[simp] theorem modSrv_actTab : (modSrv s e f).actTab = s.actTab := by unfold modSrv; rfl
@[simp] theorem modSrv_takeHomes : (modSrv s e f).takeHomes = s.takeHomes := by unfold modSrv; rfl
@[simp] theorem modSrv_heldLeft : (modSrv s e f).heldLeft = s.heldLeft := by unfold modSrv; rfl
@[simp] theorem modSrv_relays : (modSrv s e f).relays = s.relays := by unfold modSrv; rfl
@[simp] theorem modSrv_relayC : (modSrv s e f).relayC = s.relayC := by unfold modSrv; rfl
@[simp] theorem modSrv_hwins : (modSrv s e f).hwins = s.hwins := by unfold modSrv; rfl
@[simp] theorem modSrv_shadow : (modSrv s e f).shadow = s.shadow := by unfold modSrv; rfl
@[simp] theorem modSrv_xfers : (modSrv s e f).xfers = s.xfers := by unfold modSrv; rfl
@[simp] theorem modSrv_hfull : (modSrv s e f).hfull = s.hfull := by unfold modSrv; rfl
@[simp] theorem modSrv_copy : (modSrv s e f).copy = s.copy := by unfold modSrv; rfl
@[simp] theorem modSrv_podFwd : (modSrv s e f).podFwd = s.podFwd := by unfold modSrv; rfl
@[simp] theorem modSrv_podPost : (modSrv s e f).podPost = s.podPost := by unfold modSrv; rfl
@[simp] theorem modSrv_staged : (modSrv s e f).staged = s.staged := by unfold modSrv; rfl
@[simp] theorem modSrv_img : (modSrv s e f).img = s.img := by unfold modSrv; rfl
@[simp] theorem modSrv_ran : (modSrv s e f).ran = s.ran := by unfold modSrv; rfl
@[simp] theorem modSrv_keys : (modSrv s e f).keys = s.keys := by unfold modSrv; rfl
@[simp] theorem modSrv_kcmd : (modSrv s e f).kcmd = s.kcmd := by unfold modSrv; rfl
@[simp] theorem modSrv_polled : (modSrv s e f).polled = s.polled := by unfold modSrv; rfl
@[simp] theorem modSrv_kick : (modSrv s e f).kick = s.kick := by unfold modSrv; rfl
@[simp] theorem modSrv_logLevel : (modSrv s e f).logLevel = s.logLevel := by unfold modSrv; rfl
@[simp] theorem modSrv_tqs : (modSrv s e f).tqs = s.tqs := by unfold modSrv; rfl
@[simp] theorem modSrv_stall : (modSrv s e f).stall = s.stall := by unfold modSrv; rfl
@[simp] theorem modSrv_coldDue : (modSrv s e f).coldDue = s.coldDue := by unfold modSrv; rfl
@[simp] theorem modSrv_rstn : (modSrv s e f).rstn = s.rstn := by unfold modSrv; rfl
@[simp] theorem modSrv_pwrGood : (modSrv s e f).pwrGood = s.pwrGood := by unfold modSrv; rfl
@[simp] theorem modSrv_thermtrip : (modSrv s e f).thermtrip = s.thermtrip := by unfold modSrv; rfl
@[simp] theorem modSrv_boot : (modSrv s e f).boot = s.boot := by unfold modSrv; rfl
@[simp] theorem modSrv_jtag : (modSrv s e f).jtag = s.jtag := by unfold modSrv; rfl
@[simp] theorem modSrv_jtagDrive : (modSrv s e f).jtagDrive = s.jtagDrive := by unfold modSrv; rfl
@[simp] theorem modSrv_accts : (modSrv s e f).accts = s.accts := by unfold modSrv; rfl
@[simp] theorem modSrv_acctAt : (modSrv s e f).acctAt = s.acctAt := by unfold modSrv; rfl
end

/-! ### modCrl -/
section
variable (f : Crl → Crl)
@[simp] theorem modCrl_pending : (modCrl s f).pending = s.pending := by unfold modCrl; rfl
@[simp] theorem modCrl_phase : (modCrl s f).phase = s.phase := by unfold modCrl; rfl
@[simp] theorem modCrl_regs : (modCrl s f).regs = s.regs := by unfold modCrl; rfl
@[simp] theorem modCrl_mem : (modCrl s f).mem = s.mem := by unfold modCrl; rfl
@[simp] theorem modCrl_ecc : (modCrl s f).ecc = s.ecc := by unfold modCrl; rfl
@[simp] theorem modCrl_sec : (modCrl s f).sec = s.sec := by unfold modCrl; rfl
@[simp] theorem modCrl_uncSec : (modCrl s f).uncSec = s.uncSec := by unfold modCrl; rfl
@[simp] theorem modCrl_patCorr : (modCrl s f).patCorr = s.patCorr := by unfold modCrl; rfl
@[simp] theorem modCrl_cores : (modCrl s f).cores = s.cores := by unfold modCrl; rfl
@[simp] theorem modCrl_chans : (modCrl s f).chans = s.chans := by unfold modCrl; rfl
@[simp] theorem modCrl_dbanks : (modCrl s f).dbanks = s.dbanks := by unfold modCrl; rfl
@[simp] theorem modCrl_acts : (modCrl s f).acts = s.acts := by unfold modCrl; rfl
@[simp] theorem modCrl_jobs : (modCrl s f).jobs = s.jobs := by unfold modCrl; rfl
@[simp] theorem modCrl_nextJob : (modCrl s f).nextJob = s.nextJob := by unfold modCrl; rfl
@[simp] theorem modCrl_free : (modCrl s f).free = s.free := by unfold modCrl; rfl
@[simp] theorem modCrl_faults : (modCrl s f).faults = s.faults := by unfold modCrl; rfl
@[simp] theorem modCrl_wearMark : (modCrl s f).wearMark = s.wearMark := by unfold modCrl; rfl
@[simp] theorem modCrl_tileMark : (modCrl s f).tileMark = s.tileMark := by unfold modCrl; rfl
@[simp] theorem modCrl_halted : (modCrl s f).halted = s.halted := by unfold modCrl; rfl
@[simp] theorem modCrl_evacuate : (modCrl s f).evacuate = s.evacuate := by unfold modCrl; rfl
@[simp] theorem modCrl_vote : (modCrl s f).vote = s.vote := by unfold modCrl; rfl
@[simp] theorem modCrl_sent : (modCrl s f).sent = s.sent := by unfold modCrl; rfl
@[simp] theorem modCrl_strmTab : (modCrl s f).strmTab = s.strmTab := by unfold modCrl; rfl
@[simp] theorem modCrl_strmPend : (modCrl s f).strmPend = s.strmPend := by unfold modCrl; rfl
@[simp] theorem modCrl_home : (modCrl s f).home = s.home := by unfold modCrl; rfl
@[simp] theorem modCrl_fritRefs : (modCrl s f).fritRefs = s.fritRefs := by unfold modCrl; rfl
@[simp] theorem modCrl_fritDelta : (modCrl s f).fritDelta = s.fritDelta := by unfold modCrl; rfl
@[simp] theorem modCrl_repairCand : (modCrl s f).repairCand = s.repairCand := by unfold modCrl; rfl
@[simp] theorem modCrl_candSecs : (modCrl s f).candSecs = s.candSecs := by unfold modCrl; rfl
@[simp] theorem modCrl_spareRows : (modCrl s f).spareRows = s.spareRows := by unfold modCrl; rfl
@[simp] theorem modCrl_flights : (modCrl s f).flights = s.flights := by unfold modCrl; rfl
@[simp] theorem modCrl_bins : (modCrl s f).bins = s.bins := by unfold modCrl; rfl
@[simp] theorem modCrl_bbusy : (modCrl s f).bbusy = s.bbusy := by unfold modCrl; rfl
@[simp] theorem modCrl_bseq : (modCrl s f).bseq = s.bseq := by unfold modCrl; rfl
@[simp] theorem modCrl_brx : (modCrl s f).brx = s.brx := by unfold modCrl; rfl
@[simp] theorem modCrl_slotBad : (modCrl s f).slotBad = s.slotBad := by unfold modCrl; rfl
@[simp] theorem modCrl_links : (modCrl s f).links = s.links := by unfold modCrl; rfl
@[simp] theorem modCrl_sysIn : (modCrl s f).sysIn = s.sysIn := by unfold modCrl; rfl
@[simp] theorem modCrl_tether : (modCrl s f).tether = s.tether := by unfold modCrl; rfl
@[simp] theorem modCrl_rootIn : (modCrl s f).rootIn = s.rootIn := by unfold modCrl; rfl
@[simp] theorem modCrl_shown : (modCrl s f).shown = s.shown := by unfold modCrl; rfl
@[simp] theorem modCrl_voteLinks : (modCrl s f).voteLinks = s.voteLinks := by unfold modCrl; rfl
@[simp] theorem modCrl_evicted : (modCrl s f).evicted = s.evicted := by unfold modCrl; rfl
@[simp] theorem modCrl_yawRef : (modCrl s f).yawRef = s.yawRef := by unfold modCrl; rfl
@[simp] theorem modCrl_yawCrl : (modCrl s f).yawCrl = s.yawCrl := by unfold modCrl; rfl
@[simp] theorem modCrl_yawTake : (modCrl s f).yawTake = s.yawTake := by unfold modCrl; rfl
@[simp] theorem modCrl_thermal : (modCrl s f).thermal = s.thermal := by unfold modCrl; rfl
@[simp] theorem modCrl_narrow : (modCrl s f).narrow = s.narrow := by unfold modCrl; rfl
@[simp] theorem modCrl_rops : (modCrl s f).rops = s.rops := by unfold modCrl; rfl
@[simp] theorem modCrl_rwins : (modCrl s f).rwins = s.rwins := by unfold modCrl; rfl
@[simp] theorem modCrl_punits : (modCrl s f).punits = s.punits := by unfold modCrl; rfl
@[simp] theorem modCrl_owners : (modCrl s f).owners = s.owners := by unfold modCrl; rfl
@[simp] theorem modCrl_causes : (modCrl s f).causes = s.causes := by unfold modCrl; rfl
@[simp] theorem modCrl_ranges : (modCrl s f).ranges = s.ranges := by unfold modCrl; rfl
@[simp] theorem modCrl_twinPend : (modCrl s f).twinPend = s.twinPend := by unfold modCrl; rfl
@[simp] theorem modCrl_flash : (modCrl s f).flash = s.flash := by unfold modCrl; rfl
@[simp] theorem modCrl_stageAt : (modCrl s f).stageAt = s.stageAt := by unfold modCrl; rfl
@[simp] theorem modCrl_ucie : (modCrl s f).ucie = s.ucie := by unfold modCrl; rfl
@[simp] theorem modCrl_fired : (modCrl s f).fired = s.fired := by unfold modCrl; rfl
@[simp] theorem modCrl_mirrorBad : (modCrl s f).mirrorBad = s.mirrorBad := by unfold modCrl; rfl
@[simp] theorem modCrl_routes : (modCrl s f).routes = s.routes := by unfold modCrl; rfl
@[simp] theorem modCrl_train : (modCrl s f).train = s.train := by unfold modCrl; rfl
@[simp] theorem modCrl_srvs : (modCrl s f).srvs = s.srvs := by unfold modCrl; rfl
@[simp] theorem modCrl_envKeys : (modCrl s f).envKeys = s.envKeys := by unfold modCrl; rfl
@[simp] theorem modCrl_listed : (modCrl s f).listed = s.listed := by unfold modCrl; rfl
@[simp] theorem modCrl_heldStreams : (modCrl s f).heldStreams = s.heldStreams := by unfold modCrl; rfl
@[simp] theorem modCrl_electors : (modCrl s f).electors = s.electors := by unfold modCrl; rfl
@[simp] theorem modCrl_actTab : (modCrl s f).actTab = s.actTab := by unfold modCrl; rfl
@[simp] theorem modCrl_takeHomes : (modCrl s f).takeHomes = s.takeHomes := by unfold modCrl; rfl
@[simp] theorem modCrl_heldLeft : (modCrl s f).heldLeft = s.heldLeft := by unfold modCrl; rfl
@[simp] theorem modCrl_relays : (modCrl s f).relays = s.relays := by unfold modCrl; rfl
@[simp] theorem modCrl_relayC : (modCrl s f).relayC = s.relayC := by unfold modCrl; rfl
@[simp] theorem modCrl_hwins : (modCrl s f).hwins = s.hwins := by unfold modCrl; rfl
@[simp] theorem modCrl_shadow : (modCrl s f).shadow = s.shadow := by unfold modCrl; rfl
@[simp] theorem modCrl_xfers : (modCrl s f).xfers = s.xfers := by unfold modCrl; rfl
@[simp] theorem modCrl_hfull : (modCrl s f).hfull = s.hfull := by unfold modCrl; rfl
@[simp] theorem modCrl_copy : (modCrl s f).copy = s.copy := by unfold modCrl; rfl
@[simp] theorem modCrl_podFwd : (modCrl s f).podFwd = s.podFwd := by unfold modCrl; rfl
@[simp] theorem modCrl_podPost : (modCrl s f).podPost = s.podPost := by unfold modCrl; rfl
@[simp] theorem modCrl_staged : (modCrl s f).staged = s.staged := by unfold modCrl; rfl
@[simp] theorem modCrl_img : (modCrl s f).img = s.img := by unfold modCrl; rfl
@[simp] theorem modCrl_ran : (modCrl s f).ran = s.ran := by unfold modCrl; rfl
@[simp] theorem modCrl_keys : (modCrl s f).keys = s.keys := by unfold modCrl; rfl
@[simp] theorem modCrl_kcmd : (modCrl s f).kcmd = s.kcmd := by unfold modCrl; rfl
@[simp] theorem modCrl_polled : (modCrl s f).polled = s.polled := by unfold modCrl; rfl
@[simp] theorem modCrl_kick : (modCrl s f).kick = s.kick := by unfold modCrl; rfl
@[simp] theorem modCrl_logLevel : (modCrl s f).logLevel = s.logLevel := by unfold modCrl; rfl
@[simp] theorem modCrl_tqs : (modCrl s f).tqs = s.tqs := by unfold modCrl; rfl
@[simp] theorem modCrl_stall : (modCrl s f).stall = s.stall := by unfold modCrl; rfl
@[simp] theorem modCrl_coldDue : (modCrl s f).coldDue = s.coldDue := by unfold modCrl; rfl
@[simp] theorem modCrl_rstn : (modCrl s f).rstn = s.rstn := by unfold modCrl; rfl
@[simp] theorem modCrl_pwrGood : (modCrl s f).pwrGood = s.pwrGood := by unfold modCrl; rfl
@[simp] theorem modCrl_thermtrip : (modCrl s f).thermtrip = s.thermtrip := by unfold modCrl; rfl
@[simp] theorem modCrl_boot : (modCrl s f).boot = s.boot := by unfold modCrl; rfl
@[simp] theorem modCrl_jtag : (modCrl s f).jtag = s.jtag := by unfold modCrl; rfl
@[simp] theorem modCrl_jtagDrive : (modCrl s f).jtagDrive = s.jtagDrive := by unfold modCrl; rfl
@[simp] theorem modCrl_accts : (modCrl s f).accts = s.accts := by unfold modCrl; rfl
@[simp] theorem modCrl_acctAt : (modCrl s f).acctAt = s.acctAt := by unfold modCrl; rfl
end

/-! ### writeEntry -/
section
variable (a : Nat) (v : Row)
@[simp] theorem writeEntry_pending : (writeEntry s a v).pending = s.pending := by unfold writeEntry; rfl
@[simp] theorem writeEntry_phase : (writeEntry s a v).phase = s.phase := by unfold writeEntry; rfl
@[simp] theorem writeEntry_regs : (writeEntry s a v).regs = s.regs := by unfold writeEntry; rfl
@[simp] theorem writeEntry_ecc : (writeEntry s a v).ecc = s.ecc := by unfold writeEntry; rfl
@[simp] theorem writeEntry_uncSec : (writeEntry s a v).uncSec = s.uncSec := by unfold writeEntry; rfl
@[simp] theorem writeEntry_patCorr : (writeEntry s a v).patCorr = s.patCorr := by unfold writeEntry; rfl
@[simp] theorem writeEntry_cores : (writeEntry s a v).cores = s.cores := by unfold writeEntry; rfl
@[simp] theorem writeEntry_chans : (writeEntry s a v).chans = s.chans := by unfold writeEntry; rfl
@[simp] theorem writeEntry_dbanks : (writeEntry s a v).dbanks = s.dbanks := by unfold writeEntry; rfl
@[simp] theorem writeEntry_acts : (writeEntry s a v).acts = s.acts := by unfold writeEntry; rfl
@[simp] theorem writeEntry_jobs : (writeEntry s a v).jobs = s.jobs := by unfold writeEntry; rfl
@[simp] theorem writeEntry_nextJob : (writeEntry s a v).nextJob = s.nextJob := by unfold writeEntry; rfl
@[simp] theorem writeEntry_free : (writeEntry s a v).free = s.free := by unfold writeEntry; rfl
@[simp] theorem writeEntry_faults : (writeEntry s a v).faults = s.faults := by unfold writeEntry; rfl
@[simp] theorem writeEntry_wearMark : (writeEntry s a v).wearMark = s.wearMark := by unfold writeEntry; rfl
@[simp] theorem writeEntry_tileMark : (writeEntry s a v).tileMark = s.tileMark := by unfold writeEntry; rfl
@[simp] theorem writeEntry_halted : (writeEntry s a v).halted = s.halted := by unfold writeEntry; rfl
@[simp] theorem writeEntry_evacuate : (writeEntry s a v).evacuate = s.evacuate := by unfold writeEntry; rfl
@[simp] theorem writeEntry_vote : (writeEntry s a v).vote = s.vote := by unfold writeEntry; rfl
@[simp] theorem writeEntry_sent : (writeEntry s a v).sent = s.sent := by unfold writeEntry; rfl
@[simp] theorem writeEntry_strmTab : (writeEntry s a v).strmTab = s.strmTab := by unfold writeEntry; rfl
@[simp] theorem writeEntry_strmPend : (writeEntry s a v).strmPend = s.strmPend := by unfold writeEntry; rfl
@[simp] theorem writeEntry_home : (writeEntry s a v).home = s.home := by unfold writeEntry; rfl
@[simp] theorem writeEntry_fritRefs : (writeEntry s a v).fritRefs = s.fritRefs := by unfold writeEntry; rfl
@[simp] theorem writeEntry_fritDelta : (writeEntry s a v).fritDelta = s.fritDelta := by unfold writeEntry; rfl
@[simp] theorem writeEntry_repairCand : (writeEntry s a v).repairCand = s.repairCand := by unfold writeEntry; rfl
@[simp] theorem writeEntry_candSecs : (writeEntry s a v).candSecs = s.candSecs := by unfold writeEntry; rfl
@[simp] theorem writeEntry_spareRows : (writeEntry s a v).spareRows = s.spareRows := by unfold writeEntry; rfl
@[simp] theorem writeEntry_flights : (writeEntry s a v).flights = s.flights := by unfold writeEntry; rfl
@[simp] theorem writeEntry_bins : (writeEntry s a v).bins = s.bins := by unfold writeEntry; rfl
@[simp] theorem writeEntry_bbusy : (writeEntry s a v).bbusy = s.bbusy := by unfold writeEntry; rfl
@[simp] theorem writeEntry_bseq : (writeEntry s a v).bseq = s.bseq := by unfold writeEntry; rfl
@[simp] theorem writeEntry_brx : (writeEntry s a v).brx = s.brx := by unfold writeEntry; rfl
@[simp] theorem writeEntry_slotBad : (writeEntry s a v).slotBad = s.slotBad := by unfold writeEntry; rfl
@[simp] theorem writeEntry_links : (writeEntry s a v).links = s.links := by unfold writeEntry; rfl
@[simp] theorem writeEntry_sysIn : (writeEntry s a v).sysIn = s.sysIn := by unfold writeEntry; rfl
@[simp] theorem writeEntry_tether : (writeEntry s a v).tether = s.tether := by unfold writeEntry; rfl
@[simp] theorem writeEntry_rootIn : (writeEntry s a v).rootIn = s.rootIn := by unfold writeEntry; rfl
@[simp] theorem writeEntry_shown : (writeEntry s a v).shown = s.shown := by unfold writeEntry; rfl
@[simp] theorem writeEntry_voteLinks : (writeEntry s a v).voteLinks = s.voteLinks := by unfold writeEntry; rfl
@[simp] theorem writeEntry_evicted : (writeEntry s a v).evicted = s.evicted := by unfold writeEntry; rfl
@[simp] theorem writeEntry_yawRef : (writeEntry s a v).yawRef = s.yawRef := by unfold writeEntry; rfl
@[simp] theorem writeEntry_yawCrl : (writeEntry s a v).yawCrl = s.yawCrl := by unfold writeEntry; rfl
@[simp] theorem writeEntry_yawTake : (writeEntry s a v).yawTake = s.yawTake := by unfold writeEntry; rfl
@[simp] theorem writeEntry_thermal : (writeEntry s a v).thermal = s.thermal := by unfold writeEntry; rfl
@[simp] theorem writeEntry_narrow : (writeEntry s a v).narrow = s.narrow := by unfold writeEntry; rfl
@[simp] theorem writeEntry_rops : (writeEntry s a v).rops = s.rops := by unfold writeEntry; rfl
@[simp] theorem writeEntry_rwins : (writeEntry s a v).rwins = s.rwins := by unfold writeEntry; rfl
@[simp] theorem writeEntry_punits : (writeEntry s a v).punits = s.punits := by unfold writeEntry; rfl
@[simp] theorem writeEntry_owners : (writeEntry s a v).owners = s.owners := by unfold writeEntry; rfl
@[simp] theorem writeEntry_causes : (writeEntry s a v).causes = s.causes := by unfold writeEntry; rfl
@[simp] theorem writeEntry_ranges : (writeEntry s a v).ranges = s.ranges := by unfold writeEntry; rfl
@[simp] theorem writeEntry_twinPend : (writeEntry s a v).twinPend = s.twinPend := by unfold writeEntry; rfl
@[simp] theorem writeEntry_flash : (writeEntry s a v).flash = s.flash := by unfold writeEntry; rfl
@[simp] theorem writeEntry_stageAt : (writeEntry s a v).stageAt = s.stageAt := by unfold writeEntry; rfl
@[simp] theorem writeEntry_ucie : (writeEntry s a v).ucie = s.ucie := by unfold writeEntry; rfl
@[simp] theorem writeEntry_fired : (writeEntry s a v).fired = s.fired := by unfold writeEntry; rfl
@[simp] theorem writeEntry_mirrorBad : (writeEntry s a v).mirrorBad = s.mirrorBad := by unfold writeEntry; rfl
@[simp] theorem writeEntry_routes : (writeEntry s a v).routes = s.routes := by unfold writeEntry; rfl
@[simp] theorem writeEntry_train : (writeEntry s a v).train = s.train := by unfold writeEntry; rfl
@[simp] theorem writeEntry_srvs : (writeEntry s a v).srvs = s.srvs := by unfold writeEntry; rfl
@[simp] theorem writeEntry_envKeys : (writeEntry s a v).envKeys = s.envKeys := by unfold writeEntry; rfl
@[simp] theorem writeEntry_listed : (writeEntry s a v).listed = s.listed := by unfold writeEntry; rfl
@[simp] theorem writeEntry_heldStreams : (writeEntry s a v).heldStreams = s.heldStreams := by unfold writeEntry; rfl
@[simp] theorem writeEntry_crl : (writeEntry s a v).crl = s.crl := by unfold writeEntry; rfl
@[simp] theorem writeEntry_electors : (writeEntry s a v).electors = s.electors := by unfold writeEntry; rfl
@[simp] theorem writeEntry_actTab : (writeEntry s a v).actTab = s.actTab := by unfold writeEntry; rfl
@[simp] theorem writeEntry_takeHomes : (writeEntry s a v).takeHomes = s.takeHomes := by unfold writeEntry; rfl
@[simp] theorem writeEntry_heldLeft : (writeEntry s a v).heldLeft = s.heldLeft := by unfold writeEntry; rfl
@[simp] theorem writeEntry_relays : (writeEntry s a v).relays = s.relays := by unfold writeEntry; rfl
@[simp] theorem writeEntry_relayC : (writeEntry s a v).relayC = s.relayC := by unfold writeEntry; rfl
@[simp] theorem writeEntry_hwins : (writeEntry s a v).hwins = s.hwins := by unfold writeEntry; rfl
@[simp] theorem writeEntry_shadow : (writeEntry s a v).shadow = s.shadow := by unfold writeEntry; rfl
@[simp] theorem writeEntry_xfers : (writeEntry s a v).xfers = s.xfers := by unfold writeEntry; rfl
@[simp] theorem writeEntry_hfull : (writeEntry s a v).hfull = s.hfull := by unfold writeEntry; rfl
@[simp] theorem writeEntry_copy : (writeEntry s a v).copy = s.copy := by unfold writeEntry; rfl
@[simp] theorem writeEntry_podFwd : (writeEntry s a v).podFwd = s.podFwd := by unfold writeEntry; rfl
@[simp] theorem writeEntry_podPost : (writeEntry s a v).podPost = s.podPost := by unfold writeEntry; rfl
@[simp] theorem writeEntry_staged : (writeEntry s a v).staged = s.staged := by unfold writeEntry; rfl
@[simp] theorem writeEntry_img : (writeEntry s a v).img = s.img := by unfold writeEntry; rfl
@[simp] theorem writeEntry_ran : (writeEntry s a v).ran = s.ran := by unfold writeEntry; rfl
@[simp] theorem writeEntry_keys : (writeEntry s a v).keys = s.keys := by unfold writeEntry; rfl
@[simp] theorem writeEntry_kcmd : (writeEntry s a v).kcmd = s.kcmd := by unfold writeEntry; rfl
@[simp] theorem writeEntry_polled : (writeEntry s a v).polled = s.polled := by unfold writeEntry; rfl
@[simp] theorem writeEntry_kick : (writeEntry s a v).kick = s.kick := by unfold writeEntry; rfl
@[simp] theorem writeEntry_logLevel : (writeEntry s a v).logLevel = s.logLevel := by unfold writeEntry; rfl
@[simp] theorem writeEntry_tqs : (writeEntry s a v).tqs = s.tqs := by unfold writeEntry; rfl
@[simp] theorem writeEntry_stall : (writeEntry s a v).stall = s.stall := by unfold writeEntry; rfl
@[simp] theorem writeEntry_coldDue : (writeEntry s a v).coldDue = s.coldDue := by unfold writeEntry; rfl
@[simp] theorem writeEntry_rstn : (writeEntry s a v).rstn = s.rstn := by unfold writeEntry; rfl
@[simp] theorem writeEntry_pwrGood : (writeEntry s a v).pwrGood = s.pwrGood := by unfold writeEntry; rfl
@[simp] theorem writeEntry_thermtrip : (writeEntry s a v).thermtrip = s.thermtrip := by unfold writeEntry; rfl
@[simp] theorem writeEntry_boot : (writeEntry s a v).boot = s.boot := by unfold writeEntry; rfl
@[simp] theorem writeEntry_jtag : (writeEntry s a v).jtag = s.jtag := by unfold writeEntry; rfl
@[simp] theorem writeEntry_jtagDrive : (writeEntry s a v).jtagDrive = s.jtagDrive := by unfold writeEntry; rfl
@[simp] theorem writeEntry_accts : (writeEntry s a v).accts = s.accts := by unfold writeEntry; rfl
@[simp] theorem writeEntry_acctAt : (writeEntry s a v).acctAt = s.acctAt := by unfold writeEntry; rfl
end

end Sys2Proof.Machine
end

