-- ==== Sys2Proof/Laws/Tables.lean ====
section
/-!
SUPPORT. Laws/Tables.lean: reading after writing a table, a field and memory, and the canonical form that every write
keeps.
-/
namespace Sys2Proof.Machine
open Sys2Proof

/-! ### Tables -/

theorem tget_tdel_same {α : Type} (d : α) (t : Tbl α) (a : Nat) : tget d (tdel t a) a = d := by
  induction t with
  | nil => rfl
  | cons e t ih => obtain ⟨k, v⟩ := e; by_cases h : k = a <;> simp [tdel, tget, h, ih]

theorem tget_tdel_ne {α : Type} (d : α) (t : Tbl α) {a b : Nat} (h : b ≠ a) : tget d (tdel t a) b = tget d t b := by
  induction t with
  | nil => rfl
  | cons e t ih =>
    obtain ⟨k, v⟩ := e
    by_cases h1 : k = a
    · subst h1; simp [tdel, tget, ih, Ne.symm h]
    · by_cases h2 : k = b
      · subst h2; simp [tdel, tget, h1]
      · simp [tdel, tget, h1, h2, ih]

theorem tget_tput_same {α : Type} (d : α) (t : Tbl α) (a : Nat) (v : α) : tget d (tput t a v) a = v := by
  induction t with
  | nil => simp [tput, tget]
  | cons e t ih =>
    obtain ⟨k, w⟩ := e
    by_cases h1 : a < k
    · simp [tput, tget, h1]
    · by_cases h2 : a = k
      · simp [tput, tget, h2]
      · simp [tput, tget, h1, h2, Ne.symm h2, ih]

theorem tget_tput_ne {α : Type} (d : α) (t : Tbl α) {a b : Nat} (h : b ≠ a) (v : α) : tget d (tput t a v) b = tget d t b := by
  induction t with
  | nil => simp [tput, tget, Ne.symm h]
  | cons e t ih =>
    obtain ⟨k, w⟩ := e
    by_cases h1 : a < k
    · simp [tput, tget, h1, Ne.symm h]
    · by_cases h2 : a = k
      · subst h2; simp [tput, tget, Ne.symm h]
      · by_cases h3 : k = b
        · subst h3; simp [tput, tget, h1, h2]
        · simp [tput, tget, h1, h2, h3, ih]

/-- Reading a table after a write at the same key. -/
@[simp] theorem tget_tset_same {α : Type} [DecidableEq α] (d : α) (t : Tbl α) (a : Nat) (v : α) : tget d (tset d t a v) a = v := by
  unfold tset; split
  · rename_i h; rw [tget_tdel_same, h]
  · exact tget_tput_same d t a v

/-- A write leaves every other key alone. -/
theorem tget_tset_ne {α : Type} [DecidableEq α] (d : α) (t : Tbl α) {a b : Nat} (h : b ≠ a) (v : α) :
    tget d (tset d t a v) b = tget d t b := by
  unfold tset; split
  · exact tget_tdel_ne d t h
  · exact tget_tput_ne d t h v

/-- Reading a table after a write. -/
theorem tget_tset {α : Type} [DecidableEq α] (d : α) (t : Tbl α) (a b : Nat) (v : α) :
    tget d (tset d t a v) b = if b = a then v else tget d t b := by
  split
  · rename_i h; subst h; simp
  · rename_i h; exact tget_tset_ne d t h v

@[simp] theorem tget_nil {α : Type} (d : α) (a : Nat) : tget d ([] : Tbl α) a = d := rfl

/-! ### The canonical form -/

theorem tsorted_mono {α : Type} {b c : Nat} (t : Tbl α) (h : b ≤ c) (hs : tsorted c t = true) : tsorted b t = true := by
  cases t with
  | nil => rfl
  | cons e t => obtain ⟨k, v⟩ := e; simp [tsorted] at hs ⊢; exact ⟨by omega, hs.2⟩

theorem tsorted_tdel {α : Type} (b : Nat) (t : Tbl α) (a : Nat) (hs : tsorted b t = true) : tsorted b (tdel t a) = true := by
  induction t generalizing b with
  | nil => rfl
  | cons e t ih =>
    obtain ⟨k, v⟩ := e
    simp [tsorted] at hs
    by_cases h : k = a
    · simp only [tdel, h, if_true]; exact tsorted_mono _ (by omega) (ih (a + 1) (h ▸ hs.2))
    · simp [tdel, h, tsorted, hs.1, ih (k + 1) hs.2]

theorem tsorted_tput {α : Type} (b : Nat) (t : Tbl α) (a : Nat) (v : α) (hb : b ≤ a) (hs : tsorted b t = true) :
    tsorted b (tput t a v) = true := by
  induction t generalizing b with
  | nil => simp [tput, tsorted, hb]
  | cons e t ih =>
    obtain ⟨k, w⟩ := e
    simp [tsorted] at hs
    by_cases h1 : a < k
    · simp only [tput, h1, if_true, tsorted, hb, decide_true, Bool.true_and, Bool.and_eq_true, decide_eq_true_eq]
      exact ⟨by omega, hs.2⟩
    · by_cases h2 : a = k
      · subst h2; simp [tput, tsorted, hb, hs.2]
      · simp [tput, h1, h2, tsorted, hs.1]; exact ih (k + 1) (by omega) hs.2

theorem all_tdel {α : Type} (p : Nat × α → Bool) (t : Tbl α) (a : Nat) (h : t.all p = true) : (tdel t a).all p = true := by
  induction t with
  | nil => rfl
  | cons e t ih =>
    obtain ⟨k, v⟩ := e
    simp only [List.all_cons, Bool.and_eq_true] at h
    by_cases h1 : k = a
    · simp only [tdel, h1, if_true]; exact ih h.2
    · simp only [tdel, h1, if_false, List.all_cons, h.1, ih h.2, Bool.and_self]

theorem all_tput {α : Type} (p : Nat × α → Bool) (t : Tbl α) (a : Nat) (v : α) (hv : p (a, v) = true) (h : t.all p = true) :
    (tput t a v).all p = true := by
  induction t with
  | nil => simp [tput, hv]
  | cons e t ih =>
    obtain ⟨k, w⟩ := e
    simp only [List.all_cons, Bool.and_eq_true] at h
    by_cases h1 : a < k
    · simp [tput, h1, hv, h.1]; simpa using h.2
    · by_cases h2 : a = k
      · subst h2; simp only [tput, h1, if_false, if_true, List.all_cons, hv, h.2, Bool.and_self]
      · simp only [tput, h1, h2, if_false, List.all_cons, h.1, ih h.2, Bool.and_self]

/-- Every write keeps a table canonical. -/
theorem twf_tset {α : Type} [DecidableEq α] (d : α) (t : Tbl α) (a : Nat) (v : α) (h : twf d t = true) : twf d (tset d t a v) = true := by
  simp only [twf, Bool.and_eq_true] at h ⊢
  unfold tset; split
  · exact ⟨tsorted_tdel _ _ _ h.1, all_tdel _ _ _ h.2⟩
  · rename_i hv
    exact ⟨tsorted_tput _ _ _ _ (Nat.zero_le _) h.1, all_tput _ _ _ _ (by simpa using hv) h.2⟩

/-- Removing entries keeps a table canonical. -/
theorem tsorted_filter {α : Type} (p : Nat × α → Bool) (b : Nat) (t : Tbl α) (h : tsorted b t = true) : tsorted b (t.filter p) = true := by
  induction t generalizing b with
  | nil => rfl
  | cons e t ih =>
    obtain ⟨k, v⟩ := e
    simp [tsorted] at h
    by_cases hp : p (k, v) = true
    · simp [hp, tsorted, h.1, ih (k + 1) h.2]
    · simp only [List.filter_cons, hp]; exact tsorted_mono _ (by omega) (ih (k + 1) h.2)

theorem twf_filter {α : Type} [DecidableEq α] (d : α) (p : Nat × α → Bool) (t : Tbl α) (h : twf d t = true) : twf d (t.filter p) = true := by
  simp only [twf, Bool.and_eq_true] at h ⊢
  refine ⟨tsorted_filter p 0 t h.1, ?_⟩
  rw [List.all_eq_true] at h ⊢
  intro x hx; exact h.2 x (List.mem_of_mem_filter hx)

/-! ### Memory -/

@[simp] theorem readByte_writeByte_same (m : List Host.Cell) (a : Nat) (b : Byte) : readByte (writeByte m a b) a = b :=
  tget_tset_same ..

theorem readByte_writeByte_ne (m : List Host.Cell) {a x : Nat} (h : x ≠ a) (b : Byte) : readByte (writeByte m a b) x = readByte m x :=
  tget_tset_ne _ _ h _

theorem memWf_writeByte (m : List Host.Cell) (a : Nat) (b : Byte) (h : memWf m = true) : memWf (writeByte m a b) = true :=
  twf_tset _ _ _ _ h

/-- Every memory write keeps the canonical form. -/
theorem memWf_writeBytes (m : List Host.Cell) (a : Nat) (bs : List Byte) (h : memWf m = true) : memWf (writeBytes m a bs) = true := by
  induction bs generalizing m a with
  | nil => exact h
  | cons b bs ih => exact ih _ _ (memWf_writeByte m a b h)

/-- A write of consecutive bytes leaves every other byte alone. -/
theorem readByte_writeBytes_out (m : List Host.Cell) (a x : Nat) (bs : List Byte) (h : x < a ∨ a + bs.length ≤ x) :
    readByte (writeBytes m a bs) x = readByte m x := by
  induction bs generalizing m a with
  | nil => rfl
  | cons b bs ih =>
    simp only [List.length_cons] at h
    rw [writeBytes, ih _ _ (by omega), readByte_writeByte_ne _ (by omega)]

theorem readByte_writeBytes_in (m : List Host.Cell) (a i : Nat) (bs : List Byte) (h : i < bs.length) :
    readByte (writeBytes m a bs) (a + i) = bs[i] := by
  induction bs generalizing m a i with
  | nil => simp at h
  | cons b bs ih =>
    cases i with
    | zero => rw [writeBytes, Nat.add_zero, readByte_writeBytes_out _ _ _ _ (by omega)]; simp
    | succ i =>
      have := ih (writeByte m a b) (a + 1) i (by simpa using h)
      rw [writeBytes, show a + (i + 1) = a + 1 + i by omega, this]; simp

/-- Reading back what was written. -/
theorem readBytes_writeBytes (m : List Host.Cell) (a : Nat) (bs : List Byte) : readBytes (writeBytes m a bs) a bs.length = bs := by
  induction bs generalizing m a with
  | nil => rfl
  | cons b bs ih =>
    rw [writeBytes, List.length_cons, readBytes, ih, readByte_writeBytes_out _ _ _ _ (by omega)]; simp

@[simp] theorem readBytes_length (m : List Host.Cell) (a n : Nat) : (readBytes m a n).length = n := by
  induction n generalizing a with
  | zero => rfl
  | succ n ih => simp [readBytes, ih]

/-! ### Fields and bytes -/

theorem fld_lt (x lo w : Nat) : fld x lo w < 2 ^ w := Nat.mod_lt _ (Nat.two_pow_pos w)

@[simp] theorem leBytes_length (n x : Nat) : (leBytes n x).length = n := by
  induction n generalizing x with
  | zero => rfl
  | succ n ih => simp [leBytes, ih]

/-- The bytes of a number, read back. -/
theorem leNat_leBytes (n x : Nat) : leNat (leBytes n x) = x % 256 ^ n := by
  induction n generalizing x with
  | zero => simp [leBytes, leNat, Nat.mod_one]
  | succ n ih =>
    have h : x % (256 * 256 ^ n) = x % 256 + 256 * (x / 256 % 256 ^ n) := Nat.mod_mul
    rw [leBytes, leNat, ih, BitVec.toNat_ofNat, pow_succ' 256 n, h]

/-- The field that was just stored. -/
theorem fld_setFld_same (x lo w v : Nat) : fld (setFld x lo w v) lo w = v % 2 ^ w := by
  unfold fld setFld
  have h1 : x % 2 ^ lo < 2 ^ lo := Nat.mod_lt _ (Nat.two_pow_pos lo)
  have e : x % 2 ^ lo + v % 2 ^ w * 2 ^ lo + x / 2 ^ (lo + w) * 2 ^ (lo + w) =
      x % 2 ^ lo + 2 ^ lo * (v % 2 ^ w + 2 ^ w * (x / 2 ^ (lo + w))) := by rw [pow_add]; ring
  rw [e, Nat.add_mul_div_left _ _ (Nat.two_pow_pos lo), Nat.div_eq_of_lt h1, Nat.zero_add, Nat.add_mul_mod_self_left,
    Nat.mod_mod]

/-- A field above the stored one. -/
theorem fld_setFld_above (x lo w v l n : Nat) (h : lo + w ≤ l) : fld (setFld x lo w v) l n = fld x l n := by
  unfold fld setFld
  have h1 : x % 2 ^ lo < 2 ^ lo := Nat.mod_lt _ (Nat.two_pow_pos lo)
  have h2 : v % 2 ^ w < 2 ^ w := Nat.mod_lt _ (Nat.two_pow_pos w)
  have h3 : x % 2 ^ lo + v % 2 ^ w * 2 ^ lo < 2 ^ (lo + w) := by
    rw [pow_add]
    calc x % 2 ^ lo + v % 2 ^ w * 2 ^ lo < 2 ^ lo + v % 2 ^ w * 2 ^ lo := by omega
      _ = (v % 2 ^ w + 1) * 2 ^ lo := by ring
      _ ≤ 2 ^ w * 2 ^ lo := Nat.mul_le_mul_right _ h2
      _ = 2 ^ lo * 2 ^ w := by ring
  obtain ⟨k, rfl⟩ := Nat.exists_eq_add_of_le h
  rw [pow_add 2 (lo + w) k, ← Nat.div_div_eq_div_mul, ← Nat.div_div_eq_div_mul, Nat.add_mul_div_right _ _ (Nat.two_pow_pos _),
    Nat.div_eq_of_lt h3, Nat.zero_add]

/-- A field below the stored one. -/
theorem fld_setFld_below (x lo w v l n : Nat) (h : l + n ≤ lo) : fld (setFld x lo w v) l n = fld x l n := by
  unfold fld setFld
  obtain ⟨k, rfl⟩ := Nat.exists_eq_add_of_le h
  have e : x % 2 ^ (l + n + k) + v % 2 ^ w * 2 ^ (l + n + k) + x / 2 ^ (l + n + k + w) * 2 ^ (l + n + k + w) =
      x % 2 ^ (l + n + k) + 2 ^ l * (2 ^ n * (2 ^ k * (v % 2 ^ w) + 2 ^ k * 2 ^ w * (x / 2 ^ (l + n + k + w)))) := by
    rw [pow_add 2 (l + n + k) w, pow_add 2 (l + n) k, pow_add 2 l n]; ring
  rw [e, Nat.add_mul_div_left _ _ (Nat.two_pow_pos l), Nat.add_mul_mod_self_left, show l + n + k = l + (n + k) by omega,
    pow_add 2 l (n + k), Nat.mod_mul_right_div_self, Nat.mod_mod_of_dvd _ (pow_dvd_pow 2 (Nat.le_add_right n k))]

end Sys2Proof.Machine
end

