-- ==== Sys2Proof/Laws/Ops.lean ====
section
/-!
SUPPORT. Laws/Ops.lean: what the shared operations of Machine/Ops.lean and Machine/Stream.lean do, once for each: registers,
cores, streams, the issue of a command and the paths it takes.
-/
namespace Sys2Proof.Machine
open Sys2Proof

variable (s : State)

/-! ### Registers -/

/-- A stored register reads as the low 64 bits of what was stored; every other register reads as before. -/
theorem rg_setRg (a v b : Nat) : rg (setRg s a v) b = if b = a then v % 2 ^ 64 else rg s b := by
  unfold rg setRg
  simp only [tget_tset]
  split <;> simp

@[simp] theorem rg_setRg_same (a v : Nat) : rg (setRg s a v) a = v % 2 ^ 64 := by simp [rg_setRg]

theorem rg_setRg_ne {a b : Nat} (h : b ≠ a) (v : Nat) : rg (setRg s a v) b = rg s b := by simp [rg_setRg, h]

/-- A register holds 64 bits. -/
theorem rg_lt (a : Nat) : rg s a < 2 ^ 64 := (tget 0 s.regs a).isLt

theorem rg_setRf_ne {a b : Nat} (h : b ≠ a) (lo w v : Nat) : rg (setRf s a lo w v) b = rg s b := rg_setRg_ne s h _

theorem rf_setRf_ne {a b : Nat} (h : b ≠ a) (lo w v l n : Nat) : rf (setRf s a lo w v) b l n = rf s b l n := by
  unfold rf; rw [rg_setRf_ne s h]

/-- A field replaced in a 64-bit number stays below 2^64. -/
theorem setFld_lt {x lo w v : Nat} (hx : x < 2 ^ 64) (h : lo + w ≤ 64) : setFld x lo w v < 2 ^ 64 := by
  unfold setFld
  have h1 : x % 2 ^ lo < 2 ^ lo := Nat.mod_lt _ (Nat.two_pow_pos lo)
  have h2 : v % 2 ^ w < 2 ^ w := Nat.mod_lt _ (Nat.two_pow_pos w)
  have h4 : x % 2 ^ lo + v % 2 ^ w * 2 ^ lo < 2 ^ (lo + w) := by
    calc x % 2 ^ lo + v % 2 ^ w * 2 ^ lo < 2 ^ lo + v % 2 ^ w * 2 ^ lo := by omega
      _ = (v % 2 ^ w + 1) * 2 ^ lo := by ring
      _ ≤ 2 ^ w * 2 ^ lo := Nat.mul_le_mul_right _ h2
      _ = 2 ^ (lo + w) := by rw [← Nat.pow_add, Nat.add_comm]
  have h5 : x / 2 ^ (lo + w) < 2 ^ (64 - (lo + w)) := by
    apply Nat.div_lt_of_lt_mul
    rw [← Nat.pow_add]
    have : lo + w + (64 - (lo + w)) = 64 := by omega
    rw [this]; exact hx
  calc x % 2 ^ lo + v % 2 ^ w * 2 ^ lo + x / 2 ^ (lo + w) * 2 ^ (lo + w)
      < 2 ^ (lo + w) + x / 2 ^ (lo + w) * 2 ^ (lo + w) := by omega
    _ = (x / 2 ^ (lo + w) + 1) * 2 ^ (lo + w) := by ring
    _ ≤ 2 ^ (64 - (lo + w)) * 2 ^ (lo + w) := Nat.mul_le_mul_right _ h5
    _ = 2 ^ 64 := by rw [← Nat.pow_add]; congr 1; omega

/-- A stored field reads as what was stored. -/
theorem rf_setRf_same {lo w : Nat} (a v : Nat) (h : lo + w ≤ 64) : rf (setRf s a lo w v) a lo w = v % 2 ^ w := by
  unfold rf setRf
  rw [rg_setRg_same, Nat.mod_eq_of_lt (setFld_lt (rg_lt s a) h), fld_setFld_same]

/-- A field above a stored one reads as before. -/
theorem rf_setRf_above {lo w l n : Nat} (a v : Nat) (h : lo + w ≤ l) (h64 : lo + w ≤ 64) : rf (setRf s a lo w v) a l n = rf s a l n := by
  unfold rf setRf
  rw [rg_setRg_same, Nat.mod_eq_of_lt (setFld_lt (rg_lt s a) h64), fld_setFld_above _ _ _ _ _ _ h]

/-- A field below a stored one reads as before. -/
theorem rf_setRf_below {lo w l n : Nat} (a v : Nat) (h : l + n ≤ lo) (h64 : lo + w ≤ 64) : rf (setRf s a lo w v) a l n = rf s a l n := by
  unfold rf setRf
  rw [rg_setRg_same, Nat.mod_eq_of_lt (setFld_lt (rg_lt s a) h64), fld_setFld_below _ _ _ _ _ _ h]

/-- Reading depends on the registers alone. -/
theorem rg_congr {s t : State} (h : t.regs = s.regs) (a : Nat) : rg t a = rg s a := by unfold rg; rw [h]
theorem rf_congr {s t : State} (h : t.regs = s.regs) (a lo w : Nat) : rf t a lo w = rf s a lo w := by unfold rf; rw [rg_congr h]

/-- Writing a register changes nothing but registers. -/
theorem setRg_only {s t : State} (h : t = { s with regs := t.regs }) (a v : Nat) : setRg t a v = { s with regs := (setRg t a v).regs } := by
  have e : setRg t a v = { t with regs := (setRg t a v).regs } := rfl
  rw [e]
  generalize (setRg t a v).regs = r
  rw [h]

/-- Writing a field of a register changes nothing but registers. -/
theorem setRf_only {s t : State} (h : t = { s with regs := t.regs }) (a lo w v : Nat) :
    setRf t a lo w v = { s with regs := (setRf t a lo w v).regs } := setRg_only h _ _

/-- Writing fields keeps every other register. -/
theorem rg_setRf (a lo w v b : Nat) : rg (setRf s a lo w v) b = if b = a then setFld (rg s a) lo w v % 2 ^ 64 else rg s b := by
  unfold setRf; rw [rg_setRg]

/-! ### Cores -/

theorem core_modCore (c : Nat) (f : Core → Core) (d : Nat) : core (modCore s c f) d = if d = c then f (core s c) else core s d := by
  unfold core modCore; simp only [tget_tset]; rfl

@[simp] theorem core_modCore_same (c : Nat) (f : Core → Core) : core (modCore s c f) c = f (core s c) := by simp [core_modCore]

theorem core_modCore_ne {c d : Nat} (h : d ≠ c) (f : Core → Core) : core (modCore s c f) d = core s d := by simp [core_modCore, h]

theorem core_congr {s t : State} (h : t.cores = s.cores) (c : Nat) : core t c = core s c := by unfold core; rw [h]

/-- A changed stream, and every other stream of the core. -/
theorem strm_modStrm (c k : Nat) (f : Stream → Stream) (j : Nat) :
    strm (modStrm s c k f) c j = if j = k then f (strm s c k) else strm s c j := by
  unfold strm modStrm; simp only [core_modCore_same, tget_tset]

@[simp] theorem strm_modStrm_same (c k : Nat) (f : Stream → Stream) : strm (modStrm s c k f) c k = f (strm s c k) := by simp [strm_modStrm]

/-- Changing a stream changes nothing of its core but its streams. -/
theorem core_modStrm (c k : Nat) (f : Stream → Stream) :
    core (modStrm s c k f) c = { core s c with strms := tset {} (core s c).strms k (f (strm s c k)) } := by
  unfold modStrm; rw [core_modCore_same]; rfl

theorem core_modStrm_ne {c d : Nat} (h : d ≠ c) (k : Nat) (f : Stream → Stream) : core (modStrm s c k f) d = core s d := core_modCore_ne s h _

/-! ### Time -/

theorem forN_zero {σ : Type} (x : σ) (f : Nat → σ → σ) : forN 0 x f = x := rfl

/-- An event at the present phase acts on the state as it is. -/
theorem whenAt_now (p : Nat) (h : p = s.phase) (f : State → State) : whenAt s p f = f s := by
  subst h; unfold whenAt runTo; simp [forN_zero]

/-- An event whose cycle has passed does not occur. -/
theorem whenAt_past (p : Nat) (h : p < s.phase) (f : State → State) : whenAt s p f = s := by
  unfold whenAt; simp [h]

/-- The time of the device is the registers TT_COUNT and STEP. -/
theorem time_congr {s u : State} {a : Nat} (h : ∀ b, b ≠ a → rg u b = rg s b) (h0 : ttA 0x000 ≠ a) (h1 : ttA 0x008 ≠ a) :
    ttc u = ttc s ∧ stepNo u = stepNo s := by
  unfold ttc stepNo rf
  constructor
  · rw [h _ h0]
  · rw [h _ h1]

/-- The record that a fault makes (R12). -/
theorem raise_faults (code sev cls idx env : Nat) (d : BitVec 320) :
    (raise s code sev cls idx env d).faults =
      s.faults ++ [{ code := code, sev := sev, cls := cls, idx := idx, ttc := ttc s, step := stepNo s, env := env, detail := d }] := rfl

/-! ### What registers, faults and the agenda leave alone -/

@[simp] theorem core_setRg (a v : Nat) (c : Nat) : core (setRg s a v) c = core s c := by unfold core; rw [setRg_cores]
@[simp] theorem strm_setRg (a v : Nat) (c k : Nat) : strm (setRg s a v) c k = strm s c k := by unfold strm; rw [core_setRg]
@[simp] theorem queue_setRg (a v : Nat) (c b q : Nat) : queue (setRg s a v) c b q = queue s c b q := by unfold queue; rw [core_setRg]
@[simp] theorem ccntOf_setRg (a v : Nat) (c k : Nat) : ccntOf (setRg s a v) c k = ccntOf s c k := by unfold ccntOf; rw [core_setRg]
@[simp] theorem core_setRf (a lo w v : Nat) (c : Nat) : core (setRf s a lo w v) c = core s c := by unfold core; rw [setRf_cores]
@[simp] theorem strm_setRf (a lo w v : Nat) (c k : Nat) : strm (setRf s a lo w v) c k = strm s c k := by unfold strm; rw [core_setRf]
@[simp] theorem queue_setRf (a lo w v : Nat) (c b q : Nat) : queue (setRf s a lo w v) c b q = queue s c b q := by unfold queue; rw [core_setRf]
@[simp] theorem ccntOf_setRf (a lo w v : Nat) (c k : Nat) : ccntOf (setRf s a lo w v) c k = ccntOf s c k := by unfold ccntOf; rw [core_setRf]
@[simp] theorem core_bumpBy (a lo w n : Nat) (c : Nat) : core (bumpBy s a lo w n) c = core s c := by unfold core; rw [bumpBy_cores]
@[simp] theorem strm_bumpBy (a lo w n : Nat) (c k : Nat) : strm (bumpBy s a lo w n) c k = strm s c k := by unfold strm; rw [core_bumpBy]
@[simp] theorem queue_bumpBy (a lo w n : Nat) (c b q : Nat) : queue (bumpBy s a lo w n) c b q = queue s c b q := by unfold queue; rw [core_bumpBy]
@[simp] theorem ccntOf_bumpBy (a lo w n : Nat) (c k : Nat) : ccntOf (bumpBy s a lo w n) c k = ccntOf s c k := by unfold ccntOf; rw [core_bumpBy]
@[simp] theorem core_bump (a lo w : Nat) (c : Nat) : core (bump s a lo w) c = core s c := by unfold core; rw [bump_cores]
@[simp] theorem strm_bump (a lo w : Nat) (c k : Nat) : strm (bump s a lo w) c k = strm s c k := by unfold strm; rw [core_bump]
@[simp] theorem queue_bump (a lo w : Nat) (c b q : Nat) : queue (bump s a lo w) c b q = queue s c b q := by unfold queue; rw [core_bump]
@[simp] theorem ccntOf_bump (a lo w : Nat) (c k : Nat) : ccntOf (bump s a lo w) c k = ccntOf s c k := by unfold ccntOf; rw [core_bump]
@[simp] theorem core_raise (code sev cls idx env : Nat) (d : BitVec 320) (c : Nat) : core (raise s code sev cls idx env d) c = core s c := by unfold core; rw [raise_cores]
@[simp] theorem strm_raise (code sev cls idx env : Nat) (d : BitVec 320) (c k : Nat) : strm (raise s code sev cls idx env d) c k = strm s c k := by unfold strm; rw [core_raise]
@[simp] theorem queue_raise (code sev cls idx env : Nat) (d : BitVec 320) (c b q : Nat) : queue (raise s code sev cls idx env d) c b q = queue s c b q := by unfold queue; rw [core_raise]
@[simp] theorem ccntOf_raise (code sev cls idx env : Nat) (d : BitVec 320) (c k : Nat) : ccntOf (raise s code sev cls idx env d) c k = ccntOf s c k := by unfold ccntOf; rw [core_raise]
@[simp] theorem core_raiseCore (u code sev cls idx : Nat) (d : List (Nat × Nat × Nat)) (c : Nat) : core (raiseCore s u code sev cls idx d) c = core s c := by unfold core; rw [raiseCore_cores]
@[simp] theorem strm_raiseCore (u code sev cls idx : Nat) (d : List (Nat × Nat × Nat)) (c k : Nat) : strm (raiseCore s u code sev cls idx d) c k = strm s c k := by unfold strm; rw [core_raiseCore]
@[simp] theorem queue_raiseCore (u code sev cls idx : Nat) (d : List (Nat × Nat × Nat)) (c b q : Nat) : queue (raiseCore s u code sev cls idx d) c b q = queue s c b q := by unfold queue; rw [core_raiseCore]
@[simp] theorem ccntOf_raiseCore (u code sev cls idx : Nat) (d : List (Nat × Nat × Nat)) (c k : Nat) : ccntOf (raiseCore s u code sev cls idx d) c k = ccntOf s c k := by unfold ccntOf; rw [core_raiseCore]
@[simp] theorem core_raiseTile (u code sev : Nat) (d : List (Nat × Nat × Nat)) (c : Nat) : core (raiseTile s u code sev d) c = core s c := by unfold core; rw [raiseTile_cores]
@[simp] theorem strm_raiseTile (u code sev : Nat) (d : List (Nat × Nat × Nat)) (c k : Nat) : strm (raiseTile s u code sev d) c k = strm s c k := by unfold strm; rw [core_raiseTile]
@[simp] theorem queue_raiseTile (u code sev : Nat) (d : List (Nat × Nat × Nat)) (c b q : Nat) : queue (raiseTile s u code sev d) c b q = queue s c b q := by unfold queue; rw [core_raiseTile]
@[simp] theorem ccntOf_raiseTile (u code sev : Nat) (d : List (Nat × Nat × Nat)) (c k : Nat) : ccntOf (raiseTile s u code sev d) c k = ccntOf s c k := by unfold ccntOf; rw [core_raiseTile]
@[simp] theorem core_raiseEng (u e code sev : Nat) (d : List (Nat × Nat × Nat)) (c : Nat) : core (raiseEng s u e code sev d) c = core s c := by unfold core; rw [raiseEng_cores]
@[simp] theorem strm_raiseEng (u e code sev : Nat) (d : List (Nat × Nat × Nat)) (c k : Nat) : strm (raiseEng s u e code sev d) c k = strm s c k := by unfold strm; rw [core_raiseEng]
@[simp] theorem queue_raiseEng (u e code sev : Nat) (d : List (Nat × Nat × Nat)) (c b q : Nat) : queue (raiseEng s u e code sev d) c b q = queue s c b q := by unfold queue; rw [core_raiseEng]
@[simp] theorem ccntOf_raiseEng (u e code sev : Nat) (d : List (Nat × Nat × Nat)) (c k : Nat) : ccntOf (raiseEng s u e code sev d) c k = ccntOf s c k := by unfold ccntOf; rw [core_raiseEng]
@[simp] theorem core_addAct (a : Act) (c : Nat) : core (addAct s a) c = core s c := by unfold core; rw [addAct_cores]
@[simp] theorem strm_addAct (a : Act) (c k : Nat) : strm (addAct s a) c k = strm s c k := by unfold strm; rw [core_addAct]
@[simp] theorem queue_addAct (a : Act) (c b q : Nat) : queue (addAct s a) c b q = queue s c b q := by unfold queue; rw [core_addAct]
@[simp] theorem ccntOf_addAct (a : Act) (c k : Nat) : ccntOf (addAct s a) c k = ccntOf s c k := by unfold ccntOf; rw [core_addAct]
@[simp] theorem core_emit (o : Out) (c : Nat) : core (emit s o) c = core s c := by unfold core; rw [emit_cores]
@[simp] theorem strm_emit (o : Out) (c k : Nat) : strm (emit s o) c k = strm s c k := by unfold strm; rw [core_emit]
@[simp] theorem queue_emit (o : Out) (c b q : Nat) : queue (emit s o) c b q = queue s c b q := by unfold queue; rw [core_emit]
@[simp] theorem ccntOf_emit (o : Out) (c k : Nat) : ccntOf (emit s o) c k = ccntOf s c k := by unfold ccntOf; rw [core_emit]
@[simp] theorem rg_raise (code sev cls idx env : Nat) (d : BitVec 320) (x : Nat) : rg (raise s code sev cls idx env d) x = rg s x := by unfold rg; rw [raise_regs]
@[simp] theorem rf_raise (code sev cls idx env : Nat) (d : BitVec 320) (x lo w : Nat) : rf (raise s code sev cls idx env d) x lo w = rf s x lo w := by unfold rf; rw [rg_raise]
@[simp] theorem rg_raiseCore (u code sev cls idx : Nat) (d : List (Nat × Nat × Nat)) (x : Nat) : rg (raiseCore s u code sev cls idx d) x = rg s x := by unfold rg; rw [raiseCore_regs]
@[simp] theorem rf_raiseCore (u code sev cls idx : Nat) (d : List (Nat × Nat × Nat)) (x lo w : Nat) : rf (raiseCore s u code sev cls idx d) x lo w = rf s x lo w := by unfold rf; rw [rg_raiseCore]
@[simp] theorem rg_raiseTile (u code sev : Nat) (d : List (Nat × Nat × Nat)) (x : Nat) : rg (raiseTile s u code sev d) x = rg s x := by unfold rg; rw [raiseTile_regs]
@[simp] theorem rf_raiseTile (u code sev : Nat) (d : List (Nat × Nat × Nat)) (x lo w : Nat) : rf (raiseTile s u code sev d) x lo w = rf s x lo w := by unfold rf; rw [rg_raiseTile]
@[simp] theorem rg_raiseEng (u e code sev : Nat) (d : List (Nat × Nat × Nat)) (x : Nat) : rg (raiseEng s u e code sev d) x = rg s x := by unfold rg; rw [raiseEng_regs]
@[simp] theorem rf_raiseEng (u e code sev : Nat) (d : List (Nat × Nat × Nat)) (x lo w : Nat) : rf (raiseEng s u e code sev d) x lo w = rf s x lo w := by unfold rf; rw [rg_raiseEng]
@[simp] theorem rg_addAct (a : Act) (x : Nat) : rg (addAct s a) x = rg s x := by unfold rg; rw [addAct_regs]
@[simp] theorem rf_addAct (a : Act) (x lo w : Nat) : rf (addAct s a) x lo w = rf s x lo w := by unfold rf; rw [rg_addAct]
@[simp] theorem rg_emit (o : Out) (x : Nat) : rg (emit s o) x = rg s x := by unfold rg; rw [emit_regs]
@[simp] theorem rf_emit (o : Out) (x lo w : Nat) : rf (emit s o) x lo w = rf s x lo w := by unfold rf; rw [rg_emit]

end Sys2Proof.Machine
end

