-- ==== Sys2Proof/Laws/Issue.lean ====
section
/-!
SUPPORT. Laws/Issue.lean: the issue of stream commands, said once: what a due command finds, what the paths it takes and the
counters it steps become, and what an engine command that begins leaves.
-/
namespace Sys2Proof.Machine
open Sys2Proof

variable {s : State} {h : Iss} {i : Instr}

/-! ### What the issue of a command leaves alone -/

theorem inCommit_congr {s t : State} (hr : t.regs = s.regs) : inCommit t = inCommit s := by
  unfold inCommit frameLen cwLen frameTick frameStartT ttc launchT stepNo frameLen rf rg; rw [hr]
theorem frameCyc_congr {s t : State} (hr : t.regs = s.regs) (hp : t.phase = s.phase) : frameCyc t = frameCyc s := by
  unfold frameCyc frameTick frameStartT ttc launchT stepNo frameLen rf rg; rw [hr, hp]
theorem now_congr {s t : State} (hr : t.regs = s.regs) (hp : t.phase = s.phase) : now t = now s := by
  unfold now rg; rw [hr, hp]
@[simp] theorem now_advance (s : State) (h : Iss) : now (advance s h) = now s := now_congr rfl rfl
@[simp] theorem inCommit_advance (s : State) (h : Iss) : inCommit (advance s h) = inCommit s := inCommit_congr rfl
@[simp] theorem frameCyc_advance (s : State) (h : Iss) : frameCyc (advance s h) = frameCyc s := frameCyc_congr rfl rfl

/-! What an issue leaves alone. -/
@[simp] theorem advance_pending (s : State) (h : Iss) : (advance s h).pending = s.pending := by unfold advance; exact modStrm_pending ..
@[simp] theorem advance_phase (s : State) (h : Iss) : (advance s h).phase = s.phase := by unfold advance; exact modStrm_phase ..
@[simp] theorem advance_regs (s : State) (h : Iss) : (advance s h).regs = s.regs := by unfold advance; exact modStrm_regs ..
@[simp] theorem advance_mem (s : State) (h : Iss) : (advance s h).mem = s.mem := by unfold advance; exact modStrm_mem ..
@[simp] theorem advance_ecc (s : State) (h : Iss) : (advance s h).ecc = s.ecc := by unfold advance; exact modStrm_ecc ..
@[simp] theorem advance_acts (s : State) (h : Iss) : (advance s h).acts = s.acts := by unfold advance; exact modStrm_acts ..
@[simp] theorem advance_jobs (s : State) (h : Iss) : (advance s h).jobs = s.jobs := by unfold advance; exact modStrm_jobs ..
@[simp] theorem advance_nextJob (s : State) (h : Iss) : (advance s h).nextJob = s.nextJob := by unfold advance; exact modStrm_nextJob ..
@[simp] theorem advance_faults (s : State) (h : Iss) : (advance s h).faults = s.faults := by unfold advance; exact modStrm_faults ..
@[simp] theorem advance_vote (s : State) (h : Iss) : (advance s h).vote = s.vote := by unfold advance; exact modStrm_vote ..
@[simp] theorem advance_sent (s : State) (h : Iss) : (advance s h).sent = s.sent := by unfold advance; exact modStrm_sent ..

theorem core_advance (s : State) (h : Iss) :
    core (advance s h) h.core.val = { core s h.core.val with strms := tset {} (core s h.core.val).strms h.strm.val (issuedStrm s h) } := by
  unfold advance; rw [core_modStrm]; rfl

theorem core_advance_ne (s : State) (h : Iss) {d : Nat} (hd : d ≠ h.core.val) : core (advance s h) d = core s d := core_modStrm_ne s hd _ _

theorem strm_advance (s : State) (h : Iss) (k : Nat) :
    strm (advance s h) h.core.val k = if k = h.strm.val then issuedStrm s h else strm s h.core.val k := by
  unfold advance; rw [strm_modStrm]; rfl

@[simp] theorem predBit_advance (s : State) (h : Iss) (p : Nat) : predBit (advance s h) h.core.val p = predBit s h.core.val p := by
  unfold predBit; rw [core_advance]
@[simp] theorem skipped_advance (s : State) (h : Iss) : skipped (advance s h) h = skipped s h := by unfold skipped; simp
@[simp] theorem ctr_advance (s : State) (h : Iss) (e j : Nat) : ctr (advance s h) h.core.val e j = ctr s h.core.val e j := by
  unfold ctr; rw [core_advance]
@[simp] theorem terms_advance (s : State) (h : Iss) (e lo sel : Nat) :
    terms (advance s h) h.core.val e lo sel = terms s h.core.val e lo sel := by unfold terms; simp
@[simp] theorem freeAt_advance (s : State) (h : Iss) (e p : Nat) : freeAt (advance s h) h.core.val e p = freeAt s h.core.val e p := by
  unfold freeAt; rw [core_advance]

/-! ### Records -/

/-- A fault is recorded in its tick and step. -/
theorem raise_recorded (s : State) (code sev cls idx env : Nat) (d : BitVec 320) : Recorded s (raise s code sev cls idx env d) code sev :=
  ⟨_, raise_faults s code sev cls idx env d, rfl, rfl, rfl, rfl⟩
theorem raiseCore_recorded (s : State) (c code sev cls idx : Nat) (d : List (Nat × Nat × Nat)) : Recorded s (raiseCore s c code sev cls idx d) code sev :=
  raise_recorded ..
theorem raiseTile_recorded (s : State) (c code sev : Nat) (d : List (Nat × Nat × Nat)) : Recorded s (raiseTile s c code sev d) code sev := raiseCore_recorded ..
theorem raiseEng_recorded (s : State) (c e code sev : Nat) (d : List (Nat × Nat × Nat)) : Recorded s (raiseEng s c e code sev d) code sev := raiseCore_recorded ..
/-- Registers and what else comes after leave the record. -/
theorem recorded_of_faults {s t u : State} {code sev : Nat} (h : Recorded s t code sev) (e : u.faults = t.faults) : Recorded s u code sev := by
  obtain ⟨f, e1, r⟩ := h; exact ⟨f, e.trans e1, r⟩
theorem recorded_bump {s t : State} {code sev : Nat} (h : Recorded s t code sev) (a lo w : Nat) : Recorded s (bump t a lo w) code sev :=
  recorded_of_faults h (bump_faults ..)

/-! ### Faults of a stream -/

@[simp] theorem core_raiseStrm (s : State) (c k code sev : Nat) (d : List (Nat × Nat × Nat)) (x : Nat) : core (raiseStrm s c k code sev d) x = core s x := by
  unfold raiseStrm; split <;> rfl
@[simp] theorem strm_raiseStrm (s : State) (c k code sev : Nat) (d : List (Nat × Nat × Nat)) (x y : Nat) : strm (raiseStrm s c k code sev d) x y = strm s x y := by
  unfold raiseStrm; split <;> rfl
@[simp] theorem rg_raiseStrm (s : State) (c k code sev : Nat) (d : List (Nat × Nat × Nat)) (x : Nat) : rg (raiseStrm s c k code sev d) x = rg s x := by
  unfold raiseStrm; split <;> rfl
/-- A stream fault is one record; beside it only what a severity does can differ. -/
theorem raiseStrm_rest (s : State) (c k code sev : Nat) (d : List (Nat × Nat × Nat)) :
    ∃ f, raiseStrm s c k code sev d =
      { s with faults := s.faults ++ [f], vote := voteFault sev s.vote, evacuate := s.evacuate || decide (3 ≤ sev), halted := s.halted || decide (4 ≤ sev) } ∧
      f.code = code ∧ f.sev = sev ∧ f.ttc = ttc s ∧ f.step = stepNo s := by
  unfold raiseStrm; split <;> exact ⟨_, rfl, rfl, rfl, rfl, rfl⟩

/-! ### A due command -/

/-- A stream whose command is due has neither a start nor a wait to take in the cycle. -/
theorem streamTurn_due (hd : cmdDue s h i = true) : streamTurn s h.core.val h.strm.val = s := by
  unfold cmdDue at hd
  simp only [Bool.and_eq_true, Bool.not_eq_true', Option.isNone_iff_eq_none] at hd
  unfold streamTurn waitTry
  rw [hd.1.1.1.1.1.2, hd.1.1.1.2]
  rfl

/-- A due command with a good word runs its meaning on the advanced stream, told whether it is skipped. -/
theorem whenDue_due (hp : h.phase.val = s.phase) (hd : cmdDue s h i = true) (hw : cmdMark s h.core.val h.strm.val h.index.toNat = 0)
    (hc : inCommit s = false ∨ cwAllowed i = true) (f : Bool → State → State) :
    whenDue s h i f = f (skipped s h) (advance s h) := by
  unfold whenDue
  rw [whenAt_now s _ hp]
  simp only [streamTurn_due hd, ite_self, hd, if_true]
  unfold issueNow
  simp only [hw, fixWord]
  rcases hc with hc | hc <;> simp [hc]

/-- A command that issues runs its meaning on the advanced stream. -/
theorem whenDue_issues (H : Issues s h i) (f : Bool → State → State) : whenDue s h i f = f false (advance s h) := by
  rw [whenDue_due H.phase H.due H.word (Or.inl H.window), H.runs]

/-- A command that issues in a counter group: its terms, its run, its increments. -/
theorem issueCmd_issues (H : Issues s h i) (e lo cuse cinc : Nat) (run : Bool → Nat → State → State) :
    issueCmd h i e lo cuse cinc run s =
      incCtrs (run false (wrapN 41 (terms s h.core.val e lo cuse)) (advance s h)) h.core.val e lo cinc := by
  unfold issueCmd; rw [whenDue_issues H]; simp

/-! ### Micro-operations of a cycle -/

/-- A fold whose steps change nothing. -/
theorem foldl_same {α σ : Type} (l : List α) (f : σ → α → σ) (h : ∀ a ∈ l, ∀ s, f s a = s) (s : σ) : l.foldl f s = s := by
  induction l generalizing s with
  | nil => rfl
  | cons a l ih => rw [List.foldl_cons, h a (by simp)]; exact ih (fun b hb => h b (by simp [hb])) s

/-- Where no BAU operation starts, none makes a request. -/
theorem startBaus_none (s : State) (l : List Act) (h : ∀ a ∈ l, isBauStart a.op = false) : startBaus s l = ([], s) := by
  have e (j : Nat) : (l.any fun a => a.job == j && isBauStart a.op) = false := List.any_eq_false.mpr fun a ha => by simp [h a ha]
  unfold startBaus
  rw [foldl_same l]
  · simp only [List.partition_eq_filter_filter, e, Bool.and_false, Bool.false_and]
    have f1 : s.acts.filter (fun _ => false) = [] := by simp
    have f2 : s.acts.filter (not ∘ fun _ => false) = s.acts := List.filter_eq_self.mpr fun _ _ => rfl
    rw [f1, f2]
  · intro a ha s; rw [h a ha]; rfl

/-- On a running device, firing takes the due micro-operations that the test selects off the agenda and performs them. -/
theorem fire_running (hr : s.halted = false) (f : Act → Bool) :
    fire s f = runActs { s with acts := s.acts.filter fun a => !(decide (a.cyc ≤ now s) && f a) } (s.acts.filter fun a => decide (a.cyc ≤ now s) && f a) := by
  unfold fire
  rw [List.partition_eq_filter_filter]
  simp only [hr, Bool.false_eq_true, if_false]
  rfl

/-- A micro-operation that writes no row and no register has no result to check. -/
theorem strikeOut_other (s : State) (a : Act) (h1 : ∀ p r k, a.op ≠ .wrRow p r k) (h2 : ∀ e r v, a.op ≠ .regWr e r v) : strikeOut s a = s := by
  unfold strikeOut
  split
  · rfl
  · split
    · rfl
    · split
      · rename_i e; exact absurd e (h1 _ _ _)
      · rename_i e; exact absurd e (h2 _ _ _)
      · rfl

/-! ### Paths -/

/-- The state with a list of paths held. -/
def heldPaths (s : State) (c e : Nat) (ps : List (Nat × Nat)) : State := ps.foldl (fun s p => holdPath s c e p.1 (now s + p.2)) s

theorem now_modCore (s : State) (c : Nat) (f : Core → Core) : now (modCore s c f) = now s := now_congr rfl rfl
@[simp] theorem now_holdPath (s : State) (c e p u : Nat) : now (holdPath s c e p u) = now s := now_congr rfl rfl

theorem holdPath_core (s : State) (c e p u : Nat) : core (holdPath s c e p u) c =
    { core s c with holds := tset 0 (core s c).holds (16 * e + p) (max (freeAt s c e p) u) } := by
  unfold holdPath; rw [core_modCore_same]; rfl

/-- Free paths: the command takes them and is not told of an overlap. -/
theorem takePaths_free {c e ix : Nat} {ps : List (Nat × Nat)} (hf : PathsFree s c e ps) :
    takePaths s c e ix ps = (true, heldPaths s c e ps) := by
  have ho : overlap s c e (ps.map (·.1)) = none := by
    unfold overlap
    rw [List.find?_eq_none]
    intro p hp
    obtain ⟨q, hq, rfl⟩ := List.mem_map.mp hp
    have := hf q hq
    simp; omega
  unfold takePaths
  simp only [ho, Option.isNone_none]
  rfl

/-- Holding paths changes nothing of the state but one core. -/
theorem heldPaths_rest (s : State) (c e : Nat) (ps : List (Nat × Nat)) :
    heldPaths s c e ps = { s with cores := (heldPaths s c e ps).cores } ∧ (∀ d, d ≠ c → core (heldPaths s c e ps) d = core s d) ∧
      core (heldPaths s c e ps) c = { core s c with holds := (core (heldPaths s c e ps) c).holds } := by
  unfold heldPaths
  induction ps generalizing s with
  | nil => exact ⟨rfl, fun _ _ => rfl, rfl⟩
  | cons p ps ih =>
    simp only [List.foldl_cons]
    obtain ⟨h1, h2, h3⟩ := ih (holdPath s c e p.1 (now s + p.2))
    refine ⟨?_, ?_, ?_⟩
    · rw [h1]; rfl
    · intro d hd; rw [h2 d hd]; exact core_modCore_ne s hd _
    · rw [h3, holdPath_core]

theorem now_heldPaths (s : State) (c e : Nat) (ps : List (Nat × Nat)) : now (heldPaths s c e ps) = now s := by
  rw [(heldPaths_rest s c e ps).1]; rfl

theorem freeAt_holdPath (s : State) (c e p u e' p' : Nat) (hp : p < 16) (hp' : p' < 16) :
    freeAt (holdPath s c e p u) c e' p' = if e' = e ∧ p' = p then max (freeAt s c e' p') u else freeAt s c e' p' := by
  unfold freeAt
  rw [holdPath_core]
  simp only [tget_tset]
  have : (16 * e' + p' = 16 * e + p) ↔ (e' = e ∧ p' = p) := by omega
  simp only [this]
  split
  · rename_i hh; obtain ⟨rfl, rfl⟩ := hh; rfl
  · rfl

theorem freeAt_heldPaths (s : State) (c e : Nat) (ps : List (Nat × Nat)) (hps : ∀ q ∈ ps, q.1 < 16) (e' p : Nat) (hp : p < 16) :
    freeAt (heldPaths s c e ps) c e' p =
      (ps.filter fun q => e' == e && q.1 == p).foldl (fun u q => max u (now s + q.2)) (freeAt s c e' p) := by
  unfold heldPaths
  induction ps generalizing s with
  | nil => rfl
  | cons q ps ih =>
    simp only [List.foldl_cons]
    rw [ih _ fun x hx => hps x (List.mem_cons_of_mem _ hx)]
    rw [freeAt_holdPath _ _ _ _ _ _ _ (hps q List.mem_cons_self) hp, now_holdPath, List.filter_cons]
    by_cases hh : e' = e ∧ p = q.1
    · obtain ⟨rfl, rfl⟩ := hh; simp
    · rw [if_neg hh]
      have : (e' == e && q.1 == p) = false := by
        by_cases h1 : e' = e
        · have : q.1 ≠ p := fun h2 => hh ⟨h1, h2.symm⟩
          simp [this]
        · simp [h1]
      simp [this]

/-! ### Counters -/


/-- Evaluating comparators only adds their writes to the agenda. -/
theorem evalCmps_rest (s : State) (c e j v : Nat) :
    ∃ l, evalCmps s c e j v = { s with acts := s.acts ++ l } ∧ ∀ a ∈ l, a.cyc = now s + 1 ∧ a.core = c ∧ ∃ b w, a.op = .cmpWrite b w e := by
  unfold evalCmps forN
  suffices h : ∀ (r : List Nat) (s : State), ∃ l, r.foldl (fun s i =>
      let k := tget {} (core s c).cmps (2 * e + i)
      if k.en && k.ctr.toNat == j then
        addAct s { cyc := now s + 1, core := c, job := 0, op := .cmpWrite k.pred.toNat (relHolds k.rel v k.val.toNat) e }
      else s) s = { s with acts := s.acts ++ l } ∧ ∀ a ∈ l, a.cyc = now s + 1 ∧ a.core = c ∧ ∃ b w, a.op = .cmpWrite b w e from h _ s
  intro r
  induction r with
  | nil => intro s; exact ⟨[], by simp, by simp⟩
  | cons i r ih =>
    intro s
    simp only [List.foldl_cons]
    split
    · obtain ⟨l, h1, h2⟩ := ih (addAct s { cyc := now s + 1, core := c, job := 0, op := .cmpWrite (tget {} (core s c).cmps (2 * e + i)).pred.toNat (relHolds (tget {} (core s c).cmps (2 * e + i)).rel v (tget {} (core s c).cmps (2 * e + i)).val.toNat) e })
      refine ⟨{ cyc := now s + 1, core := c, job := 0, op := .cmpWrite (tget {} (core s c).cmps (2 * e + i)).pred.toNat (relHolds (tget {} (core s c).cmps (2 * e + i)).rel v (tget {} (core s c).cmps (2 * e + i)).val.toNat) e } :: l, ?_, ?_⟩
      · rw [h1]; simp [addAct]
      · intro a ha
        rcases List.mem_cons.mp ha with rfl | ha
        · exact ⟨rfl, rfl, _, _, rfl⟩
        · exact h2 a ha
    · exact ih s

/-- A counter set: it alone differs in its core, and comparators write in the next cycle. -/
theorem setCtr_rest (s : State) (c e j : Nat) (x : Ctr) :
    ∃ l, setCtr s c e j x = { s with cores := (setCtr s c e j x).cores, acts := s.acts ++ l } ∧
      (∀ d, d ≠ c → core (setCtr s c e j x) d = core s d) ∧
      core (setCtr s c e j x) c = { core s c with ctrs := tset {} (core s c).ctrs (4 * e + j) x } ∧
      ∀ a ∈ l, a.cyc = now s + 1 ∧ a.core = c ∧ ∃ b w, a.op = .cmpWrite b w e := by
  unfold setCtr
  obtain ⟨l, h1, h2⟩ := evalCmps_rest (modCore s c fun k => { k with ctrs := tset {} k.ctrs (4 * e + j) x }) c e j x.val.toNat
  refine ⟨l, ?_, ?_, ?_, h2⟩
  · rw [h1]; rfl
  · intro d hd; rw [h1]; exact core_modCore_ne s hd fun k => { k with ctrs := tset {} k.ctrs (4 * e + j) x }
  · rw [h1]; exact core_modCore_same s c fun k => { k with ctrs := tset {} k.ctrs (4 * e + j) x }

/-- The counters a command steps, and nothing else but the comparators' writes. -/
theorem incCtrs_rest (s : State) (c e lo sel : Nat) (hsel : ∀ i, i < 4 → bitAt sel i = true → lo + i < 4) :
    ∃ l, incCtrs s c e lo sel = { s with cores := (incCtrs s c e lo sel).cores, acts := s.acts ++ l } ∧
      (∀ d, d ≠ c → core (incCtrs s c e lo sel) d = core s d) ∧
      core (incCtrs s c e lo sel) c = { core s c with ctrs := (core (incCtrs s c e lo sel) c).ctrs } ∧
      (∀ e' j, j < 4 → ctr (incCtrs s c e lo sel) c e' j =
        if e' = e ∧ lo ≤ j ∧ bitAt sel (j - lo) = true then stepped (ctr s c e' j) else ctr s c e' j) ∧
      ∀ a ∈ l, a.cyc = now s + 1 ∧ a.core = c ∧ ∃ b w, a.op = .cmpWrite b w e := by
  suffices H : ∀ (r : List Nat) (s : State), r.Nodup → (∀ i ∈ r, i < 4) → ∃ l,
      let t := r.foldl (fun s i => if bitAt sel i then
        let x := ctr s c e (lo + i)
        setCtr s c e (lo + i) { x with val := BitVec.ofNat 16 ((x.val.toNat + 1) % x.limit) } else s) s
      t = { s with cores := t.cores, acts := s.acts ++ l } ∧ (∀ d, d ≠ c → core t d = core s d) ∧
      core t c = { core s c with ctrs := (core t c).ctrs } ∧
      (∀ e' j, j < 4 → ctr t c e' j = if e' = e ∧ lo ≤ j ∧ j - lo ∈ r ∧ bitAt sel (j - lo) = true then stepped (ctr s c e' j) else ctr s c e' j) ∧
      ∀ a ∈ l, a.cyc = now s + 1 ∧ a.core = c ∧ ∃ b w, a.op = .cmpWrite b w e by
    obtain ⟨l, h1, h2, h3, h4, h5⟩ := H (List.range 4) s List.nodup_range (by simp)
    refine ⟨l, h1, h2, h3, ?_, h5⟩
    intro e' j hj
    have := h4 e' j hj
    unfold incCtrs forN
    rw [this]
    have hm : j - lo ∈ List.range 4 := by simp; omega
    simp only [hm, true_and]
  intro r
  induction r with
  | nil => intro s _ _; exact ⟨[], by simp, fun _ _ => rfl, rfl, by simp, by simp⟩
  | cons i r ih =>
    intro s hn hr
    simp only [List.foldl_cons]
    obtain ⟨hi, hn⟩ := List.nodup_cons.mp hn
    have hr' : ∀ k ∈ r, k < 4 := fun k hk => hr k (List.mem_cons_of_mem _ hk)
    by_cases hb : bitAt sel i = true
    · simp only [hb, if_true]
      have hlt := hsel i (hr i List.mem_cons_self) hb
      obtain ⟨l1, a1, a2, a3, a4⟩ := setCtr_rest s c e (lo + i) { ctr s c e (lo + i) with val := BitVec.ofNat 16 (((ctr s c e (lo + i)).val.toNat + 1) % (ctr s c e (lo + i)).limit) }
      generalize hu : setCtr s c e (lo + i) { ctr s c e (lo + i) with val := BitVec.ofNat 16 (((ctr s c e (lo + i)).val.toNat + 1) % (ctr s c e (lo + i)).limit) } = u at *
      obtain ⟨l2, b1, b2, b3, b4, b5⟩ := ih u hn hr'
      have hnow : now u = now s := by rw [a1]; rfl
      have hctr : ∀ e' j, j < 4 → ctr u c e' j = if e' = e ∧ j = lo + i then stepped (ctr s c e' j) else ctr s c e' j := by
        intro e' j hj
        unfold ctr
        rw [a3]
        simp only [tget_tset]
        have : (4 * e' + j = 4 * e + (lo + i)) ↔ (e' = e ∧ j = lo + i) := by omega
        simp only [this]
        split
        · rename_i hh; obtain ⟨rfl, rfl⟩ := hh; rfl
        · rfl
      refine ⟨l1 ++ l2, ?_, ?_, ?_, ?_, ?_⟩
      · rw [b1]; simp only
        rw [a1]; simp [List.append_assoc]
      · intro d hd; rw [b2 d hd, a2 d hd]
      · rw [b3, a3]
      · intro e' j hj
        rw [b4 e' j hj]
        rw [hctr e' j hj]
        by_cases he : e' = e
        · subst he
          by_cases hj2 : j = lo + i
          · subst hj2
            simp [hi, hb]
          · simp only [true_and, hj2, if_false]
            have : (j - lo = i) → ¬ lo ≤ j := by omega
            by_cases hlo : lo ≤ j
            · have hne : j - lo ≠ i := fun h => this h hlo
              simp [hlo, hne]
            · simp [hlo]
        · simp [he]
      · intro a ha
        rcases List.mem_append.mp ha with ha | ha
        · exact a4 a ha
        · have := b5 a ha; rw [hnow] at this; exact this
    · simp only [hb]
      obtain ⟨l2, b1, b2, b3, b4, b5⟩ := ih s hn hr'
      refine ⟨l2, b1, b2, b3, ?_, b5⟩
      intro e' j hj
      simp only [Bool.false_eq_true, if_false]
      rw [b4 e' j hj]
      by_cases hji : j - lo = i
      · simp [hji, hb]
      · simp [hji]

/-! ### Completion counters, queues and waits -/

theorem core_setCcnt (s : State) (c k v : Nat) : core (setCcnt s c k v) c = { core s c with ccnt := tset 0 (core s c).ccnt k (v % 2 ^ 32) } := by
  unfold setCcnt; rw [core_modCore_same]
theorem core_setCcnt_ne (s : State) {c d : Nat} (hd : d ≠ c) (k v : Nat) : core (setCcnt s c k v) d = core s d := core_modCore_ne s hd _
theorem ccntOf_setCcnt (s : State) (c k v m : Nat) : ccntOf (setCcnt s c k v) c m = if m = k then v % 2 ^ 32 else ccntOf s c m := by
  unfold ccntOf; rw [core_setCcnt]; simp only [tget_tset]

theorem core_modQueue (s : State) (c b q : Nat) (f : Queue → Queue) :
    core (modQueue s c b q f) c = { core s c with queues := tset {} (core s c).queues (4 * b + q) (f (queue s c b q)) } := by
  unfold modQueue; rw [core_modCore_same]; rfl
theorem core_modQueue_ne (s : State) {c d : Nat} (hd : d ≠ c) (b q : Nat) (f : Queue → Queue) : core (modQueue s c b q f) d = core s d :=
  core_modCore_ne s hd _
theorem queue_modQueue (s : State) (c b q b' q' : Nat) (f : Queue → Queue) (hq : q < 4) (hq' : q' < 4) :
    queue (modQueue s c b q f) c b' q' = if b' = b ∧ q' = q then f (queue s c b q) else queue s c b' q' := by
  unfold queue; rw [core_modQueue]; simp only [tget_tset]
  have : (4 * b' + q' = 4 * b + q) ↔ (b' = b ∧ q' = q) := by omega
  simp only [this]; rfl

/-- A wait whose condition holds before its deadline completes. -/
theorem waitTry_done {c k : Nat} {w : WaitFor} (hw : (strm s c k).wait = some w) (ho : waitOver s w = false) (hh : waitHolds s c k w = true) :
    waitTry s c k = modStrm (waitTake s c w) c k fun x => { x with wait := none, base := now s } := by
  unfold waitTry; simp [hw, ho, hh]

/-- A wait whose condition does not hold before its deadline goes on. -/
theorem waitTry_waits {c k : Nat} {w : WaitFor} (hw : (strm s c k).wait = some w) (ho : waitOver s w = false) (hh : waitHolds s c k w = false) :
    waitTry s c k = s := by unfold waitTry; simp [hw, ho, hh]

/-- A wait whose deadline has come fails. -/
theorem waitTry_misses {c k : Nat} {w : WaitFor} (hw : (strm s c k).wait = some w) (ho : waitOver s w = true) :
    waitTry s c k = waitMiss s c k w := by unfold waitTry; simp [hw, ho]

/-- What waits look at does not change when a stream does. -/
theorem waitHolds_congr {s t : State} (hr : t.regs = s.regs) (hp : t.phase = s.phase) (c k : Nat) (hc : (core t c).ccnt = (core s c).ccnt)
    (hq : (core t c).queues = (core s c).queues) (w : WaitFor) : waitHolds t c k w = waitHolds s c k w := by
  cases w with
  | ccnt n v d => exact decide_eq_decide.mpr (by unfold ccntOf; rw [hc])
  | ready b q v d => exact decide_eq_decide.mpr (by unfold queue; rw [hq])
  | fill q v d => exact decide_eq_decide.mpr (by unfold queue; rw [hq])
  | tick u => unfold waitHolds; rw [frameCyc_congr hr hp]
theorem waitOver_congr {s t : State} (hr : t.regs = s.regs) (hp : t.phase = s.phase) (w : WaitFor) : waitOver t w = waitOver s w := by
  cases w with
  | ccnt n v d => exact decide_eq_decide.mpr (by rw [frameCyc_congr hr hp])
  | ready b q v d => exact decide_eq_decide.mpr (by rw [frameCyc_congr hr hp])
  | fill q v d => exact decide_eq_decide.mpr (by rw [frameCyc_congr hr hp])
  | tick u => rfl

theorem issued_advance (s : State) (h : Iss) : Issued s (advance s h) h (issuedStrm s h) :=
  ⟨⟨rfl, fun _ hd => core_advance_ne s h hd⟩, by rw [core_advance], fun k => strm_advance s h k⟩

/-- A further change of the issuing stream. -/
theorem issued_mod {t : State} {x : Stream} (H : Issued s t h x) (f : Stream → Stream) : Issued s (modStrm t h.core.val h.strm.val f) h (f x) := by
  obtain ⟨⟨a, b⟩, c, d⟩ := H
  refine ⟨⟨?_, ?_⟩, ?_, ?_⟩
  · rw [a]; rfl
  · intro d hd; rw [core_modStrm_ne _ hd]; exact b d hd
  · rw [core_modStrm, c]
  · intro k
    rw [strm_modStrm]; split
    · rw [d]; simp
    · rename_i hk; rw [d]; simp [hk]

/-- What a completed wait takes: counters and queues of its core. -/
theorem waitTake_rest (s : State) (c : Nat) (w : WaitFor) :
    waitTake s c w = { s with cores := (waitTake s c w).cores } ∧ (∀ d, d ≠ c → core (waitTake s c w) d = core s d) ∧
      core (waitTake s c w) c = { core s c with ccnt := (core (waitTake s c w) c).ccnt, queues := (core (waitTake s c w) c).queues } := by
  unfold waitTake
  split
  · refine ⟨rfl, fun d hd => core_setCcnt_ne s hd _ _, by rw [core_setCcnt]⟩
  · refine ⟨rfl, fun d hd => core_modQueue_ne s hd _ _ _, by rw [core_modQueue]⟩
  · exact ⟨rfl, fun _ _ => rfl, rfl⟩

/-- What a completed wait takes depends on the counters and queues of its core alone. -/
theorem waitTake_congr {s t : State} (c : Nat) (hc : (core t c).ccnt = (core s c).ccnt) (hq : (core t c).queues = (core s c).queues) (w : WaitFor) :
    (core (waitTake t c w) c).ccnt = (core (waitTake s c w) c).ccnt ∧ (core (waitTake t c w) c).queues = (core (waitTake s c w) c).queues := by
  unfold waitTake
  split
  · rw [core_setCcnt, core_setCcnt]; simp [hc, hq, ccntOf]
  · rw [core_modQueue, core_modQueue]; simp [hc, hq, queue]
  · exact ⟨hc, hq⟩

theorem waitDone_mod (s : State) (c k : Nat) (w : WaitFor) (f : Stream → Stream) :
    WaitDone s (modStrm (waitTake s c w) c k f) c k (f (strm s c k)) w := by
  obtain ⟨h1, h2, h3⟩ := waitTake_rest s c w
  have hs : ∀ j, strm (waitTake s c w) c j = strm s c j := fun j => by unfold strm; rw [h3]
  refine ⟨⟨?_, ?_⟩, ?_, ?_⟩
  · rw [h1]; rfl
  · intro d hd; rw [core_modStrm_ne _ hd, h2 d hd]
  · rw [core_modStrm, h3]
  · intro j; rw [strm_modStrm, hs, hs]

/-- A command that starts to wait, before its deadline: it completes at once or waits. -/
theorem startWait_spec (s : State) (h : Iss) (w : WaitFor) (ho : waitOver s w = false) :
    (waitHolds s h.core.val h.strm.val w = false → Issued s (startWait (advance s h) h w) h { issuedStrm s h with wait := some w }) ∧
    (waitHolds s h.core.val h.strm.val w = true →
      WaitDone s (startWait (advance s h) h w) h.core.val h.strm.val { issuedStrm s h with wait := none } w) := by
  have I := issued_mod (issued_advance s h) fun x => { x with wait := some w }
  unfold startWait
  generalize hu : (modStrm (advance s h) h.core.val h.strm.val fun x => { x with wait := some w }) = u at *
  have hr : u.regs = s.regs := by rw [← hu]; simp
  have hp : u.phase = s.phase := by rw [← hu]; simp
  obtain ⟨⟨i1, i2⟩, i3, i4⟩ := I
  have hc : (core u h.core.val).ccnt = (core s h.core.val).ccnt := by rw [i3]
  have hq : (core u h.core.val).queues = (core s h.core.val).queues := by rw [i3]
  have hw : (strm u h.core.val h.strm.val).wait = some w := by rw [i4]; simp
  have ho' : waitOver u w = false := by rw [waitOver_congr hr hp, ho]
  have hh : waitHolds u h.core.val h.strm.val w = waitHolds s h.core.val h.strm.val w := waitHolds_congr hr hp _ _ hc hq w
  constructor
  · intro h0
    rw [waitTry_waits hw ho' (by rw [hh, h0])]
    exact ⟨⟨i1, i2⟩, i3, i4⟩
  · intro h0
    rw [waitTry_done hw ho' (by rw [hh, h0])]
    obtain ⟨⟨a1, a2⟩, a3, a4⟩ := waitDone_mod u h.core.val h.strm.val w fun x => { x with wait := none, base := now u }
    obtain ⟨e1, e2⟩ := waitTake_congr h.core.val hc hq w
    refine ⟨⟨?_, ?_⟩, ?_, ?_⟩
    · rw [a1, i1]
    · intro d hd; rw [a2 d hd, i2 d hd]
    · rw [a3, i3, e1, e2]
    · intro j
      rw [a4, i4, i4]
      have hn : now u = now s := now_congr hr hp
      split
      · simp [hn, issuedStrm]
      · rfl

/-! ### An engine command begins -/

theorem job_startJob (s : State) (x : Job) (ops : List (Nat × Micro)) : job (startJob s x ops) s.nextJob = x := by
  unfold job startJob; simp

/-- An engine command that takes free paths, starts a job and steps its counters. -/
theorem began_start {e lo sel : Nat} {ps : List (Nat × Nat)} {x : Job} {ops : List (Nat × Micro)} (hps : ∀ q ∈ ps, q.1 < 16)
    (hsel : ∀ i, i < 4 → bitAt sel i = true → lo + i < 4) (hx : x.core = h.core.val) :
    Began s (incCtrs (startJob (heldPaths (advance s h) h.core.val e ps) x ops) h.core.val e lo sel) h e lo sel ps x ops := by
  obtain ⟨h1, h2, h3⟩ := heldPaths_rest (advance s h) h.core.val e ps
  have h4 := freeAt_heldPaths (advance s h) h.core.val e ps hps
  have h5 := now_heldPaths (advance s h) h.core.val e ps
  generalize heldPaths (advance s h) h.core.val e ps = u at *
  have ej : (startJob u x ops).nextJob = s.nextJob + 1 := by
    show u.nextJob + 1 = _; rw [h1]; rfl
  have eu : u.nextJob = s.nextJob := by rw [h1]; rfl
  have ecore : ∀ d, core (startJob u x ops) d = core u d := fun d => rfl
  have enow : now (startJob u x ops) = now s := by
    show now u = _; rw [h5, now_advance]
  have ejob : job (startJob u x ops) s.nextJob = x := by rw [← eu]; exact job_startJob u x ops
  have ejobs : ∀ j, j ≠ s.nextJob → tget none (startJob u x ops).jobs j = tget none s.jobs j := by
    intro j hj
    show tget none (tset none u.jobs u.nextJob (some x)) j = _
    rw [eu, tget_tset_ne _ _ hj, h1]; rfl
  obtain ⟨l, b1, b2, b3, b4, b5⟩ := incCtrs_rest (startJob u x ops) h.core.val e lo sel hsel
  generalize hv : incCtrs (startJob u x ops) h.core.val e lo sel = v at *
  have ectr : ∀ e' j, ctr (startJob u x ops) h.core.val e' j = ctr s h.core.val e' j := by
    intro e' j
    show ctr u h.core.val e' j = _
    unfold ctr; rw [h3, core_advance]
  refine ⟨?_, ?_, ?_, ?_, ?_, ?_, ?_, ?_, ?_⟩
  · have e2 : ∀ (p q : State), p = q → p.cores = p.cores := fun _ _ _ => rfl
    rw [b1]; simp only [startJob]
    rw [h1]; rfl
  · intro d hd; rw [b2 d hd, ecore, h2 d hd, core_advance_ne s h hd]
  · rw [b3, ecore, h3, core_advance]
  · intro k
    unfold strm
    rw [b3, ecore, h3, core_advance]
    simp only [tget_tset]
  · intro e' j hj
    rw [b4 e' j hj, ectr]
  · intro e' p hp
    have : freeAt v h.core.val e' p = freeAt u h.core.val e' p := by
      unfold freeAt; rw [b3, ecore]
    rw [this, h4 e' p hp, freeAt_advance, now_advance]
  · have : job v s.nextJob = job (startJob u x ops) s.nextJob := by unfold job; rw [b1]
    rw [this, ejob]
  · intro j hj
    rw [b1]; exact ejobs j hj
  · refine ⟨l, ?_, ?_⟩
    · rw [b1]
      show u.acts ++ _ ++ l = _
      rw [eu, h1, hx]; rfl
    · intro a ha
      have := b5 a ha
      rw [enow] at this; exact this

/-- A job that a command starts names its cycle and place, however the state was advanced before. -/
theorem jobOf_advance (s : State) (h : Iss) (i : Instr) (term : Nat) (ds : List (BitVec 64)) :
    jobOf (advance s h) h i term ds = jobOf s h i term ds := by
  unfold jobOf; rw [now_advance, core_advance]

theorem jobOf_heldPaths (s : State) (h : Iss) (i : Instr) (term : Nat) (ds : List (BitVec 64)) (e : Nat) (ps : List (Nat × Nat)) :
    jobOf (heldPaths (advance s h) h.core.val e ps) h i term ds = jobOf s h i term ds := by
  unfold jobOf
  rw [now_heldPaths, now_advance, (heldPaths_rest _ _ _ _).2.2, core_advance]

/-- A command that takes free paths and is not skipped goes on with them held. -/
theorem runOn_free {e : Nat} {ps : List (Nat × Nat)} (hf : PathsFree s h.core.val e ps) (go : State → State) :
    runOn h e ps false (advance s h) go = go (heldPaths (advance s h) h.core.val e ps) := by
  have : PathsFree (advance s h) h.core.val e ps := by
    intro p hp; rw [freeAt_advance, now_advance]; exact hf p hp
  unfold runOn; rw [takePaths_free this]; simp

/-- An engine command that issues with its paths free begins: its run starts a job on the state with the paths held. -/
theorem issue_began (H : Issues s h i) {e lo cuse cinc : Nat} {ps : List (Nat × Nat)} {x : Job} {ops : List (Nat × Micro)} {run : Bool → Nat → State → State}
    (hrun : run false (wrapN 41 (terms s h.core.val e lo cuse)) (advance s h) = startJob (heldPaths (advance s h) h.core.val e ps) x ops)
    (hps : ∀ q ∈ ps, q.1 < 16) (hsel : ∀ i, i < 4 → bitAt cinc i = true → lo + i < 4) (hx : x.core = h.core.val) :
    Began s (issueCmd h i e lo cuse cinc run s) h e lo cinc ps x ops := by
  rw [issueCmd_issues H, hrun]
  exact began_start hps hsel hx

theorem bit_lt4 (x : BitVec 4) : ∀ i, i < 4 → bitAt x.toNat i = true → 0 + i < 4 := fun i hi _ => by omega
theorem bit_lt2 {lo : Nat} (hlo : lo ≤ 2) (x : BitVec 2) : ∀ i, i < 4 → bitAt x.toNat i = true → lo + i < 4 := by
  intro i hi hb
  rcases Nat.lt_or_ge i 2 with h | h
  · omega
  · have : x.toNat / 2 ^ i = 0 := Nat.div_eq_of_lt (Nat.lt_of_lt_of_le x.isLt (Nat.pow_le_pow_right (by omega) h))
    simp [bitAt, this] at hb
theorem bit_lt0 {lo : Nat} : ∀ i, i < 4 → bitAt 0 i = true → lo + i < 4 := by intro i _ hb; simp [bitAt] at hb

end Sys2Proof.Machine
end

