-- ==== Sys2Proof/Laws/Effects.lean ====
section
/-!
SUPPORT. Laws/Effects.lean: what the effects that many commands share do, said once: an event at a later phase, saturating
counters, records of faults, links and the messages put on them.
-/
namespace Sys2Proof.Machine
open Sys2Proof

variable (s : State)

/-! ### Events -/

/-- An event at a phase not yet past acts on the machine run to that phase. -/
theorem whenAt_run (p : Nat) (h : s.phase ≤ p) (f : State → State) : whenAt s p f = f (runTo s p) := by
  unfold whenAt; rw [if_neg (by omega)]

/-- The machine run to its present phase stands as it is. -/
theorem runTo_now : runTo s s.phase = s := by unfold runTo; simp [forN_zero]

/-! ### A state is made of its fields -/

theorem regs_self {s t : State} (h : t = s) : t = { s with regs := t.regs } := by subst h; rfl
theorem links_self {s t : State} (h : t = s) : t = { s with links := t.links } := by subst h; rfl

/-! ### Saturating counters -/

theorem rg_bumpBy_ne {a b : Nat} (h : b ≠ a) (lo w n : Nat) : rg (bumpBy s a lo w n) b = rg s b := rg_setRf_ne s h _ _ _
theorem rf_bumpBy_ne {a b : Nat} (h : b ≠ a) (lo w n l k : Nat) : rf (bumpBy s a lo w n) b l k = rf s b l k := rf_setRf_ne s h _ _ _ _ _
theorem rg_bump_ne {a b : Nat} (h : b ≠ a) (lo w : Nat) : rg (bump s a lo w) b = rg s b := rg_setRf_ne s h _ _ _
theorem rf_bump_ne {a b : Nat} (h : b ≠ a) (lo w l k : Nat) : rf (bump s a lo w) b l k = rf s b l k := rf_setRf_ne s h _ _ _ _ _
/-- A counter field holds at most its largest value. -/
theorem rf_lt (a lo w : Nat) : rf s a lo w < 2 ^ w := by unfold rf fld; exact Nat.mod_lt _ (Nat.two_pow_pos w)
/-- A counter grows and stops at its largest value. -/
theorem rf_bumpBy_same {lo w : Nat} (a n : Nat) (h : lo + w ≤ 64) : rf (bumpBy s a lo w n) a lo w = min (2 ^ w - 1) (rf s a lo w + n) := by
  unfold bumpBy
  rw [rf_setRf_same s a _ h]
  have := Nat.two_pow_pos w
  exact Nat.mod_eq_of_lt (by omega)
theorem rf_bump_same {lo w : Nat} (a : Nat) (h : lo + w ≤ 64) : rf (bump s a lo w) a lo w = min (2 ^ w - 1) (rf s a lo w + 1) := rf_bumpBy_same s a 1 h
/-- Counting leaves the other fields of its register. -/
theorem rf_bump_below {lo w l n : Nat} (a : Nat) (h : l + n ≤ lo) (h64 : lo + w ≤ 64) : rf (bump s a lo w) a l n = rf s a l n := by
  unfold bump bumpBy; exact rf_setRf_below s a _ h h64
theorem rf_bump_above {lo w l n : Nat} (a : Nat) (h : lo + w ≤ l) (h64 : lo + w ≤ 64) : rf (bump s a lo w) a l n = rf s a l n := by
  unfold bump bumpBy; exact rf_setRf_above s a _ h h64
/-- Counting changes nothing but registers. -/
theorem bump_only {s t : State} (h : t = { s with regs := t.regs }) (a lo w : Nat) : bump t a lo w = { s with regs := (bump t a lo w).regs } := setRf_only h _ _ _ _

/-! ### Records -/

/-- A record changes the record list and what its severity says, nothing else. -/
theorem raise_only (code sev cls idx env : Nat) (d : BitVec 320) :
    raise s code sev cls idx env d = { s with faults := (raise s code sev cls idx env d).faults, vote := voteFault sev s.vote, evacuate := s.evacuate || decide (3 ≤ sev), halted := s.halted || decide (4 ≤ sev) } := rfl
/-- Severities 0 and 1 are recorded and nothing else. -/
theorem raise_mild {sev : Nat} (h : sev < 2) (code cls idx env : Nat) (d : BitVec 320) :
    raise s code sev cls idx env d = { s with faults := (raise s code sev cls idx env d).faults } := by
  rw [raise_only]
  have h1 : voteFault sev s.vote = s.vote := by unfold voteFault; rw [if_pos h]
  have h2 : decide (3 ≤ sev) = false := by rw [decide_eq_false_iff_not]; omega
  have h3 : decide (4 ≤ sev) = false := by rw [decide_eq_false_iff_not]; omega
  rw [h1, h2, h3, Bool.or_false, Bool.or_false]
/-- Severity 4 halts the device. -/
theorem raise_halts (code cls idx env : Nat) (d : BitVec 320) : (raise s code 4 cls idx env d).halted = true := by
  show (s.halted || decide (4 ≤ 4)) = true; simp
@[simp] theorem link_raise (code sev cls idx env : Nat) (d : BitVec 320) (n : Nat) : link (raise s code sev cls idx env d) n = link s n := rfl

/-! ### Links -/

@[simp] theorem link_setRg (a v n : Nat) : link (setRg s a v) n = link s n := rfl
@[simp] theorem link_setRf (a lo w v n : Nat) : link (setRf s a lo w v) n = link s n := rfl
@[simp] theorem link_bump (a lo w n : Nat) : link (bump s a lo w) n = link s n := rfl
theorem link_modLink (n : Nat) (f : LinkS → LinkS) (m : Nat) : link (modLink s n f) m = if m = n then f (link s n) else link s m := by
  unfold link modLink; simp only [tget_tset]; rfl
@[simp] theorem link_modLink_same (n : Nat) (f : LinkS → LinkS) : link (modLink s n f) n = f (link s n) := by rw [link_modLink, if_pos rfl]
theorem link_modLink_ne {n m : Nat} (h : m ≠ n) (f : LinkS → LinkS) : link (modLink s n f) m = link s m := by rw [link_modLink, if_neg h]
@[simp] theorem rg_modLink (n : Nat) (f : LinkS → LinkS) (a : Nat) : rg (modLink s n f) a = rg s a := rfl
@[simp] theorem rf_modLink (n : Nat) (f : LinkS → LinkS) (a lo w : Nat) : rf (modLink s n f) a lo w = rf s a lo w := rfl

/-- Changing a link changes nothing but links. -/
theorem modLink_only {s t : State} (h : t = { s with links := t.links }) (n : Nat) (f : LinkS → LinkS) :
    modLink t n f = { s with links := (modLink t n f).links } := by
  have e : modLink t n f = { t with links := (modLink t n f).links } := rfl
  rw [e]; generalize (modLink t n f).links = l; rw [h]

/-- A message sent stands in a queue of its link. -/
theorem sendMgmt_only {s t : State} (h : t = { s with links := t.links }) (n p k : Nat) (rows : List Row) :
    sendMgmt t n p k rows = { s with links := (sendMgmt t n p k rows).links } ∧ ∀ m, m ≠ n → link (sendMgmt t n p k rows) m = link t m := by
  unfold sendMgmt; simp only; split <;> exact ⟨modLink_only h _ _, fun m hm => link_modLink_ne _ hm _⟩

/-- A message to each of a list of links. -/
theorem foldMgmt_only {s t : State} (h : t = { s with links := t.links }) (l : List Nat) (p k : Nat) (rows : State → List Row) :
    let u := l.foldl (fun s n => sendMgmt s n p k (rows s)) t
    u = { s with links := u.links } ∧ ∀ m, m ∉ l → link u m = link t m := by
  induction l generalizing t with
  | nil => exact ⟨h, fun _ _ => rfl⟩
  | cons n l ih =>
    obtain ⟨a, b⟩ := sendMgmt_only h n p k (rows t)
    obtain ⟨c, d⟩ := ih a
    refine ⟨c, ?_⟩
    intro m hm
    simp only [List.mem_cons, not_or] at hm
    exact (d m hm.2).trans (b m hm.1)

/-- Vote messages go to the vote links. -/
theorem sendVotes_only {s t : State} (h : t = { s with links := t.links }) (ty fl ex bm : Nat) :
    sendVotes t ty fl ex bm = { s with links := (sendVotes t ty fl ex bm).links } ∧ ∀ m, m ∉ voteLinkList s → link (sendVotes t ty fl ex bm) m = link t m := by
  have e : voteLinkList t = voteLinkList s := by rw [h]; rfl
  unfold sendVotes
  rw [e]
  exact foldMgmt_only h _ _ _ fun s => mgmtRows ty (myMsg s fl ex (stepNo s) 0 0 bm)

/-! ### Stacks -/

theorem chan_modChan (i n : Nat) (f : Chan → Chan) : chan (modChan s i f) n = if n = i then f (chan s i) else chan s n := by
  unfold chan modChan; simp only [tget_tset]; rfl
theorem dbank_modBank (i n : Nat) (f : DBank → DBank) : dbank (modBank s i f) n = if n = i then f (dbank s i) else dbank s n := by
  unfold dbank modBank; simp only [tget_tset]; rfl
@[simp] theorem chan_modBank (i n : Nat) (f : DBank → DBank) : chan (modBank s i f) n = chan s n := rfl
@[simp] theorem dbank_modChan (i n : Nat) (f : Chan → Chan) : dbank (modChan s i f) n = dbank s n := rfl

/-! ### What an operation leaves, with the parts it writes named -/

theorem setRg_ex (a v : Nat) : ∃ r, setRg s a v = { s with regs := r } := ⟨_, rfl⟩
theorem setRf_ex (a lo w v : Nat) : ∃ r, setRf s a lo w v = { s with regs := r } := ⟨_, rfl⟩
theorem bump_ex (a lo w : Nat) : ∃ r, bump s a lo w = { s with regs := r } := ⟨_, rfl⟩
/-- Firing a vector writes registers, the list of fired vectors and what is sent, nothing else (R408). -/
theorem msix_ex (f v : Nat) : ∃ r l o, msix s f v = { s with regs := r, fired := l, sent := o } := by
  unfold msix
  split
  · exact ⟨_, _, _, rfl⟩
  · obtain ⟨r, hr⟩ := setRf_ex { s with fired := s.fired ++ [f * 32 + v] } (bar f 0x010) v 1 1
    simp only; rw [hr]
    split
    · obtain ⟨q, hq⟩ := setRf_ex { s with fired := s.fired ++ [f * 32 + v], regs := r } (bar f 0x9000) v 1 1
      exact ⟨q, _, _, hq⟩
    · split
      · exact ⟨_, _, _, rfl⟩
      · exact ⟨_, _, _, rfl⟩
/-- PAR_STAT.STATE set. -/
theorem setParState_ex (v : Nat) : ∃ r l o, setParState s v = { s with regs := r, fired := l, sent := o } := by
  unfold setParState
  split
  · exact ⟨_, _, _, rfl⟩
  · obtain ⟨r, hr⟩ := setRf_ex s (parA 0x000) 60 4 v
    rw [hr]
    exact msix_ex { s with regs := r } 0 2
/-- A refused load changes registers and the messages of its vector. -/
theorem parRefuse_ex (code sec off : Nat) : ∃ r l o, parRefuse s code sec off = { s with regs := r, fired := l, sent := o } := by
  unfold parRefuse
  obtain ⟨r, l, o, h⟩ := setParState_ex s 4
  rw [h]
  exact ⟨_, _, _, rfl⟩
/-- A failed stage changes registers and the start record, where no COLD waits for the stage's end (R422, R435, R438). -/
theorem failStage_ex (code : Nat) (h : s.coldDue = false) : ∃ r x, failStage s code = { s with regs := r, flash := x } := by
  unfold failStage
  obtain ⟨r1, h1⟩ := setRf_ex s (kelA 0x100) 52 4 (stage s)
  rw [h1]
  obtain ⟨r2, h2⟩ := setRf_ex { s with regs := r1 } (kelA 0x100) 32 16 code
  simp only
  rw [h2]
  have e : ∃ r x, countFailure { s with regs := r2 } = { s with regs := r, flash := x } := by
    unfold countFailure
    split
    · exact ⟨r2, _, rfl⟩
    · split
      · obtain ⟨r, hr⟩ := setRg_ex { s with regs := r2, flash := { s.flash with fails := 1, first := uptime { s with regs := r2 } } } (kelA 0x108) (pack [(62, 2, 1), (40, 16, s.flash.colds), (24, 16, s.flash.reheats), (0, 24, uptime { s with regs := r2 } / 2 ^ 40)])
        exact ⟨r, _, hr⟩
      · exact ⟨_, _, rfl⟩
  obtain ⟨r3, x, h3⟩ := e
  rw [h3]
  obtain ⟨r4, h4⟩ := setRf_ex { s with regs := r3, flash := x } (kelA 0x100) 56 4 15
  rw [h4]
  unfold coldIfDue
  rw [if_neg (by simp [h])]
  exact ⟨_, _, rfl⟩

end Sys2Proof.Machine
end

