-- ==== Sys2Proof/Laws/Crown.lean ====
section
/-!
SUPPORT. Laws/Crown.lean: what Crownline's messages, records, decisions and scores change, and what a store and a host write change, each said once.
-/
namespace Sys2Proof.Machine
open Sys2Proof

/-! ### Messages and records -/

theorem crlIn_own {s : State} {ty : Nat} {m : CrlMsg} (h : m.dest.toNat = myIx s) (h2 : m.dest ≠ 0xFFFF) (f : State → State) : crlIn s ty m f = f s := by
  unfold crlIn; rw [if_neg h2, if_neg (by simp [h])]
theorem crlIn_other {s : State} {ty : Nat} {m : CrlMsg} (h : m.dest.toNat ≠ myIx s) (h2 : m.dest ≠ 0xFFFF) (f : State → State) : crlIn s ty m f = crlSend s ty m := by
  unfold crlIn; rw [if_neg h2, if_pos h]
theorem crlIn_new {s : State} {ty : Nat} {m : CrlMsg} (h : m.dest = 0xFFFF) (h2 : s.crl.seen.contains (ty, m.sender.toNat, m.subject.toNat, m.v.toNat) = false) (f : State → State) :
    crlIn s ty m f = f (crlSend (modCrl s fun c => { c with seen := c.seen ++ [(ty, m.sender.toNat, m.subject.toNat, m.v.toNat)] }) ty m) := by
  unfold crlIn; rw [if_pos h]; simp only; rw [if_neg (by rw [h2]; decide)]
theorem crlIn_seen {s : State} {ty : Nat} {m : CrlMsg} (h : m.dest = 0xFFFF) (h2 : s.crl.seen.contains (ty, m.sender.toNat, m.subject.toNat, m.v.toNat) = true) (f : State → State) :
    crlIn s ty m f = s := by
  unfold crlIn; rw [if_pos h]; simp only; rw [if_pos h2]
theorem raiseCrl_recorded (s : State) (code sev : Nat) (x : Option Nat) (d : List (Nat × Nat × Nat)) : Recorded s (raiseCrl s code sev x d) code sev := by
  unfold raiseCrl; simp only; split
  · exact recorded_of_faults (raise_recorded ..) (setRf_faults ..)
  · exact raise_recorded ..
theorem raiseCrl_halts (s : State) (code : Nat) (x : Option Nat) (d : List (Nat × Nat × Nat)) : (raiseCrl s code 4 x d).halted = true := by
  unfold raiseCrl; simp only; rw [if_pos trivial, setRf_halted]; exact raise_halts ..
theorem raiseCrl_crl (s : State) (code sev : Nat) (x : Option Nat) (d : List (Nat × Nat × Nat)) : (raiseCrl s code sev x d).crl = s.crl := by
  unfold raiseCrl; simp only; split
  · rw [setRf_crl, raise_crl]
  · rw [raise_crl]
theorem crlSend_links (s : State) (ty : Nat) (m : CrlMsg) : crlSend s ty m = { s with links := (crlSend s ty m).links } := by
  unfold crlSend
  split
  · exact (foldMgmt_only (links_self rfl) (voteLinkList s) 2 2 fun _ => crlRows ty m).1
  · split
    · exact (sendMgmt_only (links_self rfl) _ 2 2 _).1
    · rfl
theorem foldSend_links (l : List Nat) (ty : Nat) (g : State → Nat → CrlMsg) : ∀ s : State,
    let t := l.foldl (fun s d => crlSend s ty (g s d)) s
    t = { s with links := t.links } := by
  induction l with
  | nil => intro s; rfl
  | cons a l ih =>
    intro s
    have h1 := crlSend_links s ty (g s a)
    have h2 := ih (crlSend s ty (g s a))
    dsimp only at h2 ⊢
    rw [List.foldl_cons]
    generalize (l.foldl (fun s d => crlSend s ty (g s d)) (crlSend s ty (g s a))) = t at h2 ⊢
    rw [h2, h1]

/-! ### Vectors -/

/-- A vector changes only BAR0 registers, so the device's time stands (R408). -/
theorem msix_rg {a : Nat} (h : a < 0x1000000000000) (s : State) (f v : Nat) : rg (msix s f v) a = rg s a := by
  have n1 : ∀ o, a ≠ bar f o := by intro o; unfold bar; omega
  unfold msix
  split
  · rfl
  · simp only
    have e : rg (setRf { s with fired := s.fired ++ [f * 32 + v] } (bar f 0x010) v 1 1) a = rg s a := rg_setRf_ne _ (n1 _) _ _ _
    split
    · rw [rg_setRf_ne _ (n1 _)]; exact e
    · split
      · exact e
      · unfold msixSend; rw [rg_emit]; exact e
theorem msix_time (s : State) (f v : Nat) : ttc (msix s f v) = ttc s ∧ stepNo (msix s f v) = stepNo s := by
  unfold ttc stepNo rf
  rw [msix_rg (by decide), msix_rg (by decide)]; exact ⟨rfl, rfl⟩

/-! ### Action ticks -/

theorem decsTaken_ex (s : State) : ∃ r l o, decsTaken s = { s with crl := { s.crl with decs := s.crl.decs.filter fun d => d.tick != ttc s }, regs := r, fired := l, sent := o } := by
  unfold decsTaken
  obtain ⟨u, hu⟩ : ∃ u, u = modCrl s fun c => { c with decs := c.decs.filter fun d => d.tick != ttc s } := ⟨_, rfl⟩
  simp only; rw [← hu]
  obtain ⟨q, hq⟩ := setRf_ex u (crlA 0x010) 60 4 (if u.crl.decs = [] then 0 else 2)
  rw [hq]
  have hu' : u = { s with crl := { s.crl with decs := s.crl.decs.filter fun d => d.tick != ttc s } } := hu
  clear hu hq
  subst hu'
  split
  · obtain ⟨r, l, o, h⟩ := msix_ex { s with crl := { s.crl with decs := s.crl.decs.filter fun d => d.tick != ttc s }, regs := q } 0 3
    exact ⟨r, l, o, h⟩
  · exact ⟨q, _, _, rfl⟩
theorem decsTaken_only (s : State) : decsTaken s = { s with crl := (decsTaken s).crl, regs := (decsTaken s).regs, fired := (decsTaken s).fired, sent := (decsTaken s).sent } := by
  obtain ⟨r, l, o, h⟩ := decsTaken_ex s; rw [h]
theorem decsTaken_crl (s : State) : (decsTaken s).crl = { s.crl with decs := s.crl.decs.filter fun d => d.tick != ttc s } := by
  obtain ⟨r, l, o, h⟩ := decsTaken_ex s; rw [h]
theorem decsTaken_time (s : State) : ttc (decsTaken s) = ttc s ∧ stepNo (decsTaken s) = stepNo s := by
  unfold decsTaken
  obtain ⟨u, hu⟩ : ∃ u, u = modCrl s fun c => { c with decs := c.decs.filter fun d => d.tick != ttc s } := ⟨_, rfl⟩
  have k : rg u = rg s := by rw [hu]; rfl
  simp only; rw [← hu]
  have b : ∀ n, ttc (setRf u (crlA 0x010) 60 4 n) = ttc s ∧ stepNo (setRf u (crlA 0x010) 60 4 n) = stepNo s := fun n =>
    time_congr (a := crlA 0x010) (fun b hb => (rg_setRf_ne u hb _ _ _).trans (congrFun k b)) (by decide) (by decide)
  split
  · exact ⟨(msix_time ..).1.trans (b _).1, (msix_time ..).2.trans (b _).2⟩
  · exact b _
/-- Writes of CRL_EVICTED registers leave faults, time and the rest. -/
theorem evictedRegs_fold (g : Nat → Nat) (ws : List Nat) : ∀ u : State, (∀ w ∈ ws, w < 128) →
    let t := ws.foldl (fun s w => setRg s (crlA (0x400 + 8 * w)) (g w)) u
    t.faults = u.faults ∧ (∀ a, (∀ w < 128, a ≠ crlA (0x400 + 8 * w)) → rg t a = rg u a) ∧ t.evicted = u.evicted := by
  induction ws with
  | nil => intro u _; exact ⟨rfl, fun _ _ => rfl, rfl⟩
  | cons w ws ih =>
    intro u hw
    have lt := hw w (List.mem_cons_self ..)
    have e2 : (setRg u (crlA (0x400 + 8 * w)) (g w)).faults = u.faults := setRg_faults ..
    have e3 : (setRg u (crlA (0x400 + 8 * w)) (g w)).evicted = u.evicted := setRg_evicted ..
    have k := ih (setRg u (crlA (0x400 + 8 * w)) (g w)) (fun x hx => hw x (List.mem_cons_of_mem _ hx))
    simp only [List.foldl_cons] at k ⊢
    rw [e2, e3] at k
    exact ⟨k.1, fun a ha => (k.2.1 a ha).trans (rg_setRg_ne u (ha w lt) (g w)), k.2.2⟩
/-- CRL_EVICTED follows the set; nothing but its registers and the set changes. -/
theorem setEvicted_facts (s : State) (l : List Nat) : (setEvicted s l).faults = s.faults ∧ ttc (setEvicted s l) = ttc s ∧ stepNo (setEvicted s l) = stepNo s ∧ (setEvicted s l).evicted = l ∧ myIx (setEvicted s l) = myIx s := by
  have k := evictedRegs_fold (fun w => pack ((List.range 64).map fun i => (i, 1, b2n (l.contains (64 * w + i))))) (List.range 128) { s with evicted := l } (fun w hw => List.mem_range.1 hw)
  unfold setEvicted forN
  simp only at k ⊢
  generalize (List.range 128).foldl (fun s w => setRg s (crlA (0x400 + 8 * w)) (pack ((List.range 64).map fun i => (i, 1, b2n (l.contains (64 * w + i)))))) { s with evicted := l } = t at k ⊢
  obtain ⟨a, b, d⟩ := k
  have B : ∀ x, x ≠ crlA 0x010 → (∀ w < 128, x ≠ crlA (0x400 + 8 * w)) → rg (setRf t (crlA 0x010) 42 14 l.length) x = rg s x := by
    intro x h1 h2; rw [rg_setRf_ne _ h1, b x h2]; rfl
  refine ⟨by rw [setRf_faults]; exact a, ?_, ?_, by rw [setRf_evicted]; exact d, ?_⟩
  · exact B _ (by decide) (by intro w _; unfold ttA crlA; omega)
  · exact congrArg (fun x => fld x 0 48) (B _ (by decide) (by intro w _; unfold ttA crlA; omega))
  · unfold myIx rf; rw [B _ (by decide) (by intro w _; unfold parA crlA; omega)]
theorem raiseCrl_evicted (s : State) (code sev : Nat) (x : Option Nat) (d : List (Nat × Nat × Nat)) : (raiseCrl s code sev x d).evicted = s.evicted := by
  unfold raiseCrl; simp only; split
  · rw [setRf_evicted, raise_evicted]
  · rw [raise_evicted]
/-- EVICT marks its subjects, and halts the device where it is one of them (R378, R379). -/
theorem evict_facts (s : State) (xs : List Nat) (c t : Nat) : (evict s xs c t).evicted = ascending (s.evicted ++ xs) ∧
    (xs.contains (myIx s) = true → Recorded s (evict s xs c t) 0x0C05 4 ∧ (evict s xs c t).halted = true) := by
  have h := setEvicted_facts s (ascending (s.evicted ++ xs))
  unfold evict
  obtain ⟨u, hu⟩ : ∃ u, u = setEvicted s (ascending (s.evicted ++ xs)) := ⟨_, rfl⟩
  simp only; rw [← hu] at h ⊢
  obtain ⟨h1, h2, h3, h4, h5⟩ := h
  have K : ∀ v : State, v.evicted = u.evicted → v.faults = u.faults → ttc v = ttc u → stepNo v = stepNo u → myIx v = myIx u →
      (if xs.contains (myIx v) then raiseCrl v 0x0C05 4 none [(0, 1, c), (8, 8, t)] else v).evicted = ascending (s.evicted ++ xs) ∧
      (xs.contains (myIx s) = true → Recorded s (if xs.contains (myIx v) then raiseCrl v 0x0C05 4 none [(0, 1, c), (8, 8, t)] else v) 0x0C05 4 ∧
        (if xs.contains (myIx v) then raiseCrl v 0x0C05 4 none [(0, 1, c), (8, 8, t)] else v).halted = true) := by
    intro v e1 e2 e3 e4 e5
    rw [e5, h5]
    refine ⟨?_, fun hc => ?_⟩
    · split
      · rw [raiseCrl_evicted, e1, h4]
      · rw [e1, h4]
    · rw [if_pos hc]
      obtain ⟨f, k1, k2, k3, k4, k5⟩ := raiseCrl_recorded v 0x0C05 4 none [(0, 1, c), (8, 8, t)]
      exact ⟨⟨f, by rw [k1, e2, h1], k2, k3, k4.trans (e3.trans h2), k5.trans (e4.trans h3)⟩, raiseCrl_halts ..⟩
  obtain ⟨e3, e4⟩ := time_congr (s := u) (u := setRf u (twnA 0x008) 60 4 2) (a := twnA 0x008) (fun b hb => rg_setRf_ne u hb _ _ _) (by decide) (by decide)
  have e5 : myIx (setRf u (twnA 0x008) 60 4 2) = myIx u := by unfold myIx; rw [rf_setRf_ne _ (by decide)]
  have W : ∀ v : State, v = u ∨ v = setRf u (twnA 0x008) 60 4 2 → v.evicted = u.evicted ∧ v.faults = u.faults ∧ ttc v = ttc u ∧ stepNo v = stepNo u ∧ myIx v = myIx u := by
    rintro v (hv | hv)
    · rw [hv]; exact ⟨rfl, rfl, rfl, rfl, rfl⟩
    · rw [hv, setRf_evicted, setRf_faults]; exact ⟨rfl, rfl, e3, e4, e5⟩
  have V : ∀ v : State, v = (match twinOf u with | some y => if xs.contains y then setRf u (twnA 0x008) 60 4 2 else u | none => u) → v = u ∨ v = setRf u (twnA 0x008) 60 4 2 := by
    intro v hv
    split at hv
    · split at hv
      · exact .inr hv
      · exact .inl hv
    · exact .inl hv
  obtain ⟨w1, w2, w3, w4, w5⟩ := W _ (V _ rfl)
  exact K _ w1 w2 w3 w4 w5

/-! ### Wear scores -/

/-- The step of WEAR_UPDATE for one part. -/
def wearUp (s u : State) (p : Nat) : State := if wearAdd s p = 0 ∧ tget 0 u.crl.wear p = 0 then u else wearStep s u (wearAdd s p) p
theorem report_crl (s : State) (c : Nat) : (report s c).crl = s.crl ∧ (report s c).wearMark = s.wearMark := by
  unfold report; split <;> exact ⟨rfl, rfl⟩
theorem raiseCrl_wearMark (s : State) (code sev : Nat) (x : Option Nat) (d : List (Nat × Nat × Nat)) : (raiseCrl s code sev x d).wearMark = s.wearMark := by
  unfold raiseCrl; simp only; split
  · rw [setRf_wearMark, raise_wearMark]
  · rw [raise_wearMark]
/-- A part's new score, and that nothing else of Crownline's state changes (R390). -/
theorem wearStep_crl (s u : State) (add p : Nat) :
    (wearStep s u add p).crl = { u.crl with wear := tset 0 u.crl.wear p (min (2 ^ 32 - 1) (tget 0 u.crl.wear p - tget 0 u.crl.wear p / 2 ^ rf s (crlA 0x038) 59 5 + add)) } ∧ (wearStep s u add p).wearMark = u.wearMark := by
  unfold wearStep
  extract_lets old new warn evac v w
  have hw : w.crl = v.crl ∧ w.wearMark = v.wearMark := by
    show (if old < warn ∧ warn ≤ new then raiseCrl v 0x0C09 0 none [(0, 1, p), (4, 4, new)] else v).crl = _ ∧ (if old < warn ∧ warn ≤ new then raiseCrl v 0x0C09 0 none [(0, 1, p), (4, 4, new)] else v).wearMark = _
    split
    · exact ⟨raiseCrl_crl .., raiseCrl_wearMark ..⟩
    · exact ⟨rfl, rfl⟩
  clear_value w
  split
  · exact ⟨(report_crl w 3).1.trans hw.1, (report_crl w 3).2.trans hw.2⟩
  · exact hw
theorem wearFold (s : State) (n : Nat) (v : State) : let t := (List.range n).foldl (wearUp s) v
    t.wearMark = v.wearMark ∧ t.crl.wearAt = v.crl.wearAt ∧
      ∀ p, tget 0 t.crl.wear p = if p < n then min (2 ^ 32 - 1) (tget 0 v.crl.wear p - tget 0 v.crl.wear p / 2 ^ rf s (crlA 0x038) 59 5 + wearAdd s p) else tget 0 v.crl.wear p := by
  induction n with
  | zero => exact ⟨rfl, rfl, fun p => by rw [if_neg (by omega)]; rfl⟩
  | succ n ih =>
    rw [List.range_succ, List.foldl_append]
    simp only at ih ⊢
    generalize (List.range n).foldl (wearUp s) v = t at ih
    obtain ⟨a, b, c⟩ := ih
    have cn := c n
    rw [if_neg (by omega)] at cn
    simp only [List.foldl_cons, List.foldl_nil]
    by_cases h : wearAdd s n = 0 ∧ tget 0 t.crl.wear n = 0
    · have e : wearUp s t n = t := if_pos h
      rw [e]
      refine ⟨a, b, fun p => ?_⟩
      rw [c p]
      by_cases hp : p = n
      · subst hp
        have z : tget 0 v.crl.wear p = 0 := by rw [← cn]; exact h.2
        rw [if_neg (by omega), if_pos (by omega), z, h.1]; simp
      · by_cases hq : p < n
        · rw [if_pos hq, if_pos (by omega)]
        · rw [if_neg hq, if_neg (by omega)]
    · have e : wearUp s t n = wearStep s t (wearAdd s n) n := if_neg h
      obtain ⟨k1, k2⟩ := wearStep_crl s t (wearAdd s n) n
      rw [e, k1, k2]
      refine ⟨a, b, fun p => ?_⟩
      show tget 0 (tset 0 t.crl.wear n _) p = _
      by_cases hp : p = n
      · subst hp; rw [tget_tset_same, if_pos (by omega), cn]
      · rw [tget_tset_ne _ _ hp, c p]
        by_cases hq : p < n
        · rw [if_pos hq, if_pos (by omega)]
        · rw [if_neg hq, if_neg (by omega)]

/-! ### Bytes stored and words sent (R306, R401, R409) -/

/-- A store of bytes writes memory there and drops the errors of the entries it covers, nothing else. -/
theorem storeBytes_only (s : State) (a : Nat) (bs : List Byte) : ∃ x, storeBytes s a bs = { s with mem := writeBytes s.mem a bs, sec := x } := by
  unfold storeBytes; simp only
  split
  · exact ⟨_, rfl⟩
  · generalize (a + bs.length - 1) / 64 - a / 64 + 1 = k
    generalize writeBytes s.mem a bs = m
    have : ∀ (l : List Nat) (x : Tbl (List (Nat × Nat))), ∃ y, l.foldl (fun (s : State) i => { s with sec := tset [] s.sec (a / 64 + i) [] }) { s with mem := m, sec := x } = { s with mem := m, sec := y } := by
      intro l
      induction l with
      | nil => exact fun x => ⟨x, rfl⟩
      | cons i l ih => exact fun x => ih _
    exact this _ _
/-- A host write only adds to what is sent. -/
theorem hostWrite_on {s : State} {f : Nat} (h1 : s.ucie ≠ 2) (h2 : busMaster s f = true) (a : Nat) (d : List Byte) : hostWrite s f a d = emit s (.hostWrite f a d) := by
  unfold hostWrite; rw [if_neg (by simp [h1, h2])]

end Sys2Proof.Machine
end

