-- ==== Sys2Proof/Laws/Gaffer.lean ====
section
/-!
SUPPORT. Laws/Gaffer.lean: what a step of the gaffer does, said once: the instruction that starts, its completion, its trap.
-/
namespace Sys2Proof.Machine
open Sys2Proof

/-- The word at the program counter does not depend on the address shown. -/
theorem gafWord_cur (u : State) (c n : Nat) : gafWord (modGaf u c fun g => { g with cur := n }) c = gafWord u c := by
  unfold gafWord imemHalf modGaf; simp only [core_modCore_same]
/-- Nor does its instruction. -/
theorem gafInst_cur (u : State) (c n : Nat) : gafInst (modGaf u c fun g => { g with cur := n }) c = gafInst u c := by
  unfold gafInst; rw [gafWord_cur]
/-- Registers that a change leaves alone. -/
theorem xreg_modGaf (u : State) (c r : Nat) (f : Gaffer → Gaffer) (h : (f (core u c).gaf).x = (core u c).gaf.x) : xreg (modGaf u c f) c r = xreg u c r := by
  unfold xreg modGaf; rw [core_modCore_same, h]
/-- A changed gaffer. -/
theorem gaf_modGaf (u : State) (c : Nat) (f : Gaffer → Gaffer) : (core (modGaf u c f) c).gaf = f (core u c).gaf := by
  unfold modGaf; rw [core_modCore_same]
/-- A good word is not recorded. -/
theorem noteGaf_good {s : State} {c : Nat} {d : Bool} {w : Nat} (h : tget 0 (core s c).gaf.bad (gafKey d w) = 0) : noteGaf s c d w = s := by
  unfold noteGaf; simp only; rw [if_pos h]
/-- Nor is a list of good words. -/
theorem noteFold {s : State} {c : Nat} (l : List Nat) (h : ∀ k ∈ l, tget 0 (core s c).gaf.bad (gafKey false k) = 0) :
    l.foldl (fun s k => noteGaf s c false k) s = s := by
  induction l with
  | nil => rfl
  | cons k l ih => simp only [List.foldl_cons]; rw [noteGaf_good (h k (by simp))]; exact ih fun x hx => h x (by simp [hx])
/-- A ready gaffer runs its instruction. -/
theorem gafStep_ready {u : State} {c : Nat} {i : GInst} (H : GafReady u c i) :
    gafStep u c = gafDo (curSet u c) c (gafWord u c).1 (gafWord u c).2 i := by
  have hb : ∀ k ∈ ([(core u c).gaf.pc / 4, ((core u c).gaf.pc + (gafWord u c).2 - 1) / 4]).eraseDups, tget 0 (core u c).gaf.bad (gafKey false k) = 0 := by
    intro k hk; rw [List.mem_eraseDups] at hk; exact H.good k hk
  have cc : (core (curSet u c) c).gaf.bad = (core u c).gaf.bad := by unfold curSet; rw [gaf_modGaf]
  have e : (modGaf u c fun g => { g with cur := g.pc }) = curSet u c := rfl
  unfold gafStep
  simp only
  rw [e, show gafWord (curSet u c) c = gafWord u c from gafWord_cur .., show gafInst (curSet u c) c = gafInst u c from gafInst_cur ..]
  rw [if_neg (by have := H.inside; omega)]
  have hf : (([(core u c).gaf.pc / 4, ((core u c).gaf.pc + (gafWord u c).2 - 1) / 4]).eraseDups.find? fun k => gafBad (curSet u c) c false k) = none := by
    rw [List.find?_eq_none]
    intro k hk
    unfold gafBad; rw [cc, hb k hk]; simp
  rw [hf]
  simp only
  rw [noteFold _ (by rw [cc]; exact hb), H.inst]
/-- An event that names the instruction runs it. -/
theorem event_eq {c : Fin 60} {p : Fin 8} {s : State} {f : State → GInst → Bool} (hp : s.phase ≤ p.val) (hd : gafDue (runTo s p.val) c.val = true)
    (hf : f (runTo s p.val) (gafInst (runTo s p.val) c.val) = true) : gafEvent c p f s = .next (gafStep (runTo s p.val) c.val) := by
  unfold gafEvent; rw [whenAt_run s _ hp]; rw [if_pos (by simp [hd, hf])]
/-- Completion of an instruction that changed only registers of its gaffer. -/
theorem gafDone_next {u v : State} (c nxt lat : Nat) (hr : v.regs = u.regs) (hp : v.phase = u.phase)
    (hc : CoreOnly u v c) (hs : core v c = { core u c with gaf := { (core u c).gaf with cur := (core u c).gaf.pc, x := (core v c).gaf.x } }) (rd x : Nat)
    (hx : ∀ r, xreg v c r = if r = rd ∧ r ≠ 0 then x else xreg u c r) :
    GafDone u (gafNext v c nxt lat) c rd x nxt lat := by
  have hn : now v = now u := now_congr hr hp
  constructor
  · constructor
    · have e : gafNext v c nxt lat = { v with cores := (gafNext v c nxt lat).cores } := rfl
      rw [e]; generalize (gafNext v c nxt lat).cores = k; rw [hc.1]
    · intro d hd; unfold gafNext modGaf; rw [core_modCore_ne _ hd]; exact hc.2 d hd
  · unfold gafNext modGaf; rw [core_modCore_same, hs]
  · unfold gafNext; rw [gaf_modGaf, hs, hn]
  · intro r
    unfold gafNext; rw [xreg_modGaf _ _ _ _ rfl]; exact hx r
/-- Showing the address changes nothing else. -/
theorem cur_only (u : State) (c : Nat) : CoreOnly u (curSet u c) c := ⟨rfl, fun d hd => core_modCore_ne u hd _⟩
theorem cur_core (u : State) (c : Nat) : core (curSet u c) c = { core u c with gaf := { (core u c).gaf with cur := (core u c).gaf.pc, x := (core (curSet u c) c).gaf.x } } := by
  unfold curSet modGaf; rw [core_modCore_same]
theorem cur_x (u : State) (c r : Nat) : xreg (curSet u c) c r = xreg u c r := xreg_modGaf _ _ _ _ rfl
theorem cur_pc (u : State) (c : Nat) : (core (curSet u c) c).gaf.pc = (core u c).gaf.pc := by unfold curSet; rw [gaf_modGaf]
/-- Completion with a result. -/
theorem gafDone_put (u : State) (c rd v nxt lat : Nat) : GafDone u (gafPut (curSet u c) c rd v nxt lat) c rd (v % 2 ^ 32) nxt lat := by
  unfold gafPut
  by_cases h0 : rd = 0
  · have e : setX (curSet u c) c rd (BitVec.ofNat 32 v) = curSet u c := by unfold setX; rw [if_pos h0]
    rw [e]
    exact gafDone_next (u := u) (v := curSet u c) c nxt lat rfl rfl (cur_only u c) (cur_core u c) _ _ fun r => by
      rw [cur_x, if_neg]; rintro ⟨rfl, h⟩; exact h h0
  · refine gafDone_next (u := u) c nxt lat ?_ ?_ ?_ ?_ _ _ ?_
    · unfold setX; rw [if_neg h0]; rfl
    · unfold setX; rw [if_neg h0]; rfl
    · unfold setX; rw [if_neg h0]
      exact ⟨rfl, fun d hd => by rw [core_modCore_ne _ hd]; exact (cur_only u c).2 d hd⟩
    · unfold setX; rw [if_neg h0, core_modCore_same, cur_core]
    · intro r
      unfold setX xreg; rw [if_neg h0, core_modCore_same]
      simp only [tget_tset]
      by_cases hr : r = rd
      · subst hr; simp [h0]
      · have := cur_x u c r; unfold xreg at this; simp only [hr, if_false, false_and]; exact this
/-- Completion without a result. -/
theorem gafDone_go (u : State) (c nxt lat : Nat) : GafDone u (gafNext (curSet u c) c nxt lat) c 0 0 nxt lat :=
  gafDone_next (u := u) (v := curSet u c) c nxt lat rfl rfl (cur_only u c) (cur_core u c) _ _ fun r => by
      rw [cur_x, if_neg]; rintro ⟨rfl, h⟩; exact h rfl
/-- Completion after another change of the gaffer. -/
theorem gafDone_mod (u : State) (c : Nat) (f : Gaffer → Gaffer) (nxt lat : Nat) (h1 : ∀ g n, f { g with cur := n } = { f g with cur := n })
    (h2 : ∀ g, (f g).pc = g.pc) (h3 : ∀ g, (f g).x = g.x) (h4 : ∀ g, (f g).cur = g.cur) (h5 : ∀ g, (f g).minstret = g.minstret) :
    GafDone (modGaf u c f) (gafNext (modGaf (curSet u c) c f) c nxt lat) c 0 0 nxt lat := by
  refine gafDone_next (u := modGaf u c f) (v := modGaf (curSet u c) c f) c nxt lat rfl rfl ?_ ?_ 0 0 ?_
  · refine ⟨rfl, ?_⟩
    intro d hd; unfold modGaf; rw [core_modCore_ne _ hd, core_modCore_ne _ hd]; exact (cur_only u c).2 d hd
  · unfold modGaf; rw [core_modCore_same, core_modCore_same, cur_core]
    have hx : (core (curSet u c) c).gaf.x = (core u c).gaf.x := by unfold curSet; rw [gaf_modGaf]
    simp only [hx]
    have e1 : f { (core u c).gaf with cur := (core u c).gaf.pc } = { f (core u c).gaf with cur := (f (core u c).gaf).pc } := by rw [h1, h2]
    have e2 := h3 (core u c).gaf
    rw [e1]
  · intro r
    rw [xreg_modGaf _ _ _ _ (h3 _), xreg_modGaf _ _ _ _ (h3 _), if_neg (by rintro ⟨rfl, h⟩; exact h rfl), cur_x]
/-- A wrapped result fits its register. -/
theorem wrap_mod (r : Int) : wrapN 32 r % 2 ^ 32 = wrapN 32 r := Nat.mod_eq_of_lt (by unfold wrapN; omega)
/-- A trap records 0x0409, counts it and stops the gaffer. -/
theorem trap_facts (u : State) (c cause tval : Nat) :
    Recorded u (gafTrap (curSet u c) c cause tval) 0x0409 2 ∧ (core (gafTrap (curSet u c) c cause tval) c).gaf =
      { (core u c).gaf with cur := (core u c).gaf.pc, stopped := true, mcause := BitVec.ofNat 32 cause, mepc := BitVec.ofNat 32 (core u c).gaf.pc, mtval := BitVec.ofNat 32 tval } ∧
    rf (gafTrap (curSet u c) c cause tval) (gafA c 0x020) 48 16 = min (2 ^ 16 - 1) (rf u (gafA c 0x020) 48 16 + 1) := by
  have hm : ∀ (v : State) (f : Gaffer → Gaffer) a lo w, rf (modGaf v c f) a lo w = rf v a lo w := fun _ _ _ _ _ => rfl
  refine ⟨?_, ?_, ?_⟩
  · unfold gafTrap gafStop raiseGaf
    have R := raiseEng_recorded (curSet u c) c 9 0x0409 2 [(4, 4, cause), (8, 4, (core (curSet u c) c).gaf.pc), (12, 4, tval)]
    have R2 := recorded_bump R (gafA c 0x020) 48 16
    obtain ⟨f, e1, e2, e3, e4, e5⟩ := R2
    exact ⟨f, e1, e2, e3, e4, e5⟩
  · unfold gafTrap gafStop raiseGaf
    rw [gaf_modGaf, core_bump, core_raiseEng]
    unfold curSet; rw [gaf_modGaf]
  · unfold gafTrap gafStop raiseGaf
    rw [hm, rf_bump_same _ _ (by omega), rf_raiseEng]
    rfl

end Sys2Proof.Machine
end

