-- ==== Sys2Proof/Laws/PerInstr.lean ====
section
/-!
SUPPORT. Laws/PerInstr.lean: for each constructor of Instr, that exactly the stream commands have a word, written with the header
that WellFormed judges.
-/
namespace Sys2Proof.Laws.Formed
open Sys2Proof

/-- A command has a word exactly if a stream holds it, and the word is written with the same header (R120, R139, R153). -/
def Statement (i : Instr) : Prop :=
  (encode i).isSome = (strmKind i).isSome ∧ ∀ k h, strmKind i = some (k, h) → ∃ e, encOf i = some (h, e)

theorem tick (upsets : List Upset) : Statement (.tick upsets) := ⟨rfl, fun _ _ e => nomatch e⟩
theorem tsyncCapture (pinB : Bool) (phase : Fin 8) (err : Fin 3) : Statement (.tsyncCapture pinB phase err) := ⟨rfl, fun _ _ e => nomatch e⟩
theorem frameStart : Statement (.frameStart) := ⟨rfl, fun _ _ e => nomatch e⟩
theorem launchTick : Statement (.launchTick) := ⟨rfl, fun _ _ e => nomatch e⟩
theorem commitWindowOpen : Statement (.commitWindowOpen) := ⟨rfl, fun _ _ e => nomatch e⟩
theorem voteFix : Statement (.voteFix) := ⟨rfl, fun _ _ e => nomatch e⟩
theorem gatherRound : Statement (.gatherRound) := ⟨rfl, fun _ _ e => nomatch e⟩
theorem voteGather (link : Fin 24) (msg : TetherMsg) : Statement (.voteGather link msg) := ⟨rfl, fun _ _ e => nomatch e⟩
theorem decideRound : Statement (.decideRound) := ⟨rfl, fun _ _ e => nomatch e⟩
theorem voteDecide (link : Fin 24) (msg : TetherMsg) : Statement (.voteDecide link msg) := ⟨rfl, fun _ _ e => nomatch e⟩
theorem decisionTick (transfersDone : Bool) : Statement (.decisionTick transfersDone) := ⟨rfl, fun _ _ e => nomatch e⟩
theorem confirmSend (link : Fin 24) : Statement (.confirmSend link) := ⟨rfl, fun _ _ e => nomatch e⟩
theorem confirmReceive (link : Fin 24) (msg : TetherMsg) : Statement (.confirmReceive link msg) := ⟨rfl, fun _ _ e => nomatch e⟩
theorem syncExchangeStart (link : Fin 24) (phase : Fin 8) : Statement (.syncExchangeStart link phase) := ⟨rfl, fun _ _ e => nomatch e⟩
theorem syncReq (link : Fin 24) (phase : Fin 8) (msg : TetherMsg) : Statement (.syncReq link phase msg) := ⟨rfl, fun _ _ e => nomatch e⟩
theorem syncResp (link : Fin 24) (phase : Fin 8) (msg : TetherMsg) : Statement (.syncResp link phase msg) := ⟨rfl, fun _ _ e => nomatch e⟩
theorem acqStart : Statement (.acqStart) := ⟨rfl, fun _ _ e => nomatch e⟩
theorem acquisitionTimeout : Statement (.acquisitionTimeout) := ⟨rfl, fun _ _ e => nomatch e⟩
theorem ttCountSetWrite (v : BitVec 64) : Statement (.ttCountSetWrite v) := ⟨rfl, fun _ _ e => nomatch e⟩
theorem ttLaunchWrite (v : BitVec 64) : Statement (.ttLaunchWrite v) := ⟨rfl, fun _ _ e => nomatch e⟩
theorem alarmWrite (n : Fin 16) (v : BitVec 64) : Statement (.alarmWrite n v) := ⟨rfl, fun _ _ e => nomatch e⟩
theorem alarmFire (n : Fin 16) : Statement (.alarmFire n) := ⟨rfl, fun _ _ e => nomatch e⟩
theorem referenceLoss (input : RefInput) : Statement (.referenceLoss input) := ⟨rfl, fun _ _ e => nomatch e⟩
theorem holdoverTimeout : Statement (.holdoverTimeout) := ⟨rfl, fun _ _ e => nomatch e⟩
theorem pllUnlock (region : Fin 18) : Statement (.pllUnlock region) := ⟨rfl, fun _ _ e => nomatch e⟩
theorem telltaleSample (site : Fin 12) (i : Fin 4) (margin : BitVec 3) : Statement (.telltaleSample site i margin) := ⟨rfl, fun _ _ e => nomatch e⟩
theorem crossingAlignment (region : Fin 19) (port : Fin 8) (trials : List TapTrial) : Statement (.crossingAlignment region port trials) := ⟨rfl, fun _ _ e => nomatch e⟩
theorem segmentStart (core : Fin 60) (strm : Fin 5) : Statement (.segmentStart core strm) := ⟨rfl, fun _ _ e => nomatch e⟩
theorem nop (h : Iss) : Statement (.nop h) := ⟨rfl, fun _ _ e => by cases e; exact ⟨_, rfl⟩⟩
theorem segEnd (h : Iss) : Statement (.segEnd h) := ⟨rfl, fun _ _ e => by cases e; exact ⟨_, rfl⟩⟩
theorem segLoop (h : Iss) (level : Bool) (target : BitVec 15) (count : BitVec 16) : Statement (.segLoop h level target count) := ⟨rfl, fun _ _ e => by cases e; exact ⟨_, rfl⟩⟩
theorem segArm (h : Iss) (nf : Bool) (ix : BitVec 15) (tick : BitVec 23) : Statement (.segArm h nf ix tick) := ⟨rfl, fun _ _ e => by cases e; exact ⟨_, rfl⟩⟩
theorem attick (h : Iss) (tick : BitVec 23) : Statement (.attick h tick) := ⟨rfl, fun _ _ e => by cases e; exact ⟨_, rfl⟩⟩
theorem attickComplete (core : Fin 60) (strm : Fin 5) : Statement (.attickComplete core strm) := ⟨rfl, fun _ _ e => nomatch e⟩
theorem setcCounter (h : Iss) (tgt : BitVec 4) (j : BitVec 2) (value : BitVec 16) (limit : BitVec 16) (stride : BitVec 16) : Statement (.setcCounter h tgt j value limit stride) := ⟨rfl, fun _ _ e => by cases e; exact ⟨_, rfl⟩⟩
theorem setcComparator (h : Iss) (tgt : BitVec 4) (cmp : Bool) (en : Bool) (ctr : BitVec 2) (rel : BitVec 2) (pred : BitVec 3) (value : BitVec 16) : Statement (.setcComparator h tgt cmp en ctr rel pred value) := ⟨rfl, fun _ _ e => by cases e; exact ⟨_, rfl⟩⟩
theorem setcDescriptor (h : Iss) (tgt : BitVec 4) (ix : BitVec 6) (value : BitVec 64) : Statement (.setcDescriptor h tgt ix value) := ⟨rfl, fun _ _ e => by cases e; exact ⟨_, rfl⟩⟩
theorem setcCcount (h : Iss) (k : BitVec 6) (value : BitVec 32) : Statement (.setcCcount h k value) := ⟨rfl, fun _ _ e => by cases e; exact ⟨_, rfl⟩⟩
theorem waitc (h : Iss) (k : BitVec 6) (n : BitVec 32) (deadline : BitVec 23) : Statement (.waitc h k n deadline) := ⟨rfl, fun _ _ e => by cases e; exact ⟨_, rfl⟩⟩
theorem waitcComplete (core : Fin 60) (phase : Fin 8) : Statement (.waitcComplete core phase) := ⟨rfl, fun _ _ e => nomatch e⟩
theorem waitcMissed (core : Fin 60) : Statement (.waitcMissed core) := ⟨rfl, fun _ _ e => nomatch e⟩
theorem waitq (h : Iss) (bp : Fin 2) (q : BitVec 2) (n : BitVec 32) (deadline : BitVec 23) : Statement (.waitq h bp q n deadline) := ⟨rfl, fun _ _ e => by cases e; exact ⟨_, rfl⟩⟩
theorem waitqComplete (core : Fin 60) (phase : Fin 8) : Statement (.waitqComplete core phase) := ⟨rfl, fun _ _ e => nomatch e⟩
theorem waitqMissed (core : Fin 60) (strm : Fin 5) : Statement (.waitqMissed core strm) := ⟨rfl, fun _ _ e => nomatch e⟩
theorem bpipe (h : Iss) (bp : Fin 2) (cu : CU) (src : BitVec 16) (rows : BitVec 8) (q : BitVec 2) (spl : Bool) (spool : BitVec 5) : Statement (.bpipe h bp cu src rows q spl spool) := ⟨rfl, fun _ _ e => by cases e; exact ⟨_, rfl⟩⟩
theorem send (h : Iss) (o : SendOp) : Statement (.send h o) := ⟨rfl, fun _ _ e => by cases e; exact ⟨_, rfl⟩⟩
theorem fill (h : Iss) (cu : CU) (dst : BitVec 16) (rows : BitVec 16) (pattern : BitVec 32) : Statement (.fill h cu dst rows pattern) := ⟨rfl, fun _ _ e => by cases e; exact ⟨_, rfl⟩⟩
theorem copy (h : Iss) (cu : CU) (src : BitVec 16) (dst : BitVec 16) (rows : BitVec 16) : Statement (.copy h cu src dst rows) := ⟨rfl, fun _ _ e => by cases e; exact ⟨_, rfl⟩⟩
theorem moveW (h : Iss) (me : Fin 4) (cu : CU) (src : BitVec 16) (bank : Bool) (wfmt : BitVec 4) : Statement (.moveW h me cu src bank wfmt) := ⟨rfl, fun _ _ e => by cases e; exact ⟨_, rfl⟩⟩
theorem moveMein (h : Iss) (me : Fin 4) (cu : CU) (src : BitVec 16) (u : BitVec 9) (lines : BitVec 9) (layout : BitVec 2) : Statement (.moveMein h me cu src u lines layout) := ⟨rfl, fun _ _ e => by cases e; exact ⟨_, rfl⟩⟩
theorem moveMeout (h : Iss) (me : Fin 4) (cu : CU) (dst : BitVec 16) (u : BitVec 9) (m : BitVec 9) (nw : Bool) (form : BitVec 2) (sat : Bool) : Statement (.moveMeout h me cu dst u m nw form sat) := ⟨rfl, fun _ _ e => by cases e; exact ⟨_, rfl⟩⟩
theorem moveVld (h : Iss) (ve : Fin 2) (cu : CU) (row : BitVec 16) (reg : BitVec 4) (count : BitVec 4) : Statement (.moveVld h ve cu row reg count) := ⟨rfl, fun _ _ e => by cases e; exact ⟨_, rfl⟩⟩
theorem moveVst (h : Iss) (ve : Fin 2) (cu : CU) (row : BitVec 16) (reg : BitVec 4) (count : BitVec 4) : Statement (.moveVst h ve cu row reg count) := ⟨rfl, fun _ _ e => by cases e; exact ⟨_, rfl⟩⟩
theorem matmul (h : Iss) (o : MatmulOp) : Statement (.matmul h o) := ⟨rfl, fun _ _ e => by cases e; exact ⟨_, rfl⟩⟩
theorem matmulComplete (core : Fin 60) (me : Fin 4) (phase : Fin 8) : Statement (.matmulComplete core me phase) := ⟨rfl, fun _ _ e => nomatch e⟩
theorem transpose (h : Iss) (cu : CU) (src : BitVec 16) (dst : BitVec 16) (nt : BitVec 12) (w : BitVec 2) : Statement (.transpose h cu src dst nt w) := ⟨rfl, fun _ _ e => by cases e; exact ⟨_, rfl⟩⟩
theorem permute (h : Iss) (cu : CU) (src : BitVec 16) (dst : BitVec 16) (n : BitVec 12) (idx : BitVec 16) (limit : BitVec 16) : Statement (.permute h cu src dst n idx limit) := ⟨rfl, fun _ _ e => by cases e; exact ⟨_, rfl⟩⟩
theorem im2col (h : Iss) (cu : CU) (src : BitVec 16) (dst : BitVec 16) (param : BitVec 6) : Statement (.im2col h cu src dst param) := ⟨rfl, fun _ _ e => by cases e; exact ⟨_, rfl⟩⟩
theorem topk (h : Iss) (cu : CU) (src : BitVec 16) (dst : BitVec 16) (r : BitVec 12) (nb : BitVec 13) (logk : BitVec 4) (param : BitVec 6) : Statement (.topk h cu src dst r nb logk param) := ⟨rfl, fun _ _ e => by cases e; exact ⟨_, rfl⟩⟩
theorem dispatch (h : Iss) (o : RouteOp) : Statement (.dispatch h o) := ⟨rfl, fun _ _ e => by cases e; exact ⟨_, rfl⟩⟩
theorem combine (h : Iss) (o : RouteOp) : Statement (.combine h o) := ⟨rfl, fun _ _ e => by cases e; exact ⟨_, rfl⟩⟩
theorem vadd (h : Iss) (o : VecOp) : Statement (.vadd h o) := ⟨rfl, fun _ _ e => by cases e; exact ⟨_, rfl⟩⟩
theorem vsub (h : Iss) (o : VecOp) : Statement (.vsub h o) := ⟨rfl, fun _ _ e => by cases e; exact ⟨_, rfl⟩⟩
theorem vmul (h : Iss) (o : VecOp) : Statement (.vmul h o) := ⟨rfl, fun _ _ e => by cases e; exact ⟨_, rfl⟩⟩
theorem vfma (h : Iss) (o : VecOp) : Statement (.vfma h o) := ⟨rfl, fun _ _ e => by cases e; exact ⟨_, rfl⟩⟩
theorem vmax (h : Iss) (o : VecOp) : Statement (.vmax h o) := ⟨rfl, fun _ _ e => by cases e; exact ⟨_, rfl⟩⟩
theorem vmin (h : Iss) (o : VecOp) : Statement (.vmin h o) := ⟨rfl, fun _ _ e => by cases e; exact ⟨_, rfl⟩⟩
theorem viadd (h : Iss) (o : VecOp) : Statement (.viadd h o) := ⟨rfl, fun _ _ e => by cases e; exact ⟨_, rfl⟩⟩
theorem visub (h : Iss) (o : VecOp) : Statement (.visub h o) := ⟨rfl, fun _ _ e => by cases e; exact ⟨_, rfl⟩⟩
theorem vimul (h : Iss) (o : VecOp) : Statement (.vimul h o) := ⟨rfl, fun _ _ e => by cases e; exact ⟨_, rfl⟩⟩
theorem vand (h : Iss) (o : VecOp) : Statement (.vand h o) := ⟨rfl, fun _ _ e => by cases e; exact ⟨_, rfl⟩⟩
theorem vor (h : Iss) (o : VecOp) : Statement (.vor h o) := ⟨rfl, fun _ _ e => by cases e; exact ⟨_, rfl⟩⟩
theorem vxor (h : Iss) (o : VecOp) : Statement (.vxor h o) := ⟨rfl, fun _ _ e => by cases e; exact ⟨_, rfl⟩⟩
theorem vshl (h : Iss) (o : VecOp) : Statement (.vshl h o) := ⟨rfl, fun _ _ e => by cases e; exact ⟨_, rfl⟩⟩
theorem vshr (h : Iss) (o : VecOp) : Statement (.vshr h o) := ⟨rfl, fun _ _ e => by cases e; exact ⟨_, rfl⟩⟩
theorem vcmpsel (h : Iss) (o : VecOp) : Statement (.vcmpsel h o) := ⟨rfl, fun _ _ e => by cases e; exact ⟨_, rfl⟩⟩
theorem vexp (h : Iss) (o : VecOp) : Statement (.vexp h o) := ⟨rfl, fun _ _ e => by cases e; exact ⟨_, rfl⟩⟩
theorem vrecip (h : Iss) (o : VecOp) : Statement (.vrecip h o) := ⟨rfl, fun _ _ e => by cases e; exact ⟨_, rfl⟩⟩
theorem vrsqrt (h : Iss) (o : VecOp) : Statement (.vrsqrt h o) := ⟨rfl, fun _ _ e => by cases e; exact ⟨_, rfl⟩⟩
theorem vcvt (h : Iss) (o : VecOp) : Statement (.vcvt h o) := ⟨rfl, fun _ _ e => by cases e; exact ⟨_, rfl⟩⟩
theorem vtomx (h : Iss) (o : VecOp) : Statement (.vtomx h o) := ⟨rfl, fun _ _ e => by cases e; exact ⟨_, rfl⟩⟩
theorem vacomb (h : Iss) (o : VecOp) : Statement (.vacomb h o) := ⟨rfl, fun _ _ e => by cases e; exact ⟨_, rfl⟩⟩
theorem vamerge (h : Iss) (o : VecOp) : Statement (.vamerge h o) := ⟨rfl, fun _ _ e => by cases e; exact ⟨_, rfl⟩⟩
theorem vrsum (h : Iss) (o : VecOp) : Statement (.vrsum h o) := ⟨rfl, fun _ _ e => by cases e; exact ⟨_, rfl⟩⟩
theorem vrmax (h : Iss) (o : VecOp) : Statement (.vrmax h o) := ⟨rfl, fun _ _ e => by cases e; exact ⟨_, rfl⟩⟩
theorem vscan (h : Iss) (o : VecOp) : Statement (.vscan h o) := ⟨rfl, fun _ _ e => by cases e; exact ⟨_, rfl⟩⟩
theorem vrng (h : Iss) (o : VecOp) : Statement (.vrng h o) := ⟨rfl, fun _ _ e => by cases e; exact ⟨_, rfl⟩⟩
theorem vsample (h : Iss) (o : VecOp) : Statement (.vsample h o) := ⟨rfl, fun _ _ e => by cases e; exact ⟨_, rfl⟩⟩
theorem commandScrubVisit (core : Fin 60) (mem : Fin 5) (phase : Fin 8) : Statement (.commandScrubVisit core mem phase) := ⟨rfl, fun _ _ e => nomatch e⟩
theorem rd (h : Iss) (o : DramOp) : Statement (.rd h o) := ⟨rfl, fun _ _ e => by cases e; exact ⟨_, rfl⟩⟩
theorem rdEntryArrival (core : Fin 60) (bp : Fin 2) (q : BitVec 2) (phase : Fin 8) : Statement (.rdEntryArrival core bp q phase) := ⟨rfl, fun _ _ e => nomatch e⟩
theorem wr (h : Iss) (o : DramOp) : Statement (.wr h o) := ⟨rfl, fun _ _ e => by cases e; exact ⟨_, rfl⟩⟩
theorem gather (h : Iss) (o : GatherOp) : Statement (.gather h o) := ⟨rfl, fun _ _ e => by cases e; exact ⟨_, rfl⟩⟩
theorem bauq (h : Iss) (q : BitVec 2) (ch : BitVec 6) (count : BitVec 8) (ofs : BitVec 7) : Statement (.bauq h q ch count ofs) := ⟨rfl, fun _ _ e => by cases e; exact ⟨_, rfl⟩⟩
theorem bauNop (h : Iss) (o : BauOp) : Statement (.bauNop h o) := ⟨rfl, fun _ _ e => by cases e; exact ⟨_, rfl⟩⟩
theorem attend (h : Iss) (o : BauOp) : Statement (.attend h o) := ⟨rfl, fun _ _ e => by cases e; exact ⟨_, rfl⟩⟩
theorem attendDelivery (core : Fin 60) (bp : Fin 2) (q : BitVec 2) (phase : Fin 8) : Statement (.attendDelivery core bp q phase) := ⟨rfl, fun _ _ e => nomatch e⟩
theorem kvput (h : Iss) (o : BauOp) : Statement (.kvput h o) := ⟨rfl, fun _ _ e => by cases e; exact ⟨_, rfl⟩⟩
theorem pcopy (h : Iss) (o : BauOp) : Statement (.pcopy h o) := ⟨rfl, fun _ _ e => by cases e; exact ⟨_, rfl⟩⟩
theorem pzero (h : Iss) (o : BauOp) : Statement (.pzero h o) := ⟨rfl, fun _ _ e => by cases e; exact ⟨_, rfl⟩⟩
theorem slout (h : Iss) (o : BauOp) : Statement (.slout h o) := ⟨rfl, fun _ _ e => by cases e; exact ⟨_, rfl⟩⟩
theorem slin (h : Iss) (o : BauOp) : Statement (.slin h o) := ⟨rfl, fun _ _ e => by cases e; exact ⟨_, rfl⟩⟩
theorem dlv (h : Iss) (bu : BU) (q : BitVec 2) (count : BitVec 8) (dst : BitVec 16) : Statement (.dlv h bu q count dst) := ⟨rfl, fun _ _ e => by cases e; exact ⟨_, rfl⟩⟩
theorem dlvs (h : Iss) (q : BitVec 2) (count : BitVec 8) (spool : BitVec 5) : Statement (.dlvs h q count spool) := ⟨rfl, fun _ _ e => by cases e; exact ⟨_, rfl⟩⟩
theorem drop (h : Iss) (q : BitVec 2) (count : BitVec 8) : Statement (.drop h q count) := ⟨rfl, fun _ _ e => by cases e; exact ⟨_, rfl⟩⟩
theorem bpWaitq (h : Iss) (q : BitVec 2) (n : BitVec 7) (deadline : BitVec 23) : Statement (.bpWaitq h q n deadline) := ⟨rfl, fun _ _ e => by cases e; exact ⟨_, rfl⟩⟩
theorem bpWaitqComplete (core : Fin 60) (strm : Fin 5) (phase : Fin 8) : Statement (.bpWaitqComplete core strm phase) := ⟨rfl, fun _ _ e => nomatch e⟩
theorem refreshStart (stack : Fin 12) (chan : Fin 64) (bank : Fin 16) : Statement (.refreshStart stack chan bank) := ⟨rfl, fun _ _ e => nomatch e⟩
theorem deferredRefresh (stack : Fin 12) (chan : Fin 64) : Statement (.deferredRefresh stack chan) := ⟨rfl, fun _ _ e => nomatch e⟩
theorem activationWindowStart (stack : Fin 12) : Statement (.activationWindowStart stack) := ⟨rfl, fun _ _ e => nomatch e⟩
theorem patrolRead (stack : Fin 12) (chan : Fin 64) (phase : Fin 8) : Statement (.patrolRead stack chan phase) := ⟨rfl, fun _ _ e => nomatch e⟩
theorem stackTemperatureReading (stack : Fin 12) (celsius : BitVec 8) : Statement (.stackTemperatureReading stack celsius) := ⟨rfl, fun _ _ e => nomatch e⟩
theorem scrubPair (core : Fin 60) (phase : Fin 8) : Statement (.scrubPair core phase) := ⟨rfl, fun _ _ e => nomatch e⟩
theorem marverFillRead (core : Fin 60) (entry : Fin 4) (phase : Fin 8) : Statement (.marverFillRead core entry phase) := ⟨rfl, fun _ _ e => nomatch e⟩
theorem marverWriteBack (core : Fin 60) (entry : Fin 4) (phase : Fin 8) : Statement (.marverWriteBack core entry phase) := ⟨rfl, fun _ _ e => nomatch e⟩
theorem marverWindowClose (core : Fin 60) : Statement (.marverWindowClose core) := ⟨rfl, fun _ _ e => nomatch e⟩
theorem keelCrucibleAccess (addr : BitVec 48) (write : Bool) (data : Row) : Statement (.keelCrucibleAccess addr write data) := ⟨rfl, fun _ _ e => nomatch e⟩
theorem gafferInstruction (core : Fin 60) (phase : Fin 8) : Statement (.gafferInstruction core phase) := ⟨rfl, fun _ _ e => nomatch e⟩
theorem gafferCrucibleStore (core : Fin 60) (phase : Fin 8) (addr : BitVec 32) (size : Fin 3) (value : BitVec 32) : Statement (.gafferCrucibleStore core phase addr size value) := ⟨rfl, fun _ _ e => nomatch e⟩
theorem gafferCrucibleLoad (core : Fin 60) (phase : Fin 8) (rd : Fin 32) (addr : BitVec 32) (size : Fin 3) (signed : Bool) : Statement (.gafferCrucibleLoad core phase rd addr size signed) := ⟨rfl, fun _ _ e => nomatch e⟩
theorem csrAccess (core : Fin 60) (phase : Fin 8) (f3 : BitVec 3) (csr : BitVec 12) (rd : Fin 32) (rs1 : Fin 32) : Statement (.csrAccess core phase f3 csr rd rs1) := ⟨rfl, fun _ _ e => nomatch e⟩
theorem segarm (core : Fin 60) (phase : Fin 8) (rd : Fin 32) (rs1 : Fin 32) (rs2 : Fin 32) : Statement (.segarm core phase rd rs1 rs2) := ⟨rfl, fun _ _ e => nomatch e⟩
theorem predw (core : Fin 60) (phase : Fin 8) (rs1 : Fin 32) (rs2 : Fin 32) : Statement (.predw core phase rs1 rs2) := ⟨rfl, fun _ _ e => nomatch e⟩
theorem predr (core : Fin 60) (phase : Fin 8) (rd : Fin 32) : Statement (.predr core phase rd) := ⟨rfl, fun _ _ e => nomatch e⟩
theorem strld (core : Fin 60) (phase : Fin 8) (rd : Fin 32) (rs1 : Fin 32) (word : BitVec 4) : Statement (.strld core phase rd rs1 word) := ⟨rfl, fun _ _ e => nomatch e⟩
theorem strst (core : Fin 60) (phase : Fin 8) (rs1 : Fin 32) (rs2 : Fin 32) (word : BitVec 4) : Statement (.strst core phase rs1 rs2 word) := ⟨rfl, fun _ _ e => nomatch e⟩
theorem frcadd (core : Fin 60) (phase : Fin 8) (rs1 : Fin 32) (rs2 : Fin 32) : Statement (.frcadd core phase rs1 rs2) := ⟨rfl, fun _ _ e => nomatch e⟩
theorem frcld (core : Fin 60) (phase : Fin 8) (rd : Fin 32) (rs1 : Fin 32) : Statement (.frcld core phase rd rs1) := ⟨rfl, fun _ _ e => nomatch e⟩
theorem waittk (core : Fin 60) (phase : Fin 8) (rs1 : Fin 32) : Statement (.waittk core phase rs1) := ⟨rfl, fun _ _ e => nomatch e⟩
theorem waittkComplete (core : Fin 60) : Statement (.waittkComplete core) := ⟨rfl, fun _ _ e => nomatch e⟩
theorem gafferScrubVisit (core : Fin 60) (data : Bool) (phase : Fin 8) : Statement (.gafferScrubVisit core data phase) := ⟨rfl, fun _ _ e => nomatch e⟩
theorem engResInjectWrite (core : Fin 60) (host : Bool) (v : BitVec 32) : Statement (.engResInjectWrite core host v) := ⟨rfl, fun _ _ e => nomatch e⟩
theorem bridleFlitReceive (plane : Fin 2) (tile : Fin 72) (port : BPort) (phase : Fin 8) (flip : BitVec 1024) (side : BitVec 20) : Statement (.bridleFlitReceive plane tile port phase flip side) := ⟨rfl, fun _ _ e => nomatch e⟩
theorem plannedStart (link : Fin 24) (start : Bool) : Statement (.plannedStart link start) := ⟨rfl, fun _ _ e => nomatch e⟩
theorem dataPacket (link : Fin 24) (phase : Fin 8) (h : DataHdr) (row0 : Row) (row1 : Option Row) : Statement (.dataPacket link phase h row0 row1) := ⟨rfl, fun _ _ e => nomatch e⟩
theorem mgmtPacket (link : Fin 24) (phase : Fin 8) (seq : BitVec 16) (row0 : Row) (row1 : Row) : Statement (.mgmtPacket link phase seq row0 row1) := ⟨rfl, fun _ _ e => nomatch e⟩
theorem lehrRelease (link : Fin 24) (phase : Fin 8) : Statement (.lehrRelease link phase) := ⟨rfl, fun _ _ e => nomatch e⟩
theorem parityRowForward (link : Fin 24) (start : Bool) : Statement (.parityRowForward link start) := ⟨rfl, fun _ _ e => nomatch e⟩
theorem linkctl (link : Fin 24) (phase : Fin 8) (ack : BitVec 16) (credData : BitVec 32) (credMgmt : BitVec 32) : Statement (.linkctl link phase ack credData credMgmt) := ⟨rfl, fun _ _ e => nomatch e⟩
theorem nak (link : Fin 24) (phase : Fin 8) (ack : BitVec 16) (credData : BitVec 32) (credMgmt : BitVec 32) : Statement (.nak link phase ack credData credMgmt) := ⟨rfl, fun _ _ e => nomatch e⟩
theorem linkctlTimer (link : Fin 24) (phase : Fin 8) : Statement (.linkctlTimer link phase) := ⟨rfl, fun _ _ e => nomatch e⟩
theorem replayTimeout (link : Fin 24) (phase : Fin 8) : Statement (.replayTimeout link phase) := ⟨rfl, fun _ _ e => nomatch e⟩
theorem retrain (link : Fin 24) (phase : Fin 8) : Statement (.retrain link phase) := ⟨rfl, fun _ _ e => nomatch e⟩
theorem widthReq (link : Fin 24) (phase : Fin 8) (width : BitVec 2) (sel : BitVec 2) : Statement (.widthReq link phase width sel) := ⟨rfl, fun _ _ e => nomatch e⟩
theorem widthAck (link : Fin 24) (phase : Fin 8) : Statement (.widthAck link phase) := ⟨rfl, fun _ _ e => nomatch e⟩
theorem widthGo (link : Fin 24) (phase : Fin 8) (width : BitVec 2) (sel : BitVec 2) : Statement (.widthGo link phase width sel) := ⟨rfl, fun _ _ e => nomatch e⟩
theorem ident (link : Fin 24) (phase : Fin 8) (device : BitVec 13) (number : BitVec 5) : Statement (.ident link phase device number) := ⟨rfl, fun _ _ e => nomatch e⟩
theorem codewordTimeout (link : Fin 24) (phase : Fin 8) : Statement (.codewordTimeout link phase) := ⟨rfl, fun _ _ e => nomatch e⟩
theorem retrainAttemptTimeout (link : Fin 24) : Statement (.retrainAttemptTimeout link) := ⟨rfl, fun _ _ e => nomatch e⟩
theorem linkRejoin (link : Fin 24) : Statement (.linkRejoin link) := ⟨rfl, fun _ _ e => nomatch e⟩
theorem lnkCtrlWidthGo (link : Fin 24) (width : BitVec 2) (sel : BitVec 2) (tick : BitVec 23) : Statement (.lnkCtrlWidthGo link width sel tick) := ⟨rfl, fun _ _ e => nomatch e⟩
theorem widthTick (link : Fin 24) : Statement (.widthTick link) := ⟨rfl, fun _ _ e => nomatch e⟩
theorem rwrite (link : Fin 24) (phase : Fin 8) (m : RopMsg) : Statement (.rwrite link phase m) := ⟨rfl, fun _ _ e => nomatch e⟩
theorem rread (link : Fin 24) (phase : Fin 8) (m : RopMsg) : Statement (.rread link phase m) := ⟨rfl, fun _ _ e => nomatch e⟩
theorem rresp (link : Fin 24) (phase : Fin 8) (m : RopMsg) : Statement (.rresp link phase m) := ⟨rfl, fun _ _ e => nomatch e⟩
theorem ropDeadline (pair : Fin 12) (rwseq : BitVec 16) : Statement (.ropDeadline pair rwseq) := ⟨rfl, fun _ _ e => nomatch e⟩
theorem ranging (link : Fin 24) : Statement (.ranging link) := ⟨rfl, fun _ _ e => nomatch e⟩
theorem failedPacket (link : Fin 24) (phase : Fin 8) (cause : BitVec 3) (sync : Option (BitVec 8)) : Statement (.failedPacket link phase cause sync) := ⟨rfl, fun _ _ e => nomatch e⟩
theorem intakeSnapshot (env : Fin 16) : Statement (.intakeSnapshot env) := ⟨rfl, fun _ _ e => nomatch e⟩
theorem snapshotReadTimeout (env : Fin 16) : Statement (.snapshotReadTimeout env) := ⟨rfl, fun _ _ e => nomatch e⟩
theorem posting (env : Fin 16) : Statement (.posting env) := ⟨rfl, fun _ _ e => nomatch e⟩
theorem postingTimeout (env : Fin 16) (completed : Nat) : Statement (.postingTimeout env completed) := ⟨rfl, fun _ _ e => nomatch e⟩
theorem open_ (env : Fin 16) (lsn : BitVec 64) (modelOk : Bool) : Statement (.open_ env lsn modelOk) := ⟨rfl, fun _ _ e => nomatch e⟩
theorem append (env : Fin 16) (lsn : BitVec 64) (room : Option (BitVec 24)) : Statement (.append env lsn room) := ⟨rfl, fun _ _ e => nomatch e⟩
theorem set_ (env : Fin 16) (lsn : BitVec 64) : Statement (.set_ env lsn) := ⟨rfl, fun _ _ e => nomatch e⟩
theorem keep (env : Fin 16) (lsn : BitVec 64) : Statement (.keep env lsn) := ⟨rfl, fun _ _ e => nomatch e⟩
theorem release (env : Fin 16) (lsn : BitVec 64) : Statement (.release env lsn) := ⟨rfl, fun _ _ e => nomatch e⟩
theorem trim (env : Fin 16) (lsn : BitVec 64) : Statement (.trim env lsn) := ⟨rfl, fun _ _ e => nomatch e⟩
theorem close (env : Fin 16) (lsn : BitVec 64) : Statement (.close env lsn) := ⟨rfl, fun _ _ e => nomatch e⟩
theorem fritLoad (env : Fin 16) (lsn : BitVec 64) (modelOk : Bool) (slotBytes : BitVec 32) (addr : BitVec 48) : Statement (.fritLoad env lsn modelOk slotBytes addr) := ⟨rfl, fun _ _ e => nomatch e⟩
theorem fritReplace (env : Fin 16) (lsn : BitVec 64) (modelOk : Bool) (slotBytes : BitVec 32) (addr : BitVec 48) : Statement (.fritReplace env lsn modelOk slotBytes addr) := ⟨rfl, fun _ _ e => nomatch e⟩
theorem fritRetire (env : Fin 16) (lsn : BitVec 64) : Statement (.fritRetire env lsn) := ⟨rfl, fun _ _ e => nomatch e⟩
theorem query (env : Fin 16) (lsn : BitVec 64) : Statement (.query env lsn) := ⟨rfl, fun _ _ e => nomatch e⟩
theorem tokenSample (env : Fin 16) (stream : BitVec 13) (logits : List (BitVec 32)) (stops : List (BitVec 32)) (noPane : Bool) : Statement (.tokenSample env stream logits stops noPane) := ⟨rfl, fun _ _ e => nomatch e⟩
theorem heartbeatSend : Statement (.heartbeatSend) := ⟨rfl, fun _ _ e => nomatch e⟩
theorem heartbeat (link : Fin 24) (m : CrlMsg) : Statement (.heartbeat link m) := ⟨rfl, fun _ _ e => nomatch e⟩
theorem heartbeatWindowEnd : Statement (.heartbeatWindowEnd) := ⟨rfl, fun _ _ e => nomatch e⟩
theorem voteRound (subject : BitVec 16) : Statement (.voteRound subject) := ⟨rfl, fun _ _ e => nomatch e⟩
theorem vote (link : Fin 24) (round : BitVec 3) (m : CrlMsg) : Statement (.vote link round m) := ⟨rfl, fun _ _ e => nomatch e⟩
theorem crownlineDecision (subject : BitVec 16) : Statement (.crownlineDecision subject) := ⟨rfl, fun _ _ e => nomatch e⟩
theorem decide_ (link : Fin 24) (m : CrlMsg) : Statement (.decide_ link m) := ⟨rfl, fun _ _ e => nomatch e⟩
theorem event (link : Fin 24) (m : CrlMsg) : Statement (.event link m) := ⟨rfl, fun _ _ e => nomatch e⟩
theorem claimMessage (link : Fin 24) (m : CrlMsg) : Statement (.claimMessage link m) := ⟨rfl, fun _ _ e => nomatch e⟩
theorem actionTick : Statement (.actionTick) := ⟨rfl, fun _ _ e => nomatch e⟩
theorem wearUpdate : Statement (.wearUpdate) := ⟨rfl, fun _ _ e => nomatch e⟩
theorem crlCtrlPromote : Statement (.crlCtrlPromote) := ⟨rfl, fun _ _ e => nomatch e⟩
theorem crlCtrlClaim : Statement (.crlCtrlClaim) := ⟨rfl, fun _ _ e => nomatch e⟩
theorem relayForward (member : BitVec 13) (env : Fin 16) (ring : Fin 16) (head : BitVec 64) (sub : BitVec 64) (log2 : BitVec 5) : Statement (.relayForward member env ring head sub log2) := ⟨rfl, fun _ _ e => nomatch e⟩
theorem relaySub (link : Fin 24) (m : RelayMsg) : Statement (.relaySub link m) := ⟨rfl, fun _ _ e => nomatch e⟩
theorem relayPost (link : Fin 24) (m : RelayMsg) : Statement (.relayPost link m) := ⟨rfl, fun _ _ e => nomatch e⟩
theorem relayWord (link : Fin 24) (m : RelayMsg) : Statement (.relayWord link m) := ⟨rfl, fun _ _ e => nomatch e⟩
theorem secchk (link : Fin 24) (sender : BitVec 16) (dest : BitVec 16) (plan : BitVec 64) (par : BitVec 32) (fw : BitVec 32) : Statement (.secchk link sender dest plan par fw) := ⟨rfl, fun _ _ e => nomatch e⟩
theorem hostWindowStart (stack : Fin 12) (w : Fin 16) : Statement (.hostWindowStart stack w) := ⟨rfl, fun _ _ e => nomatch e⟩
theorem inboundTransferStart (stack : Fin 12) (w : Fin 16) (desc : Fin 128) : Statement (.inboundTransferStart stack w desc) := ⟨rfl, fun _ _ e => nomatch e⟩
theorem transferDeadline (stack : Fin 12) (w : Fin 16) (desc : Fin 128) : Statement (.transferDeadline stack w desc) := ⟨rfl, fun _ _ e => nomatch e⟩
theorem ringReg (env : Fin 16) (ring : Fin 16) : Statement (.ringReg env ring) := ⟨rfl, fun _ _ e => nomatch e⟩
theorem ringUnreg (env : Fin 16) (ring : Fin 16) : Statement (.ringUnreg env ring) := ⟨rfl, fun _ _ e => nomatch e⟩
theorem rangeReg (env : Fin 16) (range : Fin 8) : Statement (.rangeReg env range) := ⟨rfl, fun _ _ e => nomatch e⟩
theorem rangeUnreg (env : Fin 16) (range : Fin 8) : Statement (.rangeUnreg env range) := ⟨rfl, fun _ _ e => nomatch e⟩
theorem rwinRead (fn : Fin 17) : Statement (.rwinRead fn) := ⟨rfl, fun _ _ e => nomatch e⟩
theorem functionLevelReset (fn : Fin 17) : Statement (.functionLevelReset fn) := ⟨rfl, fun _ _ e => nomatch e⟩
theorem ucieLaneRepair (module : Fin 4) (lane : BitVec 8) : Statement (.ucieLaneRepair module lane) := ⟨rfl, fun _ _ e => nomatch e⟩
theorem uciePairFailure (pair : Fin 2) : Statement (.uciePairFailure pair) := ⟨rfl, fun _ _ e => nomatch e⟩
theorem ucieLinkDown : Statement (.ucieLinkDown) := ⟨rfl, fun _ _ e => nomatch e⟩
theorem hostReadCompletion (tag : Nat) (data : Option (List (BitVec 8))) : Statement (.hostReadCompletion tag data) := ⟨rfl, fun _ _ e => nomatch e⟩
theorem msiXUnmask (fn : Fin 17) (vector : Fin 18) : Statement (.msiXUnmask fn vector) := ⟨rfl, fun _ _ e => nomatch e⟩
theorem mailboxPoll (torn : Option (BitVec 64)) : Statement (.mailboxPoll torn) := ⟨rfl, fun _ _ e => nomatch e⟩
theorem report : Statement (.report) := ⟨rfl, fun _ _ e => nomatch e⟩
theorem load : Statement (.load) := ⟨rfl, fun _ _ e => nomatch e⟩
theorem reheat : Statement (.reheat) := ⟨rfl, fun _ _ e => nomatch e⟩
theorem cold : Statement (.cold) := ⟨rfl, fun _ _ e => nomatch e⟩
theorem discard : Statement (.discard) := ⟨rfl, fun _ _ e => nomatch e⟩
theorem width : Statement (.width) := ⟨rfl, fun _ _ e => nomatch e⟩
theorem promote : Statement (.promote) := ⟨rfl, fun _ _ e => nomatch e⟩
theorem claim : Statement (.claim) := ⟨rfl, fun _ _ e => nomatch e⟩
theorem repair : Statement (.repair) := ⟨rfl, fun _ _ e => nomatch e⟩
theorem logcfg : Statement (.logcfg) := ⟨rfl, fun _ _ e => nomatch e⟩
theorem fwimg : Statement (.fwimg) := ⟨rfl, fun _ _ e => nomatch e⟩
theorem startcfg : Statement (.startcfg) := ⟨rfl, fun _ _ e => nomatch e⟩
theorem parCtrlCheck : Statement (.parCtrlCheck) := ⟨rfl, fun _ _ e => nomatch e⟩
theorem parCtrlDiscard : Statement (.parCtrlDiscard) := ⟨rfl, fun _ _ e => nomatch e⟩
theorem kelWdogKick : Statement (.kelWdogKick) := ⟨rfl, fun _ _ e => nomatch e⟩
theorem watchdogExpiry (mepc : BitVec 64) : Statement (.watchdogExpiry mepc) := ⟨rfl, fun _ _ e => nomatch e⟩
theorem tqRecordStore (q : Fin 16) (kind : Fin 4) (words : List (BitVec 64)) (dropped : Bool) : Statement (.tqRecordStore q kind words dropped) := ⟨rfl, fun _ _ e => nomatch e⟩
theorem kelTqNextRead (p : Fin 64) : Statement (.kelTqNextRead p) := ⟨rfl, fun _ _ e => nomatch e⟩
theorem kelTqDataRead (p : Fin 64) : Statement (.kelTqDataRead p) := ⟨rfl, fun _ _ e => nomatch e⟩
theorem tqStallTimeout : Statement (.tqStallTimeout) := ⟨rfl, fun _ _ e => nomatch e⟩
theorem tqFlush (p : Fin 64) : Statement (.tqFlush p) := ⟨rfl, fun _ _ e => nomatch e⟩
theorem keelRestartComplete : Statement (.keelRestartComplete) := ⟨rfl, fun _ _ e => nomatch e⟩
theorem energyWindowEnd (measured : List (BitVec 16)) : Statement (.energyWindowEnd measured) := ⟨rfl, fun _ _ e => nomatch e⟩
theorem dieTemperatureReading (sensor : Fin 19) (celsius : BitVec 8) : Statement (.dieTemperatureReading sensor celsius) := ⟨rfl, fun _ _ e => nomatch e⟩
theorem railOutOfTolerance (rail : Fin 6) (mv : BitVec 16) : Statement (.railOutOfTolerance rail mv) := ⟨rfl, fun _ _ e => nomatch e⟩
theorem railInTolerance (rail : Fin 6) (mv : BitVec 16) : Statement (.railInTolerance rail mv) := ⟨rfl, fun _ _ e => nomatch e⟩
theorem boot (seed : Option (List (BitVec 8))) (attempts : BitVec 8) : Statement (.boot seed attempts) := ⟨rfl, fun _ _ e => nomatch e⟩
theorem selfTest (found : List Finding) : Statement (.selfTest found) := ⟨rfl, fun _ _ e => nomatch e⟩
theorem repairRecordStore (readBack : Bool) : Statement (.repairRecordStore readBack) := ⟨rfl, fun _ _ e => nomatch e⟩
theorem training (t : Trained) : Statement (.training t) := ⟨rfl, fun _ _ e => nomatch e⟩
theorem domainRamp (domain : Fin 80) (good : Bool) : Statement (.domainRamp domain good) := ⟨rfl, fun _ _ e => nomatch e⟩
theorem selfRefreshEntry (stack : Fin 12) (confirmed : Bool) : Statement (.selfRefreshEntry stack confirmed) := ⟨rfl, fun _ _ e => nomatch e⟩
theorem jtagExtest (drive : List Bool) : Statement (.jtagExtest drive) := ⟨rfl, fun _ _ e => nomatch e⟩
theorem referenceRestored (input : RefInput) : Statement (.referenceRestored input) := ⟨rfl, fun _ _ e => nomatch e⟩
theorem registerWrite (addr : BitVec 64) (w : RegWrite) : Statement (.registerWrite addr w) := ⟨rfl, fun _ _ e => nomatch e⟩
theorem misalignedRegisterRead (addr : BitVec 64) (bytes : BitVec 8) : Statement (.misalignedRegisterRead addr bytes) := ⟨rfl, fun _ _ e => nomatch e⟩
theorem resetNRelease : Statement (.resetNRelease) := ⟨rfl, fun _ _ e => nomatch e⟩
theorem resetNAssert : Statement (.resetNAssert) := ⟨rfl, fun _ _ e => nomatch e⟩
theorem pwrGoodFall : Statement (.pwrGoodFall) := ⟨rfl, fun _ _ e => nomatch e⟩
theorem zeroFill : Statement (.zeroFill) := ⟨rfl, fun _ _ e => nomatch e⟩
theorem reheatReset : Statement (.reheatReset) := ⟨rfl, fun _ _ e => nomatch e⟩
theorem reheatVerify : Statement (.reheatVerify) := ⟨rfl, fun _ _ e => nomatch e⟩
theorem stageBoundExceeded : Statement (.stageBoundExceeded) := ⟨rfl, fun _ _ e => nomatch e⟩
theorem jtagBypass : Statement (.jtagBypass) := ⟨rfl, fun _ _ e => nomatch e⟩
theorem jtagIdcode : Statement (.jtagIdcode) := ⟨rfl, fun _ _ e => nomatch e⟩
theorem jtagSamplePreload : Statement (.jtagSamplePreload) := ⟨rfl, fun _ _ e => nomatch e⟩

end Sys2Proof.Laws.Formed
end

