-- ==== Sys2Proof/Laws/Serving.lean ====
section
/-!
SUPPORT. Laws/Serving.lean: what the operations of serving do: blocks of envelopes, stream words, accepted requests and their
answers, panes on the change lists.
-/
namespace Sys2Proof.Machine
open Sys2Proof

variable (s : State)

theorem srv_modSrv (e : Nat) (f : Srv → Srv) (d : Nat) : srv (modSrv s e f) d = if d = e then f (srv s e) else srv s d := by
  unfold srv modSrv; simp only [tget_tset]; rfl
theorem srv_modSrv_same (e : Nat) (f : Srv → Srv) : srv (modSrv s e f) e = f (srv s e) := by rw [srv_modSrv, if_pos rfl]
theorem srv_modSrv_ne {e d : Nat} (h : d ≠ e) (f : Srv → Srv) : srv (modSrv s e f) d = srv s d := by rw [srv_modSrv, if_neg h]

/-! ### Stream words -/

theorem pword_pendWord (z w v y x : Nat) : pword (pendWord s z w v) y x = if 16 * y + x = 16 * z + w then v % 2 ^ 32 else pword s y x := by
  unfold pword pendWord
  simp only [tget_tset]
  split <;> simp
theorem pword_pendWord_same (z w v : Nat) : pword (pendWord s z w v) z w = v % 2 ^ 32 := by rw [pword_pendWord, if_pos rfl]
theorem pword_pendWord_ne {z w y x : Nat} (h : 16 * y + x ≠ 16 * z + w) (v : Nat) : pword (pendWord s z w v) y x = pword s y x := by rw [pword_pendWord, if_neg h]
theorem pword_pendFld (z w lo n v y x : Nat) : pword (pendFld s z w lo n v) y x = if 16 * y + x = 16 * z + w then setFld (pword s z w) lo n v % 2 ^ 32 else pword s y x :=
  pword_pendWord ..
theorem pword_pendFld_ne {z w y x : Nat} (h : 16 * y + x ≠ 16 * z + w) (lo n v : Nat) : pword (pendFld s z w lo n v) y x = pword s y x := by rw [pword_pendFld, if_neg h]
theorem srv_pendWord (z w v e : Nat) : srv (pendWord s z w v) e = srv s e := rfl
theorem srv_pendFld (z w lo n v e : Nat) : srv (pendFld s z w lo n v) e = srv s e := rfl
theorem pword_modSrv (e : Nat) (f : Srv → Srv) (z w : Nat) : pword (modSrv s e f) z w = pword s z w := rfl
theorem pword_fritRef (k : Nat) (d : Int) (z w : Nat) : pword (fritRef s k d) z w = pword s z w := rfl
theorem srv_fritRef (k : Nat) (d : Int) (e : Nat) : srv (fritRef s k d) e = srv s e := rfl
/-- A stream word has 32 bits. -/
theorem pword_lt (z w : Nat) : pword s z w < 2 ^ 32 := by unfold pword; exact BitVec.isLt _

/-- A field below a bound is that of the number modulo the bound. -/
theorem fld_mod {lo w n : Nat} (x : Nat) (h : lo + w ≤ n) : fld (x % 2 ^ n) lo w = fld x lo w := by
  unfold fld
  have e : n = lo + (n - lo) := by omega
  rw [e, Nat.pow_add, Nat.mod_mul_right_div_self, Nat.mod_mod_of_dvd _ (Nat.pow_dvd_pow 2 (by omega))]
/-- A field of a stream word after it is written. -/
theorem pfld_same {lo n : Nat} (z w v : Nat) (h : lo + n ≤ 32) : fld (pword (pendFld s z w lo n v) z w) lo n = v % 2 ^ n := by
  rw [pword_pendFld, if_pos rfl, fld_mod _ h, fld_setFld_same]
theorem pfld_below {lo n l k : Nat} (z w v : Nat) (h : l + k ≤ lo) (h2 : lo ≤ 32) : fld (pword (pendFld s z w lo n v) z w) l k = fld (pword s z w) l k := by
  rw [pword_pendFld, if_pos rfl, fld_mod _ (by omega), fld_setFld_below _ _ _ _ _ _ h]
theorem pfld_above {lo n l k : Nat} (z w v : Nat) (h : lo + n ≤ l) (h2 : l + k ≤ 32) : fld (pword (pendFld s z w lo n v) z w) l k = fld (pword s z w) l k := by
  rw [pword_pendFld, if_pos rfl, fld_mod _ h2, fld_setFld_above _ _ _ _ _ _ h]

/-! ### Requests -/

/-- An accepted request is judged and, where no check fails, has its effect. -/
theorem request_accepted {e lsn kind : Nat} {t : Taken} (H : Accepted s e lsn kind t) (checks : State → Taken → List (Bool × Nat)) (f : State → Taken → State) :
    request s e lsn kind checks f = match firstFail (checks (executing s e lsn) t) with
      | some code => answer (executing s e lsn) e t code 0
      | none => f (executing s e lsn) t := by
  unfold request
  simp only
  rw [H.found]
  simp only
  rw [if_neg (by rw [H.runs, H.window, H.turn]; simp)]
  rfl
theorem srv_executing (e lsn d : Nat) : srv (executing s e lsn) d = if d = e then { srv s e with executed := (srv s e).executed ++ [lsn] } else srv s d := srv_modSrv ..
theorem pword_executing (e lsn z w : Nat) : pword (executing s e lsn) z w = pword s z w := rfl
theorem executing_only (e lsn : Nat) : executing s e lsn = { s with srvs := (executing s e lsn).srvs } := rfl
/-- What a request sees of its envelope: all but the mark. -/
theorem srv_executing_c (e lsn d : Nat) : (srv (executing s e lsn) d).c = (srv s d).c := by
  rw [srv_executing]; split
  · rename_i h; rw [h]
  · rfl
theorem srv_executing_p (e lsn d : Nat) : (srv (executing s e lsn) d).p = (srv s d).p := by
  rw [srv_executing]; split
  · rename_i h; rw [h]
  · rfl
/-- An answer with no other effect. -/
theorem answered (e lsn : Nat) (t : Taken) (status result : Nat) : Answered s (answer (executing s e lsn) e t status result) e lsn t status result := by
  refine ⟨rfl, ?_, ?_⟩
  · unfold answer; rw [srv_modSrv_same, srv_executing, if_pos rfl]
  · intro d hd; unfold answer; rw [srv_modSrv_ne _ hd, srv_executing, if_neg hd]
theorem srv_answer (e : Nat) (t : Taken) (status result d : Nat) :
    srv (answer s e t status result) d = if d = e then { srv s e with dones := (srv s e).dones ++ [doneRec t status result] } else srv s d := srv_modSrv ..
theorem pword_answer (e : Nat) (t : Taken) (status result z w : Nat) : pword (answer s e t status result) z w = pword s z w := rfl

/-! ### Change lists and handles -/

/-- What serving holds beside memory stays: the blocks of the envelopes, the stream words committed and pending, the homes and
the moves of the frits' reference counts. -/
structure ServingKept (s t : State) : Prop where
  srvs : t.srvs = s.srvs
  strmPend : t.strmPend = s.strmPend
  strmTab : t.strmTab = s.strmTab
  home : t.home = s.home
  fritDelta : t.fritDelta = s.fritDelta
  fritRefs : t.fritRefs = s.fritRefs
  envKeys : t.envKeys = s.envKeys

theorem ServingKept.refl (s : State) : ServingKept s s := ⟨rfl, rfl, rfl, rfl, rfl, rfl, rfl⟩
theorem ServingKept.trans {s t u : State} (a : ServingKept s t) (b : ServingKept t u) : ServingKept s u :=
  ⟨b.srvs.trans a.srvs, b.strmPend.trans a.strmPend, b.strmTab.trans a.strmTab, b.home.trans a.home, b.fritDelta.trans a.fritDelta, b.fritRefs.trans a.fritRefs, b.envKeys.trans a.envKeys⟩
theorem ServingKept.foldl {α : Type} (l : List α) (f : State → α → State) (h : ∀ s x, ServingKept s (f s x)) : ∀ s, ServingKept s (l.foldl f s) := by
  induction l with
  | nil => exact ServingKept.refl
  | cons a l ih => intro s; exact (h s a).trans (ih _)
theorem ServingKept.forN (n : Nat) (s : State) (f : Nat → State → State) (h : ∀ i s, ServingKept s (f i s)) : ServingKept s (forN n s f) := by
  unfold Machine.forN
  exact ServingKept.foldl (List.range n) (fun s i => f i s) (fun s i => h i s) s
theorem servingKept_setRg (s : State) (a v : Nat) : ServingKept s (setRg s a v) := by constructor <;> simp
theorem servingKept_bump (s : State) (a lo w : Nat) : ServingKept s (bump s a lo w) := by constructor <;> simp
theorem servingKept_raiseCore (s : State) (c code sev cls i : Nat) (d : List (Nat × Nat × Nat)) : ServingKept s (raiseCore s c code sev cls i d) := by
  constructor <;> simp
theorem servingKept_modCore (s : State) (c : Nat) (f : Core → Core) : ServingKept s (modCore s c f) := by constructor <;> simp
/-- A fault of a word that a port reads is a record, a count and the last word found (R193, R203). -/
theorem servingKept_noteWord (s : State) (c row : Nat) (scrub : Bool) (w : Nat) : ServingKept s (noteWord s c row scrub w) := by
  have K (code sev lo n : Nat) (d : List (Nat × Nat × Nat)) (unc : Bool) (syn : Nat) :
      ServingKept s (cruEccLast (bump (raiseBank s c (bankOf row) code sev d) (cruA c 0x010) lo n) c row w unc syn) :=
    (servingKept_raiseCore ..).trans ((servingKept_bump ..).trans (servingKept_setRg ..))
  unfold noteWord
  simp only
  split
  · exact ServingKept.refl s
  · split
    · exact K ..
    · split <;> exact K ..
theorem servingKept_readChecked (s : State) (c row : Nat) : ServingKept s (readChecked s c row).2 := by
  have K := ServingKept.forN 8 s (fun w s => noteWord s c row false w) fun w s => servingKept_noteWord s c row false w
  generalize hu : forN 8 s (fun w s => noteWord s c row false w) = u at K
  simp only [readChecked, hu]
  exact K
theorem servingKept_writeRow (s : State) (c r : Nat) (v : Row) (mask : Nat) : ServingKept s (writeRow s c r v mask) := by
  refine ServingKept.forN 8 s _ fun w u => ?_
  by_cases hb : bitAt mask w = true
  · rw [if_pos hb]; exact ⟨rfl, rfl, rfl, rfl, rfl, rfl, rfl⟩
  · rw [if_neg hb]; exact ServingKept.refl u
theorem servingKept_putRow (s : State) (c row port : Nat) (data : Row) (mask epoch : Nat) : ServingKept s (putRow s c row port data mask epoch) := by
  have hw := servingKept_writeRow s c row data mask
  unfold putRow
  by_cases ha : auditRow s c row = true
  · rw [if_pos ha]; exact (servingKept_raiseCore ..).trans (servingKept_bump ..)
  · rw [if_neg ha]
    cases residentOf s c row with
    | some n => exact (servingKept_raiseCore ..).trans (servingKept_bump ..)
    | none =>
      generalize writeRow s c row data mask = u at hw
      simp only
      by_cases hd : (core u c).audited = true
      · rw [if_pos hd]; exact hw.trans (servingKept_modCore ..)
      · rw [if_neg hd]; exact hw
theorem servingKept_storeRow (s : State) (c row lo n v : Nat) : ServingKept s (storeRow s c row lo n v) := by
  unfold storeRow
  simp only
  split
  · exact servingKept_putRow ..
  · exact (servingKept_readChecked s c row).trans (servingKept_putRow ..)
/-- A record on a change list is stored by the core's gaffer, and changes nothing else of serving. -/
theorem servingKept_listAppend (s : State) (c r : Nat) : ServingKept s (listAppend s c r) := by
  unfold listAppend
  simp only
  have K (u : State) (l : List Nat) (h : ServingKept s u) : ServingKept s { u with listed := l } := ⟨h.srvs, h.strmPend, h.strmTab, h.home, h.fritDelta, h.fritRefs, h.envKeys⟩
  exact K _ _ ((servingKept_storeRow s c _ _ _ _).trans (servingKept_storeRow _ c _ _ _ _))
theorem ServingKept.pword {s t : State} (h : ServingKept s t) (y w : Nat) : pword t y w = Machine.pword s y w := by
  unfold Machine.pword; rw [h.strmPend, h.strmTab]
theorem ServingKept.srv {s t : State} (h : ServingKept s t) (d : Nat) : srv t d = Machine.srv s d := by unfold Machine.srv; rw [h.srvs]
/-- A listed pane is a record on the list and, but for op 4, an amended pane of its envelope. -/
theorem listPane_ex (s : State) (e c z i op ent : Nat) :
    ∃ t, ServingKept s t ∧ (listPane s e c z i op ent = t ∨ ∃ p, listPane s e c z i op ent = modSrv t e fun v => { v with panes := v.panes ++ [p] }) := by
  refine ⟨_, servingKept_listAppend s c (pack [(0, 16, z), (16, 16, i), (32, 8, op), (64, 64, ent)]), ?_⟩
  unfold listPane
  by_cases ho : op = 4
  · exact Or.inl (if_pos ho)
  · exact Or.inr ⟨_, if_neg ho⟩
theorem pword_listPane (e c z i op ent y w : Nat) : pword (listPane s e c z i op ent) y w = pword s y w := by
  obtain ⟨t, k, h | ⟨p, h⟩⟩ := listPane_ex s e c z i op ent
  · rw [h, k.pword]
  · rw [h]; exact k.pword y w
theorem srv_listPane (e c z i op ent d : Nat) : ∃ ps, srv (listPane s e c z i op ent) d = { srv s d with panes := ps } := by
  obtain ⟨t, k, h | ⟨p, h⟩⟩ := listPane_ex s e c z i op ent
  · rw [h, k.srv]; exact ⟨_, rfl⟩
  · rw [h, srv_modSrv]
    split
    · rename_i hd; rw [hd, k.srv]; exact ⟨_, rfl⟩
    · rw [k.srv]; exact ⟨_, rfl⟩
theorem envKeys_listPane (e c z i op ent : Nat) : (listPane s e c z i op ent).envKeys = s.envKeys := by
  obtain ⟨t, k, h | ⟨p, h⟩⟩ := listPane_ex s e c z i op ent
  · rw [h, k.envKeys]
  · rw [h]; exact k.envKeys
theorem pend_listPane (e c z i op ent d : Nat) : (srv (listPane s e c z i op ent) d).p = (srv s d).p := by
  obtain ⟨ps, h⟩ := srv_listPane (s := s) e c z i op ent d
  rw [h]
theorem fritDelta_listPane (e c z i op ent : Nat) : (listPane s e c z i op ent).fritDelta = s.fritDelta := by
  obtain ⟨t, k, h | ⟨p, h⟩⟩ := listPane_ex s e c z i op ent
  · rw [h, k.fritDelta]
  · rw [h]; exact k.fritDelta

/-- Only blocks of envelopes, memory with its check bits, list starts and stream words differ, and the words and answers of another
stream and envelope stay: what listing panes and dropping uses do. -/
theorem pword_modHandle (e ix : Nat) (f : Handle → Handle) (z w : Nat) : pword (modHandle s e ix f) z w = pword s z w := rfl
theorem dones_modHandle (e ix : Nat) (f : Handle → Handle) (d : Nat) : (srv (modHandle s e ix f) d).dones = (srv s d).dones := by
  unfold modHandle; rw [srv_modSrv]; split
  · rename_i h; rw [h]
  · rfl
theorem srv_modHandle (e ix : Nat) (f : Handle → Handle) :
    srv (modHandle s e ix f) e = { srv s e with p := { (srv s e).p with handles := tset {} (srv s e).p.handles ix (f (tget {} (srv s e).p.handles ix)) } } := by
  unfold modHandle; rw [srv_modSrv_same]
theorem envKeys_modHandle (e ix : Nat) (f : Handle → Handle) : (modHandle s e ix f).envKeys = s.envKeys := rfl
theorem foldl_keeps {α β : Type} (l : List α) (f : State → α → State) (g : State → β) (h : ∀ s x, g (f s x) = g s) : ∀ s, g (l.foldl f s) = g s := by
  induction l with
  | nil => exact fun _ => rfl
  | cons a l ih => intro s; rw [List.foldl_cons, ih, h]
theorem pword_removeFrom (e c z from_ y w : Nat) : pword (removeFrom s e c z from_) y w = pword s y w := by
  unfold removeFrom forN
  refine foldl_keeps _ _ (fun s => pword s y w) ?_ _
  intro s x
  simp only
  split
  · rfl
  · exact pword_listPane ..
theorem dones_listPane (e c z i op ent d : Nat) : (srv (listPane s e c z i op ent) d).dones = (srv s d).dones := by
  obtain ⟨ps, h⟩ := srv_listPane s e c z i op ent d
  rw [h]
theorem dones_removeFrom (e c z from_ d : Nat) : (srv (removeFrom s e c z from_) d).dones = (srv s d).dones := by
  unfold removeFrom forN
  refine foldl_keeps _ _ (fun s => (srv s d).dones) ?_ _
  intro s x
  simp only
  split
  · rfl
  · exact dones_listPane ..
/-- Dropping a stream's uses changes no word of it but bit 8 of word 1. -/
theorem pword_dropUses (e z y w : Nat) (h : 16 * y + w ≠ 16 * z + 1) : pword (dropUses s e z) y w = pword s y w := by
  unfold dropUses
  simp only
  rw [foldl_keeps _ _ (fun s => pword s y w) (fun s x => pword_modHandle ..)]
  split
  · rw [pword_pendFld_ne _ h]; rfl
  · rfl
theorem dones_dropUses (e z d : Nat) : (srv (dropUses s e z) d).dones = (srv s d).dones := by
  unfold dropUses
  simp only
  rw [foldl_keeps _ _ (fun s => (srv s d).dones) (fun s x => dones_modHandle ..)]
  split
  · rw [srv_pendFld]; exact dones_modHandle ..
  · rfl
/-- Discarded APPENDs add their answers and change no word. -/
theorem discardApps_does (e z pos : Nat) : (∀ y w, pword (discardApps s e z pos) y w = pword s y w) ∧ (∃ l, (srv (discardApps s e z pos) e).dones = (srv s e).dones ++ l) ∧
    ∀ d, d ≠ e → srv (discardApps s e z pos) d = srv s d := by
  unfold discardApps
  simp only
  generalize List.partition _ _ = gr
  obtain ⟨gone, rest⟩ := gr
  simp only
  have K : ∀ (gone : List AppReq) (s : State), let t := gone.foldl (fun s a => answerLater s e z 2 a.ring a.lsn a.cookie 0x0B13 0) s
      (∀ y w, pword t y w = pword s y w) ∧ (∃ l, (srv t e).dones = (srv s e).dones ++ l) ∧ ∀ d, d ≠ e → srv t d = srv s d := by
    intro gone
    induction gone with
    | nil => exact fun s => ⟨fun _ _ => rfl, ⟨[], by simp⟩, fun _ _ => rfl⟩
    | cons a g ih =>
      intro s
      obtain ⟨i1, ⟨l, i2⟩, i3⟩ := ih (answerLater s e z 2 a.ring a.lsn a.cookie 0x0B13 0)
      refine ⟨fun y w => (i1 y w).trans rfl, ⟨(a.lsn, a.ring, complRec 2 0 0x0B13 z 2 a.ring a.lsn a.cookie 0) :: l, ?_⟩, fun d hd => (i3 d hd).trans ?_⟩
      · rw [List.foldl_cons, i2]
        unfold answerLater
        rw [srv_modSrv_same]
        simp only [List.append_assoc, List.singleton_append]
      · unfold answerLater; rw [srv_modSrv_ne _ hd]
  obtain ⟨k1, ⟨l, k2⟩, k3⟩ := K gone (modSrv s e fun v => { v with p := { v.p with apps := rest } })
  refine ⟨fun y w => (k1 y w).trans rfl, ⟨l, ?_⟩, fun d hd => (k3 d hd).trans (srv_modSrv_ne _ hd _)⟩
  rw [k2, srv_modSrv_same]

end Sys2Proof.Machine
end

