-- ==== Sys2Proof/Tests/Slice0.lean ====
section
/-!
SUPPORT. Tests/Slice0.lean: the tests of the model. Ill-formed commands that the check refuses, command words written out from
the tables of chapter 5, values worked out from the manual's formulas, and for every statement with hypotheses a state and
operands that meet them together.
-/
set_option maxRecDepth 4000
namespace Slice0
open Sys2Proof Sys2Proof.Machine

/-! ### States for the tests -/

/-- A device whose plan runs, at phase 0 of the first tick of step 0, frames of 100,000 tt with a commit window of 20,000 tt,
with the cores given. -/
def running (cs : Tbl Core) : State :=
  { State.reset with
    regs := [(ttA 0x018, 8), (ttA 0x01C, 100000), (ttA 0x020, 20000)], cores := cs }
/-- A header at cycle phase 0 that always executes. -/
def iss (c : Fin 60) (k : Fin 5) (ix : BitVec 15) : Iss := { core := c, strm := k, index := ix, phase := 0, psel := 0, pol := true, delta := 0 }
/-- The header of a stream command. -/
def headOf (i : Instr) : Iss := match strmKind i with | some (_, h) => h | none => iss 0 0 0
/-- The running device with one command due in its stream. -/
def dueIn (y : Core) (i : Instr) : State :=
  let h := headOf i
  running [(h.core.val, { y with
    present := true, strms := tset {} y.strms h.strm.val { running := true, ix := h.index.toNat },
    cmds := [(32768 * h.strm.val + h.index.toNat, (encode i).getD 0)] })]
/-- The same in an otherwise empty core. -/
def due (i : Instr) : State := dueIn {} i
/-- A state with registers set. -/
def setAll (s : State) (l : List (Nat × Nat)) : State := l.foldl (fun s e => setRg s e.1 e.2) s
/-- A running core whose gaffer is at address 0 with the given words and registers. -/
def gafAt (is : List Nat) (g : Gaffer) : State :=
  setRg (running [(3, { present := true, gaf := { g with imem := is.zipIdx.map fun e => (e.2, BitVec.ofNat 32 e.1) } })]) (gafA 3 0x000) 1
/-- A running device with link n in a state of LNK_STAT. -/
def linkAt (n st : Nat) (l : LinkS) : State := { setRg (running []) (lnkA n 0x008) (st * 2 ^ 60) with links := [(n, l)] }
/-- The state an outcome goes on in. -/
def after (o : Host.Outcome State Fault Refusal) : Option State := match o with | .next t => some t | _ => none

/-! ### Ill-formed commands are refused by the check -/

/-- A message of a remote operation with a length and an address. -/
def rop_ (bytes : BitVec 8) (addr : BitVec 48) : RopMsg := { seq := 0, status := 0, rwseq := 0, bytes := bytes, env := 0, addr := addr, data := 0 }
/-- A relay message with its second byte. -/
def relay_ (b : BitVec 8) : RelayMsg := { b1 := b, sender := 0, dest := 0, env := 0, ring := 0, seq := 0, addr := 0, payload := 0 }

/-- A core-stream command stands in no other stream, an access command in no execute stream and the reverse, a blowpipe WAITQ not
in the core stream. -/
theorem test_wf_streams :
    WellFormed (.fill (iss 0 1 0) ⟨0, 0⟩ 0 0 0) = false ∧ WellFormed (.rd (iss 0 2 0) ⟨⟨0, 0⟩, 0, 0, 0, 0⟩) = false ∧
    WellFormed (.drop (iss 0 3 0) 0 0) = false ∧ WellFormed (.bpWaitq (iss 0 0 0) 0 0 0) = false ∧ WellFormed (.nop (iss 0 4 0)) = true := by decide
theorem test_wf_crossing : WellFormed (.crossingAlignment 0 0 []) = false := by decide
/-- Remote operations carry whole 16-byte units, at most 240 bytes, to an aligned address (Table 11-8). -/
theorem test_wf_rop :
    WellFormed (.rwrite 0 0 (rop_ 8 0)) = false ∧ WellFormed (.rread 0 0 (rop_ 16 8)) = false ∧ WellFormed (.rresp 0 0 (rop_ 250 0)) = false ∧
    WellFormed (.rwrite 0 0 (rop_ 240 16)) = true := by decide
theorem test_wf_failed_packet : WellFormed (.failedPacket 0 0 0 none) = false ∧ WellFormed (.failedPacket 0 0 5 none) = false := by decide
theorem test_wf_relay : WellFormed (.relayPost 0 (relay_ 4)) = false ∧ WellFormed (.relayWord 0 (relay_ 3)) = false := by decide
theorem test_wf_tail : WellFormed (.tqRecordStore 0 1 [] 0) = false ∧ WellFormed (.tqRecordStore 0 0 [1] 0) = false ∧ WellFormed (.tqRecordStore 0 3 [1] 0) = false := by decide
theorem test_wf_energy : WellFormed (.energyWindowEnd []) = false := by decide
theorem test_wf_boot : WellFormed (.boot (some []) 0) = false := by decide
theorem test_wf_training : WellFormed (.training ⟨[], [], [], []⟩) = false := by decide

/-! ### Words written out from the tables of chapter 5 -/

/-- The sequencer's commands (Tables 5-1, 5-5 to 5-8): opcode 0x01, target F, PSEL 0 and POL 1, DELTA 1; SUB 1, LEVEL 0, TARGET 7,
COUNT 17. -/
theorem test_decode_segLoop : decodeCmd 20 0 6 3 0x01F80001100007001100000000000000 =
    some (.segLoop { core := 20, strm := 0, index := 6, phase := 3, psel := 0, pol := true, delta := 1 } false 7 17) := by decide
/-- A shaping command (Table 5-13): opcode 0x30, target 6; SRC 0x0100, DST 0x0200, NT field 1, W 2. -/
theorem test_decode_transpose : decodeCmd 0 0 0 0 0x30680000000100020000180000000000 =
    some (.transpose { core := 0, strm := 0, index := 0, phase := 0, psel := 0, pol := true, delta := 0 } ⟨0, 0⟩ 0x100 0x200 1 2) := by decide
/-- A DRAM command (Table 5-17): opcode 0x82 in an access stream. -/
theorem test_decode_gather : decodeCmd 20 3 6 3 0x82080000D6070F0003E8000000000280 =
    some (.gather { core := 20, strm := 3, index := 6, phase := 3, psel := 0, pol := true, delta := 0 }
      { bu := ⟨3, 1⟩, qi := 1, qo := 2, count := 7, rb := 15, limit := 1000, tbase := 5 }) := by decide
/-- A reserved bit set, a wrong target and an opcode of another stream are no commands (R123). -/
theorem test_decode_refuses : decodeCmd 0 0 0 0 0x00F80001000000000000000000000001 = none ∧ decodeCmd 0 0 0 0 0x00080001000000000000000000000000 = none ∧
    decodeCmd 0 2 0 0 0x82080000D6070F0003E8000000000280 = none := by decide

/-! ### Values of the manual's examples -/

/-- The Crucible of core C37 starts at 0x0100_2500_0000 and its backed part ends at 0x0100_257F_FFFF (chapter 0, example). -/
theorem test_crucible_of_c37 : rowAddr 37 0 = 0x010025000000 ∧ rowAddr 37 65535 + 127 = 0x0100257FFFFF := by decide
/-- Two terms of Table 3-4: with A = -8, 201/64 · 11/1024 gives 8 and -(5/2) · 11/1024 gives -7. -/
theorem test_anchored_terms : anchorTerm (-8) false 2211 (-16) = 8 ∧ anchorTerm (-8) true 55 (-11) = -7 := by decide
/-- The sum of opposite infinities is the canonical NaN (R64). -/
theorem test_nan : fadd 0x7F800000 0xFF800000 = 0x7FC00000 := by decide
/-- 448 times 448 is 200,704 (chapter 3, example); the largest E4M3 magnitude is 448. -/
theorem test_e4m3 : fmul (rnd32 (e4m3.decode 0x7E)) (rnd32 (e4m3.decode 0x7E)) = 0x48440000 := by decide
/-- The missed wait of Table 5-20: at tick 500,000 counter 9 holds five of six; 0x0401 is recorded with severity 2, the segment is
abandoned and the counter keeps its five. -/
theorem test_missed_wait :
    (let s : State := { running [(20, { present := true, ccnt := [(9, 5)], strms := tset {} [] 0 { running := true, wait := some (.ccnt 9 6 500000) } })] with
      regs := [(ttA 0x000, 500000), (ttA 0x018, 8), (ttA 0x01C, 1562500), (ttA 0x020, 15625)] }
     let t := after (exec (.waitcMissed 20) s)
     t.map (fun u => u.faults.map fun f => (f.code, f.sev)) = some [(0x0401, 2)] ∧ t.map (fun u => (strm u 20 0).running) = some false ∧
       t.map (fun u => ccntOf u 20 9) = some 5) := by decide +kernel

/-! ### The hypotheses of the statements are met -/

theorem step_meets : (State.reset).pending = [] := by decide

theorem encode_meets : strmKind (.drop (iss 59 4 32767) 3 255) = some (3, iss 59 4 32767) ∧ WellFormed (.drop (iss 59 4 32767) 3 255) = true := by decide

theorem skip_meets :
    let i := Instr.waitc { iss 4 0 9 with psel := 5 } 63 1 100
    let h := { iss 4 0 9 with psel := 5 }
    cmdDue (due i) h i = true ∧ cmdMark (due i) 4 0 9 = 0 ∧ inCommit (due i) = false ∧ skipped (due i) h = true := by decide

/-- The same device in its commit window. -/
def closing (i : Instr) : State := setRg (due i) (ttA 0x01C) 20000
theorem refuse_meets :
    let i := Instr.drop (iss 4 2 9) 3 7
    strmKind i = some (3, iss 4 2 9) ∧ cwAllowed i = false ∧ cmdDue (closing i) (iss 4 2 9) i = true ∧ cmdMark (closing i) 4 2 9 = 0 ∧ inCommit (closing i) = true := by decide

theorem overlap_meets :
    let i := Instr.moveVld (iss 0 0 0) 1 ⟨0, 0⟩ 9 15 15
    let s := dueIn { holds := [(16 * 5 + 6, 3)] } i
    portsOf i = some (iss 0 0 0, 5, [(6, 16)]) ∧ cmdDue s (iss 0 0 0) i = true ∧ cmdMark s 0 0 0 = 0 ∧ inCommit s = false ∧ skipped s (iss 0 0 0) = false ∧ now s < freeAt s 0 5 6 := by decide

/-- A core whose only stream is given. -/
def withStrm (c k : Nat) (x : Stream) (y : Core) : Core := { y with present := true, strms := tset {} y.strms k x }

theorem segmentStart_meets :
    (strm (running [(7, withStrm 7 2 { next := some { nextFrame := false, index := 5, tick := 0 } } {})]) 7 2).next = some { nextFrame := false, index := 5, tick := 0 } ∧
    planOn (running [(7, withStrm 7 2 { next := some { nextFrame := false, index := 5, tick := 0 } } {})]) = true := by decide

theorem nop_meets : Issues (due (.nop (iss 3 0 4))) (iss 3 0 4) (.nop (iss 3 0 4)) := by constructor <;> decide
theorem segEnd_meets : Issues (due (.segEnd (iss 3 4 4))) (iss 3 4 4) (.segEnd (iss 3 4 4)) := by constructor <;> decide

theorem segLoop_meets : Issues (due (.segLoop (iss 3 1 4) true 2 1)) (iss 3 1 4) (.segLoop (iss 3 1 4) true 2 1) := by constructor <;> decide

theorem segArm_meets : Issues (due (.segArm (iss 3 0 4) true 2 1)) (iss 3 0 4) (.segArm (iss 3 0 4) true 2 1) := by constructor <;> decide

theorem attick_meets : Issues (due (.attick (iss 3 0 4) 0)) (iss 3 0 4) (.attick (iss 3 0 4) 0) ∧ frameCyc (due (.attick (iss 3 0 4) 0)) = 8 * 0 :=
  ⟨by constructor <;> decide, by decide⟩
theorem attickComplete_meets : (strm (running [(59, withStrm 59 4 { running := true, wait := some (.tick 0) } {})]) 59 4).wait = some (.tick 0) ∧
    frameCyc (running [(59, withStrm 59 4 { running := true, wait := some (.tick 0) } {})]) = 8 * 0 := by decide

theorem waitc_meets : Issues (dueIn { ccnt := [(63, 2)] } (.waitc (iss 3 0 4) 63 2 1)) (iss 3 0 4) (.waitc (iss 3 0 4) 63 2 1) ∧
    frameCyc (dueIn { ccnt := [(63, 2)] } (.waitc (iss 3 0 4) 63 2 1)) < 8 * 1 ∧ 2 ≤ ccntOf (dueIn { ccnt := [(63, 2)] } (.waitc (iss 3 0 4) 63 2 1)) 3 63 :=
  ⟨by constructor <;> decide, by decide, by decide⟩
theorem waitcComplete_meets : (strm (running [(0, withStrm 0 0 { running := true, wait := some (.ccnt 1 2 3) } { ccnt := [(1, 2)] })]) 0 0).wait = some (.ccnt 1 2 3) ∧
    2 ≤ ccntOf (running [(0, withStrm 0 0 { running := true, wait := some (.ccnt 1 2 3) } { ccnt := [(1, 2)] })]) 0 1 ∧
    frameCyc (running [(0, withStrm 0 0 { running := true, wait := some (.ccnt 1 2 3) } { ccnt := [(1, 2)] })]) < 8 * 3 := by decide

theorem waitq_meets : Issues (dueIn { queues := [(4, { ready := 2 })] } (.waitq (iss 3 0 4) 1 0 2 1)) (iss 3 0 4) (.waitq (iss 3 0 4) 1 0 2 1) ∧
    2 ≤ (queue (dueIn { queues := [(4, { ready := 2 })] } (.waitq (iss 3 0 4) 1 0 2 1)) 3 1 0).ready := ⟨by constructor <;> decide, by decide⟩
theorem bpWaitq_meets : Issues (dueIn { queues := [(4, { items := [1] })] } (.bpWaitq (iss 3 3 4) 0 1 1)) (iss 3 3 4) (.bpWaitq (iss 3 3 4) 0 1 1) ∧
    1 ≤ (queue (dueIn { queues := [(4, { items := [1] })] } (.bpWaitq (iss 3 3 4) 0 1 1)) 3 1 0).items.length := ⟨by constructor <;> decide, by decide⟩
theorem waitqComplete_meets : (strm (running [(0, withStrm 0 0 { running := true, wait := some (.ready 1 0 2 3) } { queues := [(4, { ready := 2 })] })]) 0 0).wait = some (.ready 1 0 2 3) ∧
    2 ≤ (queue (running [(0, withStrm 0 0 { running := true, wait := some (.ready 1 0 2 3) } { queues := [(4, { ready := 2 })] })]) 0 1 0).ready := by decide
theorem bpWaitqComplete_meets : (strm (running [(0, withStrm 0 4 { running := true, wait := some (.fill 3 1 3) } { queues := [(7, { items := [1] })] })]) 0 4).wait = some (.fill 3 1 3) ∧
    1 ≤ (queue (running [(0, withStrm 0 4 { running := true, wait := some (.fill 3 1 3) } { queues := [(7, { items := [1] })] })]) 0 (bpOf 4) 3).items.length := by decide

theorem waitcMissed_meets : (strm (running [(0, withStrm 0 0 { running := true, wait := some (.ccnt 1 2 0) } {})]) 0 0).wait = some (.ccnt 1 2 0) ∧
    8 * 0 ≤ frameCyc (running [(0, withStrm 0 0 { running := true, wait := some (.ccnt 1 2 0) } {})]) := by decide
theorem waitqMissed_meets : (strm (running [(0, withStrm 0 0 { running := true, wait := some (.ready 1 0 2 0) } {})]) 0 0).wait = some (.ready 1 0 2 0) ∧
    waitOver (running [(0, withStrm 0 0 { running := true, wait := some (.ready 1 0 2 0) } {})]) (.ready 1 0 2 0) = true ∧
    waitOver (running [(0, withStrm 0 4 { running := true, wait := some (.fill 3 2 0) } {})]) (.fill 3 2 0) = true := by decide

theorem setc_meets : Issues (due (.setcCounter (iss 3 3 4) 0 3 1 0 2)) (iss 3 3 4) (.setcCounter (iss 3 3 4) 0 3 1 0 2) ∧
    Issues (due (.setcComparator (iss 3 0 4) 15 true true 3 1 7 9)) (iss 3 0 4) (.setcComparator (iss 3 0 4) 15 true true 3 1 7 9) ∧
    Issues (due (.setcDescriptor (iss 3 0 4) 6 62 9)) (iss 3 0 4) (.setcDescriptor (iss 3 0 4) 6 62 9) ∧
    Issues (due (.setcCcount (iss 3 0 4) 63 9)) (iss 3 0 4) (.setcCcount (iss 3 0 4) 63 9) :=
  ⟨by constructor <;> decide, by constructor <;> decide, by constructor <;> decide, by constructor <;> decide⟩

theorem commandScrubVisit_meets : now (running [(0, { cmdBad := [(5, 3)], cmdScrub := [(0, 5)] })]) % 32 = 0 ∧
    0 < cmdMark (running [(0, { cmdBad := [(5, 3)], cmdScrub := [(0, 5)] })]) 0 0 5 := by decide

theorem registerMoves_meet :
    (Issues (due (.moveW (iss 0 0 0) 3 ⟨0, 15⟩ 65535 true 7)) (iss 0 0 0) (.moveW (iss 0 0 0) 3 ⟨0, 15⟩ 65535 true 7) ∧
      PathsFree (due (.moveW (iss 0 0 0) 3 ⟨0, 15⟩ 65535 true 7)) 0 3 [(1, 200), (4, 200)]) ∧
    (Issues (due (.moveVld (iss 0 0 0) 1 ⟨1, 1⟩ 9 15 15)) (iss 0 0 0) (.moveVld (iss 0 0 0) 1 ⟨1, 1⟩ 9 15 15) ∧
      PathsFree (due (.moveVld (iss 0 0 0) 1 ⟨1, 1⟩ 9 15 15)) 0 5 [(6, 16)]) ∧
    (Issues (due (.moveVst (iss 0 0 0) 1 ⟨1, 1⟩ 9 15 15)) (iss 0 0 0) (.moveVst (iss 0 0 0) 1 ⟨1, 1⟩ 9 15 15) ∧
      PathsFree (due (.moveVst (iss 0 0 0) 1 ⟨1, 1⟩ 9 15 15)) 0 5 [(6, 16)]) :=
  ⟨⟨by constructor <;> decide, by unfold PathsFree; decide⟩, ⟨by constructor <;> decide, by unfold PathsFree; decide⟩,
    ⟨by constructor <;> decide, by unfold PathsFree; decide⟩⟩

/-- Operands of a vector operation over registers: X, A, B, C and D through descriptors 0. -/
def vop : VecOp := { ve := 1, cu := ⟨0, 0⟩, n := 3, d := 0, a := 0, b := 0, c := 0, x := 0, aux := 0, sat := false, imm := 0 }
/-- Every vector operation on the same operands. -/
def vectorOps : List Instr :=
  let h := iss 0 0 0
  [.vadd h vop, .vsub h vop, .vmul h vop, .vfma h vop, .vmax h vop, .vmin h vop, .viadd h vop, .visub h vop, .vimul h vop, .vand h vop, .vor h vop, .vxor h vop,
   .vshl h vop, .vshr h vop, .vcmpsel h vop, .vexp h vop, .vrecip h vop, .vrsqrt h vop, .vcvt h vop, .vtomx h vop, .vacomb h vop, .vamerge h vop, .vrsum h vop,
   .vrmax h vop, .vscan h vop, .vrng h vop, .vsample h vop]
theorem vector_meets : ∀ i ∈ vectorOps, (vectorOf i).isSome = true ∧ cmdDue (due i) (iss 0 0 0) i = true ∧ cmdMark (due i) 0 0 0 = 0 ∧ inCommit (due i) = false ∧
    skipped (due i) (iss 0 0 0) = false ∧ freeAt (due i) 0 5 6 ≤ now (due i) ∧
    freeAt (due i) 0 5 7 ≤ now (due i) := by decide

/-- Every shaping command. -/
def shapingOps : List Instr :=
  let h := iss 0 0 0
  let o : RouteOp := { cu := ⟨0, 0⟩, src := 0, dst := 0, route := 0, assign := 0, param := 63 }
  [.transpose h ⟨15, 15⟩ 65535 0 4095 3, .permute h ⟨0, 0⟩ 1 2 4095 3 4, .im2col h ⟨0, 0⟩ 1 2 63, .topk h ⟨0, 0⟩ 1 2 4095 8191 15 0, .dispatch h o, .combine h o]
theorem shaping_meets : ∀ i ∈ shapingOps, cmdDue (due i) (iss 0 0 0) i = true ∧ cmdMark (due i) 0 0 0 = 0 ∧ inCommit (due i) = false ∧
    skipped (due i) (iss 0 0 0) = false ∧ freeAt (due i) 0 6 8 ≤ now (due i) ∧ freeAt (due i) 0 6 9 ≤ now (due i) := by decide

/-- The memory unit's commands, SEND and BPIPE. -/
def memoryOps : List Instr :=
  let h := iss 0 0 0
  [.fill h ⟨0, 0⟩ 65535 65535 7, .copy h ⟨0, 0⟩ 1 2 65535, .send h { cu := ⟨0, 0⟩, src := 0, rows := 15, plane := true, dkind := 0, dest := 59, drow := 0, ccnt := 63 },
   .bpipe h 1 ⟨0, 0⟩ 0 255 3 true 31]
theorem memoryUnit_meets : ∀ i ∈ memoryOps, cmdDue (due i) (iss 0 0 0) i = true ∧ cmdMark (due i) 0 0 0 = 0 ∧ inCommit (due i) = false ∧
    skipped (due i) (iss 0 0 0) = false ∧ freeAt (due i) 0 11 0 ≤ now (due i) ∧ freeAt (due i) 0 10 13 ≤ now (due i) ∧ freeAt (due i) 0 8 11 ≤ now (due i) := by decide

/-- The two moves of lines and a MATMUL over MX rows. -/
def matrixOps : List Instr :=
  let h := iss 0 0 0
  [.moveMein h 3 ⟨0, 0⟩ 1 500 11 2, .moveMeout h 3 ⟨0, 0⟩ 9 0 511 true 2 false,
   .matmul h { me := 3, cu := ⟨0, 0⟩, sbase := 5, sstride := 1, scale := 6, m := 511, u := 0, bank := true, wfmt := 5, sfmt := 5, anch := false, a := 0, acc := false }]
theorem matrix_meets : ∀ i ∈ matrixOps, cmdDue (due i) (iss 0 0 0) i = true ∧ cmdMark (due i) 0 0 0 = 0 ∧ inCommit (due i) = false ∧
    skipped (due i) (iss 0 0 0) = false ∧ freeAt (due i) 0 3 0 ≤ now (due i) ∧ freeAt (due i) 0 3 2 ≤ now (due i) ∧ freeAt (due i) 0 3 4 ≤ now (due i) ∧
    accLeft (due i) 0 3 500 48 false = 0 ∧ (tget {} (core (due i) 0).banks 7).bad = [] := by decide
theorem matmulEnd_meets : (due (.segEnd (iss 0 0 0))).halted = false ∧
    let i := Instr.matmul (iss 0 0 0) { me := 3, cu := ⟨0, 0⟩, sbase := 5, sstride := 1, scale := 6, m := 0, u := 0, bank := true, wfmt := 5, sfmt := 5, anch := false, a := 0, acc := false }
    isMatmul (startJob (due i) { noJob with cmd := i } [(0, .done)]) 3 { cyc := 0, core := 0, job := 0, op := .done } = true := by decide

/-- The access stream's commands. -/
def accessOps : List Instr :=
  let h := iss 0 1 0
  let o : DramOp := { bu := ⟨0, 0⟩, addr := 0, count := 255, stride := 1, q := 3 }
  let b : BauOp := { q := 0, ch := 63, cls := 0, layer := 0, head := 0, lanes := 0, qofs := 0, dofs := 0, start := 0, count := 0 }
  [.rd h o, .wr h o, .bauq h 3 63 255 127, .bauNop h b, .attend h b, .kvput h b, .pcopy h b, .pzero h b, .slout h b, .slin h b]
theorem access_meets : ∀ i ∈ accessOps, cmdDue (due i) (iss 0 1 0) i = true ∧ cmdMark (due i) 0 1 0 = 0 ∧ inCommit (due i) = false ∧
    skipped (due i) (iss 0 1 0) = false ∧ freeAt (due i) 0 (bpEng (iss 0 1 0)) 10 ≤ now (due i) := by decide

/-- A GATHER in a gather window of its own blowpipe, number 5. -/
def gatherIn (i : Instr) : State := setRg (due i) (drmA 0 0x400) (2 ^ 63 + 5 * 2 ^ 56 + 1023 * 2 ^ 32)
theorem gather_meets :
    let o : GatherOp := { bu := ⟨0, 0⟩, qi := 1, qo := 3, count := 1, rb := 0, limit := 9, tbase := 0 }
    let h := iss 2 3 0
    sitePipe (jobOf (gatherIn (.gather h o)) h (.gather h o) 0 []) = 5 ∧ gatherBreach (gatherIn (.gather h o)) (jobOf (gatherIn (.gather h o)) h (.gather h o) 0 []) o = none ∧
    cmdDue (gatherIn (.gather h o)) h (.gather h o) = true ∧ inCommit (gatherIn (.gather h o)) = false ∧ freeAt (gatherIn (.gather h o)) 2 (bpEng h) 10 = 0 := by decide

/-- The execute stream's commands. -/
def executeOps : List Instr :=
  let h := iss 0 4 0
  [.dlv h ⟨0, 0⟩ 3 255 65535, .dlvs h 3 255 31, .drop h 3 255]
theorem execute_meets : ∀ i ∈ executeOps, cmdDue (due i) (iss 0 4 0) i = true ∧ cmdMark (due i) 0 4 0 = 0 ∧ inCommit (due i) = false ∧
    skipped (due i) (iss 0 4 0) = false ∧ freeAt (due i) 0 (bpEng (iss 0 4 0)) 12 ≤ now (due i) := by decide

/-- A state in which one entry of a command is due at queue 3 of blowpipe 1 of core 7, which holds n. -/
def arriving (i : Instr) (n : Nat) : State :=
  { startJob (running [(7, { ({} : Core) with present := true, queues := tset {} [] 7 { items := List.replicate n 0 } })]) { noJob with cmd := i, core := 7, buf := [(0, 5)] } [(0, .qPut 1 3 0)] with free := 0 }
theorem arrive_meets :
    let a : Act := { cyc := 0, core := 7, job := 0, op := .qPut 1 3 0 }
    let s := arriving (.rd (iss 7 3 0) { bu := ⟨0, 0⟩, addr := 0, count := 0, stride := 0, q := 3 }) 64
    a ∈ s.acts ∧ s.acts.count a = 1 ∧ a.cyc ≤ now s ∧ s.phase = 0 ∧ s.halted = false ∧
    ∀ x ∈ s.acts, x.core = 7 → x.cyc ≤ now s → ∀ k, x.op = .qPut 1 3 k → x = a := by
  intro a s
  refine ⟨by decide, by decide, by decide, rfl, rfl, ?_⟩
  intro x hx _ _ _ _
  simpa using (show x ∈ [a] from hx)

/-- A launched device with one bank's table entry and one channel's. -/
def stacked (b : DBank) (c : Chan) : State := { running [] with dbanks := [(1023, b)], chans := [(63, c)], regs := [(ttA 0x018, 8), (ttA 0x01C, 100000), (ttA 0x020, 20000), (drmA 0 0x010, 100000 * 2 ^ 23), (drmA 0 0x028, 5)] }
theorem stacks_meet :
    let s := stacked { acts := 7 } { deferred := [3, 4], lastDef := 0 }
    launched s = true ∧ planOn s = true ∧ s.phase = 0 ∧ refreshOfs s 0 63 15 ≤ frameTick s ∧ (frameTick s - refreshOfs s 0 63 15) % max 1 (rf s (drmA 0 0x018) 0 10) = 0 ∧
    gatherWin s 0 (frameTick s) = none ∧ (ttc s - launchT s) % max 1 (rf s (drmA 0 0x020) 0 16) = 0 ∧ (chan s 63).deferred = [3, 4] ∧ (chan s 63).lastDef ≠ now s + 1 ∧
    patrolFits s 0 = true ∧ scheduled s = none ∧ chanFailed s 63 = false ∧ (chan s 63).patDone + (chan s 63).patSkip.length < rf s (drmA 0 0x028) 0 20 := by decide

theorem stackTemperature_meets : (95 : BitVec 8).toNat = 95 ∧ (if rf State.reset (drmA 3 0x000) 1 2 = 2 then 95 else 85) = 85 := by decide

theorem alarms_meet :
    (let s := setArmed { setRg State.reset (ttA 0x208) 1 with owners := [(2, 0, 0, 1, 0)] } 0 true
     rf s (ttA 0x208) 0 1 = 1 ∧ alarmOwned s 0 = true ∧ 0 ∈ s.tether.armed ∧ rg s (ttA 0x200) = ttc s) ∧
    (fld (tsyncCfg (setRg (setRg State.reset (ttA 0x040) (2 ^ 16)) (ttA 0x000) 1) true) 0 2 = 1 ∧ stamp (setRg (setRg State.reset (ttA 0x040) (2 ^ 16)) (ttA 0x000) 1) = 8) ∧
    (let s := { State.reset with flash := { State.reset.flash with startCfg := some (0, 31, 0) } }; upstream s = 31 ∧ acquired s = false) := by decide

theorem frames_meet :
    (let s := { State.reset with regs := [(ttA 0x018, 4), (ttA 0x01C, 100000), (ttA 0x020, 20000)] }
     launched s = false ∧ rf s (ttA 0x018) 2 1 = 1 ∧ s.halted = false ∧ s.phase = 0 ∧ ttc s = launchT s) ∧
    (let s := setRg (running []) (ttA 0x000) 100000
     launched s = true ∧ s.phase = 0 ∧ ttc s = frameStartT s + frameLen s ∧ ¬ (startKind s = 2 ∧ stage s = 1) ∧ stage s ≠ 9) ∧
    (let s := setRg (running []) (ttA 0x000) 80000
     s.phase = 0 ∧ planOn s = true ∧ s.vote.opened = false ∧ frameTick s = frameLen s - cwLen s) := by decide

theorem votes_meet :
    (let s := setRg (running []) (ttA 0x000) 80000
     planOn s = true ∧ s.vote.fixed = false ∧ frameTick s = gatherOfs s ∧ unmirrored s = []) ∧
    (let s := { setAll (setRg (running []) (ttA 0x000) 80000) [(ttA 0x024, 5 * 2 ^ 24 + 10 * 2 ^ 12), (parA 0x030, 3 * 2 ^ 16)] with vote := { fixed := true } }
     planOn s = true ∧ inGather s = true ∧ alone s = false ∧ s.vote.gather + 1 ≤ rounds s ∧ frameTick s = gatherOfs s + s.vote.gather * roundLen s) ∧
    (let s := { setAll (setRg (running []) (ttA 0x000) 80050) [(ttA 0x024, 5 * 2 ^ 24 + 10 * 2 ^ 12), (parA 0x030, 3 * 2 ^ 16)] with vote := { fixed := true } }
     planOn s = true ∧ inDecide s = true ∧ alone s = false ∧ inGather s = false ∧ frameTick s = decideOfs s + s.vote.decide * roundLen s) ∧
    (let s := { setAll (setRg (running []) (ttA 0x000) 80100) [(ttA 0x024, 5 * 2 ^ 24 + 10 * 2 ^ 12)] with vote := { fixed := true, void := true } }
     planOn s = true ∧ s.vote.fixed = true ∧ s.vote.decided = false ∧ frameTick s = decisionOfs s ∧ holdsVoid s = true ∧ s.crl.absent.length < 3) := by decide

theorem sync_meet :
    (let s := setAll { running [] with voteLinks := 1, vote := { confirm := some (0, true) } } [(ttA 0x000, 100005), (ttA 0x008, 1), (ttA 0x024, 5 * 2 ^ 24 + 10 * 2 ^ 12), (parA 0x030, 3 * 2 ^ 16)]
     let m : TetherMsg := { flags := 0, sender := 1, exchange := 1, stampA := 0, stampB := 0, echo := 0, bitmap := 0 }
     planOn s = true ∧ alone s = false ∧ s.vote.confirm = some (0, true) ∧ 0 + 1 = stepNo s ∧ frameTick s < roundLen s ∧ bitAt s.voteLinks 0 = true ∧
     0 ∉ s.vote.confSent ∧ m.exchange = 1 ∧ fld m.stampA.toNat 0 48 + 1 = stepNo s ∧ fld m.stampA.toNat 0 48 = 0) ∧
    stepNo State.reset = 0 ∧
    (let s (st : Nat) := setAll (running []) [(ttA 0x018, 10), (ttA 0x028, 2 ^ 8), (lnkA 0 0x008, st * 2 ^ 60)]
     syncDue (s 4) 0 = true ∧ acquired (s 4) = true ∧ lnkSt (s 4) 0 = 4 ∧ syncEpoch (s 4) 0 = true ∧ (link (s 4) 0).search = false ∧ syncDue (s 5) 0 = true ∧ lnkSt (s 5) 0 = 5 ∧
     syncDue (s 3) 0 = true ∧ lnkSt (s 3) 0 = 3 ∧ runTo (s 3) 0 = s 3) ∧
    (let s := { setAll (running []) [(ttA 0x018, 10), (lnkA 0 0x008, 3 * 2 ^ 60)] with links := [(0, { syncWait := some 7 })] }
     let θ (b : BitVec 64) := (stampDiff b.toNat 0 - stampDiff (stamp s) 0).tdiv 2
     (link s 0).syncWait = some 7 ∧ (link s 0).search = false ∧ acquired s = true ∧ lnkSt s 0 ≠ 2 ∧ lnkSt s 0 ≠ 4 ∧ θ 3 = 1 ∧ θ 21 = 10) := by decide

theorem refs_meet :
    (let s (n : Nat) := setAll State.reset [(kelA 0x100, 2 * 2 ^ 60), (ttA 0x028, n)]
     acquired (s 31) = false ∧ upstream (s 31) = 31 ∧ stage (s 31) ≠ 6 ∧ upstream (s 3) < 30 ∧ acquired (s 3) = false ∧
     acquired (setRg State.reset (ttA 0x018) 2) = true ∧ startKind (s 31) = 2) ∧
    (let s := { State.reset with flash := { State.reset.flash with startCfg := some (0, 31, 7) } }
     acquired s = false ∧ upstream s = 31 ∧ stage s ≠ 6 ∧ startKind s ≠ 2) ∧
    (let s (n : Nat) := { setAll State.reset [(kelA 0x110, n)] with tether := { State.reset.tether with acqFrom := some 10, acqOn := true } }
     (s 11).tether.acqFrom = some 10 ∧ (s 11).tether.acqOn = true ∧ stage (s 11) ≠ 6 ∧ 10 + 262144 ≤ rg (s 300000) (kelA 0x110) ∧ rg (s 11) (kelA 0x110) < 10 + 262144) ∧
    (let s (c m : Nat) (b : Bool) := { setAll State.reset [(clkA 0x000, c), (clkA 0x004, m)] with tether := { State.reset.tether with lostB := b } }
     rf (s 3 3 false) (clkA 0x000) 8 2 = 0 ∧ monMode (s 3 3 false) ≠ 2 ∧ rf (s 3 3 false) (clkA 0x000) 1 1 = 1 ∧ (s 3 3 false).tether.lostB = false ∧
     (s 1 3 true).tether.lostB = true ∧ rf (s 1 3 true) (clkA 0x004) 16 5 ≠ 31 ∧ monMode (s 3 2 false) = 2 ∧ rf (s 1 (3 + 31 * 2 ^ 16) true) (clkA 0x004) 16 5 = 31 ∧
     rf (s (2 ^ 8) 3 false) (clkA 0x000) 8 2 = 1 ∧ (s 3 3 false).tether.refNext = none ∧ rf (s (2 ^ 9) 3 false) (clkA 0x000) 8 2 = 2) ∧
    (let s (n : Nat) := setAll State.reset [(clkA 0x000, 3 * 2 ^ 8), (kelA 0x110, n)]
     rf (s 0) (clkA 0x000) 8 2 = 3 ∧ (s 0).tether.holdDone = false ∧ (s 0).tether.holdUp + 15625000 ≤ rg (s 15625000) (kelA 0x110) ∧ rg (s 0) (kelA 0x110) < (s 0).tether.holdUp + 15625000) := by decide

/-- ADD x3, x1, x2; ADDI x3, x1, 5; LUI x3, 1; JAL x1, 8; BEQ x1, x2, 8; LW x3, 0(x4); SW x3, 0(x4); ECALL. -/
theorem gaffer_meet :
    (∀ e ∈ ([(0x002081B3, GInst.op 0 0 3 1 2), (0x00508193, .opImm 0 3 1 5), (0x000011B7, .lui 3 4096), (0x008000EF, .jal 1 8),
      (0x00208463, .branch 0 1 2 8), (0x00022183, .load 2 3 4 0), (0x00322023, .store 2 4 3 0), (0x00000073, .ecall)] : List (Nat × GInst)),
      let u := gafAt [e.1] { x := [(4, 0x00100000)] }
      gafDue u 3 = true ∧ gafInst u 3 = e.2 ∧ (core u 3).gaf.pc + (gafWord u 3).2 ≤ 0x10000 ∧
        (∀ k ∈ [(core u 3).gaf.pc / 4, ((core u 3).gaf.pc + (gafWord u 3).2 - 1) / 4], tget 0 (core u 3).gaf.bad (gafKey false k) = 0) ∧ xreg u 3 4 = 0x00100000) ∧
    (let u := gafAt [0] { bad := [(0, 1024)] }
     gafDue u 3 = true ∧ (core u 3).gaf.pc + (gafWord u 3).2 ≤ 0x10000 ∧ 1024 ≤ tget 0 (core u 3).gaf.bad (gafKey false 0)) ∧
    gafDue State.reset 3 = false := by decide +kernel

/-- SEGARM x3, x1, x2; PREDW x1, x2; PREDR x3; STRLD x3, x1, 2; STRST x1, x2, 2; FRCADD x1, x2; FRCLD x3, x1; WAITTK x1;
CSRRS x3, gttc, x0; CSRRW x3, gscratch, x1. -/
theorem gafplan_meet :
    (∀ e ∈ ([(0x0020818B, GInst.segarm 3 1 2), (0x0020900B, .predw 1 2), (0x0200118B, .predr 3), (0x0020A18B, .strld 3 1 2),
      (0x0420B00B, .strst 1 2 2), (0x0020C00B, .frcadd 1 2), (0x0000D18B, .frcld 3 1), (0x0000E00B, .waittk 1), (0xFC3021F3, .csr 2 0xFC3 3 0),
      (0x7C0091F3, .csr 1 0x7C0 3 1)] : List (Nat × GInst)),
      let u := gafAt [e.1] {}
      gafDue u 3 = true ∧ gafInst u 3 = e.2 ∧ (core u 3).gaf.pc + (gafWord u 3).2 ≤ 0x10000 ∧
        (∀ k ∈ [(core u 3).gaf.pc / 4, ((core u 3).gaf.pc + (gafWord u 3).2 - 1) / 4], tget 0 (core u 3).gaf.bad (gafKey false k) = 0)) ∧
    (homed (gafAt [] {}) 3 0 = false ∧ homed { gafAt [] {} with home := [(0, 4)] } 3 0 = true ∧ strWritable 2 = true ∧ strWritable 0 = false) ∧
    (let s := gafAt [] { waitTick := some 0 }
     s.phase = 0 ∧ planOn s = true ∧ (core s 3).gaf.waitTick = some (ttc s) ∧ (core s 3).gaf.stopped = false) := by decide +kernel

/-- A running core with a marver window over the frame's first 1,000 ticks. -/
def gafIn (is : List Nat) (g : Gaffer) : State := setRg (gafAt is g) (cruA 3 0x020) (1000 * 2 ^ 23)
theorem crucible_meet :
    (∀ e ∈ ([(0x00322023, GInst.store 2 4 3 0), (0x00022183, .load 2 3 4 0)] : List (Nat × GInst)),
      let u := gafIn [e.1] { x := [(3, 7), (4, 0x01000000)] }
      gafDue u 3 = true ∧ gafInst u 3 = e.2 ∧ (core u 3).gaf.pc + (gafWord u 3).2 ≤ 0x10000 ∧
        (∀ k ∈ [(core u 3).gaf.pc / 4, ((core u 3).gaf.pc + (gafWord u 3).2 - 1) / 4], tget 0 (core u 3).gaf.bad (gafKey false k) = 0) ∧
        (xreg u 3 4 + 0) % 2 ^ 32 = 0x01000000 ∧ xreg u 3 3 = 7) ∧
    (let u := gafIn [] {}
     inMarver u 3 (frameCyc u) = true ∧ entryOf u 3 0 = none ∧ ((List.range 4).find? fun e => (mentry u 3 e).isNone) = some 0 ∧ (core u 3).mstore = none ∧
     inMarver u 3 (nextMarver 0 (frameCyc u)) = true ∧ inMarver (gafAt [] {}) 3 0 = false ∧
     (let v := setMentry u 3 0 (some (newEntry u 0 0 4 7 0))
      entryOf v 3 0 = some 0 ∧ (mentry v 3 0).isSome = true) ∧
     (let v := forN 4 u fun e s => setMentry s 3 e (some (newEntry u e 0 4 7 0))
      entryOf v 3 9 = none ∧ ((List.range 4).find? fun e => (mentry v 3 e).isNone) = none)) ∧
    (let u := setRg (gafAt [] {}) (cruA 3 0x028) 100
     planOn u = true ∧ scrubCycle u 3 (frameCyc u) = true ∧ (frameCyc u - 8 * rf u (cruA 3 0x028) 23 23) % 2 = 0 ∧ u.acts = []) ∧
    (let u := setMentry (gafIn [] {}) 3 2 (some (newEntry (gafIn [] {}) 0 0 4 7 0))
     marverCycle u 3 0 (frameCyc u) = true ∧ (marverPick u 3 0).isSome = true ∧ ((marverPick u 3 0).map fun a => decide (a.kind = .mfill 2)) = some true) ∧
    (let s := setRg (gafAt [] {}) (cruA 3 0x020) 0
     planOn s = true ∧ s.phase = 0 ∧ frameTick s = rf s (cruA 3 0x020) 23 23 ∧ (core s 3).present = true) ∧ planOn State.reset = false ∧
    listed 0x010000800000 = false ∧ rowAddr 3 65535 ≤ 0x0100037FFFFF ∧ 0x0100037FFFFF < rowAddr 3 65535 + 128 := by decide +kernel

theorem probes_meet :
    (let s (m : Nat) := setRg State.reset (clkA 0x004) (m + 3 * 2 ^ 4)
     monMode (s 1) = 1 ∧ monMode (s 3) ≠ 1 ∧ rf (s 3) (clkA 0x004) 4 3 = 3) ∧
    (let bad : TapTrial := { lo := 0, hi := 5, edge := 2 }
     let good : TapTrial := { lo := 6, hi := 7, edge := 2 }
     let s := setRf (setRf State.reset (kelA 0x100) 56 4 5) (kelA 0x100) 60 4 1
     aligns s 0 0 = true ∧ aligns State.reset 0 0 = false ∧ aligns s 18 7 = false ∧
     ([bad, good].take 8)[1]? = some good ∧ good.hi.val - good.lo.val ≤ 1 ∧ 2 ≤ good.lo.val ∧ good.hi.val ≤ 13 ∧
     ¬ (bad.hi.val - bad.lo.val ≤ 1 ∧ 2 ≤ bad.lo.val ∧ bad.hi.val ≤ 13) ∧ 8 ≤ (List.replicate 8 bad).length) ∧
    (let x : Flight := { cyc := 0, plane := 1, tile := 71, port := 9, flit := { data := 0, head := true, tail := true, abort := false } }
     let v := { State.reset with flights := [x] }
     (v.flights.find? fun x => decide (x.cyc ≤ now v) && x.plane == 1 && x.tile == 71 && x.port == 9) = some x ∧
     State.reset.halted = false ∧ (running []).halted = false ∧ { State.reset with halted := true }.halted = true ∧ (State.reset.flights.find? fun x => decide (x.cyc ≤ now v) && x.plane == 1 && x.tile == 71 && x.port == 9) = none) := by decide +kernel

theorem links_meet :
    (let p : LPkt := { kind := 1, units := 8, body := [0] }
     let u := setRg (linkAt 5 3 { fq := [p] }) (lnkA 5 0x1000) (1 + 4 * 2 ^ 4)
     planOn u = true ∧ (link u 5).started ≤ now u ∧ lnkSt u 5 = 3 ∧ u.slotBad.contains (lnkA 5 0x1000) = false ∧ frameTick u % 4096 = 0 ∧
     fld (rf u (lnkA 5 0x1000) 0 16) 0 4 = 1 ∧ fld (rf u (lnkA 5 0x1000) 0 16) 4 4 = 4 ∧ (link u 5).fq = [p] ∧ (link (linkAt 5 3 {}) 5).fq = [] ∧
     (punit { u with punits := [(5, { queue := [(7, 0)] })] } 5).queue = [(7, 0)]) ∧
    (let u (l : LinkS) := linkAt 5 3 l
     let d (q : Nat) (l : LinkS) := (q + 65536 - (link (u l) 5).rxNext) % 65536
     lnkSt (u {}) 5 = 3 ∧ d 9 { rxNext := 9 } = 0 ∧ 0 < d 10 { rxNext := 9 } ∧ d 10 { rxNext := 9 } < 32768 ∧ (link (u {}) 5).search = false ∧ (link (u {}) 5).gap = false ∧
     (link (u { gap := true }) 5).gap = true ∧ 32768 ≤ d 8 { rxNext := 9 } ∧ (let x : LehrPkt := { release := 0, half := 0, table := 0, pkt := { kind := 1, units := 8, body := [0] } }
      (link (u { lehr := [x] }) 5).lehr = [x] ∧ x.release ≤ now (u {}) ∧ (u {}).halted = false ∧ { u {} with rootIn := [(0, 5, [0])] }.rootIn = [(0, 5, [0])])) ∧
    (let p : LPkt := { kind := 1, units := 8, body := [0], seq := 3 }
     let u := { setRg (linkAt 5 3 { unacked := [p], uncov := 1 }) (lnkA 5 0x000) (8 * 2 ^ 36) with phase := 0 }
     let w := setRg u (kelA 0x110) 1000
     lnkSt w 5 = 3 ∧ 0 < (link w 5).uncov ∧ (link w 5).uncovAt + 250 ≤ now w ∧ (link w 5).unacked = [p] ∧ (link w 5).lastAdv + rf w (lnkA 5 0x020) 32 16 ≤ now w ∧
     p.replays < replayLimit w 5 ∧ (∀ x ∈ (link (ackTake w 5 0 0 0) 5).unacked, x.replays < replayLimit (ackTake w 5 0 0 0) 5)) ∧
    (1 ≤ lnkSt (linkAt 5 3 { search := true }) 5 ∧ lnkSt (linkAt 5 3 { search := true }) 5 ≤ 4 ∧ (link (linkAt 5 3 { search := true }) 5).search = true) := by decide +kernel

theorem retrain_meet :
    (let u := linkAt 5 3 {}
     lnkSt u 5 = 3 ∧ lnkSt u (partner 5) ≠ 3 ∧ (link u 5).wStage = 0 ∧ (link u (partner 5)).wStage = 0 ∧ ((link u 5).upSince.isSome && launched u) = false ∧ lnkSt u 4 ≠ 3) ∧
    (let u := linkAt 5 4 {}
     let v := modLink u 5 fun l => { l with ident := some (0, 0) }
     1 ≤ lnkSt u 5 ∧ lnkSt u 5 ≤ 4 ∧ lnkSt u 5 = 4 ∧ identGood v 5 0 0 = true ∧ identGood v 5 1 0 = false ∧ (link u 5).rejoinAt = none ∧
     (link u 5).attempt + 3125 ≤ uptime (setRg u (kelA 0x110) 3125) ∧ rf (setRg u (lnkA 5 0) (8 * 2 ^ 36)) (lnkA 5 0x008) 48 4 + 1 < replayLimit (setRg u (lnkA 5 0) (8 * 2 ^ 36)) 5 ∧
     lnkSt (setRg u (lnkA 5 0) (8 * 2 ^ 36)) 5 = 4) ∧
    (let u := linkAt 5 4 { rejoinAt := some 0 }
     lnkSt u 5 = 4 ∧ (link u 5).rejoinAt = some (ttc u)) ∧
    (let u := setRg (linkAt 5 3 {}) (lnkA 5 0x008) (3 * 2 ^ 60 + 2 ^ 53)
     planOn u = true ∧ lnkSt u 5 = 3 ∧ rf u (lnkA 5 0x008) 53 1 = 1 ∧ frameTick u = rf u (lnkA 5 0x010) 0 23 ∧ (link u 5).wStage = 0 ∧ (link u 5).wHold = false ∧ (link (linkAt 5 3 { wStage := 2 }) 5).wStage = 2) := by decide +kernel

/-- Pair 1 with link 2 up and a remote window of 256 bytes at 0. -/
def pairUp (r : RopS) : State := { linkAt 2 3 {} with rwins := [(16, (0, 256))], rops := [(1, r)] }
/-- An operation outstanding until tick 5 with reissues left. -/
def waiting (n : Nat) : RopOp := { op := 2, seq := 7, bytes := 16, env := 0, addr := 0, data := 0, deadline := 5, left := n, who := 1, item := 0 }
theorem rops_meet :
    (let m : RopMsg := { seq := 0, status := 0, rwseq := 7, bytes := 16, env := 0, addr := 240, data := 0 }
     let o : RopMsg := { m with addr := 256 }
     ropWf m = true ∧ ropWf o = true ∧ lnkSt (pairUp {}) 2 = 3 ∧ m.seq.toNat = (link (pairUp {}) 2).rxNext ∧ inWindow (pairUp {}) 1 o = false ∧ inWindow (pairUp {}) 1 m = true ∧
     (rop (pairUp { hi := some 7, marks := [7] }) 1).marks.contains 7 = true ∧ (rop (pairUp { hi := some 263 }) 1).marks.contains 7 = false ∧
     255 < (263 + 65536 - 7) % 65536 ∧ inMirror (pairUp {}) 240 = false ∧ inMirror { pairUp {} with ranges := [(7 * 65536, (0, 256))] } 240 = true) ∧
    (rop (pairUp { out := [waiting 0] }) 1).out = [waiting 0] ∧ (rop (pairUp { out := [waiting 0] }) 1).wait = [] ∧ ttc (pairUp {}) < 5 ∧ 5 ≤ ttc (setRg (pairUp {}) (ttA 0) 5) := by decide +kernel
theorem ranging_meets :
    let s : State := setAll { State.reset with links := [(3, { ident := some (4, 1), delays := List.replicate 64 100 })] }
      [(kelA 0x100, 8 * 2 ^ 56), (lnkA 3 0x000, 2 ^ 34 + 4 * 2 ^ 51 + 1 * 2 ^ 46), (lnkA 3 0x008, 2 * 2 ^ 60), (lnkA 7 0x000, 2 ^ 34), (lnkA 3 0x018, 100 * 2 ^ 16)]
    stage s = 8 ∧ (usedLinks s).contains 3 = true ∧ lnkSt s 3 = 2 ∧ (link s 3).ident = some (4, 1) ∧ s.coldDue = false ∧ identGood s 3 4 1 = true ∧
      identGood s 3 4 2 = false ∧ flightReason s 3 (medianOf (link s 3).delays).toNat = 0 ∧ (link s 7).ranged = false ∧ 7 ∈ usedLinks s := by decide +kernel

/-- A record of a kind for stream 5 with body bytes from 24 on. -/
def reqRec (kind : Nat) (body : List Nat) : List Byte :=
  let h := (List.replicate 8 0 ++ [kind, 0, 5, 0] ++ List.replicate 12 0 ++ body).map fun n => BitVec.ofNat 8 n
  h ++ List.replicate (256 - h.length) 0
/-- An accepted request of envelope 2. -/
def takenOf (r : List Byte) : Taken := { lsn := 9, ring := 1, rseq := 4, status := 0, core := 0, step := 0, rec_ := r }
/-- The running device with that request next, stream 5 with words 1, 2 and 9 given. -/
def asked (r : List Byte) (w1 w2 w9 : Nat) : State :=
  { setAll (running []) [(srvA 2 0x020, 1000 * 2 ^ 40)] with
    srvs := [(2, { c := { todo := [takenOf r] } })], strmTab := tset 0 (tset 0 (tset 0 [] 81 (BitVec.ofNat 32 w1)) 82 (BitVec.ofNat 32 w2)) 89 (BitVec.ofNat 32 w9) }
/-- An OPEN record: MODEL 3, TOP_P 1.0, TEMP 1.0. -/
def openRec : List Byte := reqRec 1 ([3, 0, 0, 0] ++ List.replicate 20 0 ++ [0, 0, 0x80, 0x3F, 0, 0, 0x80, 0x3F])
theorem accepted_meets (r : List Byte) (w1 w2 w9 kind : Nat) (h : recNat r 8 1 = kind) : Accepted (asked r w1 w2 w9) 2 9 kind (takenOf r) := by
  have hr : ∀ s : State, (s = asked r w1 w2 w9) → planOn s = planOn (setAll (running []) [(srvA 2 0x020, 1000 * 2 ^ 40)]) ∧ inCommit s = inCommit (setAll (running []) [(srvA 2 0x020, 1000 * 2 ^ 40)]) := by
    intro s hs; subst hs; exact ⟨rfl, rfl⟩
  refine ⟨?_, (hr _ rfl).1.trans (by decide), (hr _ rfl).2.trans (by decide), by rfl⟩
  show List.find? _ [takenOf r] = _
  simp [takenOf, h, asked, srv, tget]
theorem open_meets : (let s := asked openRec 0 0 0
    let t := takenOf openRec
    zOf t = 5 ∧ pState s 5 = 0 ∧ ((srv s 2).p.handles.all fun h => !(h.2.live && h.2.keeper == 5)) = true ∧ arg t 25 1 ≤ 1 ∧ arg t 26 1 ≤ 15 ∧ arg t 27 1 ≤ 8 ∧ arg t 38 1 ≤ 1 ∧
      topPGood (arg t 48 4) = true ∧ tempGood (arg t 52 4) = true ∧ arg t 39 1 = 0 ∧ restZero t 1 72 = true ∧ (openFrit s 2 t).1 = some 0x1FFF ∧ arg t 56 16 = 0 ∧ recNat openRec 8 1 = 1) ∧
    pState (asked openRec (2 ^ 28) 0 0) 5 ≠ 0 := by decide +kernel
theorem append_meets : (let t := takenOf (reqRec 2 [4, 0, 0, 0, 0, 0, 0, 0, 1, 0, 0, 0])
    let s := asked t.rec_ (2 ^ 28) 10 2
    zOf t = 5 ∧ pState s 5 ≠ 0 ∧ 1 ≤ arg t 24 4 ∧ arg t 24 4 ≤ 56 ∧ arg t 28 4 = 0 ∧ bitAt (arg t 9 1) 1 = false ∧ restZero t 4 (32 + 4 * arg t 24 4) = true ∧
      pword s 5 2 + pword s 5 9 + arg t 24 4 ≤ maxPos s 2 ∧ maxPos s 2 < pword (asked t.rec_ (2 ^ 28) 998 2) 5 2 + 2 + 4 ∧ pState (asked t.rec_ 0 0 0) 5 = 0) := by decide +kernel
theorem set_meets : (let t := takenOf (reqRec 3 [1, 0, 0, 0, 0, 0, 0, 0, 8])
    let b := takenOf (reqRec 3 [1, 0, 0, 0, 0, 0, 0, 0, 9])
    pState (asked t.rec_ (2 ^ 28) 10 2) (zOf t) ≠ 0 ∧ (setField (arg t 24 1)).isSome ∧ (arg t 25 7 == 0 && restZero t 1 40) = true ∧ arg t 32 8 ≤ 8 ∧ 8 < arg b 32 8) := by decide +kernel
theorem trim_meets : (let t := takenOf (reqRec 6 [12, 0, 0, 0])
    let s := asked t.rec_ (2 ^ 28) 10 2
    pState s (zOf t) ≠ 0 ∧ arg t 24 4 ≤ pword s (zOf t) 2 + pword s (zOf t) 9 ∧ pword (asked t.rec_ (2 ^ 28) 9 2) 5 2 + 2 < arg t 24 4) := by decide +kernel

/-- The same device with three handles and two frit slots, and one slot and one handle held. -/
def askedH (r : List Byte) (fr : Frit) (h : Handle) : State :=
  let s := setAll (asked r (2 ^ 28) 10 2) [(srvA 2 0x020, 1000 * 2 ^ 40), (srvA 2 0x010, 3 * 2 ^ 47), (srvA 2 0x000, 2 * 2 ^ 24 + 7 * 2 ^ 12)]
  modSrv s 2 fun v => { v with c := { v.c with handles := [(0, h)], frits := [(7, fr)] }, p := { v.p with handles := [(0, h)], frits := [(7, fr)] } }
theorem handles_meet :
    (let t := takenOf (reqRec 4 [10, 0, 0, 0])
     let b := takenOf (reqRec 4 [11, 0, 0, 0])
     let s := askedH t.rec_ {} {}
     pState s (zOf t) ≠ 0 ∧ pword s (zOf t) 2 = 10 ∧ arg t 24 4 = 10 ∧ arg b 24 4 = 11 ∧ freeHandle s 2 0 = some 0 ∧ freeHandle (asked t.rec_ 0 0 0) 2 0 = none) ∧
    (let h : Handle := { gen := 6, live := true }
     let s := askedH [] {} h
     let g := pack [(0, 32, 0), (32, 32, 6), (64, 64, handleTag s 2 0 6 0)]
     handleValid s 2 g 0 true = true ∧ handleValid s 2 (g + 1) 0 true = false) ∧
    (let t := takenOf (reqRec 0x10 ([4, 0, 0, 0, 1, 0, 0, 0] ++ List.replicate 16 0 ++ [0, 2, 0, 0]))
     let s (f : Nat) := askedH t.rec_ { st := 2, family := f } {}
     familyIn (srv (s 4) 2).p (arg t 24 4) = true ∧ familyIn (srv (s 5) 2).p (arg t 24 4) = false ∧ arg t 48 4 = 512 ∧ fritFields t = true ∧ freeFrit (s 4) 2 = some 8 ∧
       (srv (s 4) 2).p.retired.contains (arg t 24 4) = false ∧ fritFind (srv (s 4) 2).p (fun x => x.family == arg t 24 4 && decide (arg t 28 4 ≤ x.version)) = none ∧
       ((srv (s 4) 2).p.frits.map (·.1)).Nodup ∧ (∀ x ∈ (srv (s 4) 2).p.frits, x.1 = 8 → x.2.family ≠ 4) ∧ (7, { st := 2, family := 4 }) ∈ (srv (s 4) 2).p.frits) ∧
    (∀ k ∈ [1, 2, 3, 4], arg (takenOf (reqRec 0x20 [k])) 24 1 = k) ∧ arg (takenOf (reqRec 0x20 [5])) 24 1 = 5 := by decide +kernel
theorem acceptedH_meets (r : List Byte) (fr : Frit) (h : Handle) (kind : Nat) (hk : recNat r 8 1 = kind) : Accepted (askedH r fr h) 2 9 kind (takenOf r) := by
  refine ⟨?_, ?_, ?_, by rfl⟩
  · show List.find? _ [takenOf r] = _
    simp [takenOf, hk, askedH, asked, setAll, srv, tget, modSrv, tset, setRg, tput]
  · exact (accepted_meets r (2 ^ 28) 10 2 kind hk).runs
  · exact (accepted_meets r (2 ^ 28) 10 2 kind hk).window

/-- Envelope 2 of a running device whose host can be reached, with a block and stream 5's words 1, 2 and 9. -/
def served (v : Srv) (w1 w2 w9 : Nat) : State :=
  { setAll (running []) [(cfgA 3 0x004, 4), (cfgA 0 0x108, 1), (cfgA 0 0x110, 3), (srvA 2 0x000, 100 * 2 ^ 50)] with
    srvs := [(2, v)], strmTab := tset 0 (tset 0 (tset 0 [] 81 (BitVec.ofNat 32 w1)) 82 (BitVec.ofNat 32 w2)) 89 (BitVec.ofNat 32 w9) }
theorem intake_meets :
    (let s := served { rings := [(0, { reg := true, queue := [(0, 7)], cfg := 8 * 2 ^ 8, head := 0 })], posts := [(0, 0, 3, 9)] } 0 0 0
     s.phase = 0 ∧ planOn s = true ∧ frameTick s = rf s (srvA 2 0x008) 41 23 ∧ (srv s 2).snap.phase = 0 ∧ s.vote.replay = false ∧ paired s = false ∧
       { s with vote := { s.vote with replay := true } }.vote.replay = true ∧
     podRole (snapBegin s 2) ≠ 2 ∧ hostReach (snapBegin s 2) 3 = true ∧ phase1Reads (snapBegin s 2) 2 ≠ [] ∧
     frameTick s = rf s (srvA 2 0x008) 18 23 ∧ podRole s ≠ 2 ∧ hostReach s 3 = true ∧ regRings s 2 = [0] ∧ hostReach { s with ucie := 2 } 3 = false ∧
     postable s 2 0 = [(0, 7)] ∧ (srv s 2).regPost = false ∧
     rf s (srvA 2 0x008) 18 23 + rf s (srvA 2 0x018) 18 23 ≤ frameTick s ∧ (srv s 2).posts.drop 0 = [(0, 0, 3, 9)]) ∧
    (let s := served { snap := { phase := 1, out := [4] } } 0 0 0
     (srv s 2).snap.out ≠ [] ∧ (srv s 2).snap.at_ + rf s (srvA 2 0x018) 41 23 / 4 ≤ ttc s ∧ (srv s 3).snap.out = []) ∧
    (let s (st : Nat) (d : Bool) (l : Nat) := served { p := { gens := [(5, { lsn := 0, ring := 0, cookie := 0, drawn := d, pos := 0, tok := 0, val := 0 })] } } (st * 2 ^ 28 + 2 ^ 14) l 0
     planOn (s 3 true 256) = true ∧ inCommit (s 3 true 256) = false ∧ ownsStream (s 3 true 256) 2 5 = true ∧ (srv (s 3 true 256) 2).toks = [] ∧
     ringHeld (s 3 true 256) 2 (fld (pword (s 3 true 256) 5 1) 16 4) = false ∧ (s 3 true 256).heldStreams.contains 5 = false ∧
     pState (s 3 true 256) 5 = 3 ∧ pState (s 2 true 256) 5 = 2 ∧ pState (s 1 true 256) 5 = 1 ∧ (tget {} (srv (s 3 true 256) 2).p.gens 5).drawn = true ∧
     (tget {} (srv (s 3 false 256) 2).p.gens 5).drawn = false ∧ pword (s 3 true 256) 5 2 % 256 = 0 ∧ pword (s 3 true 257) 5 2 % 256 ≠ 0 ∧
     bitAt (pword (s 2 true 256) 5 1) 14 = true ∧ pword (s 2 true 256) 5 9 ≤ rf (s 2 true 256) (srvA 2 0x010) 18 13) := by decide +kernel

/-- A running device 0 of a fleet of four, in window 0 of 1,000 tt and vote rounds of 10 tt, that Crownline watches with 1, 2 and 3. -/
def crowned (t : Nat) : State :=
  { setAll (running []) [(ttA 0x000, t), (crlA 0, pack [(46, 18, 1000), (42, 4, 2), (38, 4, 3), (24, 14, 10), (5, 19, 100)]), (parA 0x030, 3 * 2 ^ 16)] with
    electors := [(0, [1, 2]), (1, [0, 2, 3]), (3, [0, 1])] }
/-- A Crownline message about device 1 whose vote opened at 1,000. -/
def crownMsg (dest aux : Nat) : CrlMsg :=
  { flags := 1, sender := 2, dest := BitVec.ofNat 16 dest, subject := 1, v := 1000, step := 0, variant := 0, cause := 1, down := 5, up := 2, wear := 0, part := 0, aux := BitVec.ofNat 64 aux, secver := 0 }
theorem crown_meets :
    (let s := crowned 999
     planOn s = true ∧ s.crl.hbWin ≤ hbWindow s ∧ hbWindow s < (modCrl s fun c => { c with hbWin := 1 }).crl.hbWin ∧
       (crownMsg 0 0).dest.toNat = myIx s ∧ (crownMsg 0 0).dest ≠ 0xFFFF ∧ (crownMsg 7 0).dest.toNat ≠ myIx s ∧ (crownMsg 7 0).dest ≠ 0xFFFF) ∧
    (let s := crowned 1000
     planOn s = true ∧ ttc s = launchT s + (s.crl.win + 1) * hbPeriod s ∧ s.crl.claim = false ∧ (windowState s 1000).crl.claim = false ∧
       3 ≤ fleetSize s ∧ (1 : Nat) < missLimit s ∧ missLimit s ≤ 2 ∧ tget 0 s.crl.noVote 1 ≤ s.crl.win ∧ (s.crl.votes.any fun y => y.subject == 1 && y.v == 1000) = false) ∧
    (let y : CrlVote := { subject := 1, v := 1000, cause := 1, down := 5, up := 2, from_ := 1, sent := 0 }
     let s (t : Nat) := modCrl (crowned t) fun c => { c with votes := [y] }
     planOn (s 1000) = true ∧ ((s 1009).crl.votes.find? fun y => y.subject == 1 && decide (y.sent < roundOf (s 1009) y.v)) = some y ∧ y.from_ ≤ roundOf (s 1009) y.v ∧ roundOf (s 1009) y.v = 1 ∧
       roundOf (s 1010) y.v = 2 ∧ 2 < crlRounds (s 1010) ∧ 3 ≤ fleetSize (s 1010) ∧ (electorsOf (s 1010) 1).contains (myIx (s 1010)) = true ∧
       ((s 1030).crl.votes.find? fun y => y.subject == 1 && decide (ttc (s 1030) = y.v + crlRounds (s 1030) * crlRoundLen (s 1030))) = some y ∧
       (electorsOf (s 1030) 1).length < 2 * ones y.down ∧ 2 * ones y.up ≤ (electorsOf (s 1030) 1).length) ∧
    (let s := crowned 1000
     let m (a : Nat) := crownMsg 0xFFFF a
     let u (a ty : Nat) := crlSend (modCrl s fun c => { c with seen := c.seen ++ [(ty, (m a).sender.toNat, (m a).subject.toNat, (m a).v.toNat)] }) ty (m a)
     (m 0).dest = 0xFFFF ∧ s.crl.seen.contains (0x12, 2, 1, 1000) = false ∧ takesPart (u 999 0x12) (m 999) = true ∧ bitAt (m 999).flags.toNat 0 = true ∧ (m 999).aux.toNat < ttc (u 999 0x12) ∧
       ttc (u 1000 0x12) ≤ (m 1000).aux.toNat ∧ planOn (u 0 0x13) = true ∧ (u 0 0x13).crl.seen.contains (0x13, 2, 1, 1000) = true) := by decide +kernel

/-- The same device at tick 100,000, decided on for that tick, with an entry of the action table. -/
def acting (ds : List Nat) (es : List ActEnt) : State :=
  { modCrl (crowned 100000) fun c => { c with decs := ds.map fun x => { subject := x, cause := 1, tick := 100000, forced := false } } with actTab := es }
theorem actions_meet :
    (let m := crownMsg 0xFFFF 0
     let k := (0x14, m.sender.toNat, m.subject.toNat, m.v.toNat)
     let u (x : Nat) := crlSend (modCrl { crowned 1000 with electors := [(1, [x, 2, 3])] } fun c => { c with seen := c.seen ++ [k] }) 0x14 m
     m.dest = 0xFFFF ∧ (crowned 1000).crl.seen.contains k = false ∧ (u 0).crl.seen.contains k = true ∧ planOn (u 0) = true ∧ 3 ≤ fleetSize (u 0) ∧
       (electorsOf (u 0) m.subject.toNat).contains (myIx (u 0)) = true ∧ (electorsOf (u 7) m.subject.toNat).contains (myIx (u 7)) = false) ∧
    (let e (x a : Nat) : ActEnt := { a := x, b := 0xFFFF, causes := 1, from_ := 0xFF, action := a, variant := 0 }
     let s := acting [0] [e 0 1, e 0 4]
     s.phase = 0 ∧ s.halted = false ∧ s.crl.decs.filter (fun d => d.tick == ttc s) ≠ [] ∧ (subjectsAt s (ttc s)).length ≤ 2 ∧ entryAt s (ttc s) = some (e 0 1) ∧ (e 0 1).action = 1 ∧ (e 0 4).action = 4 ∧
       (subjectsAt s (ttc s)).contains (myIx s) = true ∧ 2 < (subjectsAt (acting [0, 1, 3] []) (ttc s)).length ∧ entryAt (acting [1] []) (ttc s) = none ∧
       (acting [] []).crl.decs.filter (fun d => d.tick == ttc s) = []) ∧
    (let s := crowned 156250
     launched s = true ∧ ttc s - launchT s ≠ 0 ∧ (ttc s - launchT s) % 156250 = 0 ∧ s.crl.wearAt ≠ ttc s) ∧
    (let s := setAll (running []) [(twnA 0x008, 2 * 2 ^ 60), (twnA 0, 1 * 2 ^ 51), (parA 0x030, 2 ^ 16)]
     twinOf s = some 1 ∧ planOn s = true ∧ fleetSize s = 2 ∧ twinOf (crowned 0) = none ∧ fleetSize (crowned 0) ≠ 2) ∧
    ((5 : BitVec 16).toNat ≠ myIx State.reset ∧ (0 : BitVec 16).toNat = myIx State.reset ∧ launched State.reset = false ∧ launched (running []) = true ∧
      (0 : BitVec 64).toNat = rg State.reset (parA 0x028) ∧ (0 : BitVec 32).toNat ≤ rf State.reset (parA 0x034) 0 32 ∧ ¬ (1 : BitVec 32).toNat ≤ rf State.reset (parA 0x034) 0 32 ∧
      (0 : BitVec 32).toNat ≤ rf State.reset (secA 0x000) 0 32) := by decide +kernel

/-- The lead of a pod in a running frame, with a relay message for a device. -/
def leading (role : Nat) : State := setAll (running []) [(cfgA 0 0x004, 4), (bar 0 0x100, role * 2 ^ 62)]
/-- A relay message for device `d` with its byte 1. -/
def relayMsg (d b : Nat) : RelayMsg := { b1 := BitVec.ofNat 8 b, sender := 3, dest := BitVec.ofNat 16 d, env := 2, ring := 0, seq := 5, addr := 4096, payload := 9 }
theorem relay_meets :
    (let s := leading 1
     podRole s = 1 ∧ planOn s = true ∧ s.vote.replay = false ∧ frameTick s = rf s (bar 0 0x108) 0 23 ∧ s.relays.any (fun r => relayKey r == 5) = false ∧ hostReach s 0 = true ∧
       podRole (leading 2) ≠ 1 ∧ { s with vote := { s.vote with replay := true } }.vote.replay = true ∧ s.ucie ≠ 2 ∧ busMaster s 0 = true) ∧
    (relayMsg 0 0).dest.toNat = myIx (leading 1) ∧ (relayMsg 7 0).dest.toNat ≠ myIx (leading 1) ∧
    (relayMsg 0 3).b1.toNat ≤ 3 ∧ 3 < (relayMsg 0 4).b1.toNat ∧ (relayMsg 0 2).b1.toNat = 2 ∧ 2 < (relayMsg 0 3).b1.toNat ∧ (relayMsg 0 1).b1.toNat = 1 ∧ (relayMsg 0 0).b1.toNat = 0 := by decide +kernel

/-- A running device whose host can be reached as the first virtual function, with host window 0 from tick offset `st` of 2 tt. -/
def windowed (t st : Nat) (xs : List Xfer) : State :=
  { setAll (running []) [(ttA 0, t), (cfgA 0 0x004, 4), (cfgA 1 0x004, 4), (cfgA 0 0x108, 1), (cfgA 0 0x110, 3), (drmA 0 0x400, pack [(63, 1, 1), (56, 4, 15), (0, 23, st), (32, 10, 1)])] with xfers := xs }
/-- A transfer of window 0. -/
def moved (o l : Bool) (h : List Nat) : Xfer := { win := 0, desc := 5, env := 0, outw := o, land := 1, entry := 0, host := 4096, n := 2, ok := true, late := l, have_ := h }
theorem hostwin_meets :
    (let s := windowed 10 10 []
     s.phase = 0 ∧ planOn s = true ∧ isHostWin s 0 = true ∧ frameTick s = winStart s 0 ∧ isHostWin s 1 = false ∧ frameTick (windowed 11 10 []) ≠ winStart s 0 ∧ landing s 0 = [] ∧ xferOf s 0 5 = none) ∧
    (let s := windowed 12 10 [moved false false []]
     xferOf s 0 5 = some (moved false false []) ∧ planOn s = true ∧ frameTick s = winEnd s 0 ∧ (moved false false []).ok = true ∧ (moved false false []).started = false ∧ hostReach s 1 = true) ∧
    (let s (x : Xfer) := windowed 12 10 [x]
     (s (moved true false [])).phase = 0 ∧ xferOf (s (moved true false [])) 0 5 = some (moved true false []) ∧ frameTick (s (moved true false [])) = deadlineOf (s (moved true false [])) (moved true false []) ∧
       (moved true false []).doneN < 2 ∧ (moved true false []).n = 2 ∧ (moved true true []).late = true ∧ (moved true false []).late = false) ∧
    (let s := windowed 0 0 []
     vfOn s 1 = true ∧ vfOn s 16 = false ∧ s.kcmd = none ∧ flrClears 1 0x100 = true ∧
     (let s := setRg s (bar 0 0x028) (ttA 0)
      (decide (0x020000000000 ≤ rf s (bar 0 0x028) 0 48) && !keelOnly (rf s (bar 0 0x028) 0 48)) = true ∧ (readReg s (rf s (bar 0 0x028) 0 48)).isSome = true) ∧
     (decide (0x020000000000 ≤ rf s (bar 0 0x028) 0 48) && !keelOnly (rf s (bar 0 0x028) 0 48)) = false) := by decide +kernel

/-- A running device whose PF can be reached, with vector 5 pending. -/
def attached (u : Nat) : State := { setAll (running []) [(cfgA 0 0x004, 4), (bar 0 0x9000, 32)] with ucie := u }
theorem attach_meets :
    (attached 0).ucie = 0 ∧ (attached 1).ucie ≠ 0 ∧ (attached 2).ucie = 2 ∧ bitAt (rg (attached 0) (bar 0 0x9000)) 5 = true ∧ hostReach (attached 0) 0 = true ∧ hostReach (attached 2) 0 = false ∧
    (let s : State := { attached 0 with sent := [.hostRead (2 ^ 41 + 1) 1 4096 2] }
     (some [1, 2]).any (fun b : List Byte => readLen s (2 ^ 41 + 1) != some b.length) = false ∧ (some [1]).any (fun b : List Byte => readLen s (2 ^ 41 + 1) != some b.length) = true ∧
     (none : Option (List Byte)).any (fun b => readLen s 0 != some b.length) = false) ∧
    (let s := modSrv (attached 0) 2 fun v => { v with snap := { v.snap with out := [7] } }
     (srv s 2).snap.out.contains 7 = true ∧ (srv s 2).snap.out.contains 8 = false ∧ s.relays = [] ∧ s.copy = none) ∧
    (let x : Xfer := { moved false false [1] with started := true }
     let s := windowed 0 0 [x]
     xferOf s 0 5 = some x ∧ xferOf s 0 6 = none ∧ x.started = true ∧ x.late = false ∧ 0 ∉ x.have_ ∧ 1 ∈ x.have_) := by decide +kernel

/-- The Keel's firmware runs, with a command under way; link 0's twin has missed `n` heartbeats. -/
def keeled (cmd : Nat) (args : List Nat) (st n : Nat) : State :=
  { modCrl (setAll (crowned 0) [(bar 0 0x280, 2 ^ 60), (kelA 0x100, st), (twnA 0x008, 2 ^ 60), (twnA 0, 2 ^ 51), (cfgA 0 0x004, 4), (cfgA 3 0x004, 4), (cfgA 0 0x108, 1), (cfgA 0 0x110, 3), (bar 0 0x308, 8192)]) fun c => { c with miss := [(1, n)] } with
    kcmd := some { seq := 3, cmd := cmd, args := args } }
/-- The same with no command, and a request in the mailbox. -/
def asking (rom : Bool) (cmd seq : Nat) : State := { setAll (running []) [(bar 0 0x280, if rom then 0 else 2 ^ 60), (bar 0 0x200, pack [(48, 16, seq), (40, 8, cmd)])] with polled := none }
theorem keel_meets :
    (let s := asking false 0x0A 3
     s.kcmd = none ∧ s.stall = none ∧ kelState s = 1 ∧ s.polled = none ∧ fld (rg s (bar 0 0x200)) 48 16 ≠ rf s (bar 0 0x240) 48 16 ∧ fld (rg s (bar 0 0x200)) 40 8 = 0x0A ∧
       0x0C < fld (rg (asking false 0x0D 3) (bar 0 0x200)) 40 8 ∧ kelState (asking true 0x0A 3) = 0 ∧ fld (rg (asking false 0x0A 0) (bar 0 0x200)) 48 16 = rf (asking false 0x0A 0) (bar 0 0x240) 48 16) ∧
    (let s := { keeled 1 [0, 24] 0 0 with srvs := [(2, { hranges := [(0, { reg := true, cfg := 2 ^ 60 })] })] }
     s.kcmd = some { seq := 3, cmd := 1, args := [0, 24] } ∧ s.copy = none ∧ karg [0, 24] 1 ≠ 0xFF ∧ fld (karg [0, 24] 1) 8 5 = 0 ∧ fld (karg [0, 768] 1) 8 5 = 3 ∧ (hrange s 2 0).reg = true ∧ busMaster s 3 = true ∧ vfOn s 3 = true ∧
       fld (hrange s 2 0).cfg 60 4 = 1 ∧ (hrange (keeled 1 [] 0 0) 2 0).reg = false ∧ karg [0, 0xFF] 1 = 0xFF) ∧
    (starting (keeled 3 [] (2 ^ 60) 0) = true ∧ starting (keeled 3 [] 0 0) = false ∧ (keeled 3 [] 0 0).flash.fails ≠ 3 ∧ hostReach (keeled 2 [] 0 0) 0 = true ∧ hostReach State.reset 0 = false ∧
       copyReads (rf (keeled 2 [] 0 0) (bar 0 0x308) 0 40) ≠ 0) ∧
    (twinOf (keeled 7 [] 0 2) = some 1 ∧ missLimit (keeled 7 [] 0 2) ≤ tget 0 (keeled 7 [] 0 2).crl.miss 1 ∧ tget 0 (keeled 7 [] 0 1).crl.miss 1 < missLimit (keeled 7 [] 0 1) ∧ twinOf (running []) = none) := by decide +kernel

/-- The firmware runs with a watchdog period, and partition 0 of 32 words, owned by the fault records, holds some records. -/
def queued (t : Nat) (x : TqPart) (st : Option (Nat × Nat)) : State :=
  { setAll (running []) [(bar 0 0x280, 2 ^ 60), (kelA 0x110, t), (tqA 0 0, pack [(63, 1, 1), (32, 16, 0x0041), (0, 16, 32)])] with tqs := [(0, x)], stall := st, flash := { State.reset.flash with wdog := 100 } }
/-- A fault of tile 0. -/
def tileFault : FaultRec := { code := 0x0407, sev := 1, cls := 1, idx := 0, ttc := 0, step := 0, env := 0xFFFF, detail := 0 }
theorem queues_meet :
    (let s := queued 0 {} none
     kelState s = 1 ∧ s.stall = none ∧ starting s = false ∧ uptime s < s.kick + wdogPeriod s ∧ (queued 0 {} (some (0, 0))).stall ≠ none ∧ kelState State.reset ≠ 1 ∧
       kelState (setRg s (bar 0 0x280) (2 * 2 ^ 60)) = 2 ∧ (let s := { s with flash := { s.flash with wdog := 0 } }; s.kick + wdogPeriod s ≤ uptime s ∧ starting (setRg s (kelA 0x100) (2 ^ 60)) = true)) ∧
    (let s := { queued 0 { recs := [(0, recWords tileFault)], buf := [1, 2], pos := 1 } none with faults := [tileFault] }
     ((recWords tileFault).length = 8) ∧ ([] : List (BitVec 64)) = [] ∧ (tqSource s 0 0 (recWords tileFault)).isSome = true ∧ tqSource s 1 0 (recWords tileFault) = none ∧ tqFor s 0 0 = some 0 ∧ tqFor s 0 3 = none ∧
       tqCount s 0 + 8 ≤ rf s (tqA 0 0) 0 16 ∧ rf s (tqA 0 0x10) 29 1 = 0 ∧ (tqPart s 0).recs = (0, recWords tileFault) :: [] ∧ (tqPart s 1).recs = [] ∧ (tqPart s 0).pos < (tqPart s 0).buf.length ∧
       (tqPart s 0).buf.length ≠ 8 ∧ (tqPart s 1).buf.length ≤ (tqPart s 1).pos) ∧
    (let s := queued 10000 {} (some (0, 0))
     s.stall = some (0, 0) ∧ 0 + 65536 ≤ now s ∧ now (queued 0 {} (some (0, 0))) < 0 + 65536) := by decide +kernel

/-- The end of the first energy window of a running frame. -/
def powered (t : Nat) : State := setAll (running []) [(ttA 0, t)]
theorem power_meets :
    (let s := powered 1024
     (List.replicate 93 (5 : BitVec 16)).length = 93 ∧ planOn s = true ∧ frameTick s ≠ 0 ∧ frameTick s ≤ frameLen s ∧ frameTick s % 1024 = 0 ∧ s.acctAt ≠ ttc s + 1 ∧ frameTick (powered 0) = 0 ∧
       (100 : Nat) ≤ (ledgerEntry s 0 80).1 + max ((ledgerEntry s 0 80).2 * (ledgerEntry s 0 80).1 / 16) 100 ∧ (ledgerEntry s 0 80).1 + max ((ledgerEntry s 0 80).2 * (ledgerEntry s 0 80).1 / 16) 8 < 9) ∧
    (∀ c ∈ [99, 100, 104, 105, 114, 115], (BitVec.ofNat 8 c).toNat = c) ∧
    (State.reset.pwrGood = true ∧ { State.reset with pwrGood := false }.pwrGood = false ∧ rf State.reset (pwrA 0x040) 0 1 = 0 ∧ rf (setRg State.reset (pwrA 0x040) 1) (pwrA 0x040) 0 1 = 1 ∧
      State.reset.thermtrip = false ∧ { State.reset with thermtrip := true }.thermtrip = true ∧ State.reset.rstn = false ∧ { State.reset with rstn := true }.rstn = true) ∧
    (let a := crlA 0x050
     cfgBits a = 0 ∧ wholeReg State.reset a 4 = true ∧ writeBits a ≠ (0, 0) ∧ wholeReg State.reset a 2 = false ∧ meetsReg State.reset a = true ∧ meetsReg State.reset 0 = false ∧ wholeReg State.reset 0 4 = false ∧ cfgBits 0 = 0 ∧
       writeBits (ttA 0) = (0, 0) ∧ wholeReg State.reset (ttA 0) 8 = true ∧ cfgBits (ttA 0) = 0) := by decide +kernel

/-- A start of a kind in a stage, with every domain powered or none and no repair record in flash. -/
def inStage (kind n : Nat) (on : Bool) : State :=
  { setAll State.reset ((kelA 0x100, kind * 2 ^ 60 + n * 2 ^ 56) :: if on then [(0x02000001B008, 2 ^ 64 - 1), (0x02000001B010, 65535)] else []) with flash := { repair := [] } }
theorem stages_meet :
    ((inStage 1 8 true).coldDue = false ∧ stage (inStage 1 8 true) = 8 ∧ { inStage 1 8 true with coldDue := true }.coldDue = true) ∧
    (let s := setRg (inStage 1 0 true) (kelA 0x110) 3125000
     stageBound s = some 3125000 ∧ startKind s ≠ 0 ∧ s.stageAt + 3125000 ≤ uptime s ∧ uptime (inStage 1 0 true) < (inStage 1 0 true).stageAt + 3125000 ∧ startKind State.reset = 0) ∧
    (∀ n ∈ [0, 1, 2, 4, 5, 7, 8, 9], startKind (inStage 1 n true) = 1 ∧ stage (inStage 1 n true) = n) ∧
    (mayRamp (inStage 1 0 false) 76 = true ∧ domainOn (inStage 1 0 false) 76 = false ∧ mayRamp (inStage 1 1 false) 76 = false ∧ domainOn (inStage 1 0 true) 76 = true ∧
      coldIn (inStage 1 3 false) 3 = true ∧ bitAt (startGroups (inStage 1 3 false)) 3 = true) ∧
    (let s := inStage 1 0 true
     (coldIn s 0 && [76, 77, 78, 79].all (domainOn s)) = true ∧ (bootKeys s none).keys = none ∧ (bootKeys s (some (List.replicate 32 7))).keys ≠ none ∧
       (some (List.replicate 32 (7 : BitVec 8))).any (fun x => x.length != 32) = false ∧ (some [(7 : BitVec 8)]).any (fun x => x.length != 32) = true ∧
       (coldIn (inStage 1 0 false) 0 && [76, 77, 78, 79].all (domainOn (inStage 1 0 false))) = false) ∧
    (coldIn (inStage 1 1 true) 1 = true ∧ coldIn (inStage 2 1 true) 1 = false ∧ (((siteTiles 3).map fun x => tileDefective [] x).filter id).length < 2 ∧
      2 ≤ (((siteTiles 3).map fun x => tileDefective (List.replicate 64 255) x).filter id).length) ∧
    ((coldIn (inStage 1 2 true) 2 || reheatIn (inStage 1 2 true) 2) = true ∧ coldIn (inStage 1 3 true) 2 = false ∧ reheatIn (inStage 1 3 true) 2 = false ∧
      (coldIn (inStage 1 3 true) 3 || reheatIn (inStage 1 3 true) 3) = true ∧ coldIn (inStage 1 2 true) 3 = false ∧ reheatIn (inStage 1 2 true) 3 = false) ∧
    (let x : Trained := { temps := List.replicate 12 40, clean := List.replicate 12 true, failed := [(3, 63)], up := [23] }
     x.temps.length = 12 ∧ x.clean.length = 12 ∧ { x with temps := [] }.temps.length ≠ 12 ∧ (trainable (inStage 1 3 true) [] 23 && x.up.any (fun y => y.val == 23)) = true ∧
       (trainable (inStage 1 3 false) [] 23 && x.up.any (fun y => y.val == 23)) = false) ∧
    (coldIn (inStage 1 4 true) 4 = true ∧ ((List.range 72).any fun x => !domainOn (inStage 1 4 true) x && !tileDefective ((repairRec (inStage 1 4 true)).getD []) x) = false ∧
      ((List.range 72).any fun x => !domainOn (inStage 1 4 false) x && !tileDefective ((repairRec (inStage 1 4 false)).getD []) x) = true) := by decide +kernel

theorem reheats_meet :
    (reheatIn (inStage 2 1 true) 1 = true ∧ planOn (inStage 2 1 true) = false ∧ reheatIn (inStage 1 1 true) 1 = false ∧
      { inStage 2 1 true with boot := { asleep := List.range 12 } }.boot.asleep.length = 12 ∧ (inStage 2 1 true).boot.asleep.length ≠ 12) ∧
    (reheatKeeps (lnkA 3 0x000) = true ∧ reheatDrops (lnkA 3 0x000) = false ∧ lnkA 3 0x000 ≠ 0x02000001B010 ∧ lnkA 3 0x000 ≠ secA 0 ∧ lnkA 3 0x000 ≠ clkA 0 ∧ lnkA 3 0x000 ≠ ttA 0x018 ∧
      reheatKeeps (lnkA 3 0x008) = false ∧ reheatDrops (ttA 0x008) = true ∧ reheatMask (lnkA 3 0x000) ≠ 0) ∧
    reheatIn (inStage 2 4 true) 4 = true ∧
    (let s := setRg (inStage 2 7 true) (parA 0) (2 * 2 ^ 60)
     stage s = 7 ∧ startKind s = 2 ∧ rf s (parA 0) 60 4 = 2 ∧ stage (inStage 2 1 true) ≠ 7) ∧
    (keepsServing State.reset [] = false ∧ keepsServing { State.reset with ran := [1] } [1] = true) := by decide +kernel

end Slice0
end

section
/-!
PROOFS. The statements of faults and severities, votes, power and pins with plain register writes, reset, the Crucible window, and
telltales, crossings and arrivals: first what the operations they share do, then each family's own with the theorem that settles it.
-/
namespace Sys2Proof.Machine
open Sys2Proof

/-! ### Records, time and registers -/

/-- A record made after updates that leave the faults, the tick and the step alone is a record of the earlier state too. -/
theorem recorded_since {s u t : State} {code sev : Nat} (hf : u.faults = s.faults) (ht : ttc u = ttc s) (hs : stepNo u = stepNo s)
    (h : Recorded u t code sev) : Recorded s t code sev := by
  obtain ⟨f, h1, h2, h3, h4, h5⟩ := h
  exact ⟨f, by rw [h1, hf], h2, h3, h4.trans ht, h5.trans hs⟩

/-- A stored register other than TT_COUNT and TT_STEP keeps the time. -/
theorem time_setRg (s : State) {a : Nat} (h0 : ttA 0x000 ≠ a) (h1 : ttA 0x008 ≠ a) (v : Nat) :
    ttc (setRg s a v) = ttc s ∧ stepNo (setRg s a v) = stepNo s :=
  time_congr (fun _ hb => rg_setRg_ne s hb v) h0 h1

/-- A reported case is noted among the causes and nothing else (R376). -/
theorem report_ex (s : State) (cause : Nat) : ∃ k, report s cause = { s with causes := k } := by
  unfold report
  split
  · exact ⟨s.causes, rfl⟩
  · exact ⟨_, rfl⟩

theorem report_faults (s : State) (cause : Nat) : (report s cause).faults = s.faults := by
  obtain ⟨k, h⟩ := report_ex s cause; rw [h]
theorem report_accts (s : State) (cause : Nat) : (report s cause).accts = s.accts := by
  obtain ⟨k, h⟩ := report_ex s cause; rw [h]
theorem rf_report (s : State) (cause a lo w : Nat) : rf (report s cause) a lo w = rf s a lo w := by
  obtain ⟨k, h⟩ := report_ex s cause; rw [h]; rfl

/-- A field of a register just stored whole. -/
theorem rf_setRg_same (s : State) (a v : Nat) {lo w : Nat} (h : lo + w ≤ 64) : rf (setRg s a v) a lo w = fld v lo w := by
  unfold rf; rw [rg_setRg_same, fld_mod v h]

/-- A field of all 64 bits is the register. -/
theorem rf_whole (s : State) (a : Nat) : rf s a 0 64 = rg s a := by
  unfold rf fld
  rw [Nat.pow_zero, Nat.div_one, Nat.mod_eq_of_lt (rg_lt s a)]

/-- A counter of a whole register saturates (R58). -/
theorem rg_bump_whole (s : State) (a : Nat) : rg (bump s a 0 64) a = min (2 ^ 64 - 1) (rg s a + 1) := by
  rw [← rf_whole, rf_bump_same s a (Nat.le_refl 64), rf_whole]

/-! ### What a severity does to the vote (R14 to R16) -/

theorem voteFault_mild {sev : Nat} (h : sev < 2) (v : Vote) : voteFault sev v = v := if_pos h

/-- Before a commit vote is cast, every severity from 2 on voids the present step. -/
theorem voteFault_uncast {sev : Nat} {v : Vote} (h : 2 ≤ sev) (hc : (v.fixed && !v.castVoid) = false) :
    voteFault sev v = { v with void := true } := by
  unfold voteFault; rw [if_neg (by omega), if_neg (by simp [hc])]

theorem voteFault_two_cast {v : Vote} (hc : (v.fixed && !v.castVoid) = true) : voteFault 2 v = { v with nextVoid := true } := by
  unfold voteFault; rw [if_neg (by omega), if_pos hc, if_pos rfl]

theorem voteFault_severe_cast {sev : Nat} {v : Vote} (h : 3 ≤ sev) (hc : (v.fixed && !v.castVoid) = true) :
    voteFault sev v = { v with nextVoid := true, void := true, seen := true } := by
  unfold voteFault; rw [if_neg (by omega), if_pos hc, if_neg (by omega)]

/-- No fault takes a void back (R15). -/
theorem voteFault_keeps_void (sev : Nat) {v : Vote} (hv : v.void = true) : (voteFault sev v).void = true := by
  rcases Nat.lt_or_ge sev 2 with h | h
  · rw [voteFault_mild h, hv]
  · cases hc : v.fixed && !v.castVoid with
    | false => rw [voteFault_uncast h hc]
    | true =>
      rcases Nat.eq_or_lt_of_le h with rfl | h3
      · rw [voteFault_two_cast hc]; exact hv
      · rw [voteFault_severe_cast h3 hc]

/-- Severities 3 and 4 void the present step, whatever was cast, and after a commit vote the next one too. -/
theorem voteFault_severe {sev : Nat} (h : 3 ≤ sev) (v : Vote) :
    (voteFault sev v).void = true ∧ ((v.fixed && !v.castVoid) = true → (voteFault sev v).nextVoid = true ∧ (voteFault sev v).seen = true) := by
  cases hc : v.fixed && !v.castVoid with
  | false => rw [voteFault_uncast (by omega) hc]; simp
  | true => rw [voteFault_severe_cast h hc]; simp

/-- Settles O9: the record is `raise_recorded`, the vote is `voteFault` of the old one, and the two flags only ever rise. -/
theorem severityActsOnTheVote : Obligations.SeverityActsOnTheVote := by
  intro s code sev cls idx env d t cast
  have hvote : t.vote = voteFault sev s.vote := rfl
  have hevac : t.evacuate = (s.evacuate || decide (3 ≤ sev)) := rfl
  have hhalt : t.halted = (s.halted || decide (4 ≤ sev)) := rfl
  refine ⟨raise_recorded .., rfl, rfl, rfl, rfl, fun h => ?_, fun h hc => ?_, fun h hc => ?_, fun h => ?_, ?_, ?_, fun hv => ?_⟩
  · rw [hvote, voteFault_mild h]
  · rw [hvote, voteFault_uncast (by omega) hc]
  · rw [hvote, h, voteFault_two_cast hc]
  · rw [hvote]; exact voteFault_severe h s.vote
  · simp [hevac]
  · simp [hhalt]
  · rw [hvote]; exact voteFault_keeps_void sev hv

/-! ### Reset (R11, R46, R95, R118, R120) -/

/-- A core of the reset state is the initial one. -/
theorem core_reset (c : Nat) : core State.reset c = {} := rfl

/-- An address in a core's block reads as that core's register (R7). -/
theorem readReg_core (s : State) {c o : Nat} (hc : c < 60) (ho : o < 0x10000) : readReg s (engA c o) = coreReg s c o := by
  have h1 : engA c o / 0x1000000 = 0x20001 := by unfold engA; omega
  have h2 : engA c o / 0x10000 % 0x100 = c := by unfold engA; omega
  have h3 : engA c o % 0x10000 = o := by unfold engA; omega
  unfold readReg
  simp only [h1, h2, h3, if_pos hc]

/-- ENG_PRED shows the predicate file with bit 0 set (R95). -/
theorem coreReg_pred (s : State) (c : Nat) : coreReg s c 0x020 = r32 (setFld (core s c).pred.toNat 0 1 1) := rfl

theorem predBit_reset (c : Nat) {p : Nat} (hp : p < 8) : predBit State.reset c p = decide (p = 0) := by
  have key : ∀ p < 8, (p == 0 || bitAt (1 : BitVec 8).toNat p) = decide (p = 0) := by decide
  exact key p hp

/-- Settles O2: the tables of the reset state are empty, so each reading is its table's default. -/
theorem resetLeaves : Obligations.ResetLeaves := by
  refine ⟨rfl, rfl, rfl, Nat.succ_pos 7, fun c hc => absurd hc List.not_mem_nil, rfl, rfl, rfl, rfl, rfl, fun _ => rfl,
    fun _ _ _ => ⟨rfl, rfl, rfl⟩, fun c p hp => predBit_reset c hp, fun c => ?_⟩
  rw [readReg_core _ c.isLt (by omega), coreReg_pred, core_reset]
  rfl

/-! ### Votes (R31, R32, R58) -/

/-- A complete mirror raises nothing (R344, R381). -/
theorem raiseMirror_of_complete {s : State} (h : unmirrored s = []) : raiseMirror s = s := by
  unfold raiseMirror
  simp only [h, List.filter_nil, List.map_nil, List.eraseDups_nil, if_true, List.length_nil, or_true]
  rw [foldl_same _ _ fun _ _ _ => rfl, foldl_same _ _ fun _ _ _ => rfl]

theorem voteFix_fixes {s : State} (hp : planOn s = true) (hf : s.vote.fixed = false) (ht : frameTick s = gatherOfs s)
    (hm : unmirrored s = []) : exec .voteFix s = .next (fixVote s) := by
  show execVoteFix s = _
  unfold execVoteFix
  rw [if_neg (by simp [hp, hf, ht]), raiseMirror_of_complete hm]

/-- A commit vote adds this device's bit, a void one no bit (R58). -/
theorem mem_fixVote_bitmap (s : State) (d : Nat) :
    d ∈ (fixVote s).vote.bitmap ↔ d ∈ s.vote.bitmap ∨ (s.vote.void = false ∧ d = myIx s) := by
  cases hv : s.vote.void <;> simp [fixVote, hv, List.mem_eraseDups, or_comm]

/-- The devices whose bits a gather message carries: a chunk of 1,792 of them (R58). -/
def chunkOf (m : TetherMsg) : List Nat :=
  (List.range 1792).filterMap fun i => if bitAt m.bitmap.toNat i then some (1792 * m.exchange.toNat + i) else none

theorem mem_chunkOf {m : TetherMsg} {d : Nat} : d ∈ chunkOf m ↔ d / 1792 = m.exchange.toNat ∧ bitAt m.bitmap.toNat (d % 1792) = true := by
  simp only [chunkOf, List.mem_filterMap, List.mem_range, Option.ite_none_right_eq_some, Option.some.injEq]
  constructor
  · rintro ⟨i, hi, hb, rfl⟩
    have h1 : (1792 * m.exchange.toNat + i) / 1792 = m.exchange.toNat := by omega
    have h2 : (1792 * m.exchange.toNat + i) % 1792 = i := by omega
    rw [h1, h2]; exact ⟨rfl, hb⟩
  · rintro ⟨hk, hb⟩
    exact ⟨d % 1792, by omega, hb, by omega⟩

/-- A gather message of the step within the rounds. -/
theorem voteGather_merges {n : Fin 24} {m : TetherMsg} {s : State} (hp : planOn s = true) (hg : inGather s = true)
    (hst : (fld m.stampA.toNat 0 48 == stepNo s) = true) : exec (.voteGather n m) s =
      .next { s with vote := { s.vote with bitmap := (s.vote.bitmap ++ chunkOf m).eraseDups, seen := s.vote.seen || bitAt m.flags.toNat 0 } } := by
  show execVoteGather n m s = _
  unfold execVoteGather
  rw [if_pos (by rw [hp, hg, hst]; rfl)]
  rfl

/-- A state with another vote. -/
def withVote (s : State) (v : Vote) : State := { s with vote := v }

/-- What a device sends on a link does not depend on its vote. -/
theorem sendMgmt_withVote (s : State) (v : Vote) (n prio kind : Nat) (rows : List Row) :
    sendMgmt (withVote s v) n prio kind rows = withVote (sendMgmt s n prio kind rows) v := by
  have hst : lnkSt (withVote s v) n = lnkSt s n := rfl
  have hla : launched (withVote s v) = launched s := rfl
  unfold sendMgmt
  rw [hst, hla]
  simp only
  split <;> rfl

theorem sendVotes_withVote (s : State) (v : Vote) (ty fl ex bm : Nat) :
    sendVotes (withVote s v) ty fl ex bm = withVote (sendVotes s ty fl ex bm) v :=
  List.foldl_hom (fun s => withVote s v) (l := voteLinkList s) (init := s) fun s n =>
    (sendMgmt_withVote s v n 1 2 (mgmtRows ty (myMsg s fl ex (stepNo s) 0 0 bm)))

/-- A gather round's messages: a chunk of the bitmap after the other, on every vote link (R58). -/
def chunksSent (s : State) (n : Nat) : State :=
  forN n s fun k s => sendVotes s 3 (b2n s.vote.seen) k (chunkBits s.vote.bitmap k)

theorem chunksSent_succ (s : State) (n : Nat) :
    chunksSent s (n + 1) = sendVotes (chunksSent s n) 3 (b2n (chunksSent s n).vote.seen) n (chunkBits (chunksSent s n).vote.bitmap n) := by
  unfold chunksSent forN
  rw [List.range_succ, List.foldl_append]
  rfl

/-- They change the vote links alone. -/
theorem chunksSent_only (s : State) (n : Nat) :
    chunksSent s n = { s with links := (chunksSent s n).links } ∧ ∀ m, m ∉ voteLinkList s → link (chunksSent s n) m = link s m := by
  induction n with
  | zero => exact ⟨rfl, fun _ _ => rfl⟩
  | succ n ih =>
    obtain ⟨honly, hlinks⟩ := ih
    rw [chunksSent_succ]
    obtain ⟨h1, h2⟩ := sendVotes_only honly 3 (b2n (chunksSent s n).vote.seen) n (chunkBits (chunksSent s n).vote.bitmap n)
    exact ⟨h1, fun m hm => (h2 m hm).trans (hlinks m hm)⟩

/-- The first tick of a gather round. -/
theorem gatherRound_sends {s : State} (hp : planOn s = true) (hf : s.vote.fixed = true) (ha : alone s = false)
    (hr : s.vote.gather + 1 ≤ rounds s) (ht : frameTick s = gatherOfs s + s.vote.gather * roundLen s) :
    exec .gatherRound s = .next (
      let u := chunksSent s (cdiv (rf s (parA 0x030) 16 13 + 1) 1792)
      withVote u { u.vote with gather := s.vote.gather + 1 }) := by
  show execGatherRound s = _
  unfold execGatherRound
  simp only
  rw [if_pos (by simp [hp, hf, ha, hr, ht])]
  rfl

/-- The void flag with which a device enters a decide round: in the first one it is set too where a device of the plan has given no
bit (R58). -/
def decideFlag (s : State) : Bool :=
  s.vote.seen || (s.vote.decide + 1 == 1 && (planDevices s).any fun d => !s.vote.bitmap.contains d)

/-- The first tick of a decide round. -/
theorem decideRound_sends {s : State} (hp : planOn s = true) (hf : s.vote.fixed = true) (ha : alone s = false)
    (hr : s.vote.decide + 1 ≤ rounds s) (ht : frameTick s = decideOfs s + s.vote.decide * roundLen s) :
    exec .decideRound s = .next (
      withVote (sendVotes s 4 (b2n (decideFlag s)) 0 0) { s.vote with decide := s.vote.decide + 1, seen := decideFlag s }) := by
  rw [← sendVotes_withVote]
  show execDecideRound s = _
  unfold execDecideRound
  simp only
  rw [if_pos (by simp [hp, hf, ha, hr, ht])]
  rfl

/-- Nobody is suspected before four steps have voided (R36, R380). -/
theorem suspectVoters_few {s : State} (h : s.crl.absent.length < 4) : suspectVoters s = s := by
  unfold suspectVoters; rw [if_pos (by simp [h])]

/-- What a void may leave of a state: nothing pending, and another vote, other registers, serving blocks and Crownline state (R32). -/
def voidLeft (s : State) (v : Vote) (r : Tbl Reg) (x : Tbl Srv) (c : Crl) : State :=
  { s with vote := v, strmPend := [], fritDelta := [], twinPend := [], regs := r, srvs := x, crl := c }

/-- A void as it is counted and noted (R58). -/
def voidNoted (u : State) : State :=
  let w := bump u (ttA 0x058) 0 64
  let t := withVote w { w.vote with decided := true, lastCommit := false, voidRun := w.vote.voidRun + 1, confirm := some (stepNo w, false) }
  modCrl t fun c => { c with absent := (absentees t :: c.absent).take 4 }

theorem voidStep_eq (s : State) :
    voidStep s = suspectVoters (voidNoted ((validEnvs s).foldl (fun s e => srvVoid s e) (voidLeft s s.vote s.regs s.srvs s.crl))) := rfl

/-- Envelopes that void change the serving blocks alone (R32). -/
theorem foldVoid_left (s : State) (v : Vote) (r : Tbl Reg) (c : Crl) (l : List Nat) (x : Tbl Srv) :
    ∃ y, l.foldl (fun s e => srvVoid s e) (voidLeft s v r x c) = voidLeft s v r y c := by
  induction l generalizing x with
  | nil => exact ⟨x, rfl⟩
  | cons e l ih => exact ih _

theorem bump_voidLeft (s : State) (v : Vote) (r : Tbl Reg) (x : Tbl Srv) (c : Crl) (a lo w : Nat) :
    ∃ q, bump (voidLeft s v r x c) a lo w = voidLeft s v q x c :=
  bump_ex (voidLeft s v r x c) a lo w

theorem voidNoted_left {s : State} {v : Vote} {r q : Tbl Reg} {x : Tbl Srv} {c : Crl}
    (hq : bump (voidLeft s v r x c) (ttA 0x058) 0 64 = voidLeft s v q x c) : ∃ k a,
    voidNoted (voidLeft s v r x c) = voidLeft s { v with decided := true, lastCommit := false, voidRun := v.voidRun + 1, confirm := some (k, false) }
      q x { c with absent := (a :: c.absent).take 4 } := by
  unfold voidNoted
  rw [hq]
  exact ⟨_, _, rfl⟩

/-- What a void leaves, before the fourth of the same inputs (R32, R58). -/
theorem voidStep_few {s : State} (h : s.crl.absent.length < 3) :
    (∃ k q x c, voidStep s = voidLeft s { s.vote with decided := true, lastCommit := false, voidRun := s.vote.voidRun + 1, confirm := some (k, false) } q x c) ∧
      rg (voidStep s) (ttA 0x058) = min (2 ^ 64 - 1) (rg s (ttA 0x058) + 1) ∧ ∀ a, a ≠ ttA 0x058 → rg (voidStep s) a = rg s a := by
  obtain ⟨x, hx⟩ := foldVoid_left s s.vote s.regs s.crl (validEnvs s) s.srvs
  obtain ⟨q, hq⟩ := bump_voidLeft s s.vote s.regs x s.crl (ttA 0x058) 0 64
  obtain ⟨k, a, hn⟩ := voidNoted_left hq
  have hfew : ((a :: s.crl.absent).take 4).length < 4 := by rw [List.length_take, List.length_cons]; omega
  have hstep : voidStep s = _ := (voidStep_eq s).trans ((congrArg suspectVoters ((congrArg voidNoted hx).trans hn)).trans (suspectVoters_few hfew))
  have hrg (b : Nat) : rg (voidStep s) b = rg (bump (voidLeft s s.vote s.regs x s.crl) (ttA 0x058) 0 64) b := by rw [hstep, hq]; rfl
  refine ⟨⟨k, q, x, _, hstep⟩, ?_, fun b hb => ?_⟩
  · rw [hrg, rg_bump_whole]; rfl
  · rw [hrg, rg_bump_ne _ hb]; rfl

/-- A commit keeps its outcome with the vote (R58). -/
theorem commitStep_vote (s : State) (b : Bool) : (commitStep s b).vote.decided = true ∧ (commitStep s b).vote.lastCommit = true := ⟨rfl, rfl⟩

theorem decisionTick_decides {s : State} (hp : planOn s = true) (hf : s.vote.fixed = true) (hd : s.vote.decided = false)
    (ht : frameTick s = decisionOfs s) (b : Bool) :
    exec (.decisionTick b) s = .next (if holdsVoid s then voidStep s else commitStep s b) := by
  show execDecisionTick b s = _
  unfold execDecisionTick
  rw [if_neg (by simp [hp, hf, hd, ht])]

/-- Settles O33: the vote as `fixVote` leaves it, the messages of the rounds by `sendVotes_only`, and the decision by
`decisionTick_decides` with `voidStep_few`. -/
theorem votesAreFixedGatheredAndDecided : Obligations.VotesAreFixedGatheredAndDecided := by
  refine ⟨fun s hp hf ht hm => ⟨_, voteFix_fixes hp hf ht hm, rfl, rfl, rfl, rfl, rfl, mem_fixVote_bitmap s⟩,
    ?gather, ?late, ?gatherRound, ?decideRound, ?decide, ?decision⟩
  case gather =>
    intro n m s hp hg hst
    refine ⟨_, voteGather_merges hp hg (beq_iff_eq.2 hst), rfl, rfl, fun d => ?_⟩
    show d ∈ (s.vote.bitmap ++ chunkOf m).eraseDups ↔ _
    rw [List.mem_eraseDups, List.mem_append, mem_chunkOf]
  case late =>
    intro n m s _ hg
    show execVoteGather n m s = _
    unfold execVoteGather
    rw [if_neg (by simp [hg])]
  case gatherRound =>
    intro s r hp hf ha hr ht
    obtain ⟨honly, hlinks⟩ := chunksSent_only s (cdiv (rf s (parA 0x030) 16 13 + 1) 1792)
    refine ⟨_, gatherRound_sends hp hf ha hr ht, ?_, rfl, hlinks⟩
    simp only
    rw [honly]
    rfl
  case decideRound =>
    intro s r v hp hf ha hr ht
    obtain ⟨honly, hlinks⟩ := sendVotes_only (s := s) (t := s) rfl 4 (b2n v) 0 0
    refine ⟨_, decideRound_sends hp hf ha hr ht, ?_, rfl, hlinks⟩
    show withVote (sendVotes s 4 (b2n v) 0 0) _ = _
    rw [honly]
    rfl
  case decide =>
    intro n m s hp hd hx hst
    show execVoteDecide n m s = _
    unfold execVoteDecide
    rw [if_pos (by simp [hp, hd, hx, hst])]
  case decision =>
    intro b s hp hf hd ht
    refine ⟨_, decisionTick_decides hp hf hd ht b, fun hv => ?_, fun hv hfew => ?_⟩
    · rw [if_neg (by simp [hv])]
      exact ⟨(commitStep_vote s b).1, (commitStep_vote s b).2, rfl⟩
    · rw [if_pos hv]
      obtain ⟨⟨k, q, x, c, hleft⟩, hcount, hregs⟩ := voidStep_few hfew
      refine ⟨?_, ?_, ?_, ?_, ?_, ?_, hcount, hregs, ?_⟩
      all_goals rw [hleft]; rfl

/-! ### Energy accounts (R316, R318, R471) -/

/-- The largest measurement of a window that is no overdraw: the entry with its margin (R318). -/
def windowLimit (s : State) (w a : Nat) : Nat :=
  (ledgerEntry s w a).1 + max ((ledgerEntry s w a).2 * (ledgerEntry s w a).1 / 16) 8

/-- The results of an account's window: the measurement, the largest one, the overdraws counted, the window. -/
def acctResult (s : State) (w a m : Nat) : BitVec 64 :=
  let old := (tget 0 s.accts a).toNat
  BitVec.ofNat 64 (pack [(48, 16, m), (32, 16, max m (fld old 32 16)), (16, 16, min 65535 (fld old 16 16 + b2n (decide (windowLimit s w a < m)))), (0, 16, w)])

theorem account_within {s : State} {w a m : Nat} (h : m ≤ windowLimit s w a) :
    account s w a m = { s with accts := tset 0 s.accts a (acctResult s w a m) } :=
  if_neg (by rw [decide_eq_true_eq]; exact Nat.not_lt.2 h)

theorem account_overdraw {s : State} {w a m : Nat} (h : windowLimit s w a < m) : ∃ cls idx d,
    account s w a m = report (bump (raise { s with accts := tset 0 s.accts a (acctResult s w a m) } 0x1001 0 cls idx 0xFFFF d) (pwrA 0x018) 48 16) 4 :=
  ⟨_, _, _, if_pos (by rw [decide_eq_true_eq]; exact h)⟩

theorem account_result (s : State) (w a m : Nat) : tget 0 (account s w a m).accts a = acctResult s w a m := by
  rcases Nat.lt_or_ge (windowLimit s w a) m with h | h
  · obtain ⟨cls, idx, d, e⟩ := account_overdraw h
    rw [e, report_accts, bump_accts, raise_accts, tget_tset_same]
  · rw [account_within h, tget_tset_same]

/-- The last window of a frame, and each of 1,024 ticks, is measured once (log entry 52). -/
theorem energyWindowEnd_measures {l : List (BitVec 16)} {s : State} (hl : l.length = 93) (hp : planOn s = true) (h0 : frameTick s ≠ 0)
    (hle : frameTick s ≤ frameLen s) (hw : frameTick s % 1024 = 0 ∨ frameTick s = frameLen s) (hn : s.acctAt ≠ ttc s + 1) :
    exec (.energyWindowEnd l) s =
      .next (l.zipIdx.foldl (fun u m => account u (cdiv (frameTick s) 1024 - 1) m.2 m.1.toNat) { s with acctAt := ttc s + 1 }) := by
  show execEnergyWindowEnd l s = _
  unfold execEnergyWindowEnd
  rw [if_neg (by simp [hl])]
  simp only
  rw [if_neg]
  rcases hw with hw | hw
  · simp [hp, h0, hn, hle, hw]
  · rw [hw] at h0
    simp [hp, h0, hn, hw]

theorem energyWindowEnd_elsewhere {l : List (BitVec 16)} {s : State} (hl : l.length = 93)
    (h : frameTick s = 0 ∨ frameLen s < frameTick s ∨ (frameTick s % 1024 ≠ 0 ∧ frameTick s ≠ frameLen s) ∨ s.acctAt = ttc s + 1) :
    exec (.energyWindowEnd l) s = .next s := by
  show execEnergyWindowEnd l s = _
  unfold execEnergyWindowEnd
  rw [if_neg (by simp [hl])]
  simp only
  rw [if_pos]
  rcases h with h | h | ⟨h, h'⟩ | h
  · simp [h]
  · simp [h]
  · simp [h, h']
  · simp [h]

/-! ### Temperatures (R473 to R475) -/

theorem ttA_ne_pwrA (n m : Nat) (h : n < 0x1000) : ttA n ≠ pwrA m := by unfold ttA pwrA; omega

/-- PWR_STAT after a reading is stored in its register and nowhere else. -/
theorem dieSummary_ex (s : State) (t : Nat) : ∃ v, dieSummary s t = setRg s (pwrA 0) v := ⟨_, rfl⟩

theorem pack_reading {t : Nat} (ht : t < 256) (m hot warn : Nat) :
    fld (pack [(24, 8, t), (16, 8, m), (1, 1, hot), (0, 1, warn)]) 24 8 = t ∧
      fld (pack [(24, 8, t), (16, 8, m), (1, 1, hot), (0, 1, warn)]) 0 2 = 2 * (hot % 2) + warn % 2 := by
  simp only [pack, fld]
  omega

/-- A reading as it stands: registers alone differ, the time stands, and the sensor's register shows CELSIUS, HOT and WARN. -/
theorem dieShown_facts (s : State) {r t : Nat} (hr : r < 19) (ht : t < 256) :
    dieShown s r t = { s with regs := (dieShown s r t).regs } ∧ (ttc (dieShown s r t) = ttc s ∧ stepNo (dieShown s r t) = stepNo s) ∧
      rf (dieShown s r t) (pwrA (0x080 + 4 * r)) 24 8 = t ∧
      rf (dieShown s r t) (pwrA (0x080 + 4 * r)) 0 2 = 2 * b2n (decide (105 ≤ t)) + b2n (decide (100 ≤ t)) := by
  have hb (b : Bool) : b2n b % 2 = b2n b := by cases b <;> rfl
  have hne : pwrA (0x080 + 4 * r) ≠ pwrA 0 := by unfold pwrA; omega
  obtain ⟨v, hv⟩ := dieSummary_ex (setRg s (pwrA (0x080 + 4 * r)) (pack [(24, 8, t), (16, 8, max t (rf s (pwrA (0x080 + 4 * r)) 16 8)), (1, 1, b2n (decide (105 ≤ t))), (0, 1, b2n (decide (100 ≤ t)))])) t
  have hd : dieShown s r t = _ := hv
  have hf (lo w : Nat) (h : lo + w ≤ 64) : rf (dieShown s r t) (pwrA (0x080 + 4 * r)) lo w = _ :=
    (congrArg (fun u => rf u (pwrA (0x080 + 4 * r)) lo w) hd).trans
      ((congrArg (fun x => fld x lo w) (rg_setRg_ne _ hne v)).trans (rf_setRg_same _ _ _ h))
  obtain ⟨hc, hh⟩ := pack_reading ht (max t (rf s (pwrA (0x080 + 4 * r)) 16 8)) (b2n (decide (105 ≤ t))) (b2n (decide (100 ≤ t)))
  refine ⟨?_, ?_, ?_, ?_⟩
  · rw [hd]; exact setRg_only (setRg_only (regs_self rfl) _ _) _ _
  · rw [hd]
    obtain ⟨h1, h2⟩ := time_setRg (setRg s (pwrA (0x080 + 4 * r)) _) (ttA_ne_pwrA 0 0 (by omega)) (ttA_ne_pwrA 8 0 (by omega)) v
    obtain ⟨h3, h4⟩ := time_setRg s (ttA_ne_pwrA 0 (0x080 + 4 * r) (by omega)) (ttA_ne_pwrA 8 (0x080 + 4 * r) (by omega)) _
    exact ⟨h1.trans h3, h2.trans h4⟩
  · rw [hf 24 8 (by omega), hc]
  · rw [hf 0 2 (by omega), hh, hb, hb]

/-- What follows the reading: a limit reading is recorded alone, a warning only below the limit (R473). -/
def dieJudged (s : State) (r t : Nat) : State :=
  let u := dieShown s r t
  let d := det [(0, 1, r), (1, 1, t)]
  if 105 ≤ t then bump (raise u 0x1003 3 0x08 r 0xFFFF d) (pwrA 0x018) 16 16
  else if 100 ≤ t then report (bump (raise u 0x1002 1 0x08 r 0xFFFF d) (pwrA 0x018) 32 16) 5
  else u

theorem dieTemperatureReading_eq (r : Fin 19) (c : BitVec 8) (s : State) :
    exec (.dieTemperatureReading r c) s =
      .next (if 115 ≤ c.toNat then thermalTrip (dieJudged s r.val c.toNat) 0x08 r.val r.val c.toNat else dieJudged s r.val c.toNat) := rfl

/-- The sensor's register is not the one of the counters. -/
theorem rf_dieJudged (s : State) {r : Nat} (hr : r < 19) (t lo w : Nat) :
    rf (dieJudged s r t) (pwrA (0x080 + 4 * r)) lo w = rf (dieShown s r t) (pwrA (0x080 + 4 * r)) lo w := by
  have hne : pwrA (0x080 + 4 * r) ≠ pwrA 0x018 := by unfold pwrA; omega
  unfold dieJudged
  simp only
  split
  · rw [rf_bump_ne _ hne, rf_raise]
  · split
    · rw [rf_report, rf_bump_ne _ hne, rf_raise]
    · rfl

theorem dieJudged_limit (s : State) {r t : Nat} (hr : r < 19) (ht : t < 256) (h : 105 ≤ t) : Recorded s (dieJudged s r t) 0x1003 3 := by
  obtain ⟨honly, ⟨htt, hst⟩, -, -⟩ := dieShown_facts s hr ht
  unfold dieJudged
  simp only
  rw [if_pos h]
  exact recorded_since (by rw [honly]) htt hst (recorded_bump (raise_recorded ..) _ _ _)

theorem dieJudged_warns (s : State) {r t : Nat} (hr : r < 19) (ht : t < 256) (h : 100 ≤ t) (h2 : t < 105) : Recorded s (dieJudged s r t) 0x1002 1 := by
  obtain ⟨honly, ⟨htt, hst⟩, -, -⟩ := dieShown_facts s hr ht
  unfold dieJudged
  simp only
  rw [if_neg (by omega), if_pos h]
  exact recorded_since (by rw [honly]) htt hst (recorded_of_faults (recorded_bump (raise_recorded ..) _ _ _) (report_faults ..))

/-! ### Rails (R468) -/

/-- A rail's register and RAIL_FAULT as an excursion leaves them. -/
def railShown (s : State) (k mv : Nat) : State := setRf (setRg s (pwrA (0x040 + 4 * k)) (pack [(16, 16, mv), (0, 1, 1)])) (pwrA 0) 2 1 1

theorem rail_ne_stat {k : Nat} : pwrA (0x040 + 4 * k) ≠ pwrA 0 := by unfold pwrA; omega
theorem rail_ne_count {k : Nat} (hk : k < 6) : pwrA (0x040 + 4 * k) ≠ pwrA 0x018 := by unfold pwrA; omega

theorem rg_railShown (s : State) (k : Nat) (mv : BitVec 16) : rg (railShown s k mv.toNat) (pwrA (0x040 + 4 * k)) = mv.toNat * 2 ^ 16 + 1 := by
  unfold railShown
  rw [rg_setRf_ne _ rail_ne_stat, rg_setRg_same]
  simp only [pack]
  omega

theorem rf_railShown (s : State) (k mv : Nat) : rf (railShown s k mv) (pwrA 0) 2 1 = 1 := rf_setRf_same _ _ _ (by omega)

theorem railShown_faults (s : State) (k mv : Nat) : (railShown s k mv).faults = s.faults := by
  unfold railShown; rw [setRf_faults, setRg_faults]

theorem railOutOfTolerance_eq (k : Fin 6) (mv : BitVec 16) {s : State} (hp : s.pwrGood = true) : exec (.railOutOfTolerance k mv) s =
    .next (if rf s (pwrA (0x040 + 4 * k.val)) 0 1 = 1 then railShown s k.val mv.toNat
      else bump (raise (railShown s k.val mv.toNat) 0x1006 3 0x00 0 0xFFFF (det [(0, 1, k.val), (2, 2, mv.toNat)])) (pwrA 0x018) 0 16) := by
  show execRailOutOfTolerance k mv s = _
  unfold execRailOutOfTolerance
  simp only
  rw [if_neg (by simp [hp])]
  rfl

theorem railInTolerance_eq (k : Fin 6) (mv : BitVec 16) (s : State) : ∃ v, exec (.railInTolerance k mv) s =
    .next (setRf (setRg s (pwrA (0x040 + 4 * k.val)) (pack [(16, 16, mv.toNat)])) (pwrA 0) 2 1 v) := ⟨_, rfl⟩

/-! ### Register writes (R8 to R10) -/

/-- Bit by bit: a stored bit takes the written one, a bit that a 1 clears is cleared by it, and every other stands. -/
theorem testBit_writeValue {old v rw w1c i : Nat} (hv : v < 2 ^ 64) (hrw : rw < 2 ^ 64) (hi : i < 64) :
    (writeValue old v rw w1c).testBit i = if rw.testBit i then v.testBit i else old.testBit i && !(v.testBit i && w1c.testBit i) := by
  have hlt : rw ||| (v &&& w1c) < 2 ^ 64 := Nat.or_lt_two_pow hrw (Nat.lt_of_le_of_lt Nat.and_le_left hv)
  unfold writeValue
  rw [Nat.sub_sub, Nat.add_comm 1, Nat.testBit_or, Nat.testBit_and, Nat.testBit_and, Nat.testBit_two_pow_sub_succ hlt, Nat.testBit_or, Nat.testBit_and]
  cases rw.testBit i <;> simp [hi]

/-- A write outside configuration space that covers no register whole. -/
theorem registerWrite_narrow {a : BitVec 64} {w : RegWrite} {s : State} (hc : cfgBits a.toNat = 0) (hw : wholeReg s a.toNat w.bytes.toNat = false) :
    exec (.registerWrite a w) s = .next (if meetsReg s a.toNat then countNarrow s a.toNat else s) := by
  show execRegisterWrite a w s = _
  unfold execRegisterWrite
  simp only
  rw [if_neg (by simp [hc]), if_pos (by simp [hw])]

theorem registerWrite_whole {a : BitVec 64} {w : RegWrite} {s : State} (hc : cfgBits a.toNat = 0) (hw : wholeReg s a.toNat w.bytes.toNat = true) :
    exec (.registerWrite a w) s = .next (if writeBits a.toNat = (0, 0) then s else
      afterWrite (setRg s a.toNat (writeValue (rg s a.toNat) w.value.toNat (writeBits a.toNat).1 (writeBits a.toNat).2)) a.toNat (rg s a.toNat)) := by
  show execRegisterWrite a w s = _
  unfold execRegisterWrite
  simp only
  rw [if_neg (by simp [hc]), if_neg (by simp [hw])]

theorem misalignedRegisterRead_eq (a : BitVec 64) (b : BitVec 8) (s : State) : exec (.misalignedRegisterRead a b) s =
    .next (if wholeReg s a.toNat b.toNat || !meetsReg s a.toNat then s else emit (countNarrow s a.toNat) (.regData 0 a.toNat 0)) := rfl

/-- Settles O53: an account by `account_result` and its two cases, a reading by `dieShown_facts` and `dieJudged`, a rail by
`railShown`, the pins and the port by their definitions, a write by `registerWrite_whole` and `testBit_writeValue`. -/
theorem powerPinsAndRegisters : Obligations.PowerPinsAndRegisters := by
  refine ⟨?window, ?account, ?die, ?rail, ?pins, ?jtag, ?write, ?bits, ?read⟩
  case window =>
    intro l s
    refine ⟨fun hl => if_pos hl, fun hl => ⟨energyWindowEnd_elsewhere hl, energyWindowEnd_measures hl⟩⟩
  case account =>
    intro s w a m e t lim old
    refine ⟨account_result s w a m, fun h => ?_, fun h => ?_⟩
    · show (account s w a m).faults = _
      rw [account_within h]
    · obtain ⟨cls, idx, d, hover⟩ := account_overdraw (s := s) (w := w) (a := a) (m := m) h
      show ∃ f, (account s w a m).faults = _ ∧ _
      rw [hover, report_faults, bump_faults, raise_faults]
      exact ⟨_, rfl, rfl, rfl⟩
  case die =>
    intro r c s a
    have hc : c.toNat < 256 := c.isLt
    obtain ⟨honly, -, hcel, hflags⟩ := dieShown_facts s r.isLt hc
    have hrd : rf (dieJudged s r.val c.toNat) a 24 8 = c.toNat := (rf_dieJudged s r.isLt ..).trans hcel
    have hfl : rf (dieJudged s r.val c.toNat) a 0 2 = _ := (rf_dieJudged s r.isLt ..).trans hflags
    have hlow (h : c.toNat < 115) : exec (.dieTemperatureReading r c) s = .next (dieJudged s r.val c.toNat) := by
      rw [dieTemperatureReading_eq, if_neg (by omega)]
    refine ⟨fun h => ⟨_, hlow (by omega), ?_, hrd, ?_⟩, fun h h2 => ⟨_, hlow (by omega), dieJudged_warns s r.isLt hc h h2, hrd, ?_⟩,
      fun h h2 => ⟨_, hlow h2, dieJudged_limit s r.isLt hc h, hrd, ?_⟩,
      fun h => ⟨dieJudged s r.val c.toNat, dieJudged_limit s r.isLt hc (by omega), ?_⟩⟩
    · have hn : dieJudged s r.val c.toNat = dieShown s r.val c.toNat := (if_neg (by omega)).trans (if_neg (by omega))
      rw [hn]; exact honly
    · rw [hfl, decide_eq_false (by omega), decide_eq_false (by omega)]; rfl
    · rw [hfl, decide_eq_false (by omega), decide_eq_true h]; rfl
    · rw [hfl, decide_eq_true h, decide_eq_true (by omega)]; rfl
    · rw [dieTemperatureReading_eq, if_pos h]
  case rail =>
    intro k mv s a
    refine ⟨fun hp => ?_, fun hp => ?_, ?_⟩
    · show execRailOutOfTolerance k mv s = _
      unfold execRailOutOfTolerance
      simp only
      rw [if_pos (by simp [hp])]
    · refine ⟨_, railOutOfTolerance_eq k mv hp, ?_⟩
      by_cases hout : rf s a 0 1 = 1
      · rw [if_pos hout]
        exact ⟨rg_railShown .., rf_railShown .., fun _ => railShown_faults .., fun h => by omega⟩
      · rw [if_neg hout]
        refine ⟨?_, ?_, fun h => absurd h hout, fun _ => ?_⟩
        · rw [rg_bump_ne _ (rail_ne_count k.isLt), rg_raise]; exact rg_railShown ..
        · rw [rf_bump_ne _ (by decide), rf_raise]; exact rf_railShown ..
        · rw [bump_faults, raise_faults, railShown_faults]
          exact ⟨_, rfl, rfl, rfl⟩
    · obtain ⟨v, hv⟩ := railInTolerance_eq k mv s
      refine ⟨_, hv, setRf_only (setRg_only (regs_self rfl) _ _) _ _ _ _, ?_, fun b h1 h2 => ?_⟩
      · rw [rg_setRf_ne _ rail_ne_stat, rg_setRg_same]
        simp only [pack]
        omega
      · rw [rg_setRf_ne _ h2, rg_setRg_ne _ h1]
  case pins =>
    intro s
    refine ⟨rfl, fun ht => ⟨?_, ?_⟩, fun ht => ⟨fun hr => ⟨?_, ?_⟩, fun hr => ⟨?_, ?_⟩⟩⟩
    · exact congrArg Host.Outcome.next (if_pos (by simp [ht]))
    · exact congrArg Host.Outcome.next (if_pos (by simp [ht]))
    · exact congrArg Host.Outcome.next (if_neg (by simp [ht, hr]))
    · exact congrArg Host.Outcome.next (if_pos (by simp [hr]))
    · exact congrArg Host.Outcome.next (if_pos (by simp [hr]))
    · exact congrArg Host.Outcome.next (if_neg (by simp [ht, hr]))
  case jtag =>
    intro s d
    exact ⟨rfl, rfl, rfl, fun h => congrArg Host.Outcome.next (if_neg (by simp [h])), fun h => congrArg Host.Outcome.next (if_pos h)⟩
  case write =>
    intro a w s hc
    refine ⟨fun hw hm => ?_, fun hw hm => ?_, fun hw => ⟨fun hb => ?_, fun hb => ?_⟩⟩
    · rw [registerWrite_narrow hc hw, hm]; rfl
    · rw [registerWrite_narrow hc hw, hm]; rfl
    · rw [registerWrite_whole hc hw, if_pos hb]
    · rw [registerWrite_whole hc hw, if_neg hb]
  case bits =>
    intro s a v rw w1c i hv hrw hi
    exact testBit_writeValue hv hrw hi
  case read =>
    intro a b s
    refine ⟨fun h => ?_, fun hw hm => ?_⟩
    · rw [misalignedRegisterRead_eq, if_pos (by simpa using h)]
    · rw [misalignedRegisterRead_eq, if_neg (by simp [hw, hm])]
      rfl

/-! ### The Crucible window (R185 to R187) -/

/-- A load's size is the power of two of its width code. -/
theorem loadSize {f3 : Nat} {z : Fin 3} (h : f3 % 4 = z.val) : (match f3 % 4 with | 0 => 1 | 1 => 2 | _ => 4) = 2 ^ z.val := by
  rw [h]
  fin_cases z <;> rfl

/-- An aligned store into the window. -/
theorem gafDoStore_window (s : State) (c v nxt : Nat) {f3 a : Nat} (h1 : 0x01000000 ≤ a) (h2 : a < 0x01800000) (hal : a % 2 ^ f3 = 0) :
    gafDoStore s c f3 a v nxt = gafNext (gafStore s c a (2 ^ f3) (v % 2 ^ (8 * 2 ^ f3))) c nxt 1 := by
  unfold gafDoStore
  simp only
  rw [if_neg (by omega), if_neg (by omega), if_pos ⟨h1, h2⟩]

/-- An aligned load from the window. -/
theorem gafDoLoad_window (s : State) (c rd nxt : Nat) {f3 a : Nat} {z : Fin 3} (hz : f3 % 4 = z.val) (h1 : 0x01000000 ≤ a) (h2 : a < 0x01800000)
    (hal : a % 2 ^ z.val = 0) : gafDoLoad s c f3 rd a nxt = gafNext (gafLoad s c rd a (2 ^ z.val) (decide (f3 < 4))) c nxt 8 := by
  unfold gafDoLoad
  extract_lets size signed
  have hsz : size = 2 ^ z.val := loadSize hz
  rw [hsz, if_neg (by omega), if_neg (by omega), if_pos ⟨h1, h2⟩]

/-- A ready gaffer's store, as its instruction runs it. -/
theorem gafStep_store {u : State} {c f3 rs1 rs2 imm : Nat} (H : GafReady u c (.store f3 rs1 rs2 imm)) :
    gafStep u c = gafDoStore (curSet u c) c f3 ((xreg u c rs1 + imm) % 2 ^ 32) (xreg u c rs2) ((core u c).gaf.pc + (gafWord u c).2) := by
  rw [gafStep_ready H, ← cur_x u c rs1, ← cur_x u c rs2, ← cur_pc u c]
  rfl

theorem gafStep_load {u : State} {c f3 rd rs1 imm : Nat} (H : GafReady u c (.load f3 rd rs1 imm)) :
    gafStep u c = gafDoLoad (curSet u c) c f3 rd ((xreg u c rs1 + imm) % 2 ^ 32) ((core u c).gaf.pc + (gafWord u c).2) := by
  rw [gafStep_ready H, ← cur_x u c rs1, ← cur_pc u c]
  rfl

theorem gafferCrucibleStore_runs {c : Fin 60} {p : Fin 8} {a v : BitVec 32} {z : Fin 3} {rs1 rs2 imm : Nat} {s : State} (hp : s.phase ≤ p.val)
    (H : GafReady (runTo s p.val) c.val (.store z.val rs1 rs2 imm)) (ha : (xreg (runTo s p.val) c.val rs1 + imm) % 2 ^ 32 = a.toNat)
    (hv : xreg (runTo s p.val) c.val rs2 = v.toNat) (h1 : 0x01000000 ≤ a.toNat) (h2 : a.toNat < 0x01800000) :
    exec (.gafferCrucibleStore c p a z v) s = .next (gafStep (runTo s p.val) c.val) := by
  show execGafferCrucibleStore c p a z v s = _
  refine event_eq hp H.due ?_
  rw [H.inst]
  simp only [ha, hv, h1, h2, beq_self_eq_true, Bool.true_and, and_self, decide_true]

theorem gafferCrucibleLoad_runs {c : Fin 60} {p : Fin 8} {rd : Fin 32} {a : BitVec 32} {z : Fin 3} {g : Bool} {f3 rs1 imm : Nat} {s : State} (hp : s.phase ≤ p.val)
    (H : GafReady (runTo s p.val) c.val (.load f3 rd.val rs1 imm)) (hz : f3 % 4 = z.val) (hg : z.val = 2 ∨ decide (f3 < 4) = g)
    (ha : (xreg (runTo s p.val) c.val rs1 + imm) % 2 ^ 32 = a.toNat) (h1 : 0x01000000 ≤ a.toNat) (h2 : a.toNat < 0x01800000) :
    exec (.gafferCrucibleLoad c p rd a z g) s = .next (gafStep (runTo s p.val) c.val) := by
  show execGafferCrucibleLoad c p rd a z g s = _
  refine event_eq hp H.due ?_
  rw [H.inst]
  simp only [ha, hz, h1, h2, beq_self_eq_true, Bool.true_and, and_self, decide_true, Bool.and_true]
  rcases hg with hg | hg <;> simp [hg]

/-! ### Where a store goes (R185, R186) -/

section
variable {s : State} {c a : Nat}

theorem gafStore_outside (n v : Nat) (hw : inMarver s c (frameCyc s) = false) : gafStore s c a n v = raise050C s c a 0 := by
  unfold gafStore; simp only; rw [if_pos (by rw [hw]; rfl)]

theorem gafStore_entry {e : Nat} {m : MEntry} (n v : Nat) (hw : inMarver s c (frameCyc s) = true) (he : entryOf s c (a / 128 % 65536) = some e)
    (hm : mentry s c e = some m) : gafStore s c a n v = setMentry s c e (some (storeIn m (a % 128) n v)) := by
  unfold gafStore; simp only; rw [if_neg (by rw [hw]; decide), he]; simp only; rw [hm]

theorem gafStore_free {e : Nat} (n v : Nat) (hw : inMarver s c (frameCyc s) = true) (he : entryOf s c (a / 128 % 65536) = none)
    (hf : ((List.range 4).find? fun e => (mentry s c e).isNone) = some e) :
    gafStore s c a n v = setMentry s c e (some (newEntry s (a / 128 % 65536) (a % 128) n v (now s))) := by
  unfold gafStore; simp only; rw [if_neg (by rw [hw]; decide), he]; simp only; rw [hf]

theorem gafStore_held (n v : Nat) (hw : inMarver s c (frameCyc s) = true) (he : entryOf s c (a / 128 % 65536) = none)
    (hf : ((List.range 4).find? fun e => (mentry s c e).isNone) = none) (hm : (core s c).mstore = none) :
    gafStore s c a n v = markWb (modCore s c fun x => { x with mstore := some { addr := a % 0x800000, size := n, value := v } }) c (oldestEntry s c) := by
  unfold gafStore; simp only; rw [if_neg (by rw [hw]; decide), he]; simp only; rw [hf]; simp only; rw [if_neg (by rw [hm]; decide)]

theorem gafLoad_waits (rd n : Nat) (g : Bool) (h1 : inMarver s c (frameCyc s) = true) (h2 : inMarver s c (nextMarver (a / 128 % 65536) (frameCyc s)) = true) :
    gafLoad s c rd a n g =
      modCore s c fun x => { x with mload := some { row := a / 128 % 65536, lo := a % 128, size := n, signed := g, rd := rd, from_ := now s } } := by
  unfold gafLoad; simp only; rw [if_pos (by rw [h1, h2]; rfl)]

theorem gafLoad_outside (rd n : Nat) (g : Bool) (h : inMarver s c (frameCyc s) = false) : gafLoad s c rd a n g = setX (raise050C s c a 0) c rd 0 := by
  unfold gafLoad; simp only; rw [if_neg (by simp [h])]
end

/-- What lies outside the window, or is left when it closes, is recorded (R187). -/
theorem raise050C_recorded (s : State) (c addr n : Nat) : Recorded s (raise050C s c addr n) 0x050C 2 :=
  recorded_bump (raiseTile_recorded ..) _ _ _

/-! ### Scrubbing, marver accesses and the window's close (R187, R192, R195) -/

/-- Micro-operations of the present cycle put on the agenda one after the other. -/
theorem forN_addAct (s : State) (n : Nat) (f : Nat → Nat → Act) :
    forN n s (fun b s => addAct s (f (now s) b)) = { s with acts := s.acts ++ (List.range n).map (f (now s)) } := by
  induction n with
  | zero => simp [forN_zero]
  | succ n ih =>
    unfold forN at ih ⊢
    rw [List.range_succ, List.foldl_append, ih, List.map_append, ← List.append_assoc]
    rfl

/-- The first cycle of a scrub pair of which no read is on the agenda yet. -/
theorem scrubPair_reads {c : Fin 60} {p : Fin 8} {s : State} (hp : s.phase ≤ p.val) (hon : planOn (runTo s p.val) = true)
    (hcyc : scrubCycle (runTo s p.val) c.val (frameCyc (runTo s p.val)) = true)
    (hfirst : (frameCyc (runTo s p.val) - 8 * rf (runTo s p.val) (cruA c.val 0x028) 23 23) % 2 = 0) (hacts : (runTo s p.val).acts = []) :
    exec (.scrubPair c p) s = .next { runTo s p.val with
      acts := (List.range 16).map fun (b : Nat) => ({ cyc := now (runTo s p.val), core := c.val, job := 0, op := Micro.scrubRd b } : Act) } := by
  show execScrubPair c p s = _
  unfold execScrubPair
  rw [whenAt_run s _ hp]
  generalize runTo s p.val = u at *
  simp only
  rw [if_pos (by simp [hon, hcyc, hfirst, hacts])]
  have hfold := forN_addAct u 16 fun t b => { cyc := t, core := c.val, job := 0, op := .scrubRd b }
  rw [hacts, List.nil_append] at hfold
  exact congrArg Host.Outcome.next hfold

section
variable {c : Fin 60} {e : Fin 4} {p : Fin 8} {s : State} {m : MEntry} {a : Acc}

/-- The marver's pick of a bank in its marver cycle, where it is an entry's fill read (R185). -/
theorem marverFillRead_takes (hp : s.phase ≤ p.val) (hm : mentry (runTo s p.val) c.val e.val = some m)
    (ha : marverPick (runTo s p.val) c.val (bankOf m.row) = some a) (hw : inMarver (runTo s p.val) c.val (frameCyc (runTo s p.val)) = true)
    (hc : marverCycle (runTo s p.val) c.val (bankOf m.row) (frameCyc (runTo s p.val)) = true) (hk : a.kind = .mfill e.val) :
    exec (.marverFillRead c e p) s = .next (marverTake (runTo s p.val) c.val (bankOf m.row) e.val false) := by
  show execMarverFillRead c e p s = _
  unfold execMarverFillRead
  rw [whenAt_run s _ hp, hm]
  simp only
  rw [ha]
  simp only
  rw [if_pos (by rw [hw, hc, hk]; exact beq_self_eq_true _)]

/-- The same where it is a write-back (R186). -/
theorem marverWriteBack_takes (hp : s.phase ≤ p.val) (hm : mentry (runTo s p.val) c.val e.val = some m)
    (ha : marverPick (runTo s p.val) c.val (bankOf m.row) = some a) (hw : inMarver (runTo s p.val) c.val (frameCyc (runTo s p.val)) = true)
    (hc : marverCycle (runTo s p.val) c.val (bankOf m.row) (frameCyc (runTo s p.val)) = true) (hk : a.kind = .mwb e.val) :
    exec (.marverWriteBack c e p) s = .next (marverTake (runTo s p.val) c.val (bankOf m.row) e.val true) := by
  show execMarverWriteBack c e p s = _
  unfold execMarverWriteBack
  rw [whenAt_run s _ hp, hm]
  simp only
  rw [ha]
  simp only
  rw [if_pos (by rw [hw, hc, hk]; exact beq_self_eq_true _)]
end

/-- The window's first tick past its end: entries and held store go, and occupied entries are recorded (R187). -/
theorem marverWindowClose_eq (c : Fin 60) {s : State} (hon : planOn s = true) (hph : s.phase = 0) (ht : frameTick s = rf s (cruA c.val 0x020) 23 23) :
    exec (.marverWindowClose c) s = .next (
      let n := ((List.range 4).filter fun e => (mentry s c.val e).isSome).length
      let v := modCore s c.val fun x => { x with marver := [], mstore := none }
      if n = 0 then v else raise050C v c.val 0 n) := by
  show execMarverWindowClose c s = _
  unfold execMarverWindowClose
  rw [if_pos (by simp [hon, hph, ht])]

/-! ### Keel accesses (R7, R175, R202) -/

/-- The parts of a device address inside a row of a core's Crucible window (Table 0-3). -/
theorem rowAddr_parts {c r a : Nat} (hc : c < 60) (hr : r < 65536) (h1 : rowAddr c r ≤ a) (h2 : a < rowAddr c r + 128) :
    listed a = true ∧ ¬ (a < 0x010000000000 ∨ 0x020000000000 ≤ a) ∧ (a - 0x010000000000) / 0x1000000 = c ∧ a % 0x1000000 / 128 = r := by
  unfold rowAddr at h1 h2
  rw [Nat.mod_eq_of_lt hr] at h1 h2
  refine ⟨?_, by omega, by omega, by omega⟩
  unfold listed
  simp only [Bool.or_eq_true, Bool.and_eq_true, decide_eq_true_eq]
  exact .inr ⟨⟨by omega, by omega⟩, by omega⟩

section
variable {c : Fin 60} {r : BitVec 16} {a : BitVec 48}

/-- An access to a row of the window (R202). -/
theorem keelCrucibleAccess_row (w : Bool) (d : Row) (s : State) (h1 : rowAddr c.val r.toNat ≤ a.toNat) (h2 : a.toNat < rowAddr c.val r.toNat + 128) :
    exec (.keelCrucibleAccess a w d) s = .next (
      if planOn s && (core s c.val).present then
        (if w then raiseTile s c.val 0x050E 0 [(4, 2, r.toNat)] else emit (raiseTile s c.val 0x050E 0 [(4, 2, r.toNat)]) (.keelRow c.val r.toNat 0))
      else if w then writeRow s c.val r.toNat d 255
      else emit (readChecked s c.val r.toNat).2 (.keelRow c.val r.toNat (readChecked s c.val r.toNat).1)) := by
  obtain ⟨hl, hin, hc, hr⟩ := rowAddr_parts c.isLt r.isLt h1 h2
  show execKeelCrucibleAccess a w d s = _
  unfold execKeelCrucibleAccess
  simp only
  rw [if_neg (by simp [hl]), if_neg hin, hc, hr]

theorem keelCrucibleAccess_unlisted (w : Bool) (d : Row) (s : State) (h : listed a.toNat = false) : exec (.keelCrucibleAccess a w d) s =
    .next (raise s (0x0D00 + Config.keelAddressFault.1.toNat) Config.keelAddressFault.2.val 0x0B 0 0xFFFF (det [(0, 8, a.toNat)])) := by
  show execKeelCrucibleAccess a w d s = _
  unfold execKeelCrucibleAccess
  simp only
  rw [if_pos (by simp [h])]
end

/-- Settles O38: the gaffer's window accesses by `gafStep_store` and `gafStep_load` with the cases of `gafStore` and `gafLoad`, the
others by the lemma of their command. -/
theorem crucibleWindowAndVisits : Obligations.CrucibleWindowAndVisits := by
  refine ⟨?store, ?stored, ?load, ?loaded, ?scrub, ?pair, ?marver, ?close, ?keelOn, ?keelOff, ?unlisted⟩
  case store =>
    intro c p a v z rs1 rs2 imm s hp u H ha hv h1 h2 hal
    rw [gafferCrucibleStore_runs hp H ha hv h1 h2, gafStep_store H, ha, hv, gafDoStore_window _ _ _ _ h1 h2 hal]
  case stored =>
    intro s c a n v row
    exact ⟨gafStore_outside n v, fun _ _ => gafStore_entry n v, fun _ => gafStore_free n v, gafStore_held n v⟩
  case load =>
    intro c p rd a z g f3 rs1 imm s hp u H hz hg ha h1 h2 hal
    rw [gafferCrucibleLoad_runs hp H hz hg ha h1 h2, gafStep_load H, ha, gafDoLoad_window _ _ _ _ hz h1 h2 hal]
  case loaded =>
    intro s c rd a n g row
    exact ⟨gafLoad_waits rd n g, gafLoad_outside rd n g⟩
  case scrub =>
    intro c d p s hp u w
    show execGafferScrubVisit c d p s = _
    unfold execGafferScrubVisit
    rw [whenAt_run s _ hp]
  case pair =>
    intro c p s hp u hon hcyc hfirst hacts
    exact ⟨_, scrubPair_reads hp hon hcyc hfirst hacts, rfl⟩
  case marver =>
    intro c e p s hp u m a hm ha hw hc
    exact ⟨marverFillRead_takes hp hm ha hw hc, marverWriteBack_takes hp hm ha hw hc⟩
  case close =>
    intro c s hon hph ht n v
    refine ⟨fun hn => ?_, fun hn => ⟨?_, raise050C_recorded ..⟩⟩
    · rw [marverWindowClose_eq c hon hph ht]
      exact congrArg Host.Outcome.next (if_pos hn)
    · rw [marverWindowClose_eq c hon hph ht]
      exact congrArg Host.Outcome.next (if_neg (by omega))
  case keelOn =>
    intro c r a w d s h1 h2 hon hpres
    refine ⟨_, keelCrucibleAccess_row w d s h1 h2, ?_⟩
    rw [if_pos (by rw [hon, hpres]; rfl)]
    cases w with
    | true => exact ⟨raiseTile_recorded .., rfl, rfl⟩
    | false => exact ⟨recorded_of_faults (raiseTile_recorded ..) (emit_faults ..), rfl, rfl⟩
  case keelOff =>
    intro c r a s h1 h2 hoff
    have hno : ¬ (planOn s && (core s c.val).present) = true := by simp [hoff]
    have hrow (w : Bool) (d : Row) := (keelCrucibleAccess_row w d s h1 h2).trans (congrArg Host.Outcome.next (if_neg hno))
    exact ⟨hrow true, hrow false⟩
  case unlisted =>
    intro a w d s h
    exact ⟨_, keelCrucibleAccess_unlisted w d s h, raise_recorded .., rfl, rfl, rfl⟩

/-! ### Telltales (R54) -/

/-- A sample as it stands in its register: the margin, and VALID. -/
def telltaleShown (s : State) (a m : Nat) : State := setRf (setRf s a 0 3 m) a 3 1 1

theorem telltale_ne_config (n : Nat) : clkA 0x004 ≠ clkA (0x400 + n) := by unfold clkA; omega

theorem telltaleSample_sampled (k : Fin 12) (i : Fin 4) (m : BitVec 3) {s : State} (h : monMode s ≠ 1) : exec (.telltaleSample k i m) s = .next (
    let a := clkA (0x400 + 4 * (4 * k.val + i.val))
    let v := telltaleShown s a m.toNat
    let w := if m.toNat < rf s (clkA 0x004) 4 3 then raise (bump v a 16 16) 0x010A 1 0x08 k.val 0xFFFF (det [(0, 1, k.val), (1, 1, i.val), (2, 1, m.toNat)]) else v
    if m = 0 then raise w 0x010B 3 0x08 k.val 0xFFFF (det [(0, 1, k.val), (1, 1, i.val)]) else w) := by
  have hne := telltale_ne_config (4 * (4 * k.val + i.val))
  show execTelltaleSample k i m s = _
  unfold execTelltaleSample
  simp only
  rw [if_neg h, rf_setRf_ne _ hne, rf_setRf_ne _ hne]
  rfl

theorem telltaleSample_unsampled (k : Fin 12) (i : Fin 4) (m : BitVec 3) {s : State} (h : monMode s = 1) :
    exec (.telltaleSample k i m) s = .next (setRf s (clkA (0x400 + 4 * (4 * k.val + i.val))) 3 1 0) :=
  congrArg Host.Outcome.next (if_pos h)

/-! ### Crossings (R45) -/

/-- A trial that locks: its codes span at most one code inside 2 to 13. -/
def TrialOk (x : TapTrial) : Prop := x.hi.val - x.lo.val ≤ 1 ∧ 2 ≤ x.lo.val ∧ x.hi.val ≤ 13

theorem alignTry_cons_ok {t : TapTrial} (h : TrialOk t) (k : Nat) (ts : List TapTrial) : alignTry k (t :: ts) = some (k, t) := if_pos h
theorem alignTry_cons_bad {t : TapTrial} (h : ¬ TrialOk t) (k : Nat) (ts : List TapTrial) : alignTry k (t :: ts) = alignTry (k + 1) ts := if_neg h

/-- The accepted trial is the first good one, with its number. -/
theorem alignTry_first {ts : List TapTrial} {n : Nat} {t : TapTrial} (hn : ts[n]? = some t) (ht : TrialOk t)
    (hbad : ∀ m x, m < n → ts[m]? = some x → ¬ TrialOk x) (k : Nat) : alignTry k ts = some (k + n, t) := by
  induction ts generalizing n k with
  | nil => simp at hn
  | cons u ts ih =>
    cases n with
    | zero =>
      obtain rfl : u = t := by simpa using hn
      exact alignTry_cons_ok ht k ts
    | succ n =>
      rw [alignTry_cons_bad (hbad 0 u (by omega) rfl), ih (by simpa using hn) fun m x hm hx => hbad (m + 1) x (by omega) (by simpa using hx)]
      rw [Nat.add_assoc, Nat.add_comm 1]

theorem alignTry_none {ts : List TapTrial} (hbad : ∀ x ∈ ts, ¬ TrialOk x) (k : Nat) : alignTry k ts = none := by
  induction ts generalizing k with
  | nil => rfl
  | cons u ts ih =>
    rw [alignTry_cons_bad (hbad u (List.mem_cons_self ..)), ih fun x hx => hbad x (List.mem_cons_of_mem _ hx)]

/-- The register of a crossing that has locked at trial n (R45). -/
def crossingLocked (s : State) (r p n : Nat) (t : TapTrial) : State :=
  setRg s (clkA (0x100 + 32 * r + 4 * p)) (pack [(31, 1, 1), (8, 4, t.lo.val), (4, 1, n % 2), (2, 2, n / 2), (0, 2, 4 - t.edge.val)])

theorem crossingAlignment_locks {r : Fin 19} {p : Fin 8} {ts : List TapTrial} {n : Nat} {t : TapTrial} (s : State) (h : alignTry 0 (ts.take 8) = some (n, t)) :
    exec (.crossingAlignment r p ts) s = .next (
      if aligns s r.val p.val = true then (if allLocked (crossingLocked s r.val p.val n t) then endStage (crossingLocked s r.val p.val n t) else crossingLocked s r.val p.val n t)
      else s) := by
  show execCrossingAlignment r p ts s = _
  unfold execCrossingAlignment
  simp only
  rw [h]
  by_cases ha : aligns s r.val p.val = true
  · rw [if_pos ha]; exact if_neg (by simp [ha])
  · rw [if_neg ha]; exact if_pos (by simp [ha])

/-- The failed alignment's record, in the register's state after it (log entry 61). -/
def crossingFailed (s : State) (r p : Nat) (ts : List TapTrial) : State :=
  let l := ts.getD 7 { lo := 0, hi := 0, edge := 0 }
  raiseTt (setRg s (clkA (0x100 + 32 * r + 4 * p)) 0) 0x0105 4 0x08 r [(0, 1, r), (1, 1, p), (2, 1, l.lo.val), (3, 1, l.hi.val)]

theorem crossingAlignment_fails {r : Fin 19} {p : Fin 8} {ts : List TapTrial} (s : State) (h : alignTry 0 (ts.take 8) = none) (h8 : 8 ≤ ts.length) :
    exec (.crossingAlignment r p ts) s = .next (if aligns s r.val p.val = true then failStage (crossingFailed s r.val p.val ts) 0x0105 else s) := by
  show execCrossingAlignment r p ts s = _
  unfold execCrossingAlignment
  simp only
  rw [h]
  simp only
  rw [if_neg (by omega)]
  by_cases ha : aligns s r.val p.val = true
  · rw [if_pos ha]; exact if_neg (by simp [ha])
  · rw [if_neg ha]; exact if_pos (by simp [ha])

theorem crossingFailed_facts (s : State) (r p : Nat) (ts : List TapTrial) :
    Recorded s (crossingFailed s r p ts) 0x0105 4 ∧ rf (crossingFailed s r p ts) (clkA (0x100 + 32 * r + 4 * p)) 31 1 = 0 ∧
      (crossingFailed s r p ts).halted = true := by
  have h0 : ttA 0x000 ≠ clkA (0x100 + 32 * r + 4 * p) := by unfold ttA clkA; omega
  have h1 : ttA 0x008 ≠ clkA (0x100 + 32 * r + 4 * p) := by unfold ttA clkA; omega
  obtain ⟨ht, hs⟩ := time_setRg s h0 h1 0
  unfold crossingFailed raiseTt
  refine ⟨recorded_since (u := setRg s (clkA (0x100 + 32 * r + 4 * p)) 0) rfl ht hs (raise_recorded ..), ?_, raise_halts ..⟩
  rw [rf_raise, rf_setRg_same _ _ _ (by omega)]
  rfl

/-! ### Injection (R89) -/

theorem pack_inject {arm e x : Nat} (ha : arm < 2) (he : e < 16) (hx : x < 128) :
    fld (pack [(31, 1, arm), (16, 4, e), (0, 7, x)]) 31 1 = arm ∧ fld (pack [(31, 1, arm), (16, 4, e), (0, 7, x)]) 16 4 = e ∧
      fld (pack [(31, 1, arm), (16, 4, e), (0, 7, x)]) 0 7 = x := by
  simp only [pack, fld]
  omega

/-! ### Arrivals (R14, R264, R269) -/

/-- The place of an input or a port end among those of a router (R264). -/
def portPlace : BPort → Nat
  | .input i => i.val
  | .ejection => 8
  | .linkPort => 9
  | .sysPort => 10

/-- The state in which a cycle's flits have been sent on (R266). -/
def flitsFired (s : State) : State := fire s fun a => match a.op with | .flit _ => true | _ => false

/-- The flit due at an input or port end. -/
def dueFlight (v : State) (pl : Fin 2) (d : Fin 72) (o : BPort) : Option Flight :=
  v.flights.find? fun x => decide (x.cyc ≤ now v) && x.plane == pl.val && x.tile == d.val && x.port == portPlace o

/-- The flit due there arrives with the wire errors it took (R264, R269). -/
def flitArrives (v : State) (pl : Fin 2) (d : Fin 72) (o : BPort) (fl : BitVec 1024) (sd : BitVec 20) : State :=
  match dueFlight v pl d o with
  | some x => receive { v with flights := v.flights.erase x } x fl sd
  | none => v

theorem bridleFlitReceive_eq (pl : Fin 2) (d : Fin 72) (o : BPort) {p : Fin 8} (fl : BitVec 1024) (sd : BitVec 20) {s : State} (hp : s.phase ≤ p.val) :
    exec (.bridleFlitReceive pl d o p fl sd) s =
      .next (if (runTo s p.val).halted then runTo s p.val else flitArrives (flitsFired (runTo s p.val)) pl d o fl sd) :=
  congrArg Host.Outcome.next (whenAt_run s _ hp fun u => if u.halted then u else flitArrives (flitsFired u) pl d o fl sd)

/-- Settles O39: a sample by `telltaleSample_sampled`, a crossing by `alignTry_first` and `alignTry_none`, the injection register by
its packed fields, an arrival by `bridleFlitReceive_eq`. -/
theorem telltalesCrossingsAndArrivals : Obligations.TelltalesCrossingsAndArrivals := by
  refine ⟨?telltale, ?crossing, ?inject, ?arrival⟩
  case telltale =>
    intro k i m s a v w
    refine ⟨telltaleSample_unsampled k i m, fun h hm hth => ?_, fun h hm hth => ?_, fun h hm hth => ?_⟩
    · rw [telltaleSample_sampled k i m h]
      simp only
      rw [if_neg hm, if_neg (by omega)]
      rfl
    · rw [telltaleSample_sampled k i m h]
      simp only
      rw [if_neg hm, if_pos hth]
      rfl
    · rw [telltaleSample_sampled k i m h]
      simp only
      rw [if_pos hm, if_pos (by rw [hm]; exact hth)]
      rfl
  case crossing =>
    intro r p ts s a ok
    refine ⟨fun n t hn ht hbad => ?_, fun h8 hbad => ?_⟩
    · obtain ⟨hn8, -⟩ := List.getElem?_eq_some_iff.1 hn
      have hlt : n < 8 := lt_of_lt_of_le hn8 (List.length_take_le ..)
      have hfirst := alignTry_first (ts := ts.take 8) hn ht (fun m x hm hx => hbad m x hm (by rwa [List.getElem?_take_of_lt (by omega)] at hx)) 0
      rw [Nat.zero_add] at hfirst
      refine ⟨fun ha => ?_, fun ha => ?_⟩
      · rw [crossingAlignment_locks s hfirst, if_neg (by simp [ha])]
      · rw [crossingAlignment_locks s hfirst, if_pos ha]; rfl
    · have hnone := alignTry_none (ts := ts.take 8) hbad 0
      obtain ⟨hrec, hlock, hhalt⟩ := crossingFailed_facts s r.val p.val ts
      refine ⟨fun ha => ?_, fun ha => ⟨crossingFailed s r.val p.val ts, ?_, hrec, hlock, hhalt⟩⟩
      · rw [crossingAlignment_fails s hnone h8, if_neg (by simp [ha])]
      · rw [crossingAlignment_fails s hnone h8, if_pos ha]
  case inject =>
    intro c v s
    have he : fld v.toNat 16 4 < 16 := fld_lt ..
    have hx : fld v.toNat 0 7 < 128 := fld_lt ..
    have harm : (if fld v.toNat 16 4 < 4 ∨ (fld v.toNat 16 4 < 6 ∧ fld v.toNat 0 7 < 64) then fld v.toNat 31 1 else 0) < 2 := by
      split
      · exact fld_lt ..
      · omega
    obtain ⟨h31, h16, h0⟩ := pack_inject harm he hx
    refine ⟨rfl, _, rfl, rfl, fun x hx => rg_setRg_ne s hx _, ?_, ?_, ?_⟩
    · exact (rf_setRg_same _ _ _ (by omega)).trans h16
    · exact (rf_setRg_same _ _ _ (by omega)).trans h0
    · exact (rf_setRg_same _ _ _ (by omega)).trans h31
  case arrival =>
    intro pl d o p fl sd s hp k v
    refine ⟨fun hh => ?_, fun hh x hx => ?_, fun hh hx => ?_⟩
    · rw [bridleFlitReceive_eq pl d o fl sd hp, if_pos hh]
    · rw [bridleFlitReceive_eq pl d o fl sd hp, if_neg (by simp [hh])]
      have hdue : dueFlight (flitsFired (runTo s p.val)) pl d o = some x := hx
      unfold flitArrives
      rw [hdue]
      rfl
    · rw [bridleFlitReceive_eq pl d o fl sd hp, if_neg (by simp [hh])]
      have hdue : dueFlight (flitsFired (runTo s p.val)) pl d o = none := hx
      unfold flitArrives
      rw [hdue]
      rfl

end Sys2Proof.Machine
end

section
/-!
PROOFS. The statements of the architecture and the plan: a plan's intake snapshot, its posting and its token sampling. First what
the operations of serving do to an envelope's block and its rings, then each event in the state that the statement names, then the
theorem that settles the statement.
-/
namespace Sys2Proof.Machine
open Sys2Proof

/-! ### Messages, rings and faults of an envelope -/

/-- Sending a message for each entry of a list changes nothing but what is sent. -/
theorem foldl_emit {α : Type} (l : List α) (g : α → Out) (s : State) :
    l.foldl (fun s a => emit s (g a)) s = { s with sent := s.sent ++ l.map g } := by
  induction l generalizing s with
  | nil => simp
  | cons a l ih => rw [List.foldl_cons, ih]; simp [emit]

theorem srv_foldl_emit {α : Type} (l : List α) (g : α → Out) (s : State) (d : Nat) : srv (l.foldl (fun s a => emit s (g a)) s) d = srv s d := by
  rw [foldl_emit]; rfl

/-- A posted write changes nothing but what is sent. -/
theorem hostWrite_ex (s : State) (f addr : Nat) (d : List Byte) : ∃ o, hostWrite s f addr d = { s with sent := o } := by
  unfold hostWrite
  split
  · exact ⟨s.sent, rfl⟩
  · exact ⟨_, rfl⟩

/-- A vector fired leaves serving, memory and the records. -/
theorem msix_leaves (s : State) (f v : Nat) : (msix s f v).srvs = s.srvs ∧ (msix s f v).mem = s.mem ∧ (msix s f v).faults = s.faults := by
  obtain ⟨r, l, o, h⟩ := msix_ex s f v
  rw [h]; exact ⟨rfl, rfl, rfl⟩

theorem srv_congr {s t : State} (h : t.srvs = s.srvs) (e : Nat) : srv t e = srv s e := by unfold srv; rw [h]
theorem ring_congr {s t : State} (h : t.srvs = s.srvs) (e k : Nat) : ring t e k = ring s e k := by unfold ring; rw [srv_congr h]
theorem ring_modRing_same (s : State) (e k : Nat) (f : Ring → Ring) : ring (modRing s e k f) e k = f (ring s e k) := by
  unfold ring modRing; rw [srv_modSrv_same]; exact tget_tset_same ..
theorem ring_modRing_ne (s : State) (e : Nat) {k j : Nat} (h : j ≠ k) (f : Ring → Ring) : ring (modRing s e k f) e j = ring s e j := by
  unfold ring modRing; rw [srv_modSrv_same]; exact tget_tset_ne _ _ h _
theorem posts_modRing (s : State) (e k : Nat) (f : Ring → Ring) : (srv (modRing s e k f) e).posts = (srv s e).posts := by
  unfold modRing; rw [srv_modSrv_same]
/-- The rings are one part of an envelope's block. -/
theorem ring_modSrv (s : State) (e : Nat) (f : Srv → Srv) (h : (f (srv s e)).rings = (srv s e).rings) (j : Nat) :
    ring (modSrv s e f) e j = ring s e j := by
  unfold ring; rw [srv_modSrv_same, h]

/-- A serving fault after changes of the envelope's block alone is a record of the state before them. -/
theorem raiseSrv_recorded (s : State) (x : Tbl Srv) (e code sev : Nat) (d : List (Nat × Nat × Nat)) :
    Recorded s (raiseSrv { s with srvs := x } e code sev d) code sev := raise_recorded ..
theorem srv_raiseSrv (s : State) (e code sev : Nat) (d : List (Nat × Nat × Nat)) (i : Nat) : srv (raiseSrv s e code sev d) i = srv s i := rfl
theorem ring_raiseSrv (s : State) (e code sev : Nat) (d : List (Nat × Nat × Nat)) (i k : Nat) : ring (raiseSrv s e code sev d) i k = ring s i k := rfl

/-! ### The intake snapshot (R34, R334, R336) -/

/-- Without a twin nothing is mirrored (R344). -/
theorem mirror_unpaired {s : State} (h : paired s = false) (item e : Nat) (bs : List Byte) : mirror s item e bs = s := by
  unfold mirror; rw [if_pos (by rw [h]; rfl)]

theorem foldl_mirror_unpaired {s : State} (h : paired s = false) (l : List Taken) (e : Nat) :
    l.foldl (fun s t => mirror s (8 * t.lsn) e (entryBytes t)) s = s := by
  induction l with
  | nil => rfl
  | cons t l ih => rw [List.foldl_cons, mirror_unpaired h]; exact ih

/-- A replay begins no snapshot: that of the voided step stands as taken, with its records (R34). -/
def snapReplayed (s : State) (e : Nat) : State := modSrv s e fun v => { v with snap := { v.snap with phase := 3, step := stepNo s } }

theorem intakeSnapshot_due {e : Fin 16} {s : State} (hph : s.phase = 0) (hp : planOn s = true) (ht : frameTick s = rf s (srvA e.val 0x008) 41 23)
    (hn : (srv s e.val).snap.phase = 0 ∨ (srv s e.val).snap.step ≠ stepNo s) :
    exec (.intakeSnapshot e) s = .next (if s.vote.replay = true then
      (srv s e.val).snap.reqs.foldl (fun s t => mirror s (8 * t.lsn) e.val (entryBytes t)) (snapReplayed s e.val)
      else startSnap s e.val) := by
  show execIntakeSnapshot e s = _
  unfold execIntakeSnapshot
  have hnew : ((srv s e.val).snap.phase != 0 && (srv s e.val).snap.step == stepNo s) = false := by
    rcases hn with h | h <;> simp [h]
  rw [whenAt_now s 0 hph.symm]
  simp only
  rw [if_neg (by simp [hp, ht, hnew])]
  rfl

/-- The state in which the reads of phase 1 are outstanding: they are sent, and the snapshot lists them (R334). -/
theorem issueReads_eq (s : State) (e : Nat) : issueReads s e =
    { modSrv s e (fun v => { v with snap := { v.snap with out := (phase1Reads s e).map (·.1) } }) with
      sent := s.sent ++ (phase1Reads s e).map fun r => .hostRead r.1 (e + 1) r.2.1 r.2.2 } :=
  foldl_emit ..

theorem issueReads_sent (s : State) (e : Nat) :
    (issueReads s e).sent = s.sent ++ (phase1Reads s e).map fun r => .hostRead r.1 (e + 1) r.2.1 r.2.2 := by rw [issueReads_eq]
theorem issueReads_faults (s : State) (e : Nat) : (issueReads s e).faults = s.faults := by rw [issueReads_eq]; rfl
theorem srv_issueReads (s : State) (e : Nat) :
    srv (issueReads s e) e = { srv s e with snap := { (srv s e).snap with out := (phase1Reads s e).map (·.1) } } :=
  (srv_foldl_emit ..).trans (srv_modSrv_same ..)

/-- With a read outstanding the snapshot stays in its phase. -/
theorem snapAdvance_outstanding {s : State} {e : Nat} (h : (srv s e).snap.out ≠ []) : snapAdvance s e = s := by
  unfold snapAdvance; exact if_pos h

theorem startSnap_issues {s : State} {e : Nat} (hm : podRole (snapBegin s e) ≠ 2) (hr : hostReach (snapBegin s e) (e + 1) = true)
    (hl : phase1Reads (snapBegin s e) e ≠ []) : startSnap s e = issueReads (snapBegin s e) e := by
  unfold startSnap
  simp only
  rw [if_neg hm, if_neg (by simp [hr])]
  refine snapAdvance_outstanding ?_
  rw [srv_issueReads]
  simpa using hl

/-- A failed read is a record of 0x0B02 and no longer outstanding (R334). -/
theorem snapFail_facts (s : State) (e t : Nat) : Recorded s (snapFail s e t) 0x0B02 1 ∧
    (srv (snapFail s e t) e).snap = { (srv s e).snap with out := (srv s e).snap.out.filter fun x => x != t } := by
  refine ⟨raiseSrv_recorded s _ e 0x0B02 1 _, ?_⟩
  unfold snapFail raise0B02
  rw [srv_raiseSrv, srv_modSrv_same]

/-! ### Posting (R339) -/

/-- The device that is no member writes its records itself, and only what is sent changes. -/
theorem writeRecs_ex {s : State} (h : podRole s ≠ 2) (e k : Nat) (l : List (Nat × BitVec 512)) : ∃ o, writeRecs s e k l = { s with sent := o } := by
  unfold writeRecs
  simp only
  rw [if_neg h]
  generalize ring s e k = r
  clear h
  induction l generalizing s with
  | nil => exact ⟨s.sent, rfl⟩
  | cons q l ih =>
    rw [List.foldl_cons]
    obtain ⟨o, ho⟩ := hostWrite_ex s (e + 1) (r.cmp + 64 * (q.1 % max (cmpSize r) 1) + 8) ((leBytes 64 q.2.toNat).drop 8)
    obtain ⟨p, hp⟩ := hostWrite_ex { s with sent := o } (e + 1) (r.cmp + 64 * (q.1 % max (cmpSize r) 1)) ((leBytes 64 q.2.toNat).take 8)
    rw [ho, hp]
    exact ih

/-- A ring that has let its postable records go. -/
def ringPosted (s : State) (e k : Nat) (r : Ring) : Ring :=
  { r with queue := r.queue.drop (postable s e k).length, posted := match (postable s e k).getLast? with | some q => q.1 + 1 | none => r.posted }

/-- The records of a ring are gone from its queue and stand among the writes of the posting. -/
def queuePosted (s : State) (e k : Nat) : State :=
  modSrv (modRing s e k (ringPosted s e k)) e fun v => { v with posts := v.posts ++ (postable s e k).map fun q => (k, 0, q.1, q.2) }

theorem queuePosted_leaves (s : State) (e k : Nat) : (queuePosted s e k).mem = s.mem ∧ (queuePosted s e k).faults = s.faults := by
  unfold queuePosted modRing; simp only [modSrv_mem, modSrv_faults, and_self]

/-- Beside that, posting a ring sends the records and fires the ring's vector. -/
theorem postRing_leaves {s : State} (h : podRole s ≠ 2) (e k : Nat) :
    (postRing s e k).srvs = (queuePosted s e k).srvs ∧ (postRing s e k).mem = s.mem ∧ (postRing s e k).faults = s.faults := by
  obtain ⟨o, ho⟩ := writeRecs_ex h e k (postable s e k)
  have hp : postRing s e k = if postable s e k = [] ∨ podRole s = 2 then { queuePosted s e k with sent := o }
      else msix { queuePosted s e k with sent := o } (e + 1) k := by
    unfold postRing; simp only; rw [ho]; rfl
  obtain ⟨hmem, hfaults⟩ := queuePosted_leaves s e k
  obtain ⟨hs, hm, hf⟩ := msix_leaves { queuePosted s e k with sent := o } (e + 1) k
  rw [hp]
  split
  · exact ⟨rfl, hmem, hfaults⟩
  · exact ⟨hs, hm.trans hmem, hf.trans hfaults⟩

theorem ring_queuePosted (s : State) (e k : Nat) : ring (queuePosted s e k) e k = ringPosted s e k (ring s e k) :=
  (ring_modSrv _ e _ rfl k).trans (ring_modRing_same ..)
theorem ring_queuePosted_ne (s : State) (e : Nat) {k j : Nat} (h : j ≠ k) : ring (queuePosted s e k) e j = ring s e j :=
  (ring_modSrv _ e _ rfl j).trans (ring_modRing_ne s e h _)
theorem posts_queuePosted (s : State) (e k : Nat) :
    (srv (queuePosted s e k) e).posts = (srv s e).posts ++ (postable s e k).map fun q => (k, 0, q.1, q.2) := by
  unfold queuePosted; rw [srv_modSrv_same, posts_modRing]

/-- The consumed words of the registered rings go out (R339). -/
def postConsumed (s : State) (e : Nat) : State :=
  (regRings s e).foldl (fun s k => modSrv (postWord s e k 1 (ring s e k).consA (ring s e k).nextR) e fun v => { v with posts := v.posts ++ [(k, 1, 0, 0)] }) s

/-- Vector 17 fires where a registration was answered in the step (R403). -/
def postRegistered (s : State) (e : Nat) : State :=
  if (srv s e).regPost then msix (modSrv s e fun v => { v with regPost := false }) (e + 1) 17 else s

/-- What a posting begins with: no write of an earlier one is under way. -/
def postBegin (s : State) (e : Nat) : State := modSrv s e fun v => { v with posts := [] }

/-- 0x0B03 of the first registered ring, where the device may not write host memory (R397, R399). -/
def postRefused (s : State) (e : Nat) : State :=
  match regRings s e with
  | k :: _ => raiseSrv s e 0x0B03 1 [(0, 1, k), (1, 1, if (ring s e k).queue = [] then 1 else 0), (8, 8, ((ring s e k).queue.headD (0, 0)).1)]
  | [] => s

/-- The records of the registered rings go out, ring by ring. -/
def postRings (s : State) (e : Nat) : State := (regRings s e).foldl (fun s k => postRing s e k) s

theorem posting_due {e : Fin 16} {s : State} (hph : s.phase = 0) (hp : planOn s = true) (ht : frameTick s = rf s (srvA e.val 0x008) 18 23) :
    exec (.posting e) s = .next (
      if podRole (postBegin s e.val) ≠ 2 ∧ !hostReach (postBegin s e.val) (e.val + 1) then postRefused (postBegin s e.val) e.val
      else postRegistered (postExport (postConsumed (postRings (postBegin s e.val) e.val) e.val) e.val) e.val) := by
  show execPosting e s = _
  unfold execPosting
  rw [whenAt_now s 0 hph.symm]
  simp only
  rw [if_neg (by simp [hp, ht])]
  rfl

theorem posting_refused {e : Fin 16} {s : State} (hph : s.phase = 0) (hp : planOn s = true) (ht : frameTick s = rf s (srvA e.val 0x008) 18 23)
    (hrole : podRole (postBegin s e.val) ≠ 2) (hreach : hostReach (postBegin s e.val) (e.val + 1) = false) :
    exec (.posting e) s = .next (postRefused (postBegin s e.val) e.val) := by
  rw [posting_due hph hp ht, if_pos ⟨hrole, by rw [hreach]; rfl⟩]

theorem posting_runs {e : Fin 16} {s : State} (hph : s.phase = 0) (hp : planOn s = true) (ht : frameTick s = rf s (srvA e.val 0x008) 18 23)
    (hmay : podRole (postBegin s e.val) = 2 ∨ hostReach (postBegin s e.val) (e.val + 1) = true) :
    exec (.posting e) s = .next (postRegistered (postExport (postConsumed (postRings (postBegin s e.val) e.val) e.val) e.val) e.val) := by
  rw [posting_due hph hp ht, if_neg]
  rcases hmay with h | h
  · exact fun hno => hno.1 h
  · rw [h]; exact fun hno => absurd hno.2 (by decide)

theorem postRefused_records {s : State} {e k : Nat} {l : List Nat} (h : regRings (postBegin s e) e = k :: l) :
    Recorded s (postRefused (postBegin s e) e) 0x0B03 1 ∧ (postRefused (postBegin s e) e).sent = s.sent ∧
      srv (postRefused (postBegin s e) e) e = { srv s e with posts := [] } := by
  unfold postRefused
  rw [h]
  exact ⟨raiseSrv_recorded s _ e 0x0B03 1 _, rfl, (srv_raiseSrv ..).trans (srv_modSrv_same ..)⟩

/-- One record's write that did not complete: it is the next to post again. -/
def recordBack (s : State) (e k q : Nat) (b : BitVec 512) : State :=
  postBegin (modRing s e k fun r => { r with queue := (q, b) :: r.queue, posted := q }) e

theorem ring_recordBack (s : State) (e k q : Nat) (b : BitVec 512) :
    ring (recordBack s e k q b) e k = { ring s e k with queue := (q, b) :: (ring s e k).queue, posted := q } :=
  (ring_modSrv _ e _ rfl k).trans (ring_modRing_same ..)

theorem postingTimeout_none {e : Fin 16} {n : Nat} {s : State} (h : (srv s e.val).posts.drop n = []) : exec (.postingTimeout e n) s = .next s := by
  show execPostingTimeout e n s = _
  unfold execPostingTimeout
  simp only
  rw [h]

theorem postingTimeout_record {e : Fin 16} {n k q : Nat} {b : BitVec 512} {s : State} (hp : planOn s = true)
    (ht : rf s (srvA e.val 0x008) 18 23 + rf s (srvA e.val 0x018) 18 23 ≤ frameTick s) (h : (srv s e.val).posts.drop n = [(k, 0, q, b)]) :
    exec (.postingTimeout e n) s = .next (raiseSrv (recordBack s e.val k q b) e.val 0x0B03 1 [(0, 1, k), (1, 1, 0), (8, 8, q)]) := by
  show execPostingTimeout e n s = _
  unfold execPostingTimeout
  simp only
  rw [h]
  simp only
  rw [if_neg (by simp [hp, ht])]
  rfl

/-! ### Token sampling (R340, R348, R349, R364) -/

/-- What a TOKEN_SAMPLE does to a stream that is not held, by the stream's state. -/
def tokenTurn (s : State) (e z : Nat) (lg st : List (BitVec 32)) (np : Bool) : State :=
  let g := tget {} (srv s e).p.gens z
  let n := pword s z 2
  match pState s z with
  | 3 =>
    if !g.drawn then sampleAt s e z n lg st
    else if np && n % 256 == 0 then pendFld (tokenRec s e z g.pos g.tok g.val 4) z 1 28 4 1
    else sampleAt (pendWord (listPositions s e z n (n + 1)) z 2 (n + 1)) e z (n + 1) lg st
  | 2 =>
    if bitAt (pword s z 1) 14 && decide (pword s z 9 ≤ rf s (srvA e 0x010) 18 13) then sampleAt s e z (n + pword s z 9) lg st else s
  | _ => s

theorem tokenSample_runs {e : Fin 16} {z : BitVec 13} (lg st : List (BitVec 32)) (np : Bool) {s : State} (hp : planOn s = true) (hc : inCommit s = false)
    (ho : ownsStream s e.val z.toNat = true) (h1 : ((srv s e.val).toks.any fun t => t.1 == z.toNat) = false)
    (hr : ringHeld s e.val (fld (pword s z.toNat 1) 16 4) = false) (hh : s.heldStreams.contains z.toNat = false) :
    exec (.tokenSample e z lg st np) s = .next (tokenTurn s e.val z.toNat lg st np) := by
  show execTokenSample e z lg st np s = _
  unfold execTokenSample
  simp only
  rw [if_neg (by rw [hp, hc, ho, h1, hr, hh]; decide)]
  rfl

section
variable {s : State} {e z : Nat} (lg st : List (BitVec 32))

theorem tokenTurn_first (np : Bool) (h : pState s z = 3) (hd : (tget {} (srv s e).p.gens z).drawn = false) :
    tokenTurn s e z lg st np = sampleAt s e z (pword s z 2) lg st := by
  unfold tokenTurn; rw [h]; exact if_pos (by rw [hd]; rfl)
theorem tokenTurn_noPane {np : Bool} (h : pState s z = 3) (hd : (tget {} (srv s e).p.gens z).drawn = true) (hn : np = true) (hl : pword s z 2 % 256 = 0) :
    tokenTurn s e z lg st np = pendFld (tokenRec s e z (tget {} (srv s e).p.gens z).pos (tget {} (srv s e).p.gens z).tok (tget {} (srv s e).p.gens z).val 4) z 1 28 4 1 := by
  unfold tokenTurn; rw [h]; simp only; rw [if_neg (by simp [hd]), if_pos (by simp [hn, hl])]
theorem tokenTurn_next {np : Bool} (h : pState s z = 3) (hd : (tget {} (srv s e).p.gens z).drawn = true) (hn : np = false ∨ pword s z 2 % 256 ≠ 0) :
    tokenTurn s e z lg st np = sampleAt (pendWord (listPositions s e z (pword s z 2) (pword s z 2 + 1)) z 2 (pword s z 2 + 1)) e z (pword s z 2 + 1) lg st := by
  have hroom : (np && pword s z 2 % 256 == 0) = false := by rcases hn with h | h <;> simp [h]
  unfold tokenTurn; rw [h]; simp only; rw [if_neg (by simp [hd]), if_neg (by simp [hroom])]
theorem tokenTurn_prefilled (np : Bool) (h : pState s z = 2) (hg : bitAt (pword s z 1) 14 = true) (hq : pword s z 9 ≤ rf s (srvA e 0x010) 18 13) :
    tokenTurn s e z lg st np = sampleAt s e z (pword s z 2 + pword s z 9) lg st := by
  unfold tokenTurn; rw [h]; exact if_pos (by simp [hg, hq])
theorem tokenTurn_idle (np : Bool) (h : pState s z = 1) : tokenTurn s e z lg st np = s := by
  unfold tokenTurn; simp only [h]
end

/-! ### A token drawn (R349, R364) -/

section
variable (s : State) (e z p : Nat) (lg st : List (BitVec 32))

/-- The token of a position and its value. -/
def drawnAt : Nat × W32 :=
  drawToken (pword s z 5 + 2 ^ 32 * pword s z 6) z e p (pword s z 8) (fld (pword s z 1) 9 4) (pword s z 7) lg

/-- Why the generation ends with a token: 1 a stop token, 2 the count of new tokens, 3 the last position, 0 not yet (R349). -/
def endReason : Nat :=
  if bitAt (pword s z 1) 13 && st.contains (BitVec.ofNat 32 (drawnAt s e z p lg).1) then 1
  else if fld (pword s z 10) 0 16 ≠ 0 ∧ fld (pword s z 10) 0 16 ≤ pword s z 11 + 1 then 2 else if maxPos s e ≤ p then 3 else 0

/-- The generation ends with the token. -/
def genEnds : Prop :=
  (bitAt (pword s z 1) 13 = true ∧ BitVec.ofNat 32 (drawnAt s e z p lg).1 ∈ st) ∨
    (fld (pword s z 10) 0 16 ≠ 0 ∧ fld (pword s z 10) 0 16 ≤ pword s z 11 + 1) ∨ maxPos s e ≤ p

theorem endReason_eq_zero_iff : endReason s e z p lg st = 0 ↔ ¬ genEnds s e z p lg st := by
  unfold endReason genEnds
  split <;> rename_i h1
  · simp only [Bool.and_eq_true, List.contains_iff_mem] at h1
    simp [h1]
  · simp only [Bool.and_eq_true, List.contains_iff_mem] at h1
    split <;> rename_i h2
    · simp [h2]
    · split <;> rename_i h3
      · simp [h3]
      · simp only [true_iff, not_or]; exact ⟨h1, h2, h3⟩

/-- The token is counted and posted, and the generation holds it. -/
def tokenDrawn : State :=
  tokenRec (pendWord s z 11 (pword s z 11 + 1)) e z p (drawnAt s e z p lg).1 (drawnAt s e z p lg).2.toNat (endReason s e z p lg st)

/-- A stream whose generation ends leaves DECODE and generates no more (R349). -/
def endGeneration (s : State) (z : Nat) : State :=
  if pState s z = 3 then pendFld (pendFld s z 1 14 1 0) z 1 28 4 1 else pendFld s z 1 14 1 0

theorem sampleAt_eq : sampleAt s e z p lg st =
    if endReason s e z p lg st = 0 then tokenDrawn s e z p lg st else endGeneration (tokenDrawn s e z p lg st) z := rfl

theorem srv_endGeneration (d : Nat) : srv (endGeneration s z) d = srv s d := by
  unfold endGeneration; split <;> rfl
theorem pword_endGeneration {y w : Nat} (h : 16 * y + w ≠ 16 * z + 1) : pword (endGeneration s z) y w = pword s y w := by
  unfold endGeneration
  split
  · rw [pword_pendFld_ne _ h, pword_pendFld_ne _ h]
  · exact pword_pendFld_ne _ h ..
theorem generates_endGeneration : fld (pword (endGeneration s z) z 1) 14 1 = 0 := by
  unfold endGeneration
  split
  · exact (pfld_below _ _ _ _ (by omega) (by omega)).trans (pfld_same _ _ _ _ (by omega))
  · exact pfld_same _ _ _ _ (by omega)
theorem pState_endGeneration (h : pState s z = 3) : pState (endGeneration s z) z = 1 := by
  unfold endGeneration
  rw [if_pos h]
  exact pfld_same _ _ _ _ (by omega)

theorem pword_tokenDrawn (y w : Nat) :
    pword (tokenDrawn s e z p lg st) y w = if 16 * y + w = 16 * z + 11 then (pword s z 11 + 1) % 2 ^ 32 else pword s y w :=
  pword_pendWord ..
theorem toks_tokenDrawn : ∃ r, (srv (tokenDrawn s e z p lg st) e).toks = (srv s e).toks ++ [r] ∧ r.1 = z := by
  unfold tokenDrawn tokenRec
  simp only
  rw [srv_modSrv_same]
  exact ⟨_, rfl, rfl⟩
theorem gen_tokenDrawn : tget {} (srv (tokenDrawn s e z p lg st) e).p.gens z =
    { tget {} (srv s e).p.gens z with drawn := true, pos := p, tok := (drawnAt s e z p lg).1, val := (drawnAt s e z p lg).2.toNat } := by
  unfold tokenDrawn tokenRec
  simp only
  rw [srv_modSrv_same]
  exact tget_tset_same ..
/-- Word 1 of the stream, which holds its state, stays. -/
theorem pword_tokenDrawn_one : pword (tokenDrawn s e z p lg st) z 1 = pword s z 1 := by
  rw [pword_tokenDrawn, if_neg (by omega)]

theorem srv_sampleAt (d : Nat) : srv (sampleAt s e z p lg st) d = srv (tokenDrawn s e z p lg st) d := by
  rw [sampleAt_eq]
  split
  · rfl
  · exact srv_endGeneration ..
theorem pword_sampleAt {y w : Nat} (h : 16 * y + w ≠ 16 * z + 1) : pword (sampleAt s e z p lg st) y w = pword (tokenDrawn s e z p lg st) y w := by
  rw [sampleAt_eq]
  split
  · rfl
  · exact pword_endGeneration _ _ h
end

/-! ### The statement -/

/-- Settles O45: a snapshot begins by `intakeSnapshot_due` and `startSnap_issues`, a posting by `posting_refused` with
`postRefused_records` and by `posting_runs`, a ring's records leave by `postRing_leaves`, a stream
takes its turn by `tokenSample_runs`, and a token is drawn by `sampleAt_eq`. -/
theorem intakePostingAndSampling : Obligations.IntakePostingAndSampling := by
  refine ⟨?intake, ?timeout, snapFail_facts, ?posting, ?ring, ?lost, ?sample, ?token⟩
  case intake =>
    intro e s hph hp ht hn
    refine ⟨fun hr hm => ?_, fun hr => ?_⟩
    · rw [intakeSnapshot_due hph hp ht hn, if_pos hr]
      exact congrArg Host.Outcome.next (foldl_mirror_unpaired (s := snapReplayed s e.val) hm _ _)
    intro w hrole hreach hreads
    refine ⟨issueReads w e.val, ?_, issueReads_sent .., srv_issueReads .., issueReads_faults ..⟩
    rw [intakeSnapshot_due hph hp ht hn, if_neg (by simp [hr]), startSnap_issues hrole hreach hreads]
  case timeout =>
    intro e s n
    refine ⟨fun hout hspan => ?_, fun h => ?_⟩
    · exact congrArg Host.Outcome.next (if_neg (not_or.2 ⟨hout, Nat.not_lt.2 hspan⟩))
    · exact congrArg Host.Outcome.next (if_pos h)
  case posting =>
    intro e s hph hp ht v
    refine ⟨fun k l hrole hreach hrings => ⟨_, posting_refused hph hp ht hrole hreach, postRefused_records hrings⟩, fun hmay => ?_⟩
    intro x y z
    have hruns : exec (.posting e) s = .next (postRegistered z e.val) := posting_runs hph hp ht hmay
    exact ⟨fun hr => hruns.trans (congrArg _ (if_neg (by rw [hr]; decide))), fun hr => hruns.trans (congrArg _ (if_pos hr))⟩
  case ring =>
    intro s e k hrole r go t
    obtain ⟨hsrvs, hmem, hfaults⟩ := postRing_leaves hrole e k
    exact ⟨(ring_congr hsrvs e k).trans (ring_queuePosted s e k), fun j hj => (ring_congr hsrvs e j).trans (ring_queuePosted_ne s e hj),
      (congrArg Srv.posts (srv_congr hsrvs e)).trans (posts_queuePosted s e k), hmem, hfaults⟩
  case lost =>
    intro e n s
    refine ⟨postingTimeout_none, fun k q b hp ht h => ⟨_, postingTimeout_record hp ht h, ?_, ?_, ?_⟩⟩
    · exact raiseSrv_recorded s _ e.val 0x0B03 1 _
    · exact (ring_raiseSrv ..).trans (ring_recordBack ..)
    · rw [srv_raiseSrv]; unfold recordBack postBegin; rw [srv_modSrv_same]
  case sample =>
    intro e z lg st np s hp hc ho h1 hr hh g n
    rw [tokenSample_runs lg st np hp hc ho h1 hr hh]
    exact ⟨fun h hd => congrArg _ (tokenTurn_first lg st np h hd), fun h hd hn hl => congrArg _ (tokenTurn_noPane lg st h hd hn hl),
      fun h hd hn => congrArg _ (tokenTurn_next lg st h hd hn), fun h hg hq => congrArg _ (tokenTurn_prefilled lg st np h hg hq),
      fun h => congrArg _ (tokenTurn_idle lg st np h)⟩
  case token =>
    intro s e z p lg st t d ends
    have hsrv : srv t e = srv (tokenDrawn s e z p lg st) e := srv_sampleAt ..
    have hgen := gen_tokenDrawn s e z p lg st
    refine ⟨?_, ?_, ?_, fun hgo => ?_, fun hend => ?_, fun y w h1 h11 => ?_⟩
    · exact (pword_sampleAt s e z p lg st (by omega)).trans ((pword_tokenDrawn ..).trans (if_pos rfl))
    · rw [hsrv]; exact toks_tokenDrawn ..
    · rw [hsrv, hgen]; exact ⟨rfl, rfl, rfl, rfl⟩
    · have ht : t = tokenDrawn s e z p lg st := (sampleAt_eq ..).trans (if_pos ((endReason_eq_zero_iff ..).2 hgo))
      rw [ht]; exact pword_tokenDrawn_one ..
    · have ht : t = endGeneration (tokenDrawn s e z p lg st) z :=
        (sampleAt_eq ..).trans (if_neg fun h => (endReason_eq_zero_iff s e z p lg st).1 h hend)
      rw [ht]
      refine ⟨generates_endGeneration _ _, fun h3 => pState_endGeneration _ _ ?_⟩
      unfold pState; rw [pword_tokenDrawn_one]; exact h3
    · exact (pword_sampleAt s e z p lg st h1).trans ((pword_tokenDrawn ..).trans (if_neg h11))

end Sys2Proof.Machine
end

section
/-!
PROOFS. The statements of the tick, of alarms, pins and launch writes, and of acquisition and references (chapter 2): for each family
first what its operations do, then the theorem that settles its statement.
-/
namespace Sys2Proof.Machine
open Sys2Proof

/-! ### The tick (R43, R44, R46, R55, R439) -/

theorem takeRef_none {s : State} (h : s.tether.refNext = none) : takeRef s = s := by unfold takeRef; rw [h]
theorem takeRef_some {s : State} {r : Nat} (h : s.tether.refNext = some r) :
    takeRef s = { setRf s (clkA 0x000) 8 2 r with tether := { s.tether with refNext := none } } := by unfold takeRef; rw [h]

/-- A switch of reference writes CLK_STAT alone of the registers, and the waiting switch. -/
theorem takeRef_only (s : State) : takeRef s = { s with regs := (takeRef s).regs, tether := (takeRef s).tether } := by
  cases h : s.tether.refNext with
  | none => rw [takeRef_none h]
  | some r => rw [takeRef_some h]; rfl
theorem rg_takeRef_ne {s : State} {a : Nat} (ha : a ≠ clkA 0x000) : rg (takeRef s) a = rg s a := by
  cases h : s.tether.refNext with
  | none => rw [takeRef_none h]
  | some r => rw [takeRef_some h]; exact rg_setRf_ne s ha 8 2 r

/-- The counts of a tick that begins: KEL_UPTIME, and TT_COUNT once it is acquired. -/
def counted (s : State) : State := countTick (countUptime s)

theorem rg_countUptime (s : State) (a : Nat) :
    rg (countUptime s) a = if a = kelA 0x110 then (rg s (kelA 0x110) + 1) % 2 ^ 64 else rg s a := by
  rw [← Nat.mod_mod (rg s (kelA 0x110) + 1) (2 ^ 64)]
  exact rg_setRg s ..

theorem acquired_countUptime (s : State) : acquired (countUptime s) = acquired s := by
  unfold acquired rf; rw [rg_countUptime, if_neg (by decide)]
theorem ttc_countUptime (s : State) : ttc (countUptime s) = ttc s := by
  unfold ttc; rw [rg_countUptime, if_neg (by decide)]

theorem counted_eq (s : State) :
    counted s = if acquired s = true then setRg (countUptime s) (ttA 0x000) ((ttc s + 1) % 2 ^ 64) else countUptime s := by
  unfold counted countTick
  rw [← acquired_countUptime, ttc_countUptime]
  unfold acquired
  simp only [beq_iff_eq]

theorem counted_only (s : State) : counted s = { s with phase := 0, regs := (counted s).regs } := by
  rw [counted_eq]
  split
  · exact setRg_only (s := { s with phase := 0 }) rfl ..
  · rfl
theorem rg_counted_ne {s : State} {a : Nat} (h : a ≠ ttA 0x000) : rg (counted s) a = rg (countUptime s) a := by
  rw [counted_eq]
  split
  · exact rg_setRg_ne _ h _
  · rfl
theorem ttc_counted (s : State) : ttc (counted s) = if acquired s = true then (ttc s + 1) % 2 ^ 64 else ttc s := by
  rw [counted_eq]
  split
  · exact (rg_setRg_same ..).trans (Nat.mod_mod ..)
  · exact ttc_countUptime s

theorem tsyncPulse_sends (s : State) (b : Bool) : ∃ l, tsyncPulse s b = { s with sent := s.sent ++ l } ∧ ∀ o ∈ l, ∃ b n, o = .tsync b n := by
  unfold tsyncPulse
  extract_lets c pulse
  split
  · exact ⟨[.tsync b (ttc s)], rfl, fun o ho => ⟨b, ttc s, List.mem_singleton.1 ho⟩⟩
  · exact ⟨[], by rw [List.append_nil], fun o ho => absurd ho List.not_mem_nil⟩

/-- After the counts and the reference, a tick that begins sends its pulses and nothing else. -/
theorem nextTick_sends (s : State) :
    ∃ l, nextTick s = { takeRef (counted s) with sent := s.sent ++ l } ∧ ∀ o ∈ l, ∃ b n, o = .tsync b n := by
  obtain ⟨la, ha, hla⟩ := tsyncPulse_sends (takeRef (counted s)) false
  obtain ⟨lb, hb, hlb⟩ := tsyncPulse_sends { takeRef (counted s) with sent := (takeRef (counted s)).sent ++ la } true
  have hsent : (takeRef (counted s)).sent = s.sent := by rw [takeRef_only, counted_only]
  refine ⟨la ++ lb, ?_, fun o ho => (List.mem_append.1 ho).elim (hla o) (hlb o)⟩
  show tsyncPulse (tsyncPulse (takeRef (counted s)) false) true = _
  rw [ha, hb, hsent, List.append_assoc]

/-- Settles O31: the tick is `nextTick` of the finished one (`nextTick_sends`), its counts are `counted`, its reference is `takeRef`. -/
theorem tickAdvancesTheCounts : Obligations.TickAdvancesTheCounts := by
  intro s u
  obtain ⟨l, hl, hpulses⟩ := nextTick_sends u
  have hregs (a : Nat) : rg (nextTick u) a = rg (takeRef (counted u)) a := rg_congr (by rw [hl]) a
  have htether : (nextTick u).tether = (takeRef (counted u)).tether := by rw [hl]
  have hwait : (counted u).tether = u.tether := by rw [counted_only]
  refine ⟨nextTick u, rfl, ?_, ?_, ?_, fun r hr => ?_, fun hn => ?_, ⟨l, ?_, hpulses⟩, fun a hk ht hc => ?_, ?_⟩
  · rw [hl, takeRef_only, counted_only]
  · rw [hregs, rg_takeRef_ne (by decide), rg_counted_ne (by decide), rg_countUptime, if_pos rfl]
  · exact (hregs _).trans ((rg_takeRef_ne (by decide)).trans (ttc_counted u))
  · have htake := takeRef_some ((congrArg Tether.refNext hwait).trans hr)
    refine ⟨?_, ?_⟩
    · unfold rf
      rw [hregs, htake]
      exact rf_setRf_same (counted u) (clkA 0x000) r (by omega)
    · rw [htether, htake, hwait]
  · have htake := takeRef_none ((congrArg Tether.refNext hwait).trans hn)
    refine ⟨?_, ?_⟩
    · rw [htether, htake, hwait]
    · rw [hregs, htake, rg_counted_ne (by decide), rg_countUptime, if_neg (by decide)]
  · rw [hl]
  · rw [hregs, rg_takeRef_ne hc, rg_counted_ne ht, rg_countUptime, if_neg hk]
  · rw [hl, takeRef_only, counted_only]

/-! ### Alarms (R49) -/

theorem mem_setArmed (s : State) (n : Nat) (on : Bool) (k : Nat) :
    k ∈ (setArmed s n on).tether.armed ↔ if k = n then on = true else k ∈ s.tether.armed := by
  show k ∈ s.tether.armed.filter (fun k => k != n) ++ (if on then [n] else []) ↔ _
  rw [List.mem_append, List.mem_filter]
  by_cases hk : k = n
  · subst hk; cases on <;> simp
  · cases on <;> simp [hk]

/-- Arming writes the armed comparators alone. -/
theorem setArmed_only (s : State) (n : Nat) (on : Bool) :
    setArmed s n on = { s with tether := { s.tether with armed := (setArmed s n on).tether.armed } } := rfl

theorem alarm_ne_count (n : Nat) : ttA 0x000 ≠ ttA (0x200 + 16 * n) := by unfold ttA; omega
theorem alarm_ne_config (n : Nat) : ttA (0x208 + 16 * n) ≠ ttA (0x200 + 16 * n) := by unfold ttA; omega

/-- A compare value stored, and the comparator armed where it is greater than TT_COUNT. -/
def alarmSet (s : State) (n v : Nat) : State := setArmed (setRg s (ttA (0x200 + 16 * n)) v) n (decide (ttc s < v))

theorem rg_alarmSet (s : State) (n v a : Nat) : rg (alarmSet s n v) a = rg (setRg s (ttA (0x200 + 16 * n)) v) a := rfl
theorem ttc_alarmSet (s : State) (n v : Nat) : ttc (alarmSet s n v) = ttc s := rg_setRg_ne s (alarm_ne_count n) v

theorem alarmWrite_eq (n : Fin 16) (v : BitVec 64) (s : State) : exec (.alarmWrite n v) s = .next (
    if v.toNat ≤ ttc s then setRf (alarmSet s n.val v.toNat) (ttA (0x208 + 16 * n.val)) 2 1 1 else alarmSet s n.val v.toNat) := by
  show Host.Outcome.next (if v.toNat ≤ ttc (alarmSet s n.val v.toNat) then
    setRf (alarmSet s n.val v.toNat) (ttA (0x208 + 16 * n.val)) 2 1 1 else alarmSet s n.val v.toNat) = _
  rw [ttc_alarmSet]

/-- The state in which comparator n has fired (R49). -/
def alarmFired (s : State) (n : Nat) : State :=
  emit (setRf (setArmed s n false) (ttA (0x208 + 16 * n)) 1 1 1) (.keelIrq "alarm" n)

theorem alarmFire_fires {n : Fin 16} {s : State} (hen : rf s (ttA (0x208 + 16 * n.val)) 0 1 = 1) (ho : alarmOwned s n.val = true)
    (ha : n.val ∈ s.tether.armed) (ht : rg s (ttA (0x200 + 16 * n.val)) = ttc s) :
    exec (.alarmFire n) s = .next (alarmFired s n.val) := by
  show execAlarmFire n s = _
  unfold execAlarmFire
  simp only
  rw [if_pos (by simp [hen, ho, ha, ht])]
  rfl

/-! ### Pins and launch writes (R43, R48) -/

theorem tsyncCapture_stores {b : Bool} {p : Fin 8} {err : Fin 3} {s : State} (hp : p.val = s.phase) (hc : fld (tsyncCfg s b) 0 2 = 1) :
    exec (.tsyncCapture b p err) s =
      .next (setRg s (ttA (if b then 0x050 else 0x048)) ((stamp s + 2 ^ 64 + err.val - 1) % 2 ^ 64)) := by
  show Host.Outcome.next (whenAt s p.val _) = _
  rw [whenAt_now s p.val hp, if_pos hc]

/-- The state in which TT_LAUNCH holds a value. -/
def launchSet (s : State) (v : Nat) : State := setRg s (ttA 0x010) v

theorem ttLaunchWrite_loaded {v : BitVec 64} {s : State} (hl : launched s = false) (hs : secReady s = true) (h5 : rf s (parA 0x000) 60 4 = 5) :
    exec (.ttLaunchWrite v) s = .next (
      if acquired s = true ∧ ttc s + 156250 ≤ v.toNat then setRf (launchSet s v.toNat) (ttA 0x018) 2 1 1
      else raiseTt (launchSet s v.toNat) 0x010C 4 0x00 0 [(0, 8, ttc s), (8, 8, v.toNat)]) := by
  have hpar : rf (launchSet s v.toNat) (parA 0x000) 60 4 = 5 := (congrArg (fun x => fld x 60 4) (rg_setRg_ne s (by decide) _)).trans h5
  have hacq : acquired (launchSet s v.toNat) = acquired s := congrArg (fun x => fld x 1 1 == 1) (rg_setRg_ne s (by decide) _)
  have httc : ttc (launchSet s v.toNat) = ttc s := rg_setRg_ne s (by decide) _
  show execTtLaunchWrite v s = _
  unfold execTtLaunchWrite
  rw [if_neg (by simp [hl, hs])]
  show Host.Outcome.next (if rf (launchSet s v.toNat) (parA 0x000) 60 4 ≠ 5 then launchSet s v.toNat
    else if acquired (launchSet s v.toNat) && decide (ttc (launchSet s v.toNat) + 156250 ≤ v.toNat) then setRf (launchSet s v.toNat) (ttA 0x018) 2 1 1
    else raiseTt (launchSet s v.toNat) 0x010C 4 0x00 0 [(0, 8, ttc (launchSet s v.toNat)), (8, 8, v.toNat)]) = _
  rw [if_neg (by simp [hpar]), hacq, httc]
  simp only [Bool.and_eq_true, decide_eq_true_eq]

/-- Settles O30: a compare value by `alarmWrite_eq`, its firing by `alarmFire_fires`, a stamp by `tsyncCapture_stores` and the launch write
by `ttLaunchWrite_loaded`. -/
theorem alarmsPinsAndLaunchWrites : Obligations.AlarmsPinsAndLaunchWrites := by
  refine ⟨?write, ?fire, ?capture, ?count, ?launch⟩
  case write =>
    intro n v s
    have hne := alarm_ne_config n.val
    have hrg (a : Nat) (ha : a ≠ ttA (0x200 + 16 * n.val)) : rg (alarmSet s n.val v.toNat) a = rg s a := rg_setRg_ne s ha _
    have hval : rg (alarmSet s n.val v.toNat) (ttA (0x200 + 16 * n.val)) = v.toNat := (rg_setRg_same ..).trans (Nat.mod_eq_of_lt v.isLt)
    have hcfg (lo w : Nat) : rf (alarmSet s n.val v.toNat) (ttA (0x208 + 16 * n.val)) lo w = rf s (ttA (0x208 + 16 * n.val)) lo w :=
      congrArg (fun x => fld x lo w) (hrg _ hne)
    have harm (k : Nat) : k ∈ (alarmSet s n.val v.toNat).tether.armed ↔ if k = n.val then decide (ttc s < v.toNat) = true else k ∈ s.tether.armed :=
      mem_setArmed ..
    refine ⟨_, alarmWrite_eq n v s, ?_⟩
    by_cases hpast : v.toNat ≤ ttc s
    · rw [if_pos hpast]
      refine ⟨rfl, ?_, (rf_setRf_same _ _ _ (by omega)).trans (if_pos hpast).symm, ?_, ?_, fun k hk => ?_, fun a ha hc => ?_⟩
      · rw [rg_setRf_ne _ hne.symm, hval]
      · rw [rf_setRf_below _ _ _ (by omega) (by omega), hcfg]
      · exact (harm _).trans (by simp)
      · exact (harm _).trans (by rw [if_neg hk])
      · rw [rg_setRf_ne _ hc, hrg a ha]
    · rw [if_neg hpast]
      refine ⟨rfl, hval, ?_, hcfg 0 2, ?_, fun k hk => ?_, fun a ha _ => hrg a ha⟩
      · rw [if_neg hpast, hcfg]
      · exact (harm _).trans (by simp)
      · exact (harm _).trans (by rw [if_neg hk])
  case fire =>
    intro n s c hen ho ha ht
    refine ⟨_, alarmFire_fires hen ho ha ht, rfl, ?_, ?_, ?_, fun h => ?_, fun k hk => ?_, fun a ha => ?_⟩
    · exact rf_setRf_same (setArmed s n.val false) c 1 (by omega)
    · exact (rf_setRf_below (setArmed s n.val false) c 1 (by omega) (by omega)).trans hen
    · exact rf_setRf_above (setArmed s n.val false) c 1 (by omega) (by omega)
    · have h' := (mem_setArmed s n.val false n.val).1 h
      simp at h'
    · exact (mem_setArmed s n.val false k).trans (by rw [if_neg hk])
    · exact rg_setRf_ne (setArmed s n.val false) ha 1 1 1
  case capture =>
    intro b p err s hp hc h1 h2
    refine ⟨_, tsyncCapture_stores hp hc, rfl, ?_, fun a ha => rg_setRg_ne s ha _⟩
    have herr := err.isLt
    rw [rg_setRg_same]
    omega
  case count =>
    intro v s hu ha
    exact congrArg Host.Outcome.next (if_pos (by simp [hu, ha]))
  case launch =>
    intro v s hl hs h5
    have hlaunch : rg (launchSet s v.toNat) (ttA 0x010) = v.toNat := (rg_setRg_same ..).trans (Nat.mod_eq_of_lt v.isLt)
    refine ⟨_, ttLaunchWrite_loaded hl hs h5, ?_⟩
    by_cases harm : acquired s = true ∧ ttc s + 156250 ≤ v.toNat
    · rw [if_pos harm]
      exact ⟨(rg_setRf_ne _ (by decide) ..).trans hlaunch, rfl, rfl, fun _ => ⟨rf_setRf_same _ _ _ (by omega), rfl⟩, fun h => absurd harm h⟩
    · rw [if_neg harm]
      obtain ⟨htt, hst⟩ := time_setRg s (a := ttA 0x010) (by decide) (by decide) v.toNat
      exact ⟨hlaunch, rfl, rfl, fun h => absurd h harm, fun _ =>
        ⟨recorded_since (u := launchSet s v.toNat) rfl htt hst (raise_recorded ..), raise_halts .., rg_setRg_ne s (by decide) _⟩⟩

/-! ### Acquisition (R47) -/

/-- The count that a time master takes: in a cold start that of its start configuration record. -/
def masterCount (s : State) : Nat :=
  match s.flash.startCfg with
  | some c => if startKind s = 2 then rg s (ttA 0x038) else c.2.2
  | none => rg s (ttA 0x038)

/-- The state in which the count has been taken and TT_COUNT is acquired. -/
def masterSet (s : State) (n : Nat) : State := setRf (setRg s (ttA 0x000) n) (ttA 0x018) 1 1 1

theorem stage_masterSet (s : State) (n : Nat) : stage (masterSet s n) = stage s :=
  (rf_setRf_ne _ (by decide) ..).trans (congrArg (fun x => fld x 56 4) (rg_setRg_ne s (by decide) n))

theorem acqStart_master {s : State} (ha : acquired s = false) (hu : upstream s = 31) (h6 : stage s ≠ 6) :
    exec .acqStart s = .next (masterSet s (masterCount s)) := by
  show execAcqStart s = _
  unfold execAcqStart
  rw [if_neg (by simp [ha]), if_pos hu]
  have hstage : stage (masterSet s (masterCount s)) ≠ 6 := by rw [stage_masterSet]; exact h6
  exact congrArg Host.Outcome.next (if_neg fun h => hstage h.1)

theorem acqStart_exchanges {s : State} (ha : acquired s = false) (hu : upstream s < 30) :
    exec .acqStart s = .next { s with tether := { s.tether with acqOn := true, acqOffs := [], acqFrom := none } } := by
  show execAcqStart s = _
  unfold execAcqStart
  rw [if_neg (by simp [ha]), if_neg (by omega), if_neg (by omega)]

/-- The state in which the exchanges of an acquisition have stopped. -/
def acqStopped (s : State) : State := { s with tether := { s.tether with acqOn := false } }

theorem acquisitionTimeout_late {s : State} {t0 : Nat} (hf : s.tether.acqFrom = some t0) (ho : s.tether.acqOn = true) (h6 : stage s ≠ 6)
    (hl : t0 + 262144 ≤ rg s (kelA 0x110)) : exec .acquisitionTimeout s =
      .next (raiseTt (acqStopped s) 0x010E 4 0x00 0 [(0, 1, upstream s), (1, 1, s.tether.acqOffs.length)]) := by
  show execAcquisitionTimeout s = _
  unfold execAcquisitionTimeout
  rw [hf]
  simp only
  rw [if_pos (by simp [ho, hl])]
  exact congrArg Host.Outcome.next (if_neg h6)

theorem acquisitionTimeout_early {s : State} {t0 : Nat} (hf : s.tether.acqFrom = some t0) (hl : rg s (kelA 0x110) < t0 + 262144) :
    exec .acquisitionTimeout s = .next s := by
  show execAcquisitionTimeout s = _
  unfold execAcquisitionTimeout
  rw [hf]
  simp only
  rw [if_neg (by simp [hl])]

/-! ### References (R54, R55, R56) -/

/-- The active reference, or the one about to take effect. -/
def activeRef (s : State) : Nat := s.tether.refNext.getD (rf s (clkA 0x000) 8 2)

/-- The state in which an input has been found lost: A in bit 0 of CLK_STAT, B in bit 1. -/
def lostA (s : State) : State := { setRf s (clkA 0x000) 0 1 0 with tether := { s.tether with lostA := true } }
def lostB (s : State) : State := { setRf s (clkA 0x000) 1 1 0 with tether := { s.tether with lostB := true } }

theorem rf_lostA_ne {s : State} {a : Nat} (h : a ≠ clkA 0x000) (lo w : Nat) : rf (lostA s) a lo w = rf s a lo w := rf_setRf_ne s h 0 1 0 lo w
theorem rf_lostB_ne {s : State} {a : Nat} (h : a ≠ clkA 0x000) (lo w : Nat) : rf (lostB s) a lo w = rf s a lo w := rf_setRf_ne s h 1 1 0 lo w
theorem monMode_lostA (s : State) : monMode (lostA s) = monMode s := rf_lostA_ne (by decide) 0 2
theorem monMode_lostB (s : State) : monMode (lostB s) = monMode s := rf_lostB_ne (by decide) 0 2
theorem ttc_lostA (s : State) : ttc (lostA s) = ttc s := rg_setRf_ne s (by decide) 0 1 0
/-- A's loss leaves what CLK_STAT says of B. -/
theorem present_lostA (s : State) : rf (lostA s) (clkA 0x000) 1 1 = rf s (clkA 0x000) 1 1 :=
  rf_setRf_above s (clkA 0x000) 0 (by omega) (by omega)

/-- The clock is recovered from the link of CLK_MON_CFG. -/
def recovers (s : State) : State :=
  switchRef (raise s 0x0103 1 0x08 18 0xFFFF (det [(0, 1, rf s (clkA 0x004) 16 5)])) 2

theorem switchRef_only (s : State) (r : Nat) : switchRef s r =
    { s with regs := (bump s (clkA 0x008) 0 32).regs, tether := { s.tether with refNext := some r }, yawRef := s.yawRef + 1 } := by
  obtain ⟨q, hq⟩ := bump_ex s (clkA 0x008) 0 32
  unfold switchRef
  rw [hq]

theorem activeLost_monitored {s : State} (h : monMode s = 2) (src : Nat) : activeLost s src = holdover s src := if_pos h

theorem activeLost_standby {s : State} (hm : monMode s ≠ 2) (hp : rf s (clkA 0x000) 1 1 = 1) (hb : s.tether.lostB = false) :
    activeLost s 0 = switchRef (raise s 0x0101 1 0x08 18 0xFFFF (det [(0, 8, ttc s + 1)])) 1 :=
  (if_neg hm).trans (if_pos ⟨rfl, hp, hb⟩)

theorem activeLost_recovers {s : State} {src : Nat} (hm : monMode s ≠ 2) (hno : src = 0 → s.tether.lostB = true) (hs : src < 2)
    (hr : rf s (clkA 0x004) 16 5 ≠ 31) : activeLost s src = recovers s :=
  (if_neg hm).trans ((if_neg fun h => by simp [hno h.1] at h).trans (if_pos ⟨hs, hr⟩))

theorem activeLost_nothing {s : State} {src : Nat} (hno : src = 0 → s.tether.lostB = true) (hr : src < 2 → rf s (clkA 0x004) 16 5 = 31) :
    activeLost s src = holdover s src := by
  by_cases hm : monMode s = 2
  · exact activeLost_monitored hm src
  · exact (if_neg hm).trans ((if_neg fun h => by simp [hno h.1] at h).trans (if_neg fun h => h.2 (hr h.1)))

/-- The loss of A while it is active, and while it stands by (Table 2-3). -/
theorem referenceLoss_a_active {s : State} (h : activeRef s = 0) : exec (.referenceLoss .a) s = .next (activeLost (lostA s) 0) :=
  congrArg Host.Outcome.next (if_pos h)
theorem referenceLoss_a_standby {s : State} (h : activeRef s ≠ 0) : exec (.referenceLoss .a) s =
    .next (if monMode s = 2 then lostA s else raise (lostA s) 0x0102 1 0x08 18 0xFFFF (det [(0, 1, 0)])) := by
  rw [← monMode_lostA]
  exact congrArg Host.Outcome.next (if_neg h)

/-- The loss of B while it is active, and while it stands by (Table 2-3). -/
theorem referenceLoss_b_active {s : State} (h : activeRef s = 1) : exec (.referenceLoss .b) s = .next (activeLost (lostB s) 1) :=
  congrArg Host.Outcome.next (if_pos h)
theorem referenceLoss_b_standby {s : State} (h : activeRef s ≠ 1) : exec (.referenceLoss .b) s =
    .next (if monMode s = 2 then lostB s else raise (lostB s) 0x0102 1 0x08 18 0xFFFF (det [(0, 1, 1)])) := by
  rw [← monMode_lostB]
  exact congrArg Host.Outcome.next (if_neg h)

theorem referenceLoss_recovered {s : State} (h : activeRef s = 2) : exec (.referenceLoss .recovered) s = .next (activeLost s 2) :=
  congrArg Host.Outcome.next (if_pos h)

theorem holdoverTimeout_due {s : State} (h3 : rf s (clkA 0x000) 8 2 = 3) (hd : s.tether.holdDone = false)
    (hl : s.tether.holdUp + 15625000 ≤ rg s (kelA 0x110)) : exec .holdoverTimeout s =
      .next (raise { s with tether := { s.tether with holdDone := true } } 0x010F 4 0x08 18 0xFFFF (det [(0, 8, s.tether.holdTtc)])) :=
  congrArg Host.Outcome.next (if_pos (by simp [h3, hd, hl]))

theorem holdoverTimeout_other {s : State} (h : rg s (kelA 0x110) < s.tether.holdUp + 15625000 ∨ s.tether.holdDone = true) :
    exec .holdoverTimeout s = .next s :=
  congrArg Host.Outcome.next (if_neg (by rcases h with h | h <;> simp [h]))

/-- Settles O35: an acquisition starts by `acqStart_master` and `acqStart_exchanges`, a lost reference is judged by the lemmas of
`referenceLoss` and `activeLost`. -/
theorem acquisitionAndReferences : Obligations.AcquisitionAndReferences := by
  refine ⟨?master, fun s ha hu => acqStart_exchanges ha hu, ?again, ?timeout, ?a, ?b, ?recovered, switchRef_only, ?holdover, fun s => ⟨rfl, rfl, rfl⟩,
    fun s h3 => ⟨fun hl hd => holdoverTimeout_due h3 hd hl, holdoverTimeout_other⟩, fun r s => rfl⟩
  case master =>
    intro s ha hu h6
    refine ⟨fun h => ?_, fun c hk hc => ?_⟩
    · have hcount : masterCount s = rg s (ttA 0x038) := by
        unfold masterCount
        split
        · rename_i c hc
          exact if_pos (h.resolve_right (by simp [hc]))
        · rfl
      rw [acqStart_master ha hu h6, hcount]; rfl
    · have hcount : masterCount s = c.2.2 := by
        unfold masterCount
        rw [hc]
        exact if_neg hk
      rw [acqStart_master ha hu h6, hcount]; rfl
  case again => exact fun s ha => congrArg Host.Outcome.next (if_pos ha)
  case timeout =>
    intro s t0 hf ho h6
    exact ⟨fun hl => ⟨_, acquisitionTimeout_late hf ho h6 hl, raise_recorded (acqStopped s) .., rfl, raise_halts .., rfl⟩,
      acquisitionTimeout_early hf⟩
  case a =>
    intro s u active
    have hmode : monMode (lostA s) = monMode s := monMode_lostA s
    have hrec : rf (lostA s) (clkA 0x004) 16 5 = rf s (clkA 0x004) 16 5 := rf_lostA_ne (by decide) 16 5
    refine ⟨fun h hm hp hb => (referenceLoss_a_active h).trans ?_, fun h hm hb hr => (referenceLoss_a_active h).trans ?_,
      fun h hno => (referenceLoss_a_active h).trans (congrArg _ ?_), fun h hm => (referenceLoss_a_standby h).trans (congrArg _ (if_neg hm)),
      fun h hm => (referenceLoss_a_standby h).trans (congrArg _ (if_pos hm))⟩
    · rw [activeLost_standby (s := lostA s) (hmode ▸ hm) ((present_lostA s).trans hp) hb, ttc_lostA]; rfl
    · rw [activeLost_recovers (s := lostA s) (hmode ▸ hm) (fun _ => hb) (by decide) (hrec ▸ hr), recovers, hrec]; rfl
    · rcases hno with hm | ⟨hb, hr⟩
      · exact activeLost_monitored (hmode.trans hm) 0
      · exact activeLost_nothing (s := lostA s) (fun _ => hb) (fun _ => hrec.trans hr)
  case b =>
    intro s u active
    have hmode : monMode (lostB s) = monMode s := monMode_lostB s
    have hrec : rf (lostB s) (clkA 0x004) 16 5 = rf s (clkA 0x004) 16 5 := rf_lostB_ne (by decide) 16 5
    refine ⟨fun h hm hr => (referenceLoss_b_active h).trans ?_, fun h hno => (referenceLoss_b_active h).trans (congrArg _ ?_),
      fun h hm => (referenceLoss_b_standby h).trans (congrArg _ (if_neg hm))⟩
    · rw [activeLost_recovers (s := lostB s) (hmode ▸ hm) (fun h => absurd h (by decide)) (by decide) (hrec ▸ hr), recovers, hrec]; rfl
    · rcases hno with hm | hr
      · exact activeLost_monitored (hmode.trans hm) 1
      · exact activeLost_nothing (s := lostB s) (fun h => absurd h (by decide)) (fun _ => hrec.trans hr)
  case recovered =>
    intro s h
    rw [referenceLoss_recovered h, activeLost_nothing (fun h => by omega) (fun h => by omega)]
  case holdover =>
    intro s l
    refine ⟨_, rfl, ?_, ?_, rfl, fun a ha => ?_⟩
    · exact recorded_of_faults (raise_recorded s 0x0104 3 0x08 18 0xFFFF (det [(0, 1, l)])) rfl
    · exact rf_setRf_same (raise s 0x0104 3 0x08 18 0xFFFF (det [(0, 1, l)])) (clkA 0x000) 3 (by omega)
    · exact rg_setRf_ne (raise s 0x0104 3 0x08 18 0xFFFF (det [(0, 1, l)])) ha 8 2 3

end Sys2Proof.Machine
end

section
/-!
PROOFS. The statement of the confirm messages and the synchronisation exchanges (chapter 2): what each message and each exchange does, then
the theorem that settles it.
-/
namespace Sys2Proof.Machine
open Sys2Proof

/-! ### Confirm messages (R59) -/

theorem confirmOf_decided {s : State} {k : Nat} {b : Bool} (h : s.vote.confirm = some (k, b)) (hk : k + 1 = stepNo s) : confirmOf s = some b := by
  unfold confirmOf; rw [h]; exact if_pos hk

theorem confirmOf_none {s : State} (h : stepNo s = 0 ∨ s.vote.confirm = none) : confirmOf s = none := by
  unfold confirmOf
  split
  · rename_i k b hc
    exact if_neg fun hk => by rcases h with h | h <;> simp_all
  · rfl

theorem confirmSend_sends {n : Fin 24} {k : Nat} {b : Bool} {s : State} (hp : planOn s = true) (ha : alone s = false)
    (hc : s.vote.confirm = some (k, b)) (hk : k + 1 = stepNo s) (ht : frameTick s < roundLen s) (hl : bitAt s.voteLinks n.val = true)
    (hn : n.val ∉ s.vote.confSent) : exec (.confirmSend n) s =
      .next (sendMgmt { s with vote := { s.vote with confSent := s.vote.confSent ++ [n.val] } } n.val 1 2 (mgmtRows 4 (myMsg s (2 * b2n b) 1 k 0 0 0))) := by
  have hstep : stepNo s - 1 = k := by omega
  show execConfirmSend n s = _
  unfold execConfirmSend
  rw [confirmOf_decided hc hk]
  simp only
  rw [if_pos (by simp [hp, ha, ht, hl, hn]), hstep]

theorem confirmSend_silent {n : Fin 24} {s : State} (h : stepNo s = 0 ∨ n.val ∈ s.vote.confSent ∨ s.vote.confirm = none) :
    exec (.confirmSend n) s = .next s := by
  show execConfirmSend n s = _
  unfold execConfirmSend
  cases hc : confirmOf s with
  | none => rfl
  | some b =>
    have hsent : n.val ∈ s.vote.confSent := by
      rcases h with h | h | h
      · rw [confirmOf_none (.inl h)] at hc; cases hc
      · exact h
      · rw [confirmOf_none (.inr h)] at hc; cases hc
    simp only
    rw [if_neg (by simp [hsent])]

/-- A neighbour's decision of the step before, judged against this device's own (R59). -/
theorem confirmReceive_judges {n : Fin 24} {m : TetherMsg} {b : Bool} {s : State} (hp : planOn s = true) (hx : m.exchange = 1)
    (ht : frameTick s < roundLen s) (hst : fld m.stampA.toNat 0 48 + 1 = stepNo s) (hc : s.vote.confirm = some (fld m.stampA.toNat 0 48, b)) :
    exec (.confirmReceive n m) s = .next (
      if b && !bitAt m.flags.toNat 1 then raise s 0x010D 4 0x07 n.val 0xFFFF (det [(0, 6, stepNo s - 1), (6, 1, n.val)])
      else if !b && bitAt m.flags.toNat 1 then raise s 0x0110 0 0x07 n.val 0xFFFF (det [(0, 6, stepNo s - 1), (6, 1, n.val)])
      else s) := by
  show execConfirmReceive n m s = _
  unfold execConfirmReceive
  rw [confirmOf_decided hc hst]
  simp only
  rw [if_pos (by simp [hp, hx, ht, hst])]
  rfl

/-! ### A due exchange (R47, R52, R53) -/

/-- The exchange of a link's sync epoch has been made or passed over. -/
def epochMarked (s : State) (n : Nat) : State := modLink s n fun l => { l with epochAt := ttc s + 1 }

/-- An exchange of the sync epoch that meets a retrain: counted and recorded. -/
def syncDeferred (s : State) (n : Nat) : State := raiseTt (bump (epochMarked s n) (ttA 0x030) 48 16) 0x0109 0 0x07 n [(0, 1, n)]

/-- An exchange's request under its number k. -/
def syncSent (s : State) (n : Nat) : State :=
  let k := (link s n).syncNo
  let e := if acquired s && syncEpoch s n then ttc s + 1 else (link s n).epochAt
  let v := modLink s n fun l => { l with epochAt := e, syncNo := (k + 1) % 65536, syncWait := some k, syncAt := uptime s + 1 }
  sendMgmt v n 0 3 (mgmtRows 1 (myMsg v 0 k 0 0 0 0))

/-- On a link that is down only the exchange of the sync epoch falls due. -/
theorem syncEpoch_of_down {s : State} {n : Nat} (hd : syncDue s n = true) (ha : acquired s = true) (h5 : lnkSt s n = 5) : syncEpoch s n = true := by
  unfold syncDue at hd
  simpa [ha, h5] using hd

section
variable {n : Fin 24} {p : Fin 8} {s : State} (hp : s.phase ≤ p.val) (hd : syncDue (runTo s p.val) n.val = true)
include hp hd

theorem syncExchangeStart_defers (ha : acquired (runTo s p.val) = true) (h4 : lnkSt (runTo s p.val) n.val = 4)
    (he : syncEpoch (runTo s p.val) n.val = true) : exec (.syncExchangeStart n p) s = .next (syncDeferred (runTo s p.val) n.val) := by
  show Host.Outcome.next (whenAt s p.val _) = _
  rw [whenAt_run s p.val hp]
  simp only [hd, ha, he, h4]
  rfl

theorem syncExchangeStart_skips (ha : acquired (runTo s p.val) = true) (h5 : lnkSt (runTo s p.val) n.val = 5) : exec (.syncExchangeStart n p) s =
    .next (setRf (epochMarked (runTo s p.val) n.val) (ttA (0x100 + 4 * n.val)) 31 1 0) := by
  show Host.Outcome.next (whenAt s p.val _) = _
  rw [whenAt_run s p.val hp]
  simp only [hd, ha, syncEpoch_of_down hd ha h5, h5]
  rfl

theorem syncExchangeStart_sends (hup : acquired (runTo s p.val) = true →
      lnkSt (runTo s p.val) n.val ≠ 5 ∧ (lnkSt (runTo s p.val) n.val = 4 → syncEpoch (runTo s p.val) n.val = false)) :
    exec (.syncExchangeStart n p) s = .next (syncSent (runTo s p.val) n.val) := by
  show execSyncExchangeStart n p s = _
  unfold execSyncExchangeStart
  rw [whenAt_run s p.val hp]
  generalize runTo s p.val = u at hd hup ⊢
  simp only
  have hdefer : (acquired u && syncEpoch u n.val && lnkSt u n.val == 4) = false := by
    cases ha : acquired u with
    | false => rfl
    | true =>
      by_cases h4 : lnkSt u n.val = 4
      · rw [(hup ha).2 h4]; rfl
      · simp [h4]
  have hdown : (acquired u && lnkSt u n.val == 5) = false := by
    cases ha : acquired u with
    | false => rfl
    | true => simp [(hup ha).1]
  rw [if_neg (by simp [hd]), if_neg (by simp [hdefer]), if_neg (by simp [hdown])]
  unfold syncSent
  cases acquired u && syncEpoch u n.val <;> rfl
end

/-- A deferred exchange is recorded and counted, and of its link only the epoch differs. -/
theorem syncDeferred_facts (s : State) (n : Nat) : Recorded s (syncDeferred s n) 0x0109 0 ∧
    link (syncDeferred s n) n = { link s n with epochAt := ttc s + 1 } ∧
    rf (syncDeferred s n) (ttA 0x030) 48 16 = min (2 ^ 16 - 1) (rf s (ttA 0x030) 48 16 + 1) ∧
    ∀ m, rf (syncDeferred s n) (ttA (0x100 + 4 * m)) 24 4 = rf s (ttA (0x100 + 4 * m)) 24 4 := by
  have htime : ttc (bump (epochMarked s n) (ttA 0x030) 48 16) = ttc s ∧ stepNo (bump (epochMarked s n) (ttA 0x030) 48 16) = stepNo s :=
    time_congr (s := s) (a := ttA 0x030) (fun b hb => rg_bump_ne (epochMarked s n) hb 48 16) (by decide) (by decide)
  refine ⟨recorded_since (u := bump (epochMarked s n) (ttA 0x030) 48 16) (bump_faults ..) htime.1 htime.2 (raise_recorded ..), ?_, ?_, fun m => ?_⟩
  · exact (link_raise ..).trans ((link_bump ..).trans (link_modLink_same ..))
  · exact rf_bump_same (epochMarked s n) (ttA 0x030) (by omega)
  · exact rf_bump_ne (epochMarked s n) (by unfold ttA; omega) 48 16 24 4

/-! ### Answers (R51, R282) -/

theorem syncReq_answers {n : Fin 24} {p : Fin 8} (m : TetherMsg) {s : State} (hp : s.phase ≤ p.val) (hs : (link (runTo s p.val) n.val).search = false) :
    exec (.syncReq n p m) s = .next (sendMgmt (runTo s p.val) n.val 0 3
      (mgmtRows 2 (myMsg (runTo s p.val) 0 m.exchange.toNat 0 (linkStamp (runTo s p.val)) m.stampA.toNat 0))) := by
  show Host.Outcome.next (whenAt s p.val _) = _
  rw [whenAt_run s p.val hp, if_neg (by simp [hs])]

theorem syncReq_searching {n : Fin 24} {p : Fin 8} (m : TetherMsg) {s : State} (hp : s.phase ≤ p.val) (hs : (link (runTo s p.val) n.val).search = true) :
    exec (.syncReq n p m) s = .next (runTo s p.val) := by
  show Host.Outcome.next (whenAt s p.val _) = _
  rw [whenAt_run s p.val hp, if_pos hs]

/-- The offset of an exchange's answer, rounded toward zero (R51). -/
def syncTheta (s : State) (m : TetherMsg) : Int :=
  (stampDiff m.stampB.toNat m.echo.toNat - stampDiff (stamp s) m.stampA.toNat).tdiv 2

/-- The exchange of a link waits for no answer. -/
def syncAnswered (s : State) (n : Nat) : State := modLink s n fun l => { l with syncWait := none }

theorem syncResp_judges {n : Fin 24} {p : Fin 8} {m : TetherMsg} {s : State} (hp : s.phase ≤ p.val)
    (hw : (link (runTo s p.val) n.val).syncWait = some m.exchange.toNat) (hs : (link (runTo s p.val) n.val).search = false)
    (ha : acquired (runTo s p.val) = true) (h2 : lnkSt (runTo s p.val) n.val ≠ 2) (h4 : lnkSt (runTo s p.val) n.val ≠ 4) :
    exec (.syncResp n p m) s = .next (syncResult (syncAnswered (runTo s p.val) n.val) n.val (syncTheta (runTo s p.val) m)) := by
  show execSyncResp n p m s = _
  unfold execSyncResp
  rw [whenAt_run s p.val hp]
  generalize runTo s p.val = u at hw hs ha h2 h4 ⊢
  have hranges : (acquired u && (lnkSt u n.val == 2 || lnkSt u n.val == 4)) = false := by simp [h2, h4]
  have hstamp : linkStamp u = stamp u := if_pos ha
  have hacq (l : LinkS → LinkS) : acquired (modLink u n.val l) = true := ha
  simp only
  rw [if_neg (by simp [hw, hs]), if_neg (by simp [hacq]), if_neg (by simp [hranges]), hstamp, hranges]
  rfl

theorem syncResp_ignores {n : Fin 24} {p : Fin 8} {m : TetherMsg} {s : State} (hp : s.phase ≤ p.val)
    (h : (link (runTo s p.val) n.val).syncWait ≠ some m.exchange.toNat ∨ (link (runTo s p.val) n.val).search = true) :
    exec (.syncResp n p m) s = .next (runTo s p.val) := by
  show Host.Outcome.next (whenAt s p.val _) = _
  rw [whenAt_run s p.val hp, if_pos h]

/-! ### The result of an exchange (R52) -/

/-- A link's result register. -/
def syncA (n : Nat) : Nat := ttA (0x100 + 4 * n)

theorem syncA_ne_stat (n : Nat) : syncA n ≠ ttA 0x030 := by unfold syncA ttA; omega

theorem wrapN_lt (w : Nat) (x : Int) : wrapN w x < 2 ^ w := by
  have hpos : (0 : Int) < (2 ^ w : Nat) := by exact_mod_cast Nat.two_pow_pos w
  have hlt := Int.emod_lt_of_pos x hpos
  have hge := Int.emod_nonneg x (ne_of_gt hpos)
  unfold wrapN
  omega

/-- The result stands in its register, and TT_SYNC_STAT shows the worst link. -/
def syncShown (s : State) (n : Nat) (θ : Int) : State :=
  worstSync (setRf (setRf s (syncA n) 0 16 (wrapN 16 θ)) (syncA n) 31 1 1)

theorem worstSync_ex (s : State) : ∃ a b, worstSync s = setRf (setRf s (ttA 0x030) 8 5 a) (ttA 0x030) 0 8 b := ⟨_, _, rfl⟩

theorem rg_worstSync_ne {s : State} {a : Nat} (h : a ≠ ttA 0x030) : rg (worstSync s) a = rg s a := by
  obtain ⟨x, y, hw⟩ := worstSync_ex s
  rw [hw, rg_setRf_ne _ h, rg_setRf_ne _ h]

theorem syncShown_only (s : State) (n : Nat) (θ : Int) : syncShown s n θ = { s with regs := (syncShown s n θ).regs } := by
  obtain ⟨x, y, hw⟩ := worstSync_ex (setRf (setRf s (syncA n) 0 16 (wrapN 16 θ)) (syncA n) 31 1 1)
  unfold syncShown
  rw [hw]
  exact setRf_only (setRf_only (setRf_only (setRf_only (regs_self rfl) ..) ..) ..) ..

/-- The result's fields: the offset, VALID, and the count of offset events as it was. -/
theorem syncShown_fields (s : State) (n : Nat) (θ : Int) : rf (syncShown s n θ) (syncA n) 0 16 = wrapN 16 θ ∧
    rf (syncShown s n θ) (syncA n) 31 1 = 1 ∧ rf (syncShown s n θ) (syncA n) 24 4 = rf s (syncA n) 24 4 := by
  have hreg (lo w : Nat) : rf (syncShown s n θ) (syncA n) lo w = rf (setRf (setRf s (syncA n) 0 16 (wrapN 16 θ)) (syncA n) 31 1 1) (syncA n) lo w :=
    congrArg (fun x => fld x lo w) (rg_worstSync_ne (syncA_ne_stat n))
  refine ⟨?_, ?_, ?_⟩
  · rw [hreg, rf_setRf_below _ _ _ (by omega) (by omega), rf_setRf_same _ _ _ (by omega), Nat.mod_eq_of_lt (wrapN_lt 16 θ)]
  · exact (hreg 31 1).trans (rf_setRf_same _ _ _ (by omega))
  · rw [hreg, rf_setRf_below _ _ _ (by omega) (by omega), rf_setRf_above _ _ _ (by omega) (by omega)]

/-- A result within 8 cycles: the run of offset events ends. -/
def syncGood (s : State) (n : Nat) (θ : Int) : State := modLink (setRf (syncShown s n θ) (syncA n) 24 4 0) n fun l => { l with offs3 := [] }

/-- An offset event, counted for the link and the device, and recorded. -/
def syncNoted (s : State) (n : Nat) (θ : Int) : State :=
  raiseTt (bump (bump (syncShown s n θ) (syncA n) 24 4) (ttA 0x030) 32 16) 0x0107 2 0x07 n [(0, 1, n), (1, 2, wrapN 16 θ)]

/-- The offsets of the link's run of events, with this one. -/
def syncRun (s : State) (n : Nat) (θ : Int) : State := modLink (syncNoted s n θ) n fun l => { l with offs3 := (link s n).offs3 ++ [θ] }

theorem link_syncNoted (s : State) (n : Nat) (θ : Int) (k : Nat) : link (syncNoted s n θ) k = link s k := by
  unfold syncNoted raiseTt link
  rw [raise_links, bump_links, bump_links, syncShown_only]

theorem syncResult_good {s : State} {n : Nat} {θ : Int} (h : θ.natAbs < 8) : syncResult s n θ = syncGood s n θ := if_pos h

theorem syncResult_event {s : State} {n : Nat} {θ : Int} (h : 8 ≤ θ.natAbs) : syncResult s n θ =
    if (link s n).offs3.length = 2 then raise (syncRun s n θ) 0x0108 3 0x07 n 0xFFFF
      (det ((0, 1, n) :: ((link s n).offs3 ++ [θ]).zipIdx.map fun e => (1 + 2 * e.2, 2, wrapN 16 e.1)))
    else syncRun s n θ := by
  have hlen : ((link s n).offs3 ++ [θ]).length = 3 ↔ (link s n).offs3.length = 2 := by simp
  unfold syncRun
  rw [← link_syncNoted s n θ n] at hlen ⊢
  simp only [← hlen]
  exact if_neg (by omega)

/-- What a good result leaves: its register's fields, and no run of events of the link. -/
theorem syncGood_facts (s : State) (n : Nat) (θ : Int) : let t := syncGood s n θ
    t = { s with regs := t.regs, links := t.links } ∧ rf t (syncA n) 0 16 = wrapN 16 θ ∧ rf t (syncA n) 31 1 = 1 ∧ rf t (syncA n) 24 4 = 0 ∧
      link t n = { link s n with offs3 := [] } ∧ ∀ k, k ≠ n → link t k = link s k := by
  obtain ⟨hofs, hvalid, -⟩ := syncShown_fields s n θ
  obtain ⟨r, honly⟩ : ∃ r, setRf (syncShown s n θ) (syncA n) 24 4 0 = { s with regs := r } := ⟨_, setRf_only (syncShown_only s n θ) ..⟩
  have hlink (k : Nat) : link (setRf (syncShown s n θ) (syncA n) 24 4 0) k = link s k := by rw [honly]; rfl
  refine ⟨?_, ?_, ?_, ?_, ?_, fun k hk => ?_⟩
  · unfold syncGood; rw [honly]; rfl
  · exact (rf_modLink ..).trans ((rf_setRf_below _ _ _ (by omega) (by omega)).trans hofs)
  · exact (rf_modLink ..).trans ((rf_setRf_above _ _ _ (by omega) (by omega)).trans hvalid)
  · exact (rf_modLink ..).trans (rf_setRf_same _ _ _ (by omega))
  · exact (link_modLink_same ..).trans (by rw [hlink])
  · exact (link_modLink_ne _ hk _).trans (hlink k)

/-- What an offset event leaves: its register's fields, the count of events, the run of the link's events, and one record. -/
theorem syncRun_facts (s : State) (n : Nat) (θ : Int) : let t := syncRun s n θ
    t = { s with regs := t.regs, links := t.links, faults := t.faults, vote := t.vote, evacuate := t.evacuate, halted := t.halted } ∧
      rf t (syncA n) 0 16 = wrapN 16 θ ∧ rf t (syncA n) 31 1 = 1 ∧ rf t (syncA n) 24 4 = min 15 (rf s (syncA n) 24 4 + 1) ∧
      link t n = { link s n with offs3 := (link s n).offs3 ++ [θ] } ∧ (∀ k, k ≠ n → link t k = link s k) ∧
      ∃ f, f.code = 0x0107 ∧ f.sev = 2 ∧ t.faults = s.faults ++ [f] := by
  obtain ⟨hofs, hvalid, hevents⟩ := syncShown_fields s n θ
  obtain ⟨r, hcounted⟩ : ∃ r, bump (bump (syncShown s n θ) (syncA n) 24 4) (ttA 0x030) 32 16 = { s with regs := r } :=
    ⟨_, bump_only (bump_only (syncShown_only s n θ) ..) ..⟩
  have hrf (lo w : Nat) : rf (syncRun s n θ) (syncA n) lo w = rf (bump (syncShown s n θ) (syncA n) 24 4) (syncA n) lo w :=
    (rf_modLink ..).trans ((rf_raise ..).trans (rf_bump_ne _ (syncA_ne_stat n) ..))
  refine ⟨?_, ?_, ?_, ?_, ?_, fun k hk => ?_, ?_⟩
  · unfold syncRun syncNoted; rw [hcounted]; rfl
  · exact (hrf 0 16).trans ((rf_bump_below _ _ (by omega) (by omega)).trans hofs)
  · exact (hrf 31 1).trans ((rf_bump_above _ _ (by omega) (by omega)).trans hvalid)
  · exact (hrf 24 4).trans ((rf_bump_same _ _ (by omega)).trans (congrArg (fun x => min 15 (x + 1)) hevents))
  · exact (link_modLink_same ..).trans (by rw [link_syncNoted])
  · exact (link_modLink_ne _ hk _).trans (link_syncNoted ..)
  · unfold syncRun syncNoted; rw [hcounted]; exact ⟨_, rfl, rfl, rfl⟩

/-- Settles O34: a confirm message by `confirmSend_sends` and `confirmReceive_judges`, a due exchange by the lemmas of `syncExchangeStart`, its
answer by `syncReq_answers`, and its result by `syncResp_judges` with `syncGood_facts` and `syncRun_facts`. -/
theorem synchronisationMessages : Obligations.SynchronisationMessages := by
  refine ⟨fun n k b s hp ha hc hk ht hl hn => confirmSend_sends hp ha hc hk ht hl hn, fun n s => confirmSend_silent, ?confirm, ?start, ?req, ?resp,
    fun n p m s hp => syncResp_ignores hp⟩
  case confirm =>
    intro n m b s hp hx ht hst hc
    refine ⟨_, confirmReceive_judges hp hx ht hst hc, ?_⟩
    cases b <;> cases hflag : bitAt m.flags.toNat 1
    · exact ⟨rfl, fun h => absurd h (by decide), fun _ h => absurd h (by decide), fun _ => rfl⟩
    · exact ⟨rfl, fun h => absurd h (by decide), fun _ _ => ⟨raise_recorded .., Bool.or_false _, rfl⟩, fun h => absurd h (by decide)⟩
    · exact ⟨rfl, fun _ _ => ⟨raise_recorded .., raise_halts ..⟩, fun h => absurd h (by decide), fun h => absurd h (by decide)⟩
    · exact ⟨rfl, fun _ h => absurd h (by decide), fun h => absurd h (by decide), fun _ => rfl⟩
  case start =>
    intro n p s hp u hd
    exact ⟨fun ha h4 he => ⟨_, syncExchangeStart_defers hp hd ha h4 he, syncDeferred_facts u n.val⟩,
      fun ha h5 => syncExchangeStart_skips hp hd ha h5, fun hup => syncExchangeStart_sends hp hd hup⟩
  case req =>
    intro n p m s hp u
    exact ⟨syncReq_answers m hp, syncReq_searching m hp⟩
  case resp =>
    intro n p m s hp u t1 θ a hw hs ha h2 h4
    refine ⟨_, syncResp_judges hp hw hs ha h2 h4, ?_⟩
    have hlink : link (syncAnswered u n.val) n.val = { link u n.val with syncWait := none } := link_modLink_same ..
    have hothers (k : Nat) (hk : k ≠ n.val) : link (syncAnswered u n.val) k = link u k := link_modLink_ne _ hk _
    rcases Nat.lt_or_ge θ.natAbs 8 with hsmall | hlarge
    · obtain ⟨honly, hofs, hvalid, hcleared, hown, hrest⟩ := syncGood_facts (syncAnswered u n.val) n.val (syncTheta u m)
      have hres : syncResult (syncAnswered u n.val) n.val (syncTheta u m) = syncGood (syncAnswered u n.val) n.val (syncTheta u m) := syncResult_good hsmall
      rw [hres]
      generalize syncGood (syncAnswered u n.val) n.val (syncTheta u m) = t at honly hofs hvalid hcleared hown hrest ⊢
      refine ⟨?_, hofs, hvalid, ?_, fun k hk => (hrest k hk).trans (hothers k hk), fun _ => ⟨hcleared, ?_, ?_⟩, fun h => by omega⟩
      · rw [honly]; rfl
      · rw [hown, hlink]
      · rw [hown]
      · rw [honly]; rfl
    · obtain ⟨honly, hofs, hvalid, hcount, hown, hrest, f, hcode, hsev, hfaults⟩ := syncRun_facts (syncAnswered u n.val) n.val (syncTheta u m)
      have hres : syncResult (syncAnswered u n.val) n.val (syncTheta u m) = _ := syncResult_event hlarge
      rw [hlink] at hown hres
      rw [hres]
      generalize syncRun (syncAnswered u n.val) n.val (syncTheta u m) = t at honly hofs hvalid hcount hown hrest hfaults ⊢
      by_cases hthird : (link u n.val).offs3.length = 2
      · rw [if_pos hthird]
        refine ⟨?_, (rf_raise ..).trans hofs, (rf_raise ..).trans hvalid, ?_, fun k hk => ((link_raise ..).trans (hrest k hk)).trans (hothers k hk),
          fun h => by omega, fun _ => ⟨(rf_raise ..).trans hcount, ?_, f, hcode, hsev, fun h => absurd hthird h, fun _ => ?_⟩⟩
        · rw [honly]; rfl
        · rw [link_raise, hown]
        · exact congrArg LinkS.offs3 ((link_raise ..).trans hown)
        · exact ⟨_, rfl, rfl, by rw [raise_faults, hfaults, List.append_assoc]; rfl⟩
      · rw [if_neg hthird]
        refine ⟨?_, hofs, hvalid, ?_, fun k hk => (hrest k hk).trans (hothers k hk), fun h => by omega,
          fun _ => ⟨hcount, ?_, f, hcode, hsev, fun _ => hfaults, fun h => absurd h hthird⟩⟩
        · rw [honly]; rfl
        · rw [hown]
        · exact congrArg LinkS.offs3 hown

end Sys2Proof.Machine
end

section
/-!
PROOFS. The statement of planned starts, reception in sequence and acknowledgement (chapter 11): what a start, a packet, an acknowledgement
and a replay do to their link, then the theorem that settles it.
-/
namespace Sys2Proof.Machine
open Sys2Proof

/-! ### Planned starts (R294, R387) -/

/-- The source that the transmit entry of the present tick names for a start (R297). -/
def startSrc (s : State) (n : Nat) (b : Bool) : Nat :=
  let j := frameTick s % 4096
  fld (rf s (lnkA n (0x1000 + 4 * (j / 2))) (16 * (j % 2)) 16) (if b then 4 else 0) 4

/-- A start falls due on a link that is up: the plan runs, the start has not been made in this cycle, and its entry reads well. -/
structure StartDue (s : State) (n : Nat) : Prop where
  runs : planOn s = true
  fresh : (link s n).started ≤ now s
  up : lnkSt s n = 3
  sound : s.slotBad.contains (lnkA n (0x1000 + 2 * (frameTick s % 4096))) = false

/-- The start of this cycle has been made. -/
def startMarked (s : State) (n : Nat) : State := modLink s n fun l => { l with started := now s + 1 }

/-- A packet as a start of link n, in the present tick, makes it eligible. -/
def startedPkt (s : State) (b : Bool) (p : LPkt) : LPkt :=
  { p with stick := if p.kind = 1 ∨ p.kind = 2 then ttc s % 2 ^ 24 else 0, start := b2n b, olink := false, born := now s }

/-- The packet waits for the wire of link n. -/
def startPut (s : State) (n : Nat) (b : Bool) (p : LPkt) : State := modLink s n fun l => { l with elig := l.elig ++ [startedPkt s b p] }

/-- A completed row of a parity unit as a packet (R387). -/
def parityPkt (s : State) (n r : Nat) (v : Row) : LPkt :=
  { kind := 1, units := 8, drow := (rf s (trnA (0x100 + 16 * n)) 16 16 + r) % 65536, ccnt := rf s (trnA (0x100 + 16 * n)) 40 6, body := [v] }

/-- The row leaves the queue of its parity unit, counted. -/
def parityTaken (s : State) (n : Nat) (l : List (Nat × Row)) : State :=
  bump (modPunit s n fun u => { u with queue := l }) (trnA (0x108 + 16 * n)) 32 16

section
variable {s : State} {n : Nat} {b : Bool} (H : StartDue s n)
include H

theorem txEntry_sound : txEntry s n (frameTick s % 4096) =
    (rf s (lnkA n (0x1000 + 4 * (frameTick s % 4096 / 2))) (16 * (frameTick s % 4096 % 2)) 16, s) :=
  if_neg (by rw [H.sound]; decide)

theorem carrier_startMarked : carrier (startMarked s n) n = some (n, false) := if_pos H.up

omit H in
theorem startSrc_eq (s : State) (n : Nat) (b : Bool) :
    (if b then fld (rf s (lnkA n (0x1000 + 4 * (frameTick s % 4096 / 2))) (16 * (frameTick s % 4096 % 2)) 16) 4 4
      else fld (rf s (lnkA n (0x1000 + 4 * (frameTick s % 4096 / 2))) (16 * (frameTick s % 4096 % 2)) 16) 0 4) = startSrc s n b := by
  cases b <;> rfl

theorem takeStart_foreground (hsrc : startSrc s n b = 1) {q : LPkt} {l : List LPkt} (hq : (link s n).fq = q :: l) :
    takeStart s n b none = startPut (modLink (startMarked s n) n fun k => { k with fq := l }) n b q := by
  have hc := carrier_startMarked H
  have hfq : (link (startMarked s n) n).fq = q :: l := (congrArg LinkS.fq (link_modLink_same ..)).trans hq
  unfold startMarked at hc hfq
  unfold takeStart
  rw [if_neg (by simp [H.runs, H.fresh])]
  simp only [txEntry_sound H, startSrc_eq, hsrc]
  rw [if_neg (by decide), hc]
  simp only
  rw [hfq]
  rfl

theorem takeStart_empty (hsrc : startSrc s n b = 1) (hq : (link s n).fq = []) : takeStart s n b none = startMarked s n := by
  have hc := carrier_startMarked H
  have hfq : (link (startMarked s n) n).fq = [] := (congrArg LinkS.fq (link_modLink_same ..)).trans hq
  unfold startMarked at hc hfq
  unfold takeStart
  rw [if_neg (by simp [H.runs, H.fresh])]
  simp only [txEntry_sound H, startSrc_eq, hsrc]
  rw [if_neg (by decide), hc]
  simp only
  rw [hfq]
  rfl

theorem takeStart_parity (hsrc : startSrc s n b = 4) {r : Nat} {v : Row} {l : List (Nat × Row)} (hq : (punit s n).queue = (r, v) :: l) :
    takeStart s n b (some 4) = startPut (parityTaken (startMarked s n) n l) n b (parityPkt (parityTaken (startMarked s n) n l) n r v) := by
  have hc := carrier_startMarked H
  have hpq : (punit (startMarked s n) n).queue = (r, v) :: l := hq
  unfold startMarked at hc hpq
  unfold takeStart
  rw [if_neg (by simp [H.runs, H.fresh])]
  simp only [txEntry_sound H, startSrc_eq, hsrc]
  rw [if_neg (by decide), hc]
  simp only
  rw [hpq]
  rfl
end

/-- What a start leaves of the link whose foreground packet it takes. -/
theorem startPut_foreground (s : State) (n : Nat) (b : Bool) (q : LPkt) (l : List LPkt) :
    let t := startPut (modLink (startMarked s n) n fun k => { k with fq := l }) n b q
    t = { s with links := t.links } ∧ (∀ m, m ≠ n → link t m = link s m) ∧ (link t n).fq = l ∧ (link t n).elig = (link s n).elig ++ [startedPkt s b q] := by
  have hown : link (startPut (modLink (startMarked s n) n fun k => { k with fq := l }) n b q) n =
      { link s n with started := now s + 1, fq := l, elig := (link s n).elig ++ [startedPkt s b q] } := by
    unfold startPut startMarked
    rw [link_modLink_same, link_modLink_same, link_modLink_same]
    rfl
  refine ⟨modLink_only (modLink_only (modLink_only rfl ..) ..) .., fun m hm => ?_, ?_, ?_⟩
  · exact (link_modLink_ne _ hm _).trans ((link_modLink_ne _ hm _).trans (link_modLink_ne _ hm _))
  · rw [hown]
  · rw [hown]

theorem punit_parityTaken (s : State) (n : Nat) (l : List (Nat × Row)) : punit (parityTaken s n l) n = { punit s n with queue := l } := by
  unfold parityTaken punit
  rw [bump_punits]
  exact tget_tset_same ..
theorem link_parityTaken (s : State) (n : Nat) (l : List (Nat × Row)) (m : Nat) : link (parityTaken s n l) m = link s m := by
  unfold parityTaken link
  rw [bump_links]
  rfl
theorem punit_startPut (s : State) (n : Nat) (b : Bool) (p : LPkt) (m : Nat) : punit (startPut s n b p) m = punit s m := rfl

/-- What a start leaves of the link and the unit whose completed row it takes. -/
theorem startPut_parity (s : State) (n : Nat) (b : Bool) (l : List (Nat × Row)) (p : LPkt) :
    let t := startPut (parityTaken (startMarked s n) n l) n b p
    (punit t n).queue = l ∧ (link t n).elig = (link s n).elig ++ [startedPkt (parityTaken (startMarked s n) n l) b p] := by
  refine ⟨?_, ?_⟩
  · rw [punit_startPut, punit_parityTaken]
  · unfold startPut
    rw [link_modLink_same, link_parityTaken]
    unfold startMarked
    rw [link_modLink_same]

theorem plannedStart_runs {n : Fin 24} {b : Bool} {s : State} (hp : s.phase ≤ if b then 4 else 0) :
    exec (.plannedStart n b) s = .next (takeStart (runTo s (if b then 4 else 0)) n.val b none) :=
  congrArg Host.Outcome.next (whenAt_run s _ hp _)

theorem parityRowForward_runs {n : Fin 24} {b : Bool} {s : State} (hp : s.phase ≤ if b then 4 else 0) :
    exec (.parityRowForward n b) s = .next (takeStart (runTo s (if b then 4 else 0)) n.val b (some 4)) :=
  congrArg Host.Outcome.next (whenAt_run s _ hp _)

/-! ### Reception in sequence (R282 to R285) -/

/-- The number expected has arrived: it counts, and any gap and search end. -/
def seqAccepted (s : State) (n : Nat) : State :=
  modLink s n fun l => { l with rxNext := (l.rxNext + 1) % 65536, gap := false, search := false, uncov := l.uncov + 1, uncovAt := if l.uncov = 0 then now s else l.uncovAt }

section
variable {s : State} {n q : Nat}

theorem seqTake_expected (h : (q + 65536 - (link s n).rxNext) % 65536 = 0) : seqTake s n q = (true, seqAccepted s n) := if_pos h

theorem seqTake_gap (hs : (link s n).search = false) (h1 : 0 < (q + 65536 - (link s n).rxNext) % 65536)
    (h2 : (q + 65536 - (link s n).rxNext) % 65536 < 32768) (hg : (link s n).gap = false) :
    seqTake s n q = (false, modLink s n fun l => { l with gap := true, nakDue := true }) := by
  unfold seqTake
  simp only
  rw [if_neg (by omega), if_neg (by simp [hs]), if_pos h2, if_neg (by simp [hg])]

theorem seqTake_inGap (hs : (link s n).search = false) (h1 : 0 < (q + 65536 - (link s n).rxNext) % 65536)
    (h2 : (q + 65536 - (link s n).rxNext) % 65536 < 32768) (hg : (link s n).gap = true) : seqTake s n q = (false, s) := by
  unfold seqTake
  simp only
  rw [if_neg (by omega), if_neg (by simp [hs]), if_pos h2, if_pos hg]

theorem seqTake_old (hs : (link s n).search = false) (h : 32768 ≤ (q + 65536 - (link s n).rxNext) % 65536) :
    seqTake s n q = (false, modLink s n fun l => { l with ctlDue := true }) :=
  (if_neg (by omega)).trans ((if_neg (by simp [hs])).trans (if_neg (by omega)))
end

/-- A DATA packet with its header's fields. -/
def dataPkt (h : DataHdr) (body : List Row) : LPkt :=
  { kind := 1, units := 8 * body.length, seq := h.seq.toNat, stick := h.stick.toNat, start := b2n h.start, olink := h.olink, drow := h.drow.toNat,
    ccnt := h.ccnt.toNat, body := body }

theorem lnkUp_of_state {s : State} {n : Nat} (h : lnkSt s n = 3) : lnkUp s n = true := beq_iff_eq.2 h

theorem dataPacket_judged {n : Fin 24} {p : Fin 8} {h : DataHdr} {r0 : Row} {r1 : Option Row} {s : State} (hp : s.phase ≤ p.val)
    (hup : lnkSt (runTo s p.val) n.val = 3) {ok : Bool} {v : State} (hr : seqTake (runTo s p.val) n.val h.seq.toNat = (ok, v)) :
    exec (.dataPacket n p h r0 r1) s = .next (if ok then dataTake v n.val (dataPkt h (r0 :: r1.toList)) else v) := by
  show execDataPacket n p h r0 r1 s = _
  unfold execDataPacket
  rw [whenAt_run s p.val hp, if_neg (by simp [lnkUp_of_state hup]), hr]
  rfl

theorem mgmtPacket_accepted {n : Fin 24} {p : Fin 8} {q : BitVec 16} {r0 r1 : Row} {s : State} (hp : s.phase ≤ p.val)
    (hup : lnkSt (runTo s p.val) n.val = 3) {v : State} (hr : seqTake (runTo s p.val) n.val q.toNat = (true, v)) :
    exec (.mgmtPacket n p q r0 r1) s = .next { freeMgmt v n.val 16 with rootIn := v.rootIn ++ [(now v + 4, n, [r0, r1])] } := by
  show execMgmtPacket n p q r0 r1 s = _
  unfold execMgmtPacket
  rw [whenAt_run s p.val hp, if_neg (by simp [lnkUp_of_state hup]), hr]
  rfl

/-! ### Releases and deliveries (R14, R44, R300) -/

theorem partition_head {α : Type} {f : α → Bool} {x : α} {l : List α} (hx : f x = true) (hl : ∀ y ∈ l, f y = false) :
    (x :: l).partition f = ([x], l) := by
  rw [List.partition_eq_filter_filter, List.filter_cons_of_pos hx, List.filter_eq_nil_iff.2 (by simpa using hl), List.filter_cons_of_neg (by simp [hx]),
    List.filter_eq_self.2 (by simpa using hl)]

theorem lehrRelease_halted {s : State} (h : s.halted = true) (n : Nat) : lehrRelease s n = s := if_pos h

theorem lehrRelease_head {s : State} {n : Nat} {x : LehrPkt} {l : List LehrPkt} (hh : s.halted = false) (hl : (link s n).lehr = x :: l)
    (hx : x.release ≤ now s) (hr : ∀ y ∈ l, now s < y.release) : lehrRelease s n = lehrOut (modLink s n fun k => { k with lehr := l }) n x := by
  unfold lehrRelease
  have hdue := partition_head (f := fun x : LehrPkt => decide (x.release ≤ now s)) (decide_eq_true hx) fun y hy => decide_eq_false (Nat.not_le.2 (hr y hy))
  rw [if_neg (by simp [hh]), hl, hdue]
  rfl

theorem rootTake_head {s : State} {m : Nat × Fin 24 × List Row} {l : List (Nat × Fin 24 × List Row)} (h : s.rootIn = m :: l) (hm : m.1 ≤ now s)
    (hl : ∀ y ∈ l, now s < y.1) : rootTake s = mgmtDeliver { s with rootIn := l } m.2.1 m.2.2 := by
  have hdue : (m :: l).filter (fun m => decide (m.1 ≤ now s)) = [m] := by
    rw [List.filter_cons_of_pos (by simpa using hm), List.filter_eq_nil_iff.2 fun y hy => by simpa using hl y hy]
  have hrest : (m :: l).filter (fun m => decide (now s < m.1)) = l := by
    rw [List.filter_cons_of_neg (by simpa using hm), List.filter_eq_self.2 fun y hy => by simpa using hl y hy]
  unfold rootTake
  simp only
  rw [h, hdue, hrest]
  rfl

/-! ### Acknowledgement and replay (R285, R286, R288) -/

/-- An acknowledged number covers q: q lies before it by less than half the range. -/
theorem not_acked_iff (ack q : Nat) : (!(decide ((ack + 65536 - q) % 65536 - 1 < 32767) && ack != q)) = true ↔
    ack = q ∨ 32767 ≤ (ack + 65536 - q) % 65536 - 1 := by
  rw [Bool.not_eq_true', Bool.and_eq_false_iff, decide_eq_false_iff_not, bne_eq_false_iff_eq, Nat.not_lt, or_comm]

theorem ackTake_facts (s : State) (n a d m : Nat) : let t := ackTake s n a d m
    t = { s with links := t.links } ∧ (∀ k, k ≠ n → link t k = link s k) ∧
      (∀ x, x ∈ (link t n).unacked ↔ x ∈ (link s n).unacked ∧ (a = x.seq ∨ 32767 ≤ (a + 65536 - x.seq) % 65536 - 1)) ∧
      (link t n).grantD = (if (d + 2 ^ 32 - (link s n).grantD) % 2 ^ 32 < 2 ^ 31 then d else (link s n).grantD) ∧
      (link t n).grantM = (if (m + 2 ^ 32 - (link s n).grantM) % 2 ^ 32 < 2 ^ 31 then m else (link s n).grantM) ∧
      (link t n).elig = (link s n).elig := by
  refine ⟨rfl, fun k hk => link_modLink_ne _ hk _, fun x => ?_, ?_, ?_, ?_⟩
  · unfold ackTake
    simp only
    rw [link_modLink_same, List.mem_filter, not_acked_iff]
  all_goals
    unfold ackTake
    simp only
    rw [link_modLink_same]

theorem linkctl_up {n : Fin 24} {p : Fin 8} {a : BitVec 16} {d m : BitVec 32} {s : State} (hp : s.phase ≤ p.val) (hup : lnkSt (runTo s p.val) n.val = 3) :
    exec (.linkctl n p a d m) s = .next (ackTake (runTo s p.val) n.val a.toNat d.toNat m.toNat) := by
  show Host.Outcome.next (whenAt s p.val _) = _
  rw [whenAt_run s p.val hp, if_pos (lnkUp_of_state hup)]

/-- Packets of which none has been replayed to its limit are replayed. -/
theorem startReplay_within {s : State} {n : Nat} {l : List LPkt} (h : ∀ x ∈ l, x.replays < replayLimit s n) :
    startReplay s n l = modLink s n fun x => { x with replay := l.map (·.seq), replayAt := now s + 2 } := by
  have hnone : (l.find? fun p => decide (replayLimit s n ≤ p.replays)) = none :=
    List.find?_eq_none.2 fun x hx => by simpa using h x hx
  unfold startReplay
  rw [hnone]

theorem nak_up {n : Fin 24} {p : Fin 8} {a : BitVec 16} {d m : BitVec 32} {s : State} (hp : s.phase ≤ p.val) (hup : lnkSt (runTo s p.val) n.val = 3) :
    exec (.nak n p a d m) s = .next (startReplay (ackTake (runTo s p.val) n.val a.toNat d.toNat m.toNat) n.val
      (link (ackTake (runTo s p.val) n.val a.toNat d.toNat m.toNat) n.val).unacked) := by
  show Host.Outcome.next (whenAt s p.val _) = _
  rw [whenAt_run s p.val hp, if_pos (lnkUp_of_state hup)]

theorem linkctlTimer_due {n : Fin 24} {p : Fin 8} {s : State} (hp : s.phase ≤ p.val) (hup : lnkSt (runTo s p.val) n.val = 3)
    (hu : 0 < (link (runTo s p.val) n.val).uncov) (ht : (link (runTo s p.val) n.val).uncovAt + 250 ≤ now (runTo s p.val)) :
    exec (.linkctlTimer n p) s = .next (modLink (runTo s p.val) n.val fun l => { l with ctlDue := true }) := by
  show Host.Outcome.next (whenAt s p.val _) = _
  rw [whenAt_run s p.val hp]
  simp only
  rw [if_pos (by simp [lnkUp_of_state hup, hu, ht])]

/-- A timeout recorded, and the time from which the next one runs (R286). -/
def timeoutNoted (s : State) (n q : Nat) : State := modLink (raiseLnk s n 0x0902 0 [(2, 2, q)]) n fun l => { l with lastAdv := now s }

theorem replayTimeout_due {n : Fin 24} {p : Fin 8} {s : State} (hp : s.phase ≤ p.val) {q : LPkt} {l : List LPkt}
    (hq : (link (runTo s p.val) n.val).unacked = q :: l) (hup : lnkSt (runTo s p.val) n.val = 3)
    (ht : (link (runTo s p.val) n.val).lastAdv + rf (runTo s p.val) (lnkA n.val 0x020) 32 16 ≤ now (runTo s p.val)) :
    exec (.replayTimeout n p) s = .next (startReplay (timeoutNoted (runTo s p.val) n.val q.seq) n.val (q :: l)) := by
  show execReplayTimeout n p s = _
  unfold execReplayTimeout
  rw [whenAt_run s p.val hp]
  simp only
  rw [hq]
  simp only
  rw [if_pos (by simp [lnkUp_of_state hup, ht])]
  rfl

/-! ### Failed packets (R282, R284) -/

/-- A failed packet recorded and counted. -/
def failNoted (s : State) (n c : Nat) : State :=
  bump (raiseLnk s n 0x0901 1 [(2, 2, (link s n).rxNext), (4, 1, c), (8, 4, frameCyc s)]) (lnkA n 0x040) 32 16

/-- A gap opens and the search for a header begins. -/
def searchBegun (s : State) (n : Nat) : State := modLink s n fun l => { l with search := true, gap := true, nakDue := l.nakDue || !l.gap }

section
variable {n : Fin 24} {p : Fin 8} {c : BitVec 3} {s : State} (hp : s.phase ≤ p.val) (hc0 : c ≠ 0) (hc4 : c.toNat ≤ 4)
  (h1 : 1 ≤ lnkSt (runTo s p.val) n.val) (h4 : lnkSt (runTo s p.val) n.val ≤ 4)
include hp hc0 hc4 h1 h4

theorem failedPacket_found (hs : (link (runTo s p.val) n.val).search = false) :
    exec (.failedPacket n p c none) s = .next (searchBegun (failNoted (runTo s p.val) n.val c.toNat) n.val) := by
  show execFailedPacket n p c none s = _
  unfold execFailedPacket
  rw [if_neg (by simp only [hc0, false_or]; omega), whenAt_run s p.val hp, if_neg (by simp [lnkOn, h1, h4]), if_neg (by simp [hs])]
  rfl

theorem failedPacket_searching (hs : (link (runTo s p.val) n.val).search = true) : exec (.failedPacket n p c none) s = .next (runTo s p.val) := by
  show execFailedPacket n p c none s = _
  unfold execFailedPacket
  rw [if_neg (by simp only [hc0, false_or]; omega), whenAt_run s p.val hp, if_neg (by simp [lnkOn, h1, h4]), if_pos hs]
end

/-- The search that a failed packet begins, recorded and counted. -/
theorem searchBegun_facts (s : State) (n c : Nat) : let t := searchBegun (failNoted s n c) n
    Recorded s t 0x0901 1 ∧ link t n = { link s n with search := true, gap := true, nakDue := (link s n).nakDue || !(link s n).gap } ∧
      rf t (lnkA n 0x040) 32 16 = min (2 ^ 16 - 1) (rf s (lnkA n 0x040) 32 16 + 1) := by
  have hlink : link (failNoted s n c) n = link s n := (link_bump ..).trans (link_raise ..)
  refine ⟨?_, (link_modLink_same ..).trans (by rw [hlink]), ?_⟩
  · exact recorded_of_faults (recorded_bump (raise_recorded s ..) (lnkA n 0x040) 32 16) rfl
  · exact (rf_modLink ..).trans (rf_bump_same (raiseLnk s n 0x0901 1 [(2, 2, (link s n).rxNext), (4, 1, c), (8, 4, frameCyc s)]) _ (by omega))

/-- Settles O40: a start by the lemmas of `takeStart`, a packet's number by those of `seqTake`, a release and a delivery by `lehrRelease_head` and
`rootTake_head`, acknowledgement and replay by `ackTake_facts` and `startReplay_within`. -/
theorem linksReceiveInSequence : Obligations.LinksReceiveInSequence := by
  refine ⟨?start, ?parity, ?data, ?mgmt, fun n p s hp => congrArg Host.Outcome.next (whenAt_run s p.val hp _),
    fun s n => ⟨fun h => lehrRelease_halted h n, fun x l hh hl hx hr => lehrRelease_head hh hl hx hr⟩, fun s m l h hm hl => rootTake_head h hm hl,
    ?linkctl, ?nak, fun n p s hp hup hu ht => linkctlTimer_due hp hup hu ht, ?timeout, ?failed⟩
  case start =>
    intro n b s hp u j hon hst hup hslot hsrc
    have H : StartDue u n.val := ⟨hon, hst, hup, hslot⟩
    refine ⟨fun q l hq => ?_, fun hq => ?_⟩
    · obtain ⟨honly, hothers, hfq, helig⟩ := startPut_foreground u n.val b q l
      exact ⟨_, (plannedStart_runs hp).trans (congrArg _ (takeStart_foreground H hsrc hq)), honly, hothers, hfq, startedPkt u b q, helig, rfl, rfl, rfl, rfl⟩
    · exact ⟨_, (plannedStart_runs hp).trans (congrArg _ (takeStart_empty H hsrc hq)), rfl, by rw [startMarked, link_modLink_same]⟩
  case parity =>
    intro n b s hp u j hon hst hup hslot hsrc r v l hq
    have H : StartDue u n.val := ⟨hon, hst, hup, hslot⟩
    obtain ⟨hqueue, helig⟩ := startPut_parity u n.val b l (parityPkt (parityTaken (startMarked u n.val) n.val l) n.val r v)
    exact ⟨_, (parityRowForward_runs hp).trans (congrArg _ (takeStart_parity H hsrc hq)), hqueue, _, helig, rfl, rfl, rfl⟩
  case data =>
    intro n p h r0 r1 s hp u l d hup
    exact ⟨fun h0 => dataPacket_judged hp hup (seqTake_expected h0), fun hs h1 h2 hg => dataPacket_judged hp hup (seqTake_gap hs h1 h2 hg),
      fun hs h1 h2 hg => dataPacket_judged hp hup (seqTake_inGap hs h1 h2 hg), fun hs h2 => dataPacket_judged hp hup (seqTake_old hs h2)⟩
  case mgmt =>
    intro n p q r0 r1 s hp u hup hq v
    have htake : seqTake u n.val q.toNat = (true, seqAccepted u n.val) := seqTake_expected (by rw [hq]; omega)
    have hv : v = seqAccepted u n.val := congrArg Prod.snd htake
    rw [hv]
    exact ⟨congrArg LinkS.rxNext (link_modLink_same ..), _, mgmtPacket_accepted hp hup htake, rfl, rfl⟩
  case linkctl =>
    intro n p a d m s hp u hup
    exact ⟨_, linkctl_up hp hup, ackTake_facts ..⟩
  case nak =>
    intro n p a d m s hp u v hup hlim
    exact (nak_up hp hup).trans (congrArg _ (startReplay_within hlim))
  case timeout =>
    intro n p s hp u q l hq hup ht hlim
    have hnoted : link (timeoutNoted u n.val q.seq) n.val = { link u n.val with lastAdv := now u } := link_modLink_same ..
    refine ⟨_, (replayTimeout_due hp hq hup ht).trans (congrArg _ (startReplay_within (s := timeoutNoted u n.val q.seq) hlim)), ?_, ?_, ?_, ?_⟩
    · exact recorded_of_faults (raise_recorded u ..) rfl
    · exact congrArg LinkS.replay (link_modLink_same ..)
    · rw [link_modLink_same, hnoted]
    · rw [link_modLink_same, hnoted]; exact hq
  case failed =>
    intro n p c s hc0 hc4 hp u h1 h4
    obtain ⟨hrec, hlink, hcount⟩ := searchBegun_facts u n.val c.toNat
    exact ⟨fun hs => ⟨_, failedPacket_found hp hc0 hc4 h1 h4 hs, hrec, by rw [hlink], by rw [hlink], by rw [hlink], hcount⟩,
      failedPacket_searching hp hc0 hc4 h1 h4⟩

end Sys2Proof.Machine
end

section
/-!
PROOFS. The statement of the reheat's stages (chapter 16): what tables hold after they are filtered or rebuilt, the reset, the fill and the
load, then the theorem that settles it.
-/
namespace Sys2Proof.Machine
open Sys2Proof

/-! ### Tables filtered, mapped and rebuilt -/

section
variable {α : Type}

/-- Entries kept by a test of their keys. -/
theorem tget_filter_key (d : α) (P : Nat → Bool) (t : Tbl α) (a : Nat) :
    tget d (t.filter fun e => P e.1) a = if P a = true then tget d t a else d := by
  induction t with
  | nil => simp
  | cons e t ih =>
    obtain ⟨k, v⟩ := e
    by_cases hk : k = a
    · subst hk
      by_cases hp : P k = true <;> simp [tget, hp, ih]
    · by_cases hp : P k = true <;> simp [tget, hp, hk, ih]

/-- Each value replaced, where the default stands for itself. -/
theorem tget_map_value {d : α} {g : Nat → α → α} {a : Nat} (h : g a d = d) (t : Tbl α) :
    tget d (t.map fun e => (e.1, g e.1 e.2)) a = g a (tget d t a) := by
  induction t with
  | nil => exact h.symm
  | cons e t ih =>
    obtain ⟨k, v⟩ := e
    by_cases hk : k = a
    · subst hk; simp [tget]
    · simp [tget, hk, ih]

/-- A table stored again entry by entry, its first entries last. -/
theorem tget_foldr_tset [DecidableEq α] {d : α} {g : Nat → α → α} {a : Nat} (h : g a d = d) (t : Tbl α) :
    tget d (t.foldr (fun e t => tset d t e.1 (g e.1 e.2)) []) a = g a (tget d t a) := by
  induction t with
  | nil => exact h.symm
  | cons e t ih =>
    obtain ⟨k, v⟩ := e
    rw [List.foldr_cons, tget_tset]
    by_cases hk : a = k
    · subst hk; simp [tget]
    · simp [tget, hk, Ne.symm hk, ih]
end

theorem forN_succ {σ : Type} (n : Nat) (s : σ) (f : Nat → σ → σ) : forN (n + 1) s f = f n (forN n s f) := by
  unfold forN
  rw [List.range_succ, List.foldl_append]
  rfl

/-- What holds before a loop and is kept by each turn holds after it. -/
theorem forN_keeps {σ : Type} {P : σ → Prop} (n : Nat) {s : σ} {f : Nat → σ → σ} (h0 : P s) (h : ∀ i u, P u → P (f i u)) : P (forN n s f) := by
  induction n with
  | zero => exact h0
  | succ n ih => rw [forN_succ]; exact h n _ ih

/-! ### Stage 1: self-refresh (R430, Table 16-1) -/

theorem selfRefreshEntry_other {k : Fin 12} {b : Bool} {s : State} (h : reheatIn s 1 = false ∨ planOn s = true) :
    exec (.selfRefreshEntry k b) s = .next s :=
  congrArg Host.Outcome.next (if_pos (by rcases h with h | h <;> simp [h]))

theorem selfRefreshEntry_reheat {k : Fin 12} {b : Bool} {s : State} (hr : reheatIn s 1 = true) (hp : planOn s = false) :
    exec (.selfRefreshEntry k b) s =
      .next (if b then { s with boot := { s.boot with asleep := (k.val :: s.boot.asleep).eraseDups } } else coldStart s 1 true) :=
  congrArg Host.Outcome.next (if_neg (by simp [hr, hp]))

theorem reheatReset_waits {s : State} (h : reheatIn s 1 = false ∨ planOn s = true ∨ s.boot.asleep.length ≠ 12) : exec .reheatReset s = .next s :=
  congrArg Host.Outcome.next (if_pos (by rcases h with h | h | h <;> simp [h]))

theorem reheatReset_runs {s : State} (hr : reheatIn s 1 = true) (hp : planOn s = false) (h12 : s.boot.asleep.length = 12) :
    exec .reheatReset s = .next (endStage (reheatReset s)) :=
  congrArg Host.Outcome.next (if_neg (by simp [hr, hp, h12]))

/-! ### Stage 2: the reset (R46, R55, R431) -/

/-- A kept register's bits. -/
theorem rg_resetControl (s : State) (a : Nat) : rg (resetControl s) a =
    if (reheatKeeps a && !reheatDrops a) = true then (BitVec.ofNat 64 (rg s a) &&& BitVec.ofNat 64 (reheatMask a)).toNat else 0 := by
  have hread : tget 0 (resetControl s).regs a =
      tget 0 (s.regs.filter fun e => reheatKeeps e.1 && !reheatDrops e.1) a &&& BitVec.ofNat 64 (reheatMask a) :=
    tget_foldr_tset (g := fun a v => v &&& BitVec.ofNat 64 (reheatMask a)) (BitVec.zero_and) _
  unfold rg
  rw [hread, tget_filter_key 0 (fun a => reheatKeeps a && !reheatDrops a)]
  split
  · rw [BitVec.ofNat_toNat, BitVec.setWidth_eq]
  · exact congrArg BitVec.toNat BitVec.zero_and

/-- The registers of the root region are kept whole. -/
theorem reheatMask_root {a : Nat} (h : a / 0x1000000 = 0x20000) : reheatMask a = 2 ^ 64 - 1 := by
  unfold reheatMask
  split
  · exact if_pos (.inr h)
  · rfl

theorem rg_resetControl_root {s : State} {a : Nat} (h : a / 0x1000000 = 0x20000) (hd : reheatDrops a = false) : rg (resetControl s) a = rg s a := by
  have hk : reheatKeeps a = true := by unfold reheatKeeps; simp [h]
  rw [rg_resetControl, if_pos (by simp [hk, hd]), reheatMask_root h, BitVec.toNat_and, BitVec.toNat_ofNat, BitVec.toNat_ofNat,
    Nat.mod_eq_of_lt (rg_lt s a), Nat.mod_eq_of_lt (by decide), Nat.and_two_pow_sub_one_eq_mod, Nat.mod_eq_of_lt (rg_lt s a)]

theorem core_resetControl (s : State) (c : Nat) : core (resetControl s) c = reheatCore s c (core s c) :=
  tget_map_value (g := reheatCore s) rfl s.cores

/-- The link groups' domains, 72 to 75, are off. -/
def groupsOff (s : State) : State := forN 4 s fun g s => setDomain s (72 + g) false

/-- PWR_DOM_STAT of domains 64 and above. -/
def domHi : Nat := 0x02000001B010

theorem groupsOff_eq (s : State) : groupsOff s = setRf (setRf (setRf (setRf s domHi 8 1 0) domHi 9 1 0) domHi 10 1 0) domHi 11 1 0 := rfl

theorem groupsOff_ex (s : State) : ∃ r, groupsOff s = { s with regs := r } :=
  ⟨_, setRf_only (setRf_only (setRf_only (setRf_only (regs_self rfl) ..) ..) ..) ..⟩

theorem rg_groupsOff_ne {s : State} {a : Nat} (h : a ≠ domHi) : rg (groupsOff s) a = rg s a := by
  rw [groupsOff_eq, rg_setRf_ne _ h, rg_setRf_ne _ h, rg_setRf_ne _ h, rg_setRf_ne _ h]

theorem rf_groupsOff_tile (s : State) {i : Nat} (h : i < 8) : rf (groupsOff s) domHi i 1 = rf s domHi i 1 := by
  rw [groupsOff_eq, rf_setRf_below _ _ _ (by omega) (by omega), rf_setRf_below _ _ _ (by omega) (by omega),
    rf_setRf_below _ _ _ (by omega) (by omega), rf_setRf_below _ _ _ (by omega) (by omega)]

theorem rf_groupsOff_group (s : State) {i : Nat} (h : 8 ≤ i) (h2 : i < 12) : rf (groupsOff s) domHi i 1 = 0 := by
  have hset (u : State) (k : Nat) (hk : k < 12) : rf (setRf u domHi k 1 0) domHi k 1 = 0 := rf_setRf_same _ _ _ (by omega)
  have hstay (u : State) (k : Nat) (hik : i < k) (hk : k < 12) : rf (setRf u domHi k 1 0) domHi i 1 = rf u domHi i 1 :=
    rf_setRf_below _ _ _ (by omega) (by omega)
  rw [groupsOff_eq]
  obtain rfl | rfl | rfl | rfl : i = 8 ∨ i = 9 ∨ i = 10 ∨ i = 11 := by omega
  · rw [hstay _ 11 (by omega) (by omega), hstay _ 10 (by omega) (by omega), hstay _ 9 (by omega) (by omega), hset _ 8 (by omega)]
  · rw [hstay _ 11 (by omega) (by omega), hstay _ 10 (by omega) (by omega), hset _ 9 (by omega)]
  · rw [hstay _ 11 (by omega) (by omega), hset _ 10 (by omega)]
  · rw [hset _ 11 (by omega)]

/-- A start's choice of reference writes CLK_STAT and the Tether's state. -/
theorem startRef_ex (s : State) : ∃ r t, startRef s = { s with regs := r, tether := t } := by
  unfold startRef
  simp only
  split
  · exact ⟨_, _, rfl⟩
  · split <;> exact ⟨_, _, rfl⟩

theorem rg_startRef_ne {s : State} {a : Nat} (h : a ≠ clkA 0x000) : rg (startRef s) a = rg s a := by
  unfold startRef
  simp only
  split
  · exact rg_setRf_ne s h ..
  · split
    · exact rg_setRf_ne s h ..
    · rfl

/-- The state before the reset's last registers: control reset, link groups off, the reference taken. -/
def resetRef (s : State) : State := startRef (groupsOff (resetControl s))

theorem resetRef_ex (s : State) : ∃ r t, resetRef s = { resetControl s with regs := r, tether := t } := by
  obtain ⟨r, hr⟩ := groupsOff_ex (resetControl s)
  obtain ⟨q, t, hq⟩ := startRef_ex { resetControl s with regs := r }
  exact ⟨q, t, (congrArg startRef hr).trans hq⟩

theorem rg_resetRef_ne {s : State} {a : Nat} (hc : a ≠ clkA 0x000) (hd : a ≠ domHi) : rg (resetRef s) a = rg (resetControl s) a :=
  (rg_startRef_ne hc).trans (rg_groupsOff_ne hd)

/-- The reset's last registers: measurement slots open, TT_CTRL 0. -/
def resetRegs (s : State) : State := setRg (setRf (setRf s (secA 0) 57 5 0) (secA 0) 32 8 0) (ttA 0x018) 0

/-- What the reset does to Crownline's state and the boot record. -/
def resetNotes (s : State) : State :=
  { modCrl s fun c => { c with secOk := [], secBad := false } with boot := { s.boot with asleep := [], record := [], bad := 0 } }

theorem reheatReset_eq (s : State) : reheatReset s = resetNotes (resetRegs (resetRef s)) := rfl

theorem resetRegs_ex (s : State) : ∃ r, resetRegs s = { s with regs := r } :=
  ⟨_, setRg_only (setRf_only (setRf_only (regs_self rfl) ..) ..) ..⟩
theorem rg_resetRegs_ne {s : State} {a : Nat} (hs : a ≠ secA 0) (ht : a ≠ ttA 0x018) : rg (resetRegs s) a = rg s a :=
  (rg_setRg_ne _ ht 0).trans ((rg_setRf_ne _ hs ..).trans (rg_setRf_ne _ hs ..))
theorem resetNotes_ex (s : State) : ∃ c b, resetNotes s = { s with crl := c, boot := b } := ⟨_, _, rfl⟩

theorem rg_reheatReset (s : State) (a : Nat) : rg (reheatReset s) a = rg (resetRegs (resetRef s)) a := by
  obtain ⟨c, b, hn⟩ := resetNotes_ex (resetRegs (resetRef s))
  exact rg_congr (by rw [reheatReset_eq, hn]) a

theorem reheatReset_ex (s : State) : ∃ r t c b, reheatReset s = { resetControl s with regs := r, tether := t, crl := c, boot := b } := by
  obtain ⟨r, t, hr⟩ := resetRef_ex s
  obtain ⟨q, hq⟩ := resetRegs_ex { resetControl s with regs := r, tether := t }
  obtain ⟨c, b, hn⟩ := resetNotes_ex { resetControl s with regs := q, tether := t }
  exact ⟨q, t, c, b, (congrArg (fun u => resetNotes (resetRegs u)) hr).trans ((congrArg resetNotes hq).trans hn)⟩


theorem rg_reheatReset_kept {s : State} {a : Nat} (hd : a ≠ domHi) (hs : a ≠ secA 0) (hc : a ≠ clkA 0x000) (ht : a ≠ ttA 0x018) :
    rg (reheatReset s) a = rg (resetControl s) a :=
  (rg_reheatReset s a).trans ((rg_resetRegs_ne hs ht).trans (rg_resetRef_ne hc hd))

/-- TT_CTRL is open. -/
theorem rg_reheatReset_ctrl (s : State) : rg (reheatReset s) (ttA 0x018) = 0 := by
  rw [rg_reheatReset]
  exact rg_setRg_same ..

theorem rg_reheatReset_dropped {s : State} {a : Nat} (h : reheatKeeps a = false ∨ reheatDrops a = true) (hd : a ≠ domHi) (hs : a ≠ secA 0)
    (hc : a ≠ clkA 0x000) : rg (reheatReset s) a = 0 := by
  by_cases ht : a = ttA 0x018
  · rw [ht]; exact rg_reheatReset_ctrl s
  · rw [rg_reheatReset_kept hd hs hc ht, rg_resetControl]
    exact if_neg (by rcases h with h | h <;> simp [h])

theorem ttc_reheatReset (s : State) : ttc (reheatReset s) = 0 :=
  rg_reheatReset_dropped (a := ttA 0x000) (.inr (by decide)) (by decide) (by decide) (by decide)

theorem stepNo_reheatReset (s : State) : stepNo (reheatReset s) = 0 := by
  unfold stepNo rf
  rw [rg_reheatReset_dropped (a := ttA 0x008) (.inr (by decide)) (by decide) (by decide) (by decide)]
  decide

/-- PWR_DOM_STAT of domains 64 and above is what the link groups' power-off leaves. -/
theorem rf_reheatReset_domHi (s : State) (i : Nat) : rf (reheatReset s) domHi i 1 = rf (groupsOff (resetControl s)) domHi i 1 := by
  unfold rf
  rw [rg_reheatReset, rg_resetRegs_ne (by decide) (by decide)]
  unfold resetRef
  rw [rg_startRef_ne (by decide)]

theorem domainOn_low {s : State} {d : Nat} (h : d < 64) : domainOn s d = (rf s 0x02000001B008 d 1 == 1) := by
  unfold domainOn
  rw [if_pos h, Nat.mod_eq_of_lt h]

theorem domainOn_high {s : State} {d : Nat} (h : 64 ≤ d) (h2 : d < 128) : domainOn s d = (rf s domHi (d - 64) 1 == 1) := by
  unfold domainOn domHi
  rw [if_neg (by omega), show d % 64 = d - 64 by omega]

/-- The tile domains keep their power and the link groups lose it. -/
theorem domainOn_reheatReset (s : State) {d : Nat} (h : d < 76) : domainOn (reheatReset s) d = (decide (d < 72) && domainOn s d) := by
  by_cases hlow : d < 64
  · have hrf : rf (reheatReset s) 0x02000001B008 d 1 = rf s 0x02000001B008 d 1 := by
      unfold rf
      rw [rg_reheatReset_kept (by decide) (by decide) (by decide) (by decide), rg_resetControl_root (by decide) (by decide)]
    rw [domainOn_low hlow, domainOn_low hlow, hrf, decide_eq_true (by omega : d < 72), Bool.true_and]
  · rw [domainOn_high (by omega) (by omega), rf_reheatReset_domHi]
    by_cases htile : d < 72
    · have hrf : rf (resetControl s) domHi (d - 64) 1 = rf s domHi (d - 64) 1 := by
        unfold rf
        rw [rg_resetControl_root (by decide) (by decide)]
      rw [rf_groupsOff_tile _ (by omega), hrf, domainOn_high (by omega) (by omega), decide_eq_true htile, Bool.true_and]
    · rw [rf_groupsOff_group _ (by omega) (by omega), decide_eq_false htile]
      rfl

theorem core_reheatReset (s : State) (c : Nat) : core (reheatReset s) c = reheatCore s c (core s c) := by
  obtain ⟨r, t, l, b, h⟩ := reheatReset_ex s
  rw [h]
  exact core_resetControl s c

/-- What the reset leaves of the device, and what starts anew. -/
theorem reheatReset_leaves (s : State) : let t := reheatReset s
    t.mem = s.mem ∧ t.sec = s.sec ∧ t.flash = s.flash ∧ t.faults = s.faults ∧ t.img = s.img ∧ t.staged = s.staged ∧ t.pending = s.pending ∧
    t.acts = [] ∧ t.jobs = [] ∧ t.flights = [] ∧ t.links = [] ∧ t.rops = [] ∧ t.vote = {} ∧ t.halted = false ∧ t.evacuate = false := by
  obtain ⟨r, t, l, b, h⟩ := reheatReset_ex s
  rw [h]
  exact ⟨rfl, rfl, rfl, rfl, rfl, rfl, rfl, rfl, rfl, rfl, rfl, rfl, rfl, rfl, rfl⟩

/-! ### Stage 4: the fill (R201, R241) -/

theorem zeroFill_reheat {s : State} (h : reheatIn s 4 = true) : exec .zeroFill s = .next (endStage (rebuildTags (scratchFill s))) := by
  have hkind : startKind s = 2 := by unfold reheatIn at h; simp at h; exact h.1
  have hcold : coldIn s 4 = false := by unfold coldIn; simp [hkind]
  exact congrArg Host.Outcome.next ((if_neg (by simp [hcold])).trans (if_pos h))

theorem readByte_scratchFill (s : State) (a : Nat) : readByte (scratchFill s).mem a = if fillKeeps s a = true then readByte s.mem a else 0 :=
  tget_filter_key memDefault (fillKeeps s) s.mem a

/-- A Crucible byte stays exactly where its row is resident. -/
theorem fillKeeps_row (s : State) {c r b : Nat} (hc : c < 60) (hr : r < 2 ^ 16) (hb : b < 128) : fillKeeps s (rowAddr c r + b) = residentRow s c r := by
  have hin : 0x010000000000 ≤ rowAddr c r + b ∧ rowAddr c r + b < 0x010000000000 + 60 * 0x1000000 := by unfold rowAddr; omega
  have hcore : (rowAddr c r + b - 0x010000000000) / 0x1000000 = c := by unfold rowAddr; omega
  have hrow : (rowAddr c r + b - 0x010000000000) % 0x1000000 / 128 = r := by unfold rowAddr; omega
  unfold fillKeeps
  rw [hcore, hrow, decide_eq_true hin]
  rfl

theorem fillKeeps_outside (s : State) {a : Nat} (h : a < rowAddr 0 0 ∨ rowAddr 60 0 ≤ a) : fillKeeps s a = true := by
  have hout : ¬(0x010000000000 ≤ a ∧ a < 0x010000000000 + 60 * 0x1000000) := by unfold rowAddr at h; omega
  unfold fillKeeps
  rw [decide_eq_false hout]
  rfl

/-- A stack's 64 channels take the tags, and no other does. -/
theorem chan_setTags (s : State) (k : Nat) (t : Tbl (BitVec 32)) (n : Nat) :
    chan (setTags s k t) n = if n / 64 = k then { chan s n with tags := t } else chan s n := by
  have hfirst (j : Nat) : chan (forN j s fun c u => modChan u (64 * k + c) fun x => { x with tags := t }) n =
      if 64 * k ≤ n ∧ n < 64 * k + j then { chan s n with tags := t } else chan s n := by
    induction j with
    | zero => exact (if_neg (by omega)).symm
    | succ j ih =>
      rw [forN_succ, chan_modChan]
      by_cases hn : n = 64 * k + j
      · rw [← hn, if_pos rfl, ih, if_neg (by omega), if_pos (by omega)]
      · rw [if_neg hn, ih]
        exact if_congr (by omega) rfl rfl
  unfold setTags
  rw [hfirst 64]
  exact if_congr (by omega) rfl rfl

theorem setTags_ex (s : State) (k : Nat) (t : Tbl (BitVec 32)) : ∃ c, setTags s k t = { s with chans := c } :=
  forN_keeps (P := fun u => ∃ c, u = { s with chans := c }) 64 ⟨_, rfl⟩ fun i u ⟨c, h⟩ => ⟨_, by rw [h]; rfl⟩

/-- Rebuilding the tags writes the channels alone. -/
theorem rebuildTags_ex (s : State) : ∃ c, rebuildTags s = { s with chans := c } :=
  forN_keeps (P := fun u => ∃ c, u = { s with chans := c }) 12 ⟨_, rfl⟩ fun k u ⟨c, h⟩ => by
    obtain ⟨d, hd⟩ := setTags_ex { s with chans := c } k (stackTags s k)
    exact ⟨d, by rw [h]; exact hd⟩

theorem chan_rebuildTags (s : State) (n : Nat) :
    chan (rebuildTags s) n = if n < 768 then { chan s n with tags := stackTags s (n / 64) } else chan s n := by
  have hfirst (j : Nat) : chan (forN j s fun k u => setTags u k (stackTags s k)) n =
      if n < 64 * j then { chan s n with tags := stackTags s (n / 64) } else chan s n := by
    induction j with
    | zero => exact (if_neg (by omega)).symm
    | succ j ih =>
      rw [forN_succ, chan_setTags]
      by_cases hn : n / 64 = j
      · rw [if_pos hn, ih, if_neg (by omega), if_pos (by omega), hn]
      · rw [if_neg hn, ih]
        exact if_congr (by omega) rfl rfl
  exact hfirst 12

/-! ### Stage 7: the load (R433, R434) -/

theorem reheatVerify_other {s : State} (h : stage s ≠ 7 ∨ startKind s ≠ 2 ∨ rf s (parA 0) 60 4 ≠ 2) : exec .reheatVerify s = .next s :=
  congrArg Host.Outcome.next (if_pos h)

theorem reheatVerify_checked {s : State} (h7 : stage s = 7) (hk : startKind s = 2) (h2 : rf s (parA 0) 60 4 = 2) :
    exec .reheatVerify s = .next (loadEnds (reheatServing (dropPending (scratchFill (reheatUnits s))) s.staged) s.staged) :=
  congrArg Host.Outcome.next (if_neg (by simp [h7, hk, h2]))

/-- The record of a section rewritten. -/
theorem raiseStart_recorded (s : State) (code sev cls idx : Nat) (d : List (Nat × Nat × Nat)) : Recorded s (raiseStart s code sev cls idx d) code sev :=
  recorded_of_faults (raise_recorded ..) (setRf_faults ..)

theorem reheatServing_kept {s : State} {b : List Byte} (h : keepsServing s b = true) : reheatServing s b = rebuildTags s :=
  congrArg rebuildTags (if_pos h)

/-- A loop that writes DRAM, where a test asks for it, keeps what no DRAM write changes. -/
theorem foldl_putDram_keeps {α β : Type} {g : State → β} (hg : ∀ u a v, g (putDram u a v) = g u) (l : List α) (p : α → Prop) [DecidablePred p]
    (addr : α → Nat) (val : α → List Byte) (s : State) : g (l.foldl (fun u x => if p x then putDram u (addr x) (val x) else u) s) = g s :=
  foldl_keeps l _ g (fun u x => by
    split
    · exact hg ..
    · rfl) s

/-- What an emptied serving state keeps of the state whose servers are cleared first. -/
theorem emptyServing_keeps {β : Type} {g : State → β} (hg : ∀ u a v, g (putDram u a v) = g u) (s : State) : g (emptyServing s) =
    g { s with srvs := [], strmTab := s.strmTab.filter fun w => w.1 % 16 == 0, fritRefs := [], heldStreams := [], heldLeft := [], relays := [], relayC := [] } :=
  (foldl_putDram_keeps hg _ _ _ _ _).trans (foldl_putDram_keeps hg _ _ _ _ _)

theorem reheatServing_emptied {s : State} {b : List Byte} (h : keepsServing s b = false) :
    (reheatServing s b).srvs = [] ∧ (reheatServing s b).heldStreams = [] ∧ (reheatServing s b).fritRefs = [] := by
  have hempty : reheatServing s b = rebuildTags (emptyServing s) := congrArg rebuildTags (if_neg (by simp [h]))
  obtain ⟨c, hc⟩ := rebuildTags_ex (emptyServing s)
  rw [hempty, hc]
  exact ⟨emptyServing_keeps (g := State.srvs) (fun _ _ _ => rfl) s, emptyServing_keeps (g := State.heldStreams) (fun _ _ _ => rfl) s,
    emptyServing_keeps (g := State.fritRefs) (fun _ _ _ => rfl) s⟩

theorem loadEnds_shown (s : State) (b : List Byte) : ∃ w, loadEnds s b = endStage (loadShown w b) := ⟨_, rfl⟩

theorem rf_setParState (s : State) {v : Nat} (h : v < 16) : rf (setParState s v) (parA 0) 60 4 = v := by
  unfold setParState
  split
  case isTrue hv => exact hv
  case isFalse =>
    have hset : rf (setRf s (parA 0x000) 60 4 v) (parA 0) 60 4 = v := (rf_setRf_same _ _ _ (by omega)).trans (Nat.mod_eq_of_lt h)
    unfold rf at hset ⊢
    rw [msix_rg (by decide), hset]

theorem measure_img (s : State) (m : Nat) (d : List Byte) : (measure s m d).img = s.img :=
  (setRf_img ..).trans (forN_keeps (P := fun u : State => u.img = s.img) 8 rfl fun _ _ h => (setRg_img ..).trans h)

theorem setParState_img (s : State) (v : Nat) : (setParState s v).img = s.img := by
  obtain ⟨r, l, o, h⟩ := setParState_ex s v
  rw [h]

theorem loadShown_img (s : State) (b : List Byte) : (loadShown s b).img = b := by
  unfold loadShown
  rw [setParState_img, measure_img, measure_img]

/-- A section of the load: its digest differs, its contents do not agree with it, or it stands (R433). -/
theorem reheatSection_cases (s : State) (b : List Byte) (e : DirEnt) : ∃ u, Recorded s u 0x0E0B 0 ∧ reheatSection s b e =
    if (entOf s.img e.type e.inst e.var).map (·.digest) ≠ some e.digest then putSection s b 0 e else if keptBad s b e then putSection u b 0 e else s :=
  ⟨_, raiseStart_recorded s 0x0E0B 0 0x00 0 [(1, 2, e.ix), (3, 1, siteOfSec e)], rfl⟩

/-- The load ends with the image in force and PAR_STAT 3. -/
theorem loadEnds_ends (s : State) (b : List Byte) : ∃ u, loadEnds s b = endStage u ∧ rf u (parA 0) 60 4 = 3 ∧ u.img = b := by
  obtain ⟨w, hw⟩ := loadEnds_shown s b
  exact ⟨loadShown w b, hw, rf_setParState _ (by omega), loadShown_img w b⟩

/-! ### The statement -/

/-- Settles O55: stage by stage, from what the reset, the fill and the load write. -/
theorem reheatStages : Obligations.ReheatStages := by
  unfold Obligations.ReheatStages
  refine ⟨fun k b s => ⟨selfRefreshEntry_other, fun hr hp => ⟨selfRefreshEntry_reheat hr hp, selfRefreshEntry_reheat hr hp⟩⟩,
    fun s => ⟨reheatReset_waits, reheatReset_runs⟩, fun s => ?reset, fun s => zeroFill_reheat, fun s => ?fill,
    fun s => ⟨reheatVerify_other, reheatVerify_checked⟩, fun s b e => ?load⟩
  case reset =>
    obtain ⟨hmem, hsec, hflash, hfaults, himg, hstaged, hpending, hacts, hjobs, hflights, hlinks, hrops, hvote, hhalted, hevacuate⟩ := reheatReset_leaves s
    refine ⟨ttc_reheatReset s, stepNo_reheatReset s, rg_reheatReset_ctrl s, hmem, hsec, hflash, hfaults, himg, hstaged, hpending, hacts, hjobs,
      hflights, hlinks, hrops, hvote, hhalted, hevacuate, fun d => domainOn_reheatReset s, fun c => ?_, fun a hk hd ha hs hc ht => ?_,
      fun a h hd hs hc => rg_reheatReset_dropped h hd hs hc⟩
    · simp only [core_reheatReset]
      exact ⟨rfl, rfl, rfl, rfl, rfl, rfl, rfl⟩
    · rw [rg_reheatReset_kept ha hs hc ht, rg_resetControl]
      exact if_pos (by simp [hk, hd])
  case fill =>
    obtain ⟨c, hc⟩ := rebuildTags_ex s
    exact ⟨readByte_scratchFill s, fun c r b => fillKeeps_row s, fun a => fillKeeps_outside s, rfl, by rw [hc], chan_rebuildTags s⟩
  case load =>
    exact ⟨reheatSection_cases s b e, fun old => rfl, reheatServing_kept, reheatServing_emptied, loadEnds_ends s b⟩

end Sys2Proof.Machine
end

section
/-!
PROOFS. The statements of skipped sequencer commands, of overlaps, and of the starts of register moves, of the blowpipe streams' commands
and of shaping commands (chapters 4 and 5): before each theorem what the issues of its family share.
-/
namespace Sys2Proof.Machine
open Sys2Proof

variable {s : State} {h : Iss} {i : Instr}

/-! ### Skipped sequencer commands (R122) -/

/-- A skipped sequencer command has no meaning beyond its issue. -/
theorem sequencer_skips (hi : sequencerHdr i = some h) :
    ∃ f : Bool → State → State, (∀ s, exec i s = .next (whenDue s h i f)) ∧ ∀ u, f true u = u := by
  unfold sequencerHdr at hi
  split at hi <;> cases hi <;> exact ⟨_, fun _ => rfl, fun _ => rfl⟩

/-- Settles O6: a skipped sequencer command leaves the stream as `advance` does. -/
theorem skippedSequencerCommandsOnlyAdvance : Obligations.SkippedSequencerCommandsOnlyAdvance := by
  unfold Obligations.SkippedSequencerCommandsOnlyAdvance
  intro i h s hi hp hd hw hc hs
  obtain ⟨f, hx, hf⟩ := sequencer_skips hi
  refine ⟨_, hx s, ?_⟩
  rw [whenDue_due hp hd hw (Or.inl hc), hs, hf]
  exact issued_advance s h

/-! ### Overlaps (R91) -/

theorem raiseOverlap_recorded (s : State) (c e p ix left : Nat) : Recorded s (raiseOverlap s c e p ix left) 0x0301 2 :=
  recorded_bump (raiseEng_recorded ..) _ _ _
@[simp] theorem core_raiseOverlap (s : State) (c e p ix left d : Nat) : core (raiseOverlap s c e p ix left) d = core s d := by
  unfold raiseOverlap; rw [core_bump, core_raiseEng]
/-- Beside its record an overlap changes a counter's register and what the severity does. -/
theorem raiseOverlap_only (s : State) (c e p ix left : Nat) :
    ∃ r f v x y, raiseOverlap s c e p ix left = { s with regs := r, faults := f, vote := v, evacuate := x, halted := y } := by
  obtain ⟨r, hr⟩ := bump_ex (raiseEng s c e 0x0301 2 [(2, 1, e), (3, 1, p), (4, 2, ix), (6, 2, left)]) (engA c 0x028) 48 16
  exact ⟨r, _, _, _, _, hr⟩
/-- The counter of overlaps is no clock. -/
@[simp] theorem now_raiseOverlap (s : State) (c e p ix left : Nat) : now (raiseOverlap s c e p ix left) = now s := by
  have hne : kelA 0x110 ≠ engA c 0x028 := by unfold kelA engA; omega
  unfold raiseOverlap now
  rw [rg_bump_ne _ hne, bump_phase, raiseEng_phase]
  unfold rg
  rw [raiseEng_regs]

/-- A command that finds one of its paths held is told so; it records the overlap and takes all its paths. -/
theorem takePaths_held {c e ix : Nat} {ps : List (Nat × Nat)} (hp : ∃ p ∈ ps, now s < freeAt s c e p.1) :
    ∃ p left, takePaths s c e ix ps = (false, heldPaths (raiseOverlap s c e p ix left) c e ps) := by
  obtain ⟨q, hq, hlt⟩ := hp
  cases ho : overlap s c e (ps.map (·.1)) with
  | none =>
    unfold overlap at ho
    exact absurd hlt (by simpa using List.find?_eq_none.mp ho q.1 (List.mem_map_of_mem hq))
  | some p => exact ⟨p, freeAt s c e p - now s, by unfold takePaths; rw [ho]; rfl⟩

/-- A port command runs on its paths, in one counter group: the core stream's commands select from all four counters of it, an access
stream's from the first two, DLV from the last two (R94, R151). -/
theorem portsOf_runs {e : Nat} {ps : List (Nat × Nat)} (hi : portsOf i = some (h, e, ps)) :
    ∃ g lo cuse cinc, ∃ go : Nat → State → State → State, (∀ s, exec i s = .next (issueCmd h i g lo cuse cinc (fun skip term u => runOn h e ps skip u (go term u)) s)) ∧
      ∀ j, j < 4 → bitAt cinc j = true → lo + j < 4 := by
  unfold portsOf at hi
  split at hi <;> cases hi
  case h_1 | h_2 | h_3 | h_4 | h_5 => exact ⟨_, _, _, _, _, fun _ => rfl, bit_lt4 _⟩
  case h_6 | h_7 => exact ⟨_, _, _, _, _, fun _ => rfl, bit_lt2 (Nat.zero_le 2) _⟩
  case h_16 => exact ⟨_, _, _, _, _, fun _ => rfl, bit_lt2 (Nat.le_refl 2) _⟩
  all_goals exact ⟨_, _, _, _, _, fun _ => rfl, bit_lt0⟩

/-- The paths of a port command are among the sixteen of its engine. -/
theorem portsOf_lt {e : Nat} {ps : List (Nat × Nat)} (hi : portsOf i = some (h, e, ps)) : ∀ q ∈ ps, q.1 < 16 := by
  unfold portsOf at hi
  split at hi <;> cases hi
  case h_1 bank _ => cases bank <;> simp [b2n]
  all_goals simp

/-- A port command that finds a path held leaves its stream advanced, the overlap recorded and its paths taken, and steps its counters. -/
theorem portsOf_overlaps {e : Nat} {ps : List (Nat × Nat)} (hi : portsOf i = some (h, e, ps)) (H : Issues s h i)
    (hp : ∃ p ∈ ps, now s < freeAt s h.core.val e p.1) :
    ∃ p left g lo cinc, exec i s =
        .next (incCtrs (heldPaths (raiseOverlap (advance s h) h.core.val e p h.index.toNat left) h.core.val e ps) h.core.val g lo cinc) ∧
      ∀ j, j < 4 → bitAt cinc j = true → lo + j < 4 := by
  obtain ⟨g, lo, cuse, cinc, go, hx, hsel⟩ := portsOf_runs hi
  obtain ⟨p, left, ht⟩ := takePaths_held (s := advance s h) (c := h.core.val) (e := e) (ix := h.index.toNat) (ps := ps) (by simpa using hp)
  refine ⟨p, left, g, lo, cinc, ?_, hsel⟩
  rw [hx, issueCmd_issues H]
  unfold runOn
  simp only [ht, Bool.false_and, Bool.false_eq_true, if_false]

/-- Paths held and counters stepped: of the state only one core and what comparators write differ, and of the core the holds and the counters. -/
theorem incCtrs_heldPaths_rest (u : State) (c e g lo cinc : Nat) {ps : List (Nat × Nat)} (hps : ∀ q ∈ ps, q.1 < 16)
    (hsel : ∀ j, j < 4 → bitAt cinc j = true → lo + j < 4) :
    let t := incCtrs (heldPaths u c e ps) c g lo cinc
    ∃ l, t = { u with cores := t.cores, acts := u.acts ++ l } ∧ (∀ a ∈ l, ∃ b v k, a.op = .cmpWrite b v k) ∧ (∀ d, d ≠ c → core t d = core u d) ∧
      core t c = { core u c with ctrs := (core t c).ctrs, holds := (core t c).holds } ∧
      ∀ e' p, p < 16 → freeAt t c e' p = (ps.filter fun q => e' == e && q.1 == p).foldl (fun m q => max m (now u + q.2)) (freeAt u c e' p) := by
  obtain ⟨hrest, hothers, hsame⟩ := heldPaths_rest u c e ps
  have hfree := freeAt_heldPaths u c e ps hps
  generalize heldPaths u c e ps = v at *
  obtain ⟨l, trest, tothers, tsame, -, hl⟩ := incCtrs_rest v c g lo cinc hsel
  refine ⟨l, ?_, fun a ha => ?_, fun d hd => (tothers d hd).trans (hothers d hd), ?_, fun e' p hp => ?_⟩
  · rw [trest, hrest]
  · obtain ⟨-, -, b, w, hop⟩ := hl a ha
    exact ⟨b, w, g, hop⟩
  · rw [tsame, hsame]
  · rw [← hfree e' p hp]
    unfold freeAt
    rw [tsame]

/-- Settles O8: the state is that of `portsOf_overlaps`, the record that of `raiseOverlap`. -/
theorem heldPathIsAnOverlap : Obligations.HeldPathIsAnOverlap := by
  unfold Obligations.HeldPathIsAnOverlap
  intro i h e ps s hi H hp
  obtain ⟨p, left, g, lo, cinc, hx, hsel⟩ := portsOf_overlaps hi H hp
  refine ⟨_, hx, ?_⟩
  have hrec := raiseOverlap_recorded (advance s h) h.core.val e p h.index.toNat left
  have hnow := now_raiseOverlap (advance s h) h.core.val e p h.index.toNat left
  have hcore := core_raiseOverlap (advance s h) h.core.val e p h.index.toNat left
  obtain ⟨_, _, _, _, _, hu⟩ := raiseOverlap_only (advance s h) h.core.val e p h.index.toNat left
  generalize raiseOverlap (advance s h) h.core.val e p h.index.toNat left = u at *
  obtain ⟨l, hrest, hl, hothers, hsame, hfree⟩ := incCtrs_heldPaths_rest u h.core.val e g lo cinc (portsOf_lt hi) hsel
  generalize incCtrs (heldPaths u h.core.val e ps) h.core.val g lo cinc = t at *
  have hframe : t.jobs = s.jobs ∧ t.nextJob = s.nextJob ∧ t.mem = s.mem ∧ t.pending = s.pending ∧ t.acts = s.acts ++ l := by
    rw [hrest, hu]; exact ⟨rfl, rfl, rfl, rfl, rfl⟩
  obtain ⟨hjobs, hnext, hmem, hpend, hacts⟩ := hframe
  refine ⟨?_, hjobs, hnext, hmem, hpend, ⟨l, hacts, hl⟩, fun d hd => ?_, fun k => ?_, fun e' p hp => ?_⟩
  · exact recorded_since (advance_faults s h) rfl rfl (recorded_of_faults hrec (by rw [hrest]))
  · rw [hothers d hd, hcore, core_advance_ne s h hd]
  · rw [← strm_advance s h k]
    unfold strm
    rw [hsame, hcore]
  · have hf : freeAt u h.core.val e' p = freeAt s h.core.val e' p := by
      rw [← freeAt_advance s h]; unfold freeAt; rw [hcore]
    rw [hfree e' p hp, hf, hnow, now_advance]

/-! ### Port commands that begin (R91, R92) -/

/-- Where the paths of a command are free, a run that takes them goes on to its own start of a job. -/
theorem issue_begins_on {e lo cuse cinc : Nat} {ps : List (Nat × Nat)} {x : Job} {ops : List (Nat × Micro)} {go : Nat → State → State → State}
    (H : Issues s h i) (hf : PathsFree s h.core.val e ps) (hps : ∀ q ∈ ps, q.1 < 16) (hsel : ∀ j, j < 4 → bitAt cinc j = true → lo + j < 4)
    (hx : x.core = h.core.val)
    (hgo : go (termOf s h e lo cuse) (advance s h) (heldPaths (advance s h) h.core.val e ps) = startJob (heldPaths (advance s h) h.core.val e ps) x ops) :
    Began s (issueCmd h i e lo cuse cinc (fun skip term u => runOn h e ps skip u (go term u)) s) h e lo cinc ps x ops :=
  issue_began H ((runOn_free hf _).trans hgo) hps hsel hx

/-- A port command with its paths free begins: its job names the issue cycle, its micro-operations are those of that cycle. -/
theorem port_begins {e lo cuse cinc : Nat} {ps : List (Nat × Nat)} {l : List (Nat × Micro)} {ops : Nat → State → List (Nat × Micro)}
    (hi : portsOf i = some (h, e, ps)) (H : Issues s h i) (hf : PathsFree s h.core.val e ps) (hsel : ∀ j, j < 4 → bitAt cinc j = true → lo + j < 4)
    (hops : ops (termOf s h e lo cuse) (advance s h) = l) :
    Began s (issueCmd h i e lo cuse cinc (fun skip term u => runOn h e ps skip u fun v => startJob v (jobOf v h i term []) (ops term u)) s)
      h e lo cinc ps (jobOf s h i (termOf s h e lo cuse) []) l :=
  issue_begins_on H hf (portsOf_lt hi) hsel rfl (by rw [jobOf_heldPaths, hops])

/-! ### Register moves (R99, R144) -/

/-- Settles O20: each move by `port_begins`. -/
theorem registerMovesBegin : Obligations.RegisterMovesBegin := by
  unfold Obligations.RegisterMovesBegin
  refine ⟨fun h me cu src bank w s => ?w, fun h ve cu row reg count s => ?vld, fun h ve cu row reg count s => ?vst⟩
  all_goals
    intro i n d H hf
    exact ⟨_, rfl, port_begins rfl H hf (bit_lt4 _) (by rw [now_advance])⟩

/-! ### Execute streams (R150, R153) -/

/-- A command that takes no path and is not skipped starts its job on the advanced stream. -/
theorem issue_begins_free {e lo cuse cinc : Nat} {l : List (Nat × Micro)} {ops : Nat → State → List (Nat × Micro)} (H : Issues s h i)
    (hsel : ∀ j, j < 4 → bitAt cinc j = true → lo + j < 4) (hops : ops (termOf s h e lo cuse) (advance s h) = l) :
    Began s (issueCmd h i e lo cuse cinc (fun skip term u => if skip then u else startJob u (jobOf u h i term []) (ops term u)) s)
      h e lo cinc [] (jobOf s h i (termOf s h e lo cuse) []) l := by
  refine issue_began H ?_ (by simp) hsel rfl
  rw [← hops, ← jobOf_advance s]
  rfl

/-- Settles O26: DLV and DLVS by `port_begins`, DROP, which takes no path, by `issue_begins_free`. -/
theorem executeStreamCommandsBegin : Obligations.ExecuteStreamCommandsBegin := by
  unfold Obligations.ExecuteStreamCommandsBegin
  refine ⟨fun h bu q count dst s => ?_, fun h q count spool s => ?_, fun h q count s => ?_⟩
  · intro i e b n d H hf
    exact ⟨_, rfl, port_begins rfl H hf (bit_lt2 (Nat.le_refl 2) _) (by rw [now_advance]; rfl)⟩
  · intro i e b n H hf
    exact ⟨_, rfl, port_begins rfl H hf bit_lt0 (by rw [now_advance])⟩
  · intro i e b H
    exact ⟨_, rfl, issue_begins_free H bit_lt0 (by rw [now_advance])⟩

/-! ### Access streams (R209 to R216, R245) -/

/-- The windows of a GATHER are read from registers alone (R216). -/
theorem gatherBreach_congr {s t : State} (hr : t.regs = s.regs) (hp : t.phase = s.phase) (x : Job) (o : GatherOp) :
    gatherBreach t x o = gatherBreach s x o := by
  have hw (site k : Nat) : gatherWin t site k = gatherWin s site k := by unfold gatherWin rg; rw [hr]
  unfold gatherBreach
  rw [frameCyc_congr hr hp]
  simp only [hw]

theorem gatherBreach_heldPaths (s : State) (h : Iss) (e : Nat) (ps : List (Nat × Nat)) (x : Job) (o : GatherOp) :
    gatherBreach (heldPaths (advance s h) h.core.val e ps) x o = gatherBreach s x o := by
  rw [(heldPaths_rest ..).1]
  exact gatherBreach_congr (advance_regs s h) (advance_phase s h) x o

/-- A BAUOP with the request port free starts its operation four cycles later. -/
theorem bauIssue_begins (H : Issues s h i) (hf : PathsFree s h.core.val (bpEng h) [(10, 1)]) :
    ∃ t, bauIssue h i s = .next t ∧ Began s t h (bpEng h) 0 0 [(10, 1)] (jobOf s h i (termOf s h (bpEng h) 0 0) []) [(now s + 4, Micro.bauStart)] :=
  ⟨_, rfl, issue_begins_on H hf (by simp) bit_lt0 rfl (by rw [jobOf_heldPaths, now_heldPaths, now_advance])⟩

theorem exec_of_bauHdr (hi : bauHdr i = some h) (s : State) : exec i s = bauIssue h i s := by
  unfold bauHdr at hi
  split at hi <;> cases hi <;> rfl

/-- Settles O25: RD, WR and BAUQ by `port_begins`, a BAUOP by `bauIssue_begins`; a GATHER that meets no foreign window starts its job as the
others do. -/
theorem accessStreamCommandsBegin : Obligations.AccessStreamCommandsBegin := by
  unfold Obligations.AccessStreamCommandsBegin
  refine ⟨fun h o s => ?rd, fun h o s => ?wr, fun h o s => ?gather, fun h q ch count ofs s => ?bauq, fun i h s hi H hf => ?bauop⟩
  case rd =>
    intro i e n d H hf
    exact ⟨_, rfl, port_begins rfl H hf (bit_lt2 (Nat.zero_le 2) _) (by rw [now_advance]; rfl)⟩
  case wr =>
    intro i e n d H hf
    exact ⟨_, rfl, port_begins rfl H hf (bit_lt2 (Nat.zero_le 2) _) (by rw [now_advance]; rfl)⟩
  case gather =>
    intro i e rb pg hold d H hf hb
    refine ⟨_, rfl, issue_begins_on H hf (by simp) (bit_lt2 (Nat.zero_le 2) _) rfl ?_⟩
    change gatherBreach s (jobOf s h (.gather h o) (termOf s h (bpEng h) 0 (buSel o.bu.cuse)) []) o = none at hb
    simp only [jobOf_heldPaths, gatherBreach_heldPaths, hb, now_advance]
    rfl
  case bauq =>
    intro i e n H hf
    exact ⟨_, rfl, port_begins rfl H hf bit_lt0 (by rw [now_advance])⟩
  case bauop =>
    rw [exec_of_bauHdr hi]
    exact bauIssue_begins H hf

/-! ### Shaping commands (R113 to R116, R147) -/

/-- A shaping command with the SE's ports free begins, with the descriptor its core holds at its issue. -/
theorem shapeExec_begins {cu : CU} {d : State → BitVec 64} {ops : Nat → Nat → Nat → List (Nat × Micro)} {l : List (Nat × Micro)}
    {r : Host.Outcome State Fault Refusal} (hx : r = shapeExec h i cu d ops s) (H : Issues s h i)
    (hd : ∀ u, (core u h.core.val).descs = (core s h.core.val).descs → d u = d s)
    (hf : PathsFree s h.core.val 6 [(8, shapeHold i (d s).toNat), (9, shapeHold i (d s).toNat)])
    (hl : ops (now s) (termOf s h 6 0 cu.cuse.toNat) (d s).toNat = l) :
    ∃ t, r = .next t ∧
      Began s t h 6 0 cu.cinc.toNat [(8, shapeHold i (d s).toNat), (9, shapeHold i (d s).toNat)] (jobOf s h i (termOf s h 6 0 cu.cuse.toNat) [d s]) l := by
  have hadv : d (advance s h) = d s := hd _ (by rw [core_advance])
  have hheld (ps : List (Nat × Nat)) : d (heldPaths (advance s h) h.core.val 6 ps) = d s :=
    hd _ (by rw [(heldPaths_rest ..).2.2, core_advance])
  refine ⟨_, hx, issue_began H ?_ (by simp) (bit_lt4 _) rfl⟩
  simp only [hadv]
  rw [runOn_free hf, ← hl]
  simp only [hheld, jobOf_heldPaths, now_heldPaths, now_advance]
  rfl

theorem seDesc_congr {u : State} {c : Nat} (hd : (core u c).descs = (core s c).descs) (ix : BitVec 6) : seDesc u c ix = seDesc s c ix := by
  unfold seDesc; rw [hd]

/-- Settles O22: each command by `shapeExec_begins`. -/
theorem shapingCommandsBegin : Obligations.ShapingCommandsBegin := by
  unfold Obligations.ShapingCommandsBegin
  refine ⟨fun h cu src dst nt w s => ?transpose, fun h cu src dst n idx limit s => ?permute, fun h cu src dst param s => ?im2col,
    fun h cu src dst r nb logk param s => ?topk, fun h o s => ?dispatch, fun h o s => ?combine⟩
  case transpose =>
    intro i T d n H hf
    change ∃ t, execTranspose h cu src dst nt w s = .next t ∧ _
    exact shapeExec_begins rfl H (fun _ _ => rfl) hf rfl
  case permute =>
    intro i T d X H hf
    change ∃ t, execPermute h cu src dst n idx limit s = .next t ∧ _
    exact shapeExec_begins rfl H (fun _ _ => rfl) hf rfl
  case im2col =>
    intro i D T d p H hf
    change ∃ t, execIm2col h cu src dst param s = .next t ∧ _
    exact shapeExec_begins rfl H (fun _ hu => seDesc_congr hu param) hf rfl
  case topk =>
    intro i D T d n w H hf
    change ∃ t, execTopk h cu src dst r nb logk param s = .next t ∧ _
    exact shapeExec_begins rfl H (fun _ hu => seDesc_congr hu param) hf rfl
  case dispatch =>
    intro i D T d p H hf
    change ∃ t, execDispatch h o s = .next t ∧ _
    unfold execDispatch
    exact shapeExec_begins rfl H (fun _ hu => seDesc_congr hu o.param) hf rfl
  case combine =>
    intro i D T d p H hf
    change ∃ t, execCombine h o s = .next t ∧ _
    unfold execCombine
    exact shapeExec_begins rfl H (fun _ hu => seDesc_congr hu o.param) hf rfl

end Sys2Proof.Machine
end

section
/-!
PROOFS. The statement of the matrix engines' commands (R99 to R104): accumulator lines as a path, what MEOUT and MATMUL leave beside their
jobs, the end of a tile, then the theorem that settles it.
-/
namespace Sys2Proof.Machine
open Sys2Proof

variable {s : State} {h : Iss} {i : Instr}

/-! ### Accumulator lines as a path (R91, R104) -/

theorem accLeft_advance (s : State) (h : Iss) (me u len : Nat) (meout : Bool) :
    accLeft (advance s h) h.core.val me u len meout = accLeft s h.core.val me u len meout := by
  unfold accLeft; rw [core_advance, now_advance]

/-- Free paths and free lines: the command takes the paths and is not told of an overlap. -/
theorem takeLines_free {e ix me u len : Nat} {meout : Bool} {ps : List (Nat × Nat)} (hf : PathsFree s h.core.val e ps)
    (hl : accLeft s h.core.val me u len meout = 0) :
    takeLines (advance s h) h.core.val e ix ps (accLeft (advance s h) h.core.val me u len meout) = (true, heldPaths (advance s h) h.core.val e ps) := by
  have hadv : PathsFree (advance s h) h.core.val e ps := by
    intro p hp; rw [freeAt_advance, now_advance]; exact hf p hp
  unfold takeLines
  rw [takePaths_free hadv, accLeft_advance, hl]
  rfl

/-! ### A command that begins, with what it does beside its job -/

/-- A command that selects no counter steps none. -/
theorem incCtrs_none (s : State) (c e lo : Nat) : incCtrs s c e lo 0 = s :=
  foldl_same _ _ (fun j _ u => by simp [bitAt]) s

/-- A job started on free paths has begun, its counters still to be stepped. -/
theorem began_unstepped {e : Nat} {ps : List (Nat × Nat)} {x : Job} (ops : List (Nat × Micro)) (hps : ∀ q ∈ ps, q.1 < 16) (hx : x.core = h.core.val) :
    Began s (startJob (heldPaths (advance s h) h.core.val e ps) x ops) h e 0 0 ps x ops := by
  have hb := began_start (s := s) (h := h) (e := e) (lo := 0) (sel := 0) (ops := ops) hps bit_lt0 hx
  rwa [incCtrs_none] at hb

theorem nextJob_heldPaths (s : State) (h : Iss) (e : Nat) (ps : List (Nat × Nat)) : (heldPaths (advance s h) h.core.val e ps).nextJob = s.nextJob := by
  rw [(heldPaths_rest ..).1]; exact advance_nextJob s h

/-- The job just started is in the table under the number that was next. -/
theorem job_startJob_heldPaths (s : State) (h : Iss) (e : Nat) (ps : List (Nat × Nat)) (x : Job) (ops : List (Nat × Micro)) :
    job (startJob (heldPaths (advance s h) h.core.val e ps) x ops) s.nextJob = x := by
  rw [← nextJob_heldPaths s h e ps]; exact job_startJob ..

theorem job_addHold (s : State) (c j : Nat) (x : AccHold) : job (addHold s c x) j = job s j := rfl

/-- Where a weight bank reads without an error, a MATMUL has nothing to report (R105). -/
theorem bankParity_clean {j : Nat} {o : MatmulOp} (hb : (job s j).bank.bad = []) : bankParity s j o = s := by
  unfold bankParity; simp only [hb]; rfl

/-! ### The end of a tile (R103) -/

/-- The micro-operation is a row's arrival at its accumulator line. -/
def isAccRow : Micro → Bool
  | .accRow _ => true
  | _ => false

/-- A due end of a tile takes it and its last rows off the agenda and carries them out. -/
theorem matmulComplete_fires {c : Fin 60} {me : Fin 4} {p : Fin 8} {a : Act} (hp : p.val = s.phase) (ha : a ∈ s.acts)
    (hcyc : a.cyc ≤ now s) (hc : a.core = c.val) (hm : isMatmul s me.val a = true) (hop : a.op = .done) :
    exec (.matmulComplete c me p) s = .next (fire s fun b => (b.core == c.val && isMatmul s me.val b) && (b.op == .done || isAccRow b.op)) := by
  have hdue : dueAct s (fun b => (b.core == c.val && isMatmul s me.val b) && b.op == .done) = true := by
    unfold dueAct
    exact List.any_eq_true.mpr ⟨a, ha, by simp [hcyc, hc, hm, hop]⟩
  change Host.Outcome.next (whenAt s p.val _) = _
  rw [whenAt_now s _ hp]
  simp only [hdue, if_true]
  rfl

/-- Settles O24: the starts with their lines free by `takeLines_free`, the end of a tile by `matmulComplete_fires`. -/
theorem matrixCommandsBeginAndComplete : Obligations.MatrixCommandsBeginAndComplete := by
  unfold Obligations.MatrixCommandsBeginAndComplete
  refine ⟨fun h me cu src u lines layout s => ?mein, fun h me cu dst u m nw form sat s => ?meout, fun h o s => ?matmul,
    fun c me p s a hp hr ha hcyc hc hm hop => ?complete⟩
  case mein =>
    dsimp only
    intro H hf hl
    refine ⟨_, rfl, issue_began H ?_ (by simp) (bit_lt4 _) rfl⟩
    simp only [takeLines_free hf hl, jobOf_advance, now_advance]
    rfl
  case meout =>
    dsimp only
    intro H hf hl
    refine ⟨_, _, rfl, began_unstepped _ (by simp) rfl, ?_⟩
    have hu : accUnit (core (advance s h) h.core.val) me.val u.toNat = accUnit (core s h.core.val) me.val u.toNat := by rw [core_advance]; rfl
    rw [issueCmd_issues H]
    simp only [hu, takeLines_free hf hl, jobOf_advance, now_advance, nextJob_heldPaths]
    rfl
  case matmul =>
    dsimp only
    intro H hf hl hb
    refine ⟨_, _, rfl, began_unstepped _ (by cases o.bank <;> simp [b2n]) rfl, ?_⟩
    have hbank : (core (advance s h) h.core.val).banks = (core s h.core.val).banks := by rw [core_advance]
    rw [issueCmd_issues H]
    simp only [takeLines_free hf hl, jobOf_advance, now_advance, nextJob_heldPaths, hbank]
    rw [bankParity_clean]
    · rfl
    · rw [job_addHold, job_startJob_heldPaths]
      exact hb
  case complete =>
    refine ⟨_, _, matmulComplete_fires hp ha hcyc hc hm hop, ?_, ?_, fire_running hr _⟩
    · simp [ha, hcyc, hc, hm, hop]
    · intro b hb
      simp only [List.mem_filter, Bool.and_eq_true, decide_eq_true_eq, beq_iff_eq] at hb
      obtain ⟨hmem, hcyc', ⟨hcore, hmat⟩, -⟩ := hb
      exact ⟨hmem, hcyc', hcore, hmat⟩

end Sys2Proof.Machine
end

section
/-!
PROOFS. The statements of the command words (Tables 5-1 to 5-17, 9-6): what a packed word holds in its fields, what the decoders of each
stream read from it, then the theorems that settle them.
-/
namespace Sys2Proof.Machine
open Sys2Proof

variable {i : Instr} {h : Iss} {e : Enc} {x : Nat}

/-! ### The fields of a packed word -/

/-- Fields listed from the highest down, disjoint, the first below bit b. -/
def laid : Nat → List (Nat × Nat × Nat) → Bool
  | _, [] => true
  | b, (lo, w, _) :: l => decide (lo + w ≤ b) && laid lo l

/-- A word holds a field's value at its place. -/
def Holds (x : Nat) (f : Nat × Nat × Nat) : Prop := fld x f.1 f.2.1 = f.2.2 % 2 ^ f.2.1

theorem pack_lt {b : Nat} {l : List (Nat × Nat × Nat)} (hl : laid b l = true) : pack l < 2 ^ b := by
  induction l generalizing b with
  | nil => exact Nat.two_pow_pos b
  | cons f l ih =>
    obtain ⟨lo, w, v⟩ := f
    simp only [laid, Bool.and_eq_true, decide_eq_true_eq] at hl
    have hlow := ih hl.2
    have hv : v % 2 ^ w + 1 ≤ 2 ^ w := Nat.mod_lt _ (Nat.two_pow_pos w)
    calc pack ((lo, w, v) :: l) < v % 2 ^ w * 2 ^ lo + 2 ^ lo := Nat.add_lt_add_left hlow _
      _ = (v % 2 ^ w + 1) * 2 ^ lo := (Nat.succ_mul _ _).symm
      _ ≤ 2 ^ w * 2 ^ lo := Nat.mul_le_mul_right _ hv
      _ = 2 ^ (lo + w) := by rw [pow_add, Nat.mul_comm]
      _ ≤ 2 ^ b := Nat.pow_le_pow_right (by omega) hl.1

/-- A list of disjoint fields packs to a word that holds every one of them. -/
theorem pack_holds {b : Nat} {l : List (Nat × Nat × Nat)} (hl : laid b l = true) : ∀ f ∈ l, f.1 + f.2.1 ≤ b ∧ Holds (pack l) f := by
  induction l generalizing b with
  | nil => simp
  | cons g l ih =>
    obtain ⟨lo, w, v⟩ := g
    simp only [laid, Bool.and_eq_true, decide_eq_true_eq] at hl
    obtain ⟨hle, hl⟩ := hl
    intro f hf
    rcases List.mem_cons.mp hf with rfl | hf
    · refine ⟨hle, ?_⟩
      unfold Holds fld
      simp only [pack]
      rw [Nat.add_comm, Nat.add_mul_div_right _ _ (Nat.two_pow_pos lo), Nat.div_eq_of_lt (pack_lt hl), Nat.zero_add, Nat.mod_mod]
    · obtain ⟨hin, hx⟩ := ih hl f hf
      refine ⟨by omega, ?_⟩
      obtain ⟨k, rfl⟩ := Nat.exists_eq_add_of_le hin
      unfold Holds fld at hx ⊢
      have hsplit : pack ((f.1 + f.2.1 + k, w, v) :: l) = pack l + 2 ^ f.1 * (2 ^ f.2.1 * (2 ^ k * (v % 2 ^ w))) := by
        simp only [pack, pow_add]; ring
      rw [hsplit, Nat.add_mul_div_left _ _ (Nat.two_pow_pos _), Nat.add_mul_mod_self_left, hx]

/-- What a word holds of a bit vector is read back. -/
@[simp] theorem holds_bv {lo w : Nat} (v : BitVec w) : Holds x (lo, w, v.toNat) ↔ bv w x lo = v := by
  unfold Holds bv
  constructor
  · intro hx; rw [hx]; exact BitVec.eq_of_toNat_eq (by simp)
  · intro hx; rw [← hx]; simp [fld]

/-- What a word holds of a truth value is read back. -/
@[simp] theorem holds_bit {lo : Nat} (b : Bool) : Holds x (lo, 1, b2n b) ↔ bitAt x lo = b := by
  unfold Holds bitAt fld
  cases b <;> simp [b2n]

/-- The SUB of a sequencer command (Tables 5-7, 5-8). -/
theorem holds_sub {v : Nat} (hx : Holds x (92, 4, v)) : fld x 92 4 = v % 16 := hx

/-- A word holds every field of a list. -/
def HoldsAll (x : Nat) (l : List (Nat × Nat × Nat)) : Prop := ∀ f ∈ l, Holds x f

@[simp] theorem holdsAll_nil : HoldsAll x [] := by simp [HoldsAll]
@[simp] theorem holdsAll_cons {f : Nat × Nat × Nat} {l : List (Nat × Nat × Nat)} : HoldsAll x (f :: l) ↔ Holds x f ∧ HoldsAll x l := List.forall_mem_cons
@[simp] theorem holdsAll_append {l m : List (Nat × Nat × Nat)} : HoldsAll x (l ++ m) ↔ HoldsAll x l ∧ HoldsAll x m := List.forall_mem_append

/-! ### What the decoders read back of shared operands -/

/-- A word holds the target and the operand fields of an encoding. -/
structure HoldsEnc (x : Nat) (e : Enc) : Prop where
  target : Holds x (116, 4, e.tgt)
  fields : HoldsAll x e.fs

/-- The engine numbers behind the target codes (Table 5-2): matrix engines from 0, vector engines from 4, blowpipes from 7. -/
theorem fin4_target {m : Fin 4} (hx : Holds x (116, 4, m.val)) : fin4 (fld x 116 4) = m := by
  have hx : fld x 116 4 = m.val % 16 := hx
  rw [hx]; fin_cases m <;> rfl
theorem fin2_vector {v : Fin 2} (hx : Holds x (116, 4, 4 + v.val)) : fin2 (fld x 116 4) = v := by
  have hx : fld x 116 4 = (4 + v.val) % 16 := hx
  rw [hx]; fin_cases v <;> rfl
theorem fin2_blowpipe {b : Fin 2} (hx : Holds x (116, 4, 7 + b.val)) : fin2 (fld x 116 4 + 1) = b := by
  have hx : fld x 116 4 = (7 + b.val) % 16 := hx
  rw [hx]; fin_cases b <;> rfl

/-- The counter selections of a core-stream and of a blowpipe-stream command. -/
@[simp] theorem holds_cuF {c : CU} : HoldsAll x (cuF c) ↔ cuD x = c := by
  cases c
  simp [cuF, cuD]
@[simp] theorem holds_buF {b : BU} {lo1 lo2 : Nat} : HoldsAll x (buF b lo1 lo2) ↔ buD x lo1 lo2 = b := by
  cases b
  simp [buF, buD]

theorem vecD_eq {op : Nat} {o : VecOp} (hx : HoldsEnc x (vecE op o)) : vecD x = o := by
  have hve := fin2_vector hx.target
  cases o
  simpa [vecD, vecE, hve] using hx.fields
theorem routeD_eq {op : Nat} {o : RouteOp} (hx : HoldsEnc x (routeE op o)) : routeD x = o := by
  cases o
  simpa [routeD, routeE] using hx.fields
theorem dramD_eq {op : Nat} {o : DramOp} (hx : HoldsEnc x (dramE op o)) : dramD x = o := by
  cases o
  simpa [dramD, dramE] using hx.fields
/-- The operation of a BAUOP (Table 9-6). -/
theorem holds_bop {bop : Nat} {o : BauOp} (hx : HoldsEnc x (bauE bop o)) : Holds x (76, 8, bop) := hx.fields _ (by simp [bauE])
theorem bauD_eq {bop : Nat} {o : BauOp} (hx : HoldsEnc x (bauE bop o)) : bauD x = o := by
  have hbop := holds_bop hx
  cases o
  simpa [bauD, bauE, hbop] using hx.fields

/-! ### The decoders of the streams -/

/-- A word that holds a core-stream command's encoding names that command; so in the other streams below. -/
theorem coreD_names (hi : strmKind i = some (1, h)) (he : encOf i = some (h, e)) (hx : HoldsEnc x e) : coreD h (e.op % 256) x = some i := by
  have hf := hx.fields
  cases i <;> cases hi <;> cases he
  case vadd | vsub | vmul | vfma | vmax | vmin | viadd | visub | vimul | vand | vor | vxor | vshl | vshr | vcmpsel | vexp | vrecip | vrsqrt | vcvt
      | vtomx | vacomb | vamerge | vrsum | vrmax | vscan | vrng | vsample =>
    show some _ = _
    rw [vecD_eq hx]
  case dispatch | combine =>
    show some _ = _
    rw [routeD_eq hx]
  case fill | copy | transpose | permute | im2col | topk | waitc =>
    show some _ = _
    simpa using hf
  case send o =>
    show some _ = _
    cases o
    simpa using hf
  case moveW | moveMein | moveMeout =>
    show some _ = _
    simpa [fin4_target hx.target] using hf
  case matmul o =>
    have hme := fin4_target hx.target
    show some _ = _
    cases o
    simpa [hme] using hf
  case moveVld | moveVst =>
    show some _ = _
    simpa [fin2_vector hx.target] using hf
  case waitq | bpipe =>
    show some _ = _
    simpa [fin2_blowpipe hx.target] using hf
  case setcDescriptor =>
    obtain ⟨hsub, hf⟩ := holdsAll_cons.mp hf
    simpa [coreD, holds_sub hsub, (holds_bv _).mp hx.target] using hf
  case setcCcount =>
    obtain ⟨hsub, hf⟩ := holdsAll_cons.mp hf
    simpa [coreD, holds_sub hsub] using hf

theorem accessD_names (hi : strmKind i = some (2, h)) (he : encOf i = some (h, e)) (hx : HoldsEnc x e) : accessD h (e.op % 256) x = some i := by
  have hf := hx.fields
  cases i <;> cases hi <;> cases he
  case rd | wr =>
    show some _ = _
    rw [dramD_eq hx]
  case gather o =>
    show some _ = _
    cases o
    simpa using hf
  case bauq =>
    show some _ = _
    simpa using hf
  case bauNop | attend | kvput | pcopy | pzero | slout | slin =>
    have hbop : fld x 76 8 = _ := holds_bop hx
    simp [accessD, bauE, hbop, bauD_eq hx]

theorem executeD_names (hi : strmKind i = some (3, h)) (he : encOf i = some (h, e)) (hx : HoldsEnc x e) : executeD h (e.op % 256) x = some i := by
  have hf := hx.fields
  cases i <;> cases hi <;> cases he
  case dlv | dlvs | drop =>
    show some _ = _
    simpa using hf

theorem bpWaitq_names (hi : strmKind i = some (4, h)) (he : encOf i = some (h, e)) (hx : HoldsEnc x e) :
    accessD h (e.op % 256) x = some i ∧ executeD h (e.op % 256) x = some i := by
  have hf := hx.fields
  cases i <;> cases hi
  case bpWaitq =>
    cases he
    constructor
    all_goals
      show some _ = _
      simpa using hf

theorem seqD_names (hi : strmKind i = some (0, h)) (he : encOf i = some (h, e)) (hx : HoldsEnc x e) : seqD h (e.op % 256) x = some i := by
  have hf := hx.fields
  cases i <;> cases hi <;> cases he
  case nop => rfl
  case attick =>
    show some _ = _
    simpa using hf
  case segEnd =>
    simp [seqD, holds_sub (holdsAll_cons.mp hf).1]
  case segLoop | segArm =>
    obtain ⟨hsub, hf⟩ := holdsAll_cons.mp hf
    simpa [seqD, holds_sub hsub] using hf
  case setcCounter | setcComparator =>
    obtain ⟨hsub, hf⟩ := holdsAll_cons.mp hf
    simpa [seqD, holds_sub hsub, (holds_bv _).mp hx.target] using hf

/-- Every stream's decoder reads the shared commands as `seqD` does. -/
theorem decoders_of_seqD {op : Nat} (hs : seqD h op x = some i) : coreD h op x = some i ∧ accessD h op x = some i ∧ executeD h op x = some i := by
  unfold seqD at hs
  split at hs
  case h_5 => cases hs
  case h_4 =>
    split at hs
    case h_3 => cases hs
    all_goals
      rename_i hsub
      simp [coreD, accessD, executeD, seqD, hsub, hs]
  all_goals exact ⟨hs, hs, hs⟩

/-! ### The word of a command -/

/-- Every stream command has an encoding whose operand fields lie below the header. -/
theorem encOf_laid {k : Nat} (hi : strmKind i = some (k, h)) : ∃ e, encOf i = some (h, e) ∧ laid 96 e.fs = true := by
  unfold strmKind at hi
  split at hi <;> cases hi <;> exact ⟨_, rfl, rfl⟩

theorem strmKind_lt {k : Nat} (hi : strmKind i = some (k, h)) : k < 5 := by
  unfold strmKind at hi
  split at hi <;> cases hi <;> decide

/-- The number a command's word spells. -/
def spelt (h : Iss) (e : Enc) : Nat := pack (hdrF h e ++ e.fs)

theorem spelt_laid (h : Iss) (hl : laid 96 e.fs = true) : laid 128 (hdrF h e ++ e.fs) = true := hl

theorem spelt_lt (h : Iss) (hl : laid 96 e.fs = true) : spelt h e < 2 ^ 128 := pack_lt (spelt_laid h hl)

/-- The word holds the command's opcode, its header, its target and its operands. -/
theorem spelt_holds (h : Iss) (hl : laid 96 e.fs = true) :
    fld (spelt h e) 120 8 = e.op % 256 ∧ issOf h.core h.strm h.index h.phase (spelt h e) = h ∧ HoldsEnc (spelt h e) e := by
  have hall : HoldsAll (spelt h e) (hdrF h e ++ e.fs) := fun f hf => (pack_holds (spelt_laid h hl) f hf).2
  simp only [hdrF, holdsAll_append, holdsAll_cons, holdsAll_nil, holds_bv, holds_bit, and_true] at hall
  obtain ⟨⟨hop, htgt, hpol, hpsel, hdelta⟩, hfs⟩ := hall
  exact ⟨hop, by simp [issOf, hpol, hpsel, hdelta], htgt, hfs⟩

/-- The stream's own decoder names the command that a word holds. -/
theorem candidate_names {k : Nat} (hi : strmKind i = some (k, h)) (hk : strmIs k h = true) (he : encOf i = some (h, e)) (hl : laid 96 e.fs = true) :
    candidateCmd h.core h.strm h.index h.phase (BitVec.ofNat 128 (spelt h e)) = some i := by
  obtain ⟨hop, hiss, hx⟩ := spelt_holds h hl
  unfold candidateCmd
  simp only [BitVec.toNat_ofNat, Nat.mod_eq_of_lt (spelt_lt h hl), hop, hiss]
  have hlt := strmKind_lt hi
  interval_cases k
  · obtain ⟨hc, ha, hx⟩ := decoders_of_seqD (seqD_names hi he hx)
    simp only [hc, ha, hx, ite_self]
  · have h0 : h.strm = 0 := by simpa [strmIs] using hk
    rw [if_pos h0, coreD_names hi he hx]
  · have h0 : h.strm ≠ 0 := fun h0 => by simp [strmIs, h0] at hk
    have h13 : h.strm = 1 ∨ h.strm = 3 := by simpa [strmIs] using hk
    rw [if_neg h0, if_pos h13, accessD_names hi he hx]
  · have h0 : h.strm ≠ 0 := fun h0 => by simp [strmIs, h0] at hk
    have h13 : ¬(h.strm = 1 ∨ h.strm = 3) := by
      rintro (h1 | h3)
      · simp [strmIs, h1] at hk
      · simp [strmIs, h3] at hk
    rw [if_neg h0, if_neg h13, executeD_names hi he hx]
  · have h0 : h.strm ≠ 0 := by simpa [strmIs] using hk
    obtain ⟨ha, hx⟩ := bpWaitq_names hi he hx
    rw [if_neg h0, ha, hx, ite_self]

/-- The word that fills a memory names SEG END (R120). -/
theorem candidate_fill (c : Fin 60) (k : Fin 5) (ix : BitVec 15) (p : Fin 8) :
    candidateCmd c k ix p 0x01F80000000000000000000000000000 = some (.segEnd (issOf c k ix p 0x01F80000000000000000000000000000)) := by
  fin_cases k <;> rfl

theorem strmIs_of_wellFormed {k : Nat} (hi : strmKind i = some (k, h)) (hw : WellFormed i = true) : strmIs k h = true := by
  unfold WellFormed at hw
  rwa [hi] at hw

/-- Settles O4: the stream's decoder names the command (`candidate_names`), whose own word it is; where the word is the one that fills a
memory, the command is SEG END (`candidate_fill`). -/
theorem decodeOfEncodeIsTheCommand : Obligations.DecodeOfEncodeIsTheCommand := by
  unfold Obligations.DecodeOfEncodeIsTheCommand
  intro i k h hi hw
  obtain ⟨e, he, hl⟩ := encOf_laid hi
  have hcand := candidate_names hi (strmIs_of_wellFormed hi hw) he hl
  have henc : encode i = some (BitVec.ofNat 128 (spelt h e)) := by unfold encode; rw [he]; rfl
  generalize BitVec.ofNat 128 (spelt h e) = w at hcand henc
  refine ⟨w, henc, ?_⟩
  unfold decodeCmd
  split
  · next hfill =>
    subst hfill
    rw [← hcand]
    exact (candidate_fill ..).symm
  · rw [hcand]
    exact if_pos henc

/-! ### Written words (Tables 5-18, 5-19) -/

/-- Settles O3: every word is closed, and the decoder runs on it. -/
theorem writtenWordsDecode : Obligations.WrittenWordsDecode := by
  unfold Obligations.WrittenWordsDecode
  decide

end Sys2Proof.Machine
end

section
/-!
PROOFS. The statements of the sequencers (R126 to R133, R142, R156): a fault that abandons a segment, the commit window, segment starts, loops,
arms, SETC and the command scrub port.
-/
namespace Sys2Proof.Machine
open Sys2Proof

variable {s : State} {h : Iss} {i : Instr}

/-! ### A fault that abandons its segment (R129) -/

/-- A stream that has abandoned its segment: it neither runs nor waits, and its loop registers are inactive. -/
def abandoned (x : Stream) : Stream :=
  { x with running := false, wait := none, abandoned := true, loop0 := { x.loop0 with active := false }, loop1 := { x.loop1 with active := false } }

/-- One stream of a core differs, and nothing of its core but the streams; beside it a record, its counter and what its severity does. -/
structure StreamStruck (s t : State) (c k : Nat) (x : Stream) : Prop where
  rest : t = { s with cores := t.cores, regs := t.regs, faults := t.faults, vote := t.vote, evacuate := t.evacuate, halted := t.halted }
  others : ∀ d, d ≠ c → core t d = core s d
  same : core t c = { core s c with strms := (core t c).strms }
  strms : ∀ j, strm t c j = if j = k then x else strm s c j

theorem StreamStruck.refl (s : State) (c k : Nat) : StreamStruck s s c k (strm s c k) :=
  ⟨rfl, fun _ _ => rfl, rfl, fun j => by split <;> simp [*]⟩

/-- A stream fault leaves every stream. -/
theorem struck_raiseStrm (s : State) (c k code sev : Nat) (d : List (Nat × Nat × Nat)) (a lo w : Nat) :
    StreamStruck s (bump (raiseStrm s c k code sev d) a lo w) c k (strm s c k) := by
  obtain ⟨f, hf, -⟩ := raiseStrm_rest s c k code sev d
  obtain ⟨r, hr⟩ := bump_ex (raiseStrm s c k code sev d) a lo w
  refine ⟨?_, fun d _ => by rw [core_bump, core_raiseStrm], by rw [core_bump, core_raiseStrm], fun j => ?_⟩
  · rw [hr, hf]
  · rw [strm_bump, strm_raiseStrm]
    split
    · next hj => rw [hj]
    · rfl

/-- A further change of the stream that was struck. -/
theorem StreamStruck.mod {t : State} {c k : Nat} {x : Stream} (H : StreamStruck s t c k x) (f : Stream → Stream) :
    StreamStruck s (modStrm t c k f) c k (f x) := by
  obtain ⟨hrest, hothers, hsame, hstrms⟩ := H
  refine ⟨?_, fun d hd => by rw [core_modStrm_ne _ hd, hothers d hd], by rw [core_modStrm, hsame], fun j => ?_⟩
  · rw [hrest]; rfl
  · rw [strm_modStrm]
    split
    · rw [hstrms, if_pos rfl]
    · next hj => rw [hstrms, if_neg hj]

theorem raiseStrm_recorded (s : State) (c k code sev : Nat) (d : List (Nat × Nat × Nat)) : Recorded s (raiseStrm s c k code sev d) code sev := by
  obtain ⟨f, hf, hcode, hsev, httc, hstep⟩ := raiseStrm_rest s c k code sev d
  exact ⟨f, by rw [hf], hcode, hsev, httc, hstep⟩

/-- A change of a stream leaves the record. -/
theorem recorded_modStrm {t : State} {code sev : Nat} (H : Recorded s t code sev) (c k : Nat) (f : Stream → Stream) :
    Recorded s (modStrm t c k f) code sev := recorded_of_faults H (modStrm_faults ..)

/-- A fault that abandons a segment is recorded. -/
theorem abandon_recorded (s : State) (c k code sev : Nat) (d : List (Nat × Nat × Nat)) (a lo w : Nat) :
    Recorded s (abandon (bump (raiseStrm s c k code sev d) a lo w) c k) code sev :=
  recorded_modStrm (recorded_bump (raiseStrm_recorded s c k code sev d) a lo w) c k abandoned

/-- A fault that abandons a segment changes its stream alone. -/
theorem abandon_struck (s : State) (c k code sev : Nat) (d : List (Nat × Nat × Nat)) (a lo w : Nat) :
    StreamStruck s (abandon (bump (raiseStrm s c k code sev d) a lo w) c k) c k (abandoned (strm s c k)) :=
  (struck_raiseStrm s c k code sev d a lo w).mod abandoned

/-! ### The commit window (R128) -/

/-- Every stream command acts at its header's place in the stream. -/
theorem strmKind_whenDue {k : Nat} (hi : strmKind i = some (k, h)) : ∃ f : Bool → State → State, ∀ s, exec i s = .next (whenDue s h i f) := by
  unfold strmKind at hi
  split at hi <;> cases hi <;> exact ⟨_, fun _ => rfl⟩

/-- A due command with a good word that the commit window refuses. -/
theorem whenDue_refused (hp : h.phase.val = s.phase) (hd : cmdDue s h i = true) (hw : cmdMark s h.core.val h.strm.val h.index.toNat = 0)
    (hc : inCommit s = true) (ha : cwAllowed i = false) (f : Bool → State → State) :
    whenDue s h i f = abandon (bump (raiseStrm (advance s h) h.core.val h.strm.val 0x0406 2 [(4, 2, h.index.toNat)]) (cmdA h.core.val 0x018) 0 16)
      h.core.val h.strm.val := by
  unfold whenDue
  rw [whenAt_now s _ hp]
  simp only [streamTurn_due hd, ite_self, hd, if_true]
  unfold issueNow
  simp [hw, fixWord, hc, ha]

/-- Settles O7: the refusal is `whenDue_refused`, on the stream that `advance` has moved on. -/
theorem commitWindowRefusesCommands : Obligations.CommitWindowRefusesCommands := by
  unfold Obligations.CommitWindowRefusesCommands
  intro i k h s hi ha hp hd hw hc
  obtain ⟨f, hx⟩ := strmKind_whenDue hi
  refine ⟨_, hx s, ?_⟩
  rw [whenDue_refused hp hd hw hc ha]
  have hrec := recorded_since (advance_faults s h) rfl rfl (abandon_recorded (advance s h) h.core.val h.strm.val 0x0406 2 [(4, 2, h.index.toNat)] (cmdA h.core.val 0x018) 0 16)
  obtain ⟨hrest, hothers, hsame, hstrms⟩ := abandon_struck (advance s h) h.core.val h.strm.val 0x0406 2 [(4, 2, h.index.toNat)] (cmdA h.core.val 0x018) 0 16
  generalize abandon _ _ _ = t at *
  have hown : strm t h.core.val h.strm.val = abandoned (strm (advance s h) h.core.val h.strm.val) := by rw [hstrms, if_pos rfl]
  refine ⟨hrec, ?_, ?_, ?_, ?_, fun d hd => ?_, ?_, fun j hj => ?_, ?_, ?_, ?_⟩
  · rw [hrest]; exact advance_mem s h
  · rw [hrest]; exact advance_acts s h
  · rw [hrest]; exact advance_jobs s h
  · rw [hrest]; exact advance_pending s h
  · rw [hothers d hd, core_advance_ne s h hd]
  · rw [hsame, core_advance]
  · rw [hstrms, if_neg hj, strm_advance, if_neg hj]
  all_goals rw [hown]; rfl

/-! ### Segment starts (R130, R132) -/

/-- A stream as its armed start leaves it. -/
def startedStrm (s : State) (n : NextStart) (x : Stream) : Stream :=
  { x with running := true, wait := none, ix := n.index, base := now s, next := none, started := now s + 1 }

/-- A start in a stream that has ended its segment. -/
theorem startSeg_idle {c k : Nat} {n : NextStart} (hn : (strm s c k).next = some n) (hr : (strm s c k).running = false) :
    startSeg s c k = modStrm s c k (startedStrm s n) := by
  unfold startSeg
  simp [hn, hr]
  rfl

/-- A start in a stream whose segment still runs: the segment is abandoned first, with 0x0404. -/
theorem startSeg_running {c k : Nat} {n : NextStart} (hn : (strm s c k).next = some n) (hr : (strm s c k).running = true) :
    startSeg s c k = modStrm (abandon (bump (raiseStrm s c k 0x0404 2 [(4, 2, (strm s c k).pc), (6, 2, n.index)]) (cmdA c 0x018) 16 16) c k) c k
      (startedStrm s n) := by
  unfold startSeg
  simp [hn, hr]
  rfl

/-- A start changes its stream alone, recording an abandoned segment. -/
theorem startSeg_struck {c k : Nat} {n : NextStart} (hn : (strm s c k).next = some n) :
    ∃ x, StreamStruck s (startSeg s c k) c k (startedStrm s n x) ∧
      ((strm s c k).running = true → Recorded s (startSeg s c k) 0x0404 2 ∧ x.abandoned = true) ∧
      ((strm s c k).running = false → (startSeg s c k).faults = s.faults ∧ (startSeg s c k).regs = s.regs ∧ (startSeg s c k).vote = s.vote ∧
        x = strm s c k) := by
  cases hr : (strm s c k).running with
  | false =>
    rw [startSeg_idle hn hr]
    exact ⟨_, (StreamStruck.refl s c k).mod _, nofun, fun _ => ⟨rfl, rfl, rfl, rfl⟩⟩
  | true =>
    rw [startSeg_running hn hr]
    exact ⟨_, (abandon_struck ..).mod _, fun _ => ⟨recorded_modStrm (abandon_recorded ..) .., rfl⟩, nofun⟩

/-- SEGMENT_START in the cycle of the armed start. -/
theorem segmentStart_starts {c : Fin 60} {k : Fin 5} {n : NextStart} (hn : (strm s c.val k.val).next = some n) (hf : n.nextFrame = false)
    (ht : n.tick = frameTick s) (h0 : s.phase = 0) (hp : planOn s = true) : exec (.segmentStart c k) s = .next (startSeg s c.val k.val) := by
  have hd : startDue s c.val k.val = true := by
    unfold startDue
    simp [hn, hf, ht, h0, hp]
  change Host.Outcome.next (if startDue s c.val k.val then _ else _) = _
  rw [if_pos hd]

/-- Settles O10: a start by `segmentStart_starts`, in an ended segment by `startSeg_idle`, in a running one by `startSeg_running`. -/
theorem segmentStartRunsTheArmedSegment : Obligations.SegmentStartRunsTheArmedSegment := by
  unfold Obligations.SegmentStartRunsTheArmedSegment
  intro c k s n hn hf ht h0 hp
  refine ⟨_, segmentStart_starts hn hf ht h0 hp, ?_⟩
  obtain ⟨x, ⟨hrest, hothers, hsame, hstrms⟩, hrun, hidle⟩ := startSeg_struck hn
  generalize startSeg s c.val k.val = t at *
  have hown : strm t c.val k.val = startedStrm s n x := by rw [hstrms, if_pos rfl]
  rw [hown]
  refine ⟨hothers, by rw [hrest], by rw [hrest], by rw [hrest], hsame, fun j hj => by rw [hstrms, if_neg hj], rfl, rfl, rfl, rfl, rfl, ?_⟩
  split
  · next hr => exact hrun hr
  · next hr =>
    obtain ⟨hfaults, hregs, hvote, rfl⟩ := hidle (Bool.eq_false_iff.mpr hr)
    exact ⟨hfaults, hregs, hvote, rfl, rfl⟩

/-! ### NOP and SEG END (R122, R128, R141) -/

/-- Settles O11: both run on the advanced stream, inside the commit window too (`whenDue_due`). -/
theorem nopAndSegEndIssue : Obligations.NopAndSegEndIssue := by
  unfold Obligations.NopAndSegEndIssue
  refine ⟨fun h s hp hd hw => ⟨_, rfl, ?nop⟩, fun h s hp hd hw hs => ⟨_, rfl, ?segEnd⟩⟩
  case nop =>
    rw [whenDue_due hp hd hw (Or.inr rfl)]
    exact issued_advance s h
  case segEnd =>
    rw [whenDue_due hp hd hw (Or.inr rfl), hs]
    exact issued_mod (issued_advance s h) fun x => { x with running := false }

/-! ### Loops (R133) -/

/-- A stream after its SEG LOOP of a level: the level's register as `loopStep` leaves it, and the jump. -/
def looped (level : Bool) (target count : Nat) (x : Stream) : Stream :=
  let r := loopStep (if level then x.loop1 else x.loop0) target count
  let y := if level then { x with loop1 := r.1 } else { x with loop0 := r.1 }
  if r.2 then { y with ix := target } else y

theorem segLoop_issued {level : Bool} {target : BitVec 15} {count : BitVec 16} (H : Issues s h (.segLoop h level target count)) :
    ∃ t, exec (.segLoop h level target count) s = .next t ∧ Issued s t h (looped level target.toNat (count.toNat + 1) (issuedStrm s h)) := by
  refine ⟨_, rfl, ?_⟩
  rw [whenDue_issues H]
  have hx : strm (advance s h) h.core.val h.strm.val = issuedStrm s h := by rw [strm_advance, if_pos rfl]
  simp only [hx, Bool.false_eq_true, if_false]
  exact issued_mod (issued_advance s h) _

section
variable {r : LoopReg} {target count : Nat}

/-- The four cases of a loop register. -/
theorem loopStep_once (ha : r.active = false) (hc : count = 1) : loopStep r target count = (r, false) := by simp [loopStep, ha, hc]
theorem loopStep_enters (ha : r.active = false) (hc : count ≠ 1) :
    loopStep r target count = ({ active := true, target := target, remain := count - 2 }, true) := by simp [loopStep, ha, hc]
theorem loopStep_leaves (ha : r.active = true) (hr : r.remain = 0) : loopStep r target count = ({ r with active := false }, false) := by
  simp [loopStep, ha, hr]
theorem loopStep_repeats (ha : r.active = true) (hr : r.remain ≠ 0) : loopStep r target count = ({ r with remain := r.remain - 1 }, true) := by
  simp [loopStep, ha, hr]
end

/-- Settles O12: the stream is `looped`, its register as the cases of `loopStep` say. -/
theorem segLoopCountsItsBody : Obligations.SegLoopCountsItsBody := by
  unfold Obligations.SegLoopCountsItsBody
  intro h level target count s H r setR
  obtain ⟨t, hx, hI⟩ := segLoop_issued H
  unfold looped at hI
  refine ⟨t, hx, fun ha hc => ?once, fun ha hc => ?enters, fun ha hr => ?leaves, fun ha hr => ?repeats⟩
  case once =>
    rw [loopStep_once ha (by simp [hc])] at hI
    cases level <;> exact hI
  case enters =>
    have hne : count.toNat + 1 ≠ 1 := fun h0 => hc (BitVec.eq_of_toNat_eq (by simpa using h0))
    rw [loopStep_enters ha hne] at hI
    cases level <;> exact hI
  case leaves =>
    rw [loopStep_leaves ha hr] at hI
    cases level <;> exact hI
  case repeats =>
    rw [loopStep_repeats ha hr] at hI
    cases level <;> exact hI

/-! ### Arms (R131) -/

/-- A command that puts one micro-operation on the agenda has issued, but for that. -/
theorem issued_addAct (s : State) (h : Iss) (a : Act) : (addAct (advance s h) a).acts = s.acts ++ [a] ∧
    Issued s { addAct (advance s h) a with acts := s.acts } h (issuedStrm s h) := by
  obtain ⟨⟨hrest, hothers⟩, hsame, hstrms⟩ := issued_advance s h
  exact ⟨congrArg (· ++ [a]) (advance_acts s h), ⟨rfl, hothers⟩, hsame, hstrms⟩

/-- The arm of a SEG ARM alone in its cycle is judged against the register as it stood at the cycle's start. -/
theorem runArms_segArm (s : State) (c k cyc job : Nat) (n : NextStart) :
    runArms s c [{ cyc := cyc, core := c, job := job, op := .arm k false 0 n }] = judgeArm s c k (heldStart s c k) true false 0 n := by
  unfold runArms
  simp

/-- An arm of a SEG ARM is kept where the register held no start and the tick is still to come. -/
theorem armReason_none_iff {held : Option NextStart} {n : NextStart} :
    armReason s held false n = none ↔ held = none ∧ (n.nextFrame = true ∨ frameTick s < n.tick) := by
  unfold armReason
  cases held <;> cases n.nextFrame <;> simp

theorem heldStart_eq_none_iff {c k : Nat} : heldStart s c k = none ↔ (strm s c k).started ≠ now s + 1 ∧ (strm s c k).next = none := by
  unfold heldStart
  by_cases hs : (strm s c k).started = now s + 1 <;> simp [hs]

theorem judgeArm_kept {c k : Nat} {held : Option NextStart} {n : NextStart} (both : Bool) (hr : armReason s held false n = none) :
    judgeArm s c k held both false 0 n = modStrm s c k fun x => { x with next := some n } := by
  unfold judgeArm
  simp [hr]

theorem judgeArm_refused {c k r : Nat} {held : Option NextStart} {n : NextStart} (both : Bool) (hr : armReason s held false n = some r) :
    judgeArm s c k held both false 0 n = raiseArm s c k r n := by
  unfold judgeArm
  simp [hr]

/-- Settles O13: the arm goes on the agenda (`issued_addAct`); it is kept exactly where `armReason_none_iff` and `heldStart_eq_none_iff` say. -/
theorem segArmArmsOrIsRefused : Obligations.SegArmArmsOrIsRefused := by
  unfold Obligations.SegArmArmsOrIsRefused
  refine ⟨fun h nf ix tick s H => ?issue, fun s c k n => ?judge⟩
  case issue =>
    intro a
    refine ⟨_, rfl, ?_⟩
    rw [whenDue_issues H]
    simp only [now_advance, Bool.false_eq_true, if_false]
    exact issued_addAct s h a
  case judge =>
    intro a
    rw [runArms_segArm]
    have hreason : armReason s (heldStart s c k) false n = none ↔
        (strm s c k).next = none ∧ (strm s c k).started ≠ now s + 1 ∧ (n.nextFrame = true ∨ frameTick s < n.tick) := by
      rw [armReason_none_iff, heldStart_eq_none_iff, and_assoc, and_left_comm]
    split
    · next hkeep =>
      rw [judgeArm_kept true (hreason.mpr hkeep)]
      exact ⟨⟨rfl, fun d hd => core_modStrm_ne s hd _ _⟩, fun j => strm_modStrm ..⟩
    · next hrefuse =>
      obtain ⟨r, hr⟩ := Option.ne_none_iff_exists'.mp (fun hn => hrefuse (hreason.mp hn))
      rw [judgeArm_refused true hr]
      unfold raiseArm
      exact ⟨recorded_bump (raiseStrm_recorded ..) .., fun j => by rw [strm_bump, strm_raiseStrm]⟩

/-! ### SETC (R94, R95, R142) -/

/-- A change of one core that an issue makes beside the stream's place: nothing but that core differs. -/
theorem issued_modCore (s : State) (h : Iss) (f : Core → Core) : CoreOnly s (modCore (advance s h) h.core.val f) h.core.val ∧
    core (modCore (advance s h) h.core.val f) h.core.val =
      f { core s h.core.val with strms := tset {} (core s h.core.val).strms h.strm.val (issuedStrm s h) } := by
  refine ⟨⟨rfl, fun d hd => ?_⟩, ?_⟩
  · rw [core_modCore_ne _ hd, core_advance_ne s h hd]
  · rw [core_modCore_same, core_advance]

/-- The streams of a core that keeps what the issue made of them. -/
theorem strm_issued {t : State} (ht : (core t h.core.val).strms = (core (advance s h) h.core.val).strms) (k : Nat) :
    strm t h.core.val k = if k = h.strm.val then issuedStrm s h else strm s h.core.val k := by
  rw [← strm_advance s h k]
  unfold strm
  rw [ht]

/-- Counters after one of them is set. -/
theorem ctr_setCtr (s : State) (c e j : Nat) (x : Ctr) (e' j' : Nat) (hj : j < 4) (hj' : j' < 4) :
    ctr (setCtr s c e j x) c e' j' = if e' = e ∧ j' = j then x else ctr s c e' j' := by
  obtain ⟨-, -, -, hcore, -⟩ := setCtr_rest s c e j x
  have hkey : 4 * e' + j' = 4 * e + j ↔ e' = e ∧ j' = j := by omega
  unfold ctr
  rw [hcore]
  simp only [tget_tset, hkey]

/-- SETC CCOUNT's value stands after every increment of the cycle. -/
theorem ccntOf_runActs_ccSet (s : State) (cyc c job k v : Nat) (hv : v < 2 ^ 32) :
    ccntOf (runActs s [{ cyc := cyc, core := c, job := job, op := .ccSet k v }]) c k = v := by
  unfold runActs
  simp only
  rw [startBaus_none s _ (by simp [isBauStart])]
  rw [List.append_nil, List.foldl_cons, List.foldl_nil, ccntOf_setCcnt, if_pos rfl, Nat.mod_eq_of_lt hv]

/-- Settles O18: COUNTER by `setCtr_rest` and `ctr_setCtr`, COMPARATOR and DESCRIPTOR as changes of one table of the core, CCOUNT by
`ccntOf_runActs_ccSet`. -/
theorem setcWritesItsTarget : Obligations.SetcWritesItsTarget := by
  unfold Obligations.SetcWritesItsTarget
  refine ⟨fun h tgt j v l st s H => ?counter, fun h tgt cmp en k r pred v s H => ?comparator, fun h tgt ix v s H => ?descriptor,
    fun h k v s H => ?ccount⟩
  case counter =>
    intro e
    refine ⟨_, rfl, ?_⟩
    rw [whenDue_issues H]
    simp only [Bool.false_eq_true, if_false]
    obtain ⟨w, hrest, hothers, hcore, hw⟩ := setCtr_rest (advance s h) h.core.val e j.toNat { val := v, lim := l, stride := st }
    have hctr := ctr_setCtr (advance s h) h.core.val e j.toNat { val := v, lim := l, stride := st }
    generalize setCtr _ _ _ _ _ = t at *
    refine ⟨?_, fun d hd => by rw [hothers d hd, core_advance_ne s h hd], by rw [hcore, core_advance], strm_issued (by rw [hcore]), fun e' j' hj' => ?_, w, ?_, ?_⟩
    · rw [hrest]; rfl
    · rw [hctr e' j' j.isLt hj', ctr_advance]
    · rw [hrest]; exact congrArg (· ++ w) (advance_acts s h)
    · intro a ha
      rw [← now_advance s h]
      exact hw a ha
  case comparator =>
    refine ⟨_, rfl, ?_⟩
    rw [whenDue_issues H]
    simp only [Bool.false_eq_true, if_false]
    obtain ⟨honly, hcore⟩ := issued_modCore s h fun x =>
      { x with cmps := tset {} x.cmps (2 * setcEng h tgt.toNat + b2n cmp) { en := en, pred := pred, ctr := k, rel := r, val := v } }
    generalize modCore _ _ _ = t at *
    refine ⟨honly, by rw [hcore], strm_issued (by rw [hcore, core_advance]), fun i => ?_⟩
    rw [hcore, tget_tset]
  case descriptor =>
    refine ⟨_, rfl, ?_⟩
    rw [whenDue_issues H]
    simp only [Bool.false_eq_true, if_false]
    obtain ⟨honly, hcore⟩ := issued_modCore s h fun x => { x with descs := tset 0 x.descs (64 * (tgt.toNat - 4) + ix.toNat) v }
    generalize modCore _ _ _ = t at *
    refine ⟨honly, by rw [hcore], strm_issued (by rw [hcore, core_advance]), fun i => ?_⟩
    rw [hcore, tget_tset]
  case ccount =>
    intro a
    refine ⟨_, rfl, ?_⟩
    rw [whenDue_issues H]
    simp only [now_advance, Bool.false_eq_true, if_false]
    obtain ⟨hacts, hI⟩ := issued_addAct s h a
    exact ⟨hacts, hI, fun u => ccntOf_runActs_ccSet u _ _ _ _ _ v.isLt⟩

/-! ### The command scrub port (R156) -/

/-- What a visit does with its word: a correctable one is rewritten, an uncorrectable one recorded. -/
def scrubbed (s : State) (c m ix : Nat) : State :=
  if cmdMark s c m ix = 0 then s
  else if cmdMark s c m ix < 1024 then fixWord s c m ix
  else bump (raiseStrm s c m 0x0408 3 [(4, 2, ix)]) (cmdA c 0x020) 16 16

/-- A visit in its cycle: the word is judged and the port goes on, the last word being followed by the first. -/
theorem commandScrubVisit_visits {c : Fin 60} (m : Fin 5) {p : Fin 8} (hp : p.val = s.phase) (h32 : now s % 32 = 0) :
    let ix := tget 0 (core s c.val).cmdScrub m.val
    exec (.commandScrubVisit c m p) s = .next (modCore (scrubbed s c.val m.val ix) c.val fun x =>
      { x with cmdScrub := tset 0 x.cmdScrub m.val ((ix + 1) % (if m = 0 then 32768 else 2048)) }) := by
  change Host.Outcome.next (whenAt s p.val _) = _
  rw [whenAt_now s _ hp]
  simp only [h32, if_true]
  rfl

/-- A correctable word is recorded and its mark cleared. -/
theorem fixWord_marked {c k ix : Nat} (hm : cmdMark s c k ix ≠ 0) :
    fixWord s c k ix = modCore (bump (raiseStrm s c k 0x0407 1 [(4, 2, ix), (6, 1, cmdMark s c k ix - 1)]) (cmdA c 0x020) 0 16) c fun x =>
      { x with cmdBad := tset 0 x.cmdBad (32768 * k + ix) 0 } := if_neg hm

/-- Beside the core whose word is visited, only the record, its counter and what the severity does differ; of the core, the marks. -/
theorem scrubbed_rest (s : State) (c m ix : Nat) : (scrubbed s c m ix).mem = s.mem ∧ (scrubbed s c m ix).acts = s.acts ∧
    (∀ d, d ≠ c → core (scrubbed s c m ix) d = core s d) ∧
    core (scrubbed s c m ix) c = { core s c with cmdBad := (core (scrubbed s c m ix) c).cmdBad } := by
  have hfault (code sev lo : Nat) (l : List (Nat × Nat × Nat)) : let u := bump (raiseStrm s c m code sev l) (cmdA c 0x020) lo 16
      u.mem = s.mem ∧ u.acts = s.acts ∧ ∀ d, core u d = core s d := by
    obtain ⟨hrest, -⟩ := struck_raiseStrm s c m code sev l (cmdA c 0x020) lo 16
    exact ⟨by rw [hrest], by rw [hrest], fun d => by rw [core_bump, core_raiseStrm]⟩
  unfold scrubbed
  split
  · exact ⟨rfl, rfl, fun _ _ => rfl, rfl⟩
  · next hne =>
    split
    · obtain ⟨hmem, hacts, hcore⟩ := hfault 0x0407 1 0 [(4, 2, ix), (6, 1, cmdMark s c m ix - 1)]
      rw [fixWord_marked hne]
      exact ⟨hmem, hacts, fun d hd => by rw [core_modCore_ne _ hd, hcore], by rw [core_modCore_same, hcore]⟩
    · obtain ⟨hmem, hacts, hcore⟩ := hfault 0x0408 3 16 [(4, 2, ix)]
      exact ⟨hmem, hacts, fun d _ => hcore d, by rw [hcore]⟩

section
variable {c m ix : Nat}

/-- The three kinds of word. -/
theorem scrubbed_clean (hw : cmdMark s c m ix = 0) : scrubbed s c m ix = s := if_pos hw
theorem scrubbed_correctable (h0 : 0 < cmdMark s c m ix) (h1 : cmdMark s c m ix < 1024) :
    Recorded s (scrubbed s c m ix) 0x0407 1 ∧ cmdMark (scrubbed s c m ix) c m ix = 0 := by
  unfold scrubbed
  rw [if_neg (by omega), if_pos h1, fixWord_marked (by omega)]
  refine ⟨recorded_of_faults (recorded_bump (raiseStrm_recorded ..) (cmdA c 0x020) 0 16) rfl, ?_⟩
  show tget 0 (core (modCore _ c _) c).cmdBad _ = 0
  rw [core_modCore_same, tget_tset_same]
theorem scrubbed_uncorrectable (hw : 1024 ≤ cmdMark s c m ix) :
    Recorded s (scrubbed s c m ix) 0x0408 3 ∧ (core (scrubbed s c m ix) c).cmdBad = (core s c).cmdBad := by
  unfold scrubbed
  rw [if_neg (by omega), if_neg (by omega)]
  exact ⟨recorded_bump (raiseStrm_recorded ..) .., by rw [core_bump, core_raiseStrm]⟩
end

/-- Settles O19: the visit is `commandScrubVisit_visits`, its word as the three cases of `scrubbed` say. -/
theorem commandScrubCorrectsAndRecords : Obligations.CommandScrubCorrectsAndRecords := by
  unfold Obligations.CommandScrubCorrectsAndRecords
  intro c m p s hp h32 ix
  refine ⟨_, commandScrubVisit_visits m hp h32, ?_⟩
  obtain ⟨hmem, hacts, hothers, hcore⟩ := scrubbed_rest s c.val m.val ix
  refine ⟨?_, ?_, ?_, fun d hd => ?_, hmem, hacts, fun hw => ?clean, fun h0 h1 => ?correctable, fun hw => ?uncorrectable⟩
  · rw [core_modCore_same, hcore]
  · rw [core_modCore_same, hcore]
  · rw [core_modCore_same, hcore]
  · rw [core_modCore_ne _ hd, hothers d hd]
  case clean =>
    rw [core_modCore_same, scrubbed_clean hw]
    exact ⟨rfl, rfl⟩
  case correctable =>
    obtain ⟨hrec, hmark⟩ := scrubbed_correctable h0 h1
    refine ⟨recorded_of_faults hrec rfl, Eq.trans ?_ hmark⟩
    unfold cmdMark
    rw [core_modCore_same]
  case uncorrectable =>
    obtain ⟨hrec, hbad⟩ := scrubbed_uncorrectable hw
    exact ⟨recorded_of_faults hrec rfl, by rw [core_modCore_same]; exact hbad⟩

end Sys2Proof.Machine
end

section
/-!
PROOFS. The statements of the sequencer's own engine commands (R148, R149, R182, R189) and of entries that arrive in queues (R150): the free
memory unit, the cycle of one arrival, and the end of the cycle at a queue.
-/
namespace Sys2Proof.Machine
open Sys2Proof

variable {s : State} {h : Iss} {i : Instr}

/-! ### Commands that the sequencer's counters serve (R94, R124) -/

/-- A command that holds an engine's paths and steps the sequencer's counters: it begins, and its counters are stepped after. -/
theorem issue_begins_sequenced {e lo cuse cinc : Nat} {ps : List (Nat × Nat)} {x : Job} {ops : List (Nat × Micro)} {run : Bool → Nat → State → State}
    (H : Issues s h i) (hrun : run false (termOf s h 9 lo cuse) (advance s h) = startJob (heldPaths (advance s h) h.core.val e ps) x ops)
    (hps : ∀ q ∈ ps, q.1 < 16) (hx : x.core = h.core.val) :
    ∃ t u, Host.Outcome.next (issueCmd h i 9 lo cuse cinc run s) = (.next t : Host.Outcome State Fault Refusal) ∧ Began s u h e 0 0 ps x ops ∧
      t = incCtrs u h.core.val 9 lo cinc :=
  ⟨_, _, rfl, began_unstepped ops hps hx, by rw [issueCmd_issues H]; exact congrArg (incCtrs · h.core.val 9 lo cinc) hrun⟩

/-- The free memory unit is taken as one path of engine 11 (R182). -/
theorem takeUnit_free {c n : Nat} (ix : Nat) (hf : PathsFree s c 11 [(0, n)]) : takeUnit s c ix n = (true, heldPaths s c 11 [(0, n)]) := by
  have hleft : freeAt s c 11 0 - now s = 0 := Nat.sub_eq_zero_of_le (hf (0, n) (by simp))
  unfold takeUnit
  simp only [hleft]
  rfl

theorem takeUnit_advance {n : Nat} (ix : Nat) (hf : PathsFree s h.core.val 11 [(0, n)]) :
    takeUnit (advance s h) h.core.val ix n = (true, heldPaths (advance s h) h.core.val 11 [(0, n)]) :=
  takeUnit_free ix fun p hp => by rw [freeAt_advance, now_advance]; exact hf p hp

/-- Settles O23: FILL and COPY with the unit free by `takeUnit_advance`, SEND and BPIPE with their path free by `runOn_free`. -/
theorem memoryUnitSendAndBpipeBegin : Obligations.MemoryUnitSendAndBpipeBegin := by
  unfold Obligations.MemoryUnitSendAndBpipeBegin
  refine ⟨fun h cu dst rows pattern s => ?fill, fun h cu src dst rows s => ?copy, fun h o s => ?send, fun h bp cu src rows q spl spool s => ?bpipe⟩
  case fill | copy =>
    dsimp only
    intro H hf
    refine issue_begins_sequenced H ?_ (by simp) rfl
    simp only [takeUnit_advance _ hf, jobOf_advance, now_advance]
    rfl
  case send | bpipe =>
    intro i n d H hf
    refine issue_begins_sequenced H ?_ (by simp) rfl
    rw [runOn_free hf, jobOf_heldPaths, now_advance]

/-! ### One arrival (R209, R215, R245) -/

/-- An element that stands once in a list and alone meets a test: taking what meets it takes this one. -/
theorem filter_once {α : Type} [DecidableEq α] {f : α → Bool} {a : α} {l : List α} (hc : l.count a = 1) (hf : ∀ x ∈ l, f x = true ↔ x = a) :
    l.filter f = [a] ∧ (l.filter fun x => !f x) = l.erase a := by
  induction l with
  | nil => simp at hc
  | cons y l ih =>
    obtain ⟨hy, hl⟩ := List.forall_mem_cons.mp hf
    by_cases h : y = a
    · subst h
      have hnot : ∀ x ∈ l, f x = false := fun x hx => by
        have hne : x ≠ y := fun e => List.count_eq_zero.mp (by simpa using hc) (e ▸ hx)
        exact Bool.eq_false_iff.mpr fun e => hne ((hl x hx).mp e)
      have hnone : l.filter f = [] := List.filter_eq_nil_iff.mpr fun x hx => by simp [hnot x hx]
      have hall : (l.filter fun x => !f x) = l := List.filter_eq_self.mpr fun x hx => by simp [hnot x hx]
      simp [hy, hnone, hall]
    · have hfy : f y = false := Bool.eq_false_iff.mpr fun e => h (hy.mp e)
      obtain ⟨h1, h2⟩ := ih (by simpa [List.count_cons, h] using hc) hl
      simp [hfy, h1, h2, h]

/-- An arrival writes no predicate bit and makes no arm. -/
theorem runPreds_qPut {a : Act} {b q key : Nat} (c : Nat) (ha : a.op = .qPut b q key) : runPreds s c [a] = s := by
  unfold runPreds
  simp only [List.filterMap_cons, List.filterMap_nil, ha]
  exact foldl_same _ _ (fun _ _ _ => rfl) s
theorem runArms_qPut {a : Act} {b q key : Nat} (c : Nat) (ha : a.op = .qPut b q key) : runArms s c [a] = s := by
  unfold runArms
  simp [ha]

/-- The cycle of one arrival alone: the entry is at its queue's door. -/
theorem runActs_qPut {a : Act} {b q key : Nat} (ha : a.op = .qPut b q key) : runActs s [a] = putEntry s a.core b q a.job key := by
  have hstrike : strikeOut s a = s := strikeOut_other s a (by simp [ha]) (by simp [ha])
  have hother : runOther s a = putEntry s a.core b q a.job key := by unfold runOther; rw [ha]
  have hdram : runDram s [] = s := rfl
  have hcores : [a.core].eraseDups = [a.core] := rfl
  unfold runActs
  simp only
  rw [startBaus_none s _ (by simp [ha, isBauStart])]
  simp [ha, isAccess, hdram, hstrike, hother, hcores, List.filter_cons]
  rw [runPreds_qPut _ ha, runArms_qPut _ ha]

/-- The commands whose entries arrive as their jobs read them: RD, GATHER, and ATTEND but for its record. -/
def Delivers (x : Job) : Prop := (∃ h o, x.cmd = .rd h o) ∨ (∃ h o, x.cmd = .gather h o) ∨ ∃ h o, x.cmd = .attend h o

theorem putEntry_delivers {j key : Nat} (c b q : Nat) (hd : Delivers (job s j)) (hk : key ≠ idxKey) :
    putEntry s c b q j key =
      modQueue s c b q fun x => { x with incoming := x.incoming ++ [(jobGet (job s j) key, (job s j).strm, (job s j).index)] } := by
  have hbau : bauEntry s j key = s := by
    unfold bauEntry
    rcases hd with ⟨h, o, hc⟩ | ⟨h, o, hc⟩ | ⟨h, o, hc⟩
    · rw [hc]
    · rw [hc]
    · rw [hc]; exact if_neg hk
  have hentry : jobEntry s j key = jobGet (job s j) key := by
    unfold jobEntry
    rcases hd with ⟨h, o, hc⟩ | ⟨h, o, hc⟩ | ⟨h, o, hc⟩ <;> simp only [hc]
  unfold putEntry
  simp only [hbau, hentry]

theorem isPut_iff {b q : Nat} {m : Micro} : isPut b q m = true ↔ ∃ k, m = .qPut b q k := by
  cases m <;> simp [isPut]

/-- The only arrival of its kind that is due at a queue leaves the agenda, and its entry is at the queue's door. -/
theorem arrive_one {c b q key : Nat} {sel : Act → Bool} {a : Act} (hr : Running s) (hop : a.op = .qPut b q key) (hcore : a.core = c)
    (hcyc : a.cyc ≤ now s) (hone : ∀ x ∈ s.acts, x.core = c → x.cyc ≤ now s → ∀ k, x.op = .qPut b q k → x = a) (hcount : s.acts.count a = 1)
    (hsel : sel a = true) : arrive s c b q sel = putEntry { s with acts := s.acts.erase a } c b q a.job key := by
  have hmeets : ∀ x ∈ s.acts, (decide (x.cyc ≤ now s) && (x.core == c && sel x && isPut b q x.op)) = true ↔ x = a := by
    intro x hx
    simp only [Bool.and_eq_true, decide_eq_true_eq, beq_iff_eq, isPut_iff]
    constructor
    · rintro ⟨hxcyc, ⟨hxcore, -⟩, k, hxop⟩
      exact hone x hx hxcore hxcyc k hxop
    · rintro rfl
      exact ⟨hcyc, ⟨hcore, hsel⟩, key, hop⟩
  obtain ⟨hdue, hrest⟩ := filter_once hcount hmeets
  unfold arrive
  rw [fire_running hr, hdue, hrest, runActs_qPut hop, hcore]

/-! ### The end of the cycle at a queue (R139, R150) -/

theorem raiseQueue_recorded (s : State) (c k b q code : Nat) (d : List (Nat × Nat × Nat)) : Recorded s (raiseQueue s c k b q code d) code 2 :=
  raiseEng_recorded ..
@[simp] theorem core_raiseQueue (s : State) (c k b q code : Nat) (d : List (Nat × Nat × Nat)) (x : Nat) : core (raiseQueue s c k b q code d) x = core s x := by
  unfold raiseQueue; rw [core_raiseEng]

@[simp] theorem queue_raiseQueue (s : State) (c k b q code : Nat) (d : List (Nat × Nat × Nat)) (x y z : Nat) :
    queue (raiseQueue s c k b q code d) x y z = queue s x y z := by unfold queue; rw [core_raiseQueue]

/-- One queue differs; memory, the agenda, the other cores and the other queues of its core stand as they were. -/
structure QueueOnly (s t : State) (c b q : Nat) (x : Queue) : Prop where
  mem : t.mem = s.mem
  acts : t.acts = s.acts
  others : ∀ d, d ≠ c → core t d = core s d
  queues : ∀ b' q', q' < 4 → queue t c b' q' = if b' = b ∧ q' = q then x else queue s c b' q'

section
variable {t : State} {c b q : Nat} {x : Queue}

theorem QueueOnly.refl (s : State) (c b q : Nat) : QueueOnly s s c b q (queue s c b q) :=
  ⟨rfl, rfl, fun _ _ => rfl, fun b' q' _ => by split <;> simp [*]⟩
theorem QueueOnly.modQueue (H : QueueOnly s t c b q x) (hq : q < 4) (f : Queue → Queue) : QueueOnly s (modQueue t c b q f) c b q (f x) := by
  obtain ⟨hmem, hacts, hothers, hqueues⟩ := H
  refine ⟨hmem, hacts, fun d hd => by rw [core_modQueue_ne _ hd, hothers d hd], fun b' q' hq' => ?_⟩
  rw [queue_modQueue _ _ _ _ _ _ _ hq hq']
  split
  · rw [hqueues b q hq, if_pos ⟨rfl, rfl⟩]
  · next hne => rw [hqueues b' q' hq', if_neg hne]
theorem QueueOnly.raiseQueue (H : QueueOnly s t c b q x) (k code : Nat) (d : List (Nat × Nat × Nat)) :
    QueueOnly s (raiseQueue t c k b q code d) c b q x := by
  obtain ⟨hmem, hacts, hothers, hqueues⟩ := H
  exact ⟨hmem, hacts, fun d hd => by rw [core_raiseQueue, hothers d hd], fun b' q' hq' => by rw [queue_raiseQueue, hqueues b' q' hq']⟩
end

/-- A queue with nothing at its door. -/
def doorClear (x : Queue) : Queue := { x with incoming := [] }
/-- A queue whose end has taken an entry. -/
def queueTake (r : Row) (x : Queue) : Queue := { x with items := x.items ++ [r] }
/-- A queue that has dropped an entry. -/
def queueOverrun (x : Queue) : Queue := { x with overrun := min 255 (x.overrun + 1) }

theorem settleQueue_one (s : State) {c b q : Nat} (hq : q < 4) (e : Row × Nat × Nat) :
    settleQueue s c (4 * b + q) [e] =
      if 64 ≤ (queue s c b q).items.length then
        modQueue (raiseQueue (modQueue s c b q doorClear) c e.2.1 b q 0x0681 [(8, 2, e.2.2)]) c b q queueOverrun
      else modQueue (modQueue s c b q doorClear) c b q (queueTake e.1) := by
  have hdiv : (4 * b + q) / 4 = b := by omega
  have hmod : (4 * b + q) % 4 = q := by omega
  have hitems : (queue (modQueue s c b q doorClear) c b q).items = (queue s c b q).items := by
    rw [queue_modQueue s c b q b q _ hq hq, if_pos ⟨rfl, rfl⟩]; rfl
  have hclear : (fun x : Queue => { x with incoming := [] }) = doorClear := rfl
  unfold settleQueue
  simp only [hdiv, hmod, hclear, List.foldl_cons, List.foldl_nil, hitems]
  rfl

/-- An entry at the door of a queue with room enters the queue's end. -/
theorem settleQueue_room {c b q : Nat} (hq : q < 4) (e : Row × Nat × Nat) (hroom : (queue s c b q).items.length < 64) :
    QueueOnly s (settleQueue s c (4 * b + q) [e]) c b q (queueTake e.1 (doorClear (queue s c b q))) ∧
      (settleQueue s c (4 * b + q) [e]).faults = s.faults := by
  rw [settleQueue_one s hq, if_neg (by omega)]
  exact ⟨((QueueOnly.refl s c b q).modQueue hq doorClear).modQueue hq (queueTake e.1), rfl⟩

/-- An entry at the door of a full queue is dropped, with 0x0681. -/
theorem settleQueue_full {c b q : Nat} (hq : q < 4) (e : Row × Nat × Nat) (hfull : ¬(queue s c b q).items.length < 64) :
    QueueOnly s (settleQueue s c (4 * b + q) [e]) c b q (queueOverrun (doorClear (queue s c b q))) ∧
      Recorded s (settleQueue s c (4 * b + q) [e]) 0x0681 2 := by
  rw [settleQueue_one s hq, if_pos (by omega)]
  have hrec := raiseQueue_recorded (modQueue s c b q doorClear) c e.2.1 b q 0x0681 [(8, 2, e.2.2)]
  exact ⟨(((QueueOnly.refl s c b q).modQueue hq doorClear).raiseQueue e.2.1 0x0681 [(8, 2, e.2.2)]).modQueue hq queueOverrun, hrec⟩

/-- Settles O27: at the door by `arrive_one` and `putEntry_delivers`, at the end of the cycle by `settleQueue_room` and `settleQueue_full`. -/
theorem entriesArrive : Obligations.EntriesArrive := by
  unfold Obligations.EntriesArrive
  refine ⟨fun c b q p s a key hp hr hop hk hcore hcyc _ hone hcount i hi => ?door, fun s c b q e hq => ?settle⟩
  case door =>
    have harrive : Delivers (job s a.job) ∧ ∃ sel, sel a = true ∧ exec i s = .next (arrive s c.val b.val q.toNat sel) := by
      have hnow {sel : State → Act → Bool} : whenAt s p.val (fun u => arrive u c.val b.val q.toNat (sel u)) = arrive s c.val b.val q.toNat (sel s) :=
        whenAt_now s _ hp _
      rcases hi with ⟨rfl, h, o, hcmd⟩ | ⟨rfl, h, o, hcmd⟩ | ⟨rfl, h, o, hcmd⟩
      · exact ⟨.inl ⟨h, o, hcmd⟩, isFetch s, by simp [isFetch, hcmd], congrArg Host.Outcome.next hnow⟩
      · exact ⟨.inr (.inl ⟨h, o, hcmd⟩), isFetch s, by simp [isFetch, hcmd], congrArg Host.Outcome.next hnow⟩
      · exact ⟨.inr (.inr ⟨h, o, hcmd⟩), _, by rw [hcmd], congrArg Host.Outcome.next (hnow (sel := _))⟩
    obtain ⟨hdel, sel, hsel, hx⟩ := harrive
    refine ⟨_, hx, ?_⟩
    rw [arrive_one hr hop hcore hcyc hone hcount hsel, putEntry_delivers (s := { s with acts := s.acts.erase a }) c.val b.val q.toNat hdel hk]
    exact ⟨rfl, fun d hd => core_modQueue_ne _ hd _ _ _, fun b' q' hq' => queue_modQueue _ _ _ _ _ _ _ q.isLt hq'⟩
  case settle =>
    intro t
    have hsettled : ∃ x, QueueOnly s t c b q x ∧ x.incoming = [] ∧
        (if (queue s c b q).items.length < 64 then x.items = (queue s c b q).items ++ [e.1] ∧ t.faults = s.faults
         else x.items = (queue s c b q).items ∧ x.overrun = min 255 ((queue s c b q).overrun + 1) ∧ Recorded s t 0x0681 2) := by
      split
      · next hroom =>
        obtain ⟨honly, hfaults⟩ := settleQueue_room hq e hroom
        exact ⟨_, honly, rfl, rfl, hfaults⟩
      · next hfull =>
        obtain ⟨honly, hrec⟩ := settleQueue_full hq e hfull
        exact ⟨_, honly, rfl, rfl, rfl, hrec⟩
    obtain ⟨x, ⟨hmem, hacts, hothers, hqueues⟩, hdoor, hcase⟩ := hsettled
    have hown : queue t c b q = x := by rw [hqueues b q hq, if_pos ⟨rfl, rfl⟩]
    rw [hown]
    exact ⟨hmem, hacts, hothers, fun b' q' hq' hne => by rw [hqueues b' q' hq', if_neg hne], hdoor, hcase⟩

end Sys2Proof.Machine
end

section
/-!
PROOFS. The statements of the gaffer's instructions and of its plan instructions (chapter 6): the event that names an instruction, what each
kind of instruction leaves, traps, bad words and refused stream accesses, then the theorems that settle them.
-/
namespace Sys2Proof.Machine
open Sys2Proof

/-! ### The instruction that an event runs (R158) -/

/-- An event that names the instruction of a ready gaffer runs it, with GAF_STAT showing its address. -/
theorem gafEvent_ready {c : Fin 60} {p : Fin 8} {s : State} {f : State → GInst → Bool} {i : GInst} (hp : s.phase ≤ p.val)
    (H : GafReady (runTo s p.val) c.val i) (hf : f (runTo s p.val) i = true) :
    gafEvent c p f s =
      .next (gafDo (curSet (runTo s p.val) c.val) c.val (gafWord (runTo s p.val) c.val).1 (gafWord (runTo s p.val) c.val).2 i) := by
  rw [event_eq hp H.due (by rw [H.inst]; exact hf), gafStep_ready H]

/-- An event that names exactly the instruction of a ready gaffer runs it. -/
theorem gafEvent_named {c : Fin 60} {p : Fin 8} {s : State} {i : GInst} (hp : s.phase ≤ p.val) (H : GafReady (runTo s p.val) c.val i) :
    gafEvent c p (fun _ j => j == i) s =
      .next (gafDo (curSet (runTo s p.val) c.val) c.val (gafWord (runTo s p.val) c.val).1 (gafWord (runTo s p.val) c.val).2 i) :=
  gafEvent_ready hp H (beq_self_eq_true i)

/-- GAFFER_INSTRUCTION runs whatever is ready. -/
theorem gafferInstruction_ready {c : Fin 60} {p : Fin 8} {s : State} {i : GInst} (hp : s.phase ≤ p.val) (H : GafReady (runTo s p.val) c.val i) :
    exec (.gafferInstruction c p) s =
      .next (gafDo (curSet (runTo s p.val) c.val) c.val (gafWord (runTo s p.val) c.val).1 (gafWord (runTo s p.val) c.val).2 i) :=
  gafEvent_ready (f := fun _ _ => true) hp H rfl

/-- GAFFER_INSTRUCTION of a gaffer that is due takes its step. -/
theorem gafferInstruction_due {c : Fin 60} {p : Fin 8} {s : State} (hp : s.phase ≤ p.val) (hd : gafDue (runTo s p.val) c.val = true) :
    exec (.gafferInstruction c p) s = .next (gafStep (runTo s p.val) c.val) :=
  event_eq (f := fun _ _ => true) hp hd rfl

/-- A gaffer that is not due starts nothing. -/
theorem gafferInstruction_idle {c : Fin 60} {p : Fin 8} {s : State} (hp : s.phase ≤ p.val) (hd : gafDue (runTo s p.val) c.val = false) :
    exec (.gafferInstruction c p) s = .next (runTo s p.val) := by
  show gafEvent c p (fun _ _ => true) s = _
  unfold gafEvent
  rw [whenAt_run s _ hp, if_neg (by simp [hd])]

/-! ### The gaffer's registers -/

theorem xreg_congr {s t : State} {c : Nat} (h : core t c = core s c) (r : Nat) : xreg t c r = xreg s c r := by unfold xreg; rw [h]

@[simp] theorem xreg_gafNext (s : State) (c nxt lat r : Nat) : xreg (gafNext s c nxt lat) c r = xreg s c r := xreg_modGaf _ _ _ _ rfl

theorem xreg_setX (s : State) (c rd r : Nat) (v : W32) : xreg (setX s c rd v) c r = if r = rd ∧ r ≠ 0 then v.toNat else xreg s c r := by
  unfold setX
  by_cases h0 : rd = 0
  · rw [if_pos h0, if_neg (by omega)]
  · rw [if_neg h0]
    unfold xreg
    rw [core_modCore_same]
    simp only [tget_tset]
    by_cases hr : r = rd
    · subst hr; simp [h0]
    · simp [hr]

theorem xreg_gafPut (s : State) (c rd v nxt lat r : Nat) :
    xreg (gafPut s c rd v nxt lat) c r = if r = rd ∧ r ≠ 0 then v % 2 ^ 32 else xreg s c r := by
  unfold gafPut
  rw [xreg_gafNext, xreg_setX, BitVec.toNat_ofNat]

theorem coreOnly_modCore {u v : State} {c : Nat} (H : CoreOnly u v c) (f : Core → Core) : CoreOnly u (modCore v c f) c := by
  obtain ⟨honly, hothers⟩ := H
  refine ⟨?_, fun d hd => by rw [core_modCore_ne _ hd, hothers d hd]⟩
  have hcores : modCore v c f = { v with cores := (modCore v c f).cores } := rfl
  rw [hcores]
  generalize (modCore v c f).cores = k
  rw [honly]

theorem coreOnly_setX {u v : State} {c : Nat} (H : CoreOnly u v c) (rd : Nat) (w : W32) : CoreOnly u (setX v c rd w) c := by
  unfold setX
  split
  · exact H
  · exact coreOnly_modCore H _

/-- A register written changes nothing of its core but the gaffer's registers. -/
theorem core_setX (s : State) (c rd : Nat) (w : W32) :
    core (setX s c rd w) c = { core s c with gaf := { (core s c).gaf with x := (core (setX s c rd w) c).gaf.x } } := by
  unfold setX
  split
  · rfl
  · rw [core_modCore_same]

/-! ### Completion (R159) -/

/-- One gaffer shows the address of its instruction in v, which is otherwise u. -/
def Showing (u v : State) (c : Nat) : Prop := CoreOnly u v c ∧ core v c = core (curSet u c) c

theorem showing_cur (u : State) (c : Nat) : Showing u (curSet u c) c := ⟨cur_only u c, rfl⟩

/-- A change of the gaffer that the address shown takes no part in. -/
theorem showing_modGaf (u : State) (c : Nat) {f : Gaffer → Gaffer} (hf : ∀ g : Gaffer, f { g with cur := g.pc } = { f g with cur := (f g).pc }) :
    Showing (modGaf u c f) (modGaf (curSet u c) c f) c := by
  refine ⟨⟨rfl, fun d hd => ?_⟩, ?_⟩
  · unfold modGaf
    rw [core_modCore_ne _ hd, core_modCore_ne _ hd]
    exact (cur_only u c).2 d hd
  · unfold curSet modGaf
    simp only [core_modCore_same, hf]

theorem showing_put {u v : State} {c : Nat} (H : Showing u v c) (rd x nxt lat : Nat) : GafDone u (gafPut v c rd x nxt lat) c rd (x % 2 ^ 32) nxt lat := by
  obtain ⟨honly, hown⟩ := H
  have hset : CoreOnly u (setX v c rd (BitVec.ofNat 32 x)) c := coreOnly_setX honly rd _
  refine gafDone_next c nxt lat (by rw [hset.1]) (by rw [hset.1]) hset ?_ rd (x % 2 ^ 32) fun r => ?_
  · rw [core_setX, hown, cur_core]
  · rw [xreg_setX, BitVec.toNat_ofNat, xreg_congr hown, cur_x]

/-- Completion with a result that fits the register. -/
theorem gafDone_put_lt (u : State) (c rd : Nat) {x : Nat} (hx : x < 2 ^ 32) (nxt lat : Nat) :
    GafDone u (gafPut (curSet u c) c rd x nxt lat) c rd x nxt lat := by
  have hput := gafDone_put u c rd x nxt lat
  rwa [Nat.mod_eq_of_lt hx] at hput

/-! ### Arithmetic and jumps (R158, R159) -/

section
variable (u : State) (c w len : Nat)

theorem gafDo_op {f7 f3 rs1 rs2 : Nat} {r : Int} (h7 : f7 ≠ 4) (hr : aluOp f7 f3 (xreg u c rs1) (xreg u c rs2) = some r) (rd : Nat) :
    GafDone u (gafDo (curSet u c) c w len (.op f7 f3 rd rs1 rs2)) c rd (wrapN 32 r) ((core u c).gaf.pc + len)
      (if f7 = 1 then (if f3 < 4 then 3 else 34) else 1) := by
  simp only [gafDo, cur_x, cur_pc, if_neg h7, hr, Option.getD_some]
  exact gafDone_put_lt u c rd (wrapN_lt 32 r) _ _

theorem gafDo_opImm {f3 rs1 imm : Nat} {r : Int} (hr : aluImm f3 (xreg u c rs1) imm = some r) (rd : Nat) :
    GafDone u (gafDo (curSet u c) c w len (.opImm f3 rd rs1 imm)) c rd (wrapN 32 r) ((core u c).gaf.pc + len) 1 := by
  simp only [gafDo, cur_x, cur_pc, hr, Option.getD_some]
  exact gafDone_put_lt u c rd (wrapN_lt 32 r) _ _

theorem gafDo_lui (rd imm : Nat) :
    GafDone u (gafDo (curSet u c) c w len (.lui rd imm)) c rd (imm % 2 ^ 32) ((core u c).gaf.pc + len) 1 := by
  simp only [gafDo, cur_pc]
  exact gafDone_put u c rd imm _ _

theorem gafDo_jal (rd ofs : Nat) :
    GafDone u (gafDo (curSet u c) c w len (.jal rd ofs)) c rd (((core u c).gaf.pc + len) % 2 ^ 32) ((core u c).gaf.pc + ofs) 2 := by
  simp only [gafDo, cur_pc]
  exact gafDone_put u c rd _ _ _

/-- A branch's condition (RV32I). -/
def branchTaken (f3 a b : Nat) : Bool :=
  match f3 with
  | 0 => decide (a = b) | 1 => decide (a ≠ b) | 4 => decide (sw a < sw b) | 5 => decide (sw b ≤ sw a)
  | 6 => decide (a < b) | _ => decide (b ≤ a)

theorem gafDo_branch (f3 rs1 rs2 ofs : Nat) :
    GafDone u (gafDo (curSet u c) c w len (.branch f3 rs1 rs2 ofs)) c 0 0
      (if branchTaken f3 (xreg u c rs1) (xreg u c rs2) = true then (core u c).gaf.pc + ofs else (core u c).gaf.pc + len) 2 := by
  rw [← cur_x u c rs1, ← cur_x u c rs2, ← cur_pc u c]
  exact gafDone_go u c _ 2

/-! ### Data memory (R161, R162) -/

/-- A word of 32 bits, read as a signed number and wrapped, is itself. -/
theorem wrapN_sext_word (v : W32) : wrapN 32 (sext 32 v.toNat) = v.toNat := by
  have hv : v.toNat < 2 ^ 32 := v.isLt
  unfold wrapN sext
  split <;> omega

/-- A whole aligned word of data memory. -/
theorem dmemGet_word (s : State) {a : Nat} (hal : a % 4 = 0) : dmemGet s c a 4 = (tget 0 (core s c).gaf.dmem ((a - 0x00100000) / 4)).toNat := by
  unfold dmemGet fld
  rw [hal]
  exact (congrArg (· % 2 ^ 32) (Nat.div_one _)).trans (Nat.mod_eq_of_lt (BitVec.isLt _))

theorem extend_word (v : W32) : extend 4 v.toNat true = v := by
  unfold extend
  rw [if_pos rfl]
  exact (congrArg (BitVec.ofNat 32) (wrapN_sext_word v)).trans (by simp)

theorem setFld_word (x : W32) (v : Nat) : BitVec.ofNat 32 (setFld x.toNat 0 32 v) = BitVec.ofNat 32 v := by
  have hx : x.toNat / 2 ^ 32 = 0 := Nat.div_eq_of_lt x.isLt
  apply BitVec.eq_of_toNat_eq
  unfold setFld
  simp only [Nat.zero_add, hx, BitVec.toNat_ofNat]
  omega

theorem gafDoLoad_word {rd a : Nat} (h1 : 0x00100000 ≤ a) (h2 : a < 0x00120000) (hal : a % 4 = 0)
    (hgood : tget 0 (core u c).gaf.bad (gafKey true ((a - 0x00100000) / 4)) = 0) (nxt : Nat) :
    GafDone u (gafDoLoad (curSet u c) c 2 rd a nxt) c rd (tget 0 (core u c).gaf.dmem ((a - 0x00100000) / 4)).toNat nxt 2 := by
  have hcur : tget 0 (core (curSet u c) c).gaf.bad (gafKey true ((a - 0x00100000) / 4)) = 0 := by rw [cur_core]; exact hgood
  have hbad : gafBad (curSet u c) c true ((a - 0x00100000) / 4) = false := by unfold gafBad; rw [hcur]; rfl
  have hword : dmemGet (curSet u c) c a 4 = (tget 0 (core u c).gaf.dmem ((a - 0x00100000) / 4)).toNat := by
    rw [dmemGet_word c _ hal, cur_core]
  have hload : gafDoLoad (curSet u c) c 2 rd a nxt =
      gafPut (curSet u c) c rd (tget 0 (core u c).gaf.dmem ((a - 0x00100000) / 4)).toNat nxt 2 := by
    unfold gafDoLoad
    simp only
    rw [if_neg (by simpa using hal), if_pos ⟨h1, h2⟩, if_neg (by simp [hbad]), noteGaf_good hcur, hword]
    exact congrArg (fun v : W32 => gafPut (curSet u c) c rd v.toNat nxt 2) (extend_word _)
  rw [hload]
  exact gafDone_put_lt u c rd (BitVec.isLt _) nxt 2

/-- A gaffer whose data memory takes a whole word, with fresh check bits (R162). -/
def storeWord (w v : Nat) (g : Gaffer) : Gaffer := { g with dmem := tset 0 g.dmem w (BitVec.ofNat 32 v), bad := tset 0 g.bad (gafKey true w) 0 }

theorem gafDoStore_word {a : Nat} (h1 : 0x00100000 ≤ a) (h2 : a < 0x00120000) (hal : a % 4 = 0) (v nxt : Nat) :
    GafDone (modGaf u c (storeWord ((a - 0x00100000) / 4) v)) (gafDoStore (curSet u c) c 2 a v nxt) c 0 0 nxt 1 := by
  have hstore : gafDoStore (curSet u c) c 2 a v nxt =
      gafNext (modGaf (curSet u c) c (storeWord ((a - 0x00100000) / 4) v)) c nxt 1 := by
    unfold gafDoStore storeWord
    simp only
    rw [if_neg (by simpa using hal), if_pos ⟨h1, h2⟩, if_neg (by simp), if_neg (by simp)]
    simp only [hal]
    simp only [Nat.mul_zero, show 8 * 2 ^ 2 = 32 from rfl, setFld_word]
  rw [hstore]
  exact gafDone_mod u c _ nxt 1 (fun _ _ => rfl) (fun _ => rfl) (fun _ => rfl) (fun _ => rfl) (fun _ => rfl)

end

/-! ### Traps and words that cannot be corrected (R160, R162) -/

theorem xreg_gafTrap (u : State) (c cause tval r : Nat) : xreg (gafTrap (curSet u c) c cause tval) c r = xreg u c r := by
  obtain ⟨-, hgaf, -⟩ := trap_facts u c cause tval
  unfold xreg
  rw [hgaf]

/-- ECALL, EBREAK and an illegal instruction trap. -/
theorem gafDo_traps {i : GInst} (hi : i = .ecall ∨ i = .ebreak ∨ i = .illegal) (s : State) (c w len : Nat) :
    ∃ cause tval, gafDo s c w len i = gafTrap s c cause tval := by
  rcases hi with rfl | rfl | rfl
  · exact ⟨_, _, rfl⟩
  · exact ⟨_, _, rfl⟩
  · exact ⟨_, _, rfl⟩

/-- An uncorrectable word is recorded and stands. -/
theorem noteGaf_bad {s : State} {c k : Nat} (h : 1024 ≤ tget 0 (core s c).gaf.bad (gafKey false k)) :
    noteGaf s c false k = bump (raiseGaf s c 0x040B 3 [(4, 1, 0), (8, 4, 4 * k)]) (gafA c 0x018) 24 8 := by
  unfold noteGaf
  simp only
  rw [if_neg (by omega), if_neg (by omega)]
  simp [gafBase, b2n]

/-- A fetch that finds its first word uncorrectable stops the gaffer. -/
theorem gafStep_bad {u : State} {c : Nat} (hin : (core u c).gaf.pc + (gafWord u c).2 ≤ 0x10000)
    (hbad : 1024 ≤ tget 0 (core u c).gaf.bad (gafKey false ((core u c).gaf.pc / 4))) :
    gafStep u c = gafStop (noteGaf (curSet u c) c false ((core u c).gaf.pc / 4)) c 1 (core u c).gaf.pc := by
  have hcur : (modGaf u c fun g => { g with cur := g.pc }) = curSet u c := rfl
  have hword : gafWord (curSet u c) c = gafWord u c := gafWord_cur ..
  have hfirst : gafBad (curSet u c) c false ((core u c).gaf.pc / 4) = true := by
    unfold gafBad; rw [cur_core]; exact decide_eq_true hbad
  unfold gafStep
  simp only [hcur, hword]
  rw [if_neg (by omega), List.eraseDups_cons, List.find?_cons_of_pos hfirst]

theorem gafStop_bad_facts {u : State} {c k tval : Nat} (hbad : 1024 ≤ tget 0 (core u c).gaf.bad (gafKey false k)) :
    let t := gafStop (noteGaf (curSet u c) c false k) c 1 tval
    Recorded u t 0x040B 3 ∧ (core t c).gaf.stopped = true ∧ ∀ r, xreg t c r = xreg u c r := by
  have hcur : 1024 ≤ tget 0 (core (curSet u c) c).gaf.bad (gafKey false k) := by rw [cur_core]; exact hbad
  rw [noteGaf_bad hcur]
  refine ⟨?_, ?_, fun r => ?_⟩
  · have hrec : Recorded (curSet u c) _ 0x040B 3 :=
      recorded_bump (raiseEng_recorded (curSet u c) c 9 0x040B 3 [(4, 1, 0), (8, 4, 4 * k)]) (gafA c 0x018) 24 8
    exact recorded_since rfl rfl rfl (recorded_of_faults hrec (modGaf_faults ..))
  · unfold gafStop
    rw [gaf_modGaf]
  · unfold gafStop raiseGaf
    rw [xreg_modGaf _ _ _ _ rfl, xreg_congr (core_bump ..), xreg_congr (core_raiseEng ..), cur_x]

/-- Settles O36: each clause is the instruction that `gafferInstruction_ready` runs, or the step of `gafStep_bad`. -/
theorem gafferInstructionsComplete : Obligations.GafferInstructionsComplete := by
  unfold Obligations.GafferInstructionsComplete
  intro c p s hp u g X nxt
  refine ⟨fun f7 f3 rd rs1 rs2 r H h7 hr => ⟨_, gafferInstruction_ready hp H, gafDo_op u c.val _ _ h7 hr rd⟩,
    fun f3 rd rs1 imm r H hr => ⟨_, gafferInstruction_ready hp H, gafDo_opImm u c.val _ _ hr rd⟩,
    fun rd imm H => ⟨_, gafferInstruction_ready hp H, gafDo_lui u c.val _ _ rd imm⟩,
    fun rd ofs H => ⟨_, gafferInstruction_ready hp H, gafDo_jal u c.val _ _ rd ofs⟩,
    fun f3 rs1 rs2 ofs H => ⟨_, gafferInstruction_ready hp H, gafDo_branch u c.val _ _ f3 rs1 rs2 ofs⟩,
    ?load, ?store, ?trap, ?fetch, gafferInstruction_idle hp⟩
  case load =>
    intro rd rs1 imm a H h1 h2 hal hgood
    refine ⟨_, gafferInstruction_due hp H.due, ?_⟩
    rw [gafStep_load H]
    exact gafDoLoad_word u c.val h1 h2 hal hgood nxt
  case store =>
    intro rs1 rs2 imm a w H h1 h2 hal
    refine ⟨_, gafferInstruction_due hp H.due, ?_⟩
    rw [gafStep_store H]
    exact gafDoStore_word u c.val h1 h2 hal (X rs2) nxt
  case trap =>
    intro i H hi
    obtain ⟨cause, tval, htrap⟩ := gafDo_traps hi (curSet u c.val) c.val (gafWord u c.val).1 (gafWord u c.val).2
    refine ⟨_, gafferInstruction_ready hp H, ?_⟩
    rw [htrap]
    obtain ⟨hrec, hgaf, hcount⟩ := trap_facts u c.val cause tval
    exact ⟨hrec, by rw [hgaf], by rw [hgaf], xreg_gafTrap u c.val cause tval, by rw [hgaf], hcount⟩
  case fetch =>
    intro hd hin hbad
    refine ⟨_, gafferInstruction_due hp hd, ?_⟩
    rw [gafStep_bad hin hbad]
    exact gafStop_bad_facts hbad

/-! ### Arms, predicates and frit counts (R165, R166, R169) -/

theorem gafSegarm_arms (s : State) (c w rd b nxt : Nat) {a : Nat} (hk : a % 8 < 5) (hix : a % 8 = 0 ∨ fld a 16 15 < 2048) :
    gafSegarm s c w rd a b nxt = gafNext (addAct s
      { cyc := now s, core := c, job := 0, op := .arm (a % 8) true rd { nextFrame := bitAt a 31, index := fld a 16 15, tick := fld b 0 23 } }) c nxt 2 :=
  if_neg (by omega)

theorem gafSegarm_traps (s : State) (c w rd b nxt : Nat) {a : Nat} (h : 5 ≤ a % 8 ∨ (0 < a % 8 ∧ 2048 ≤ fld a 16 15)) :
    gafSegarm s c w rd a b nxt = gafTrap s c 2 w :=
  if_pos h

section
variable (u : State) (c w len : Nat)

theorem gafDo_segarm (rd rs1 rs2 : Nat) : gafDo (curSet u c) c w len (.segarm rd rs1 rs2) =
    gafSegarm (curSet u c) c w rd (xreg u c rs1) (xreg u c rs2) ((core u c).gaf.pc + len) := by
  simp only [gafDo, cur_x, cur_pc]

theorem gafDo_predw (rs1 rs2 : Nat) :
    GafDone (addAct u { cyc := now u + 1, core := c, job := 0, op := .predw (xreg u c rs1 % 8) (bitAt (xreg u c rs2) 0) })
      (gafDo (curSet u c) c w len (.predw rs1 rs2)) c 0 0 ((core u c).gaf.pc + len) 1 := by
  simp only [gafDo, cur_x, cur_pc]
  exact gafDone_go (addAct u _) c _ 1

theorem gafDo_predr (rd : Nat) :
    GafDone u (gafDo (curSet u c) c w len (.predr rd)) c rd (setFld (core u c).pred.toNat 0 1 1 % 2 ^ 32) ((core u c).gaf.pc + len) 1 := by
  have hpred : (core (curSet u c) c).pred = (core u c).pred := by rw [cur_core]
  simp only [gafDo, cur_pc, hpred]
  exact gafDone_put u c rd _ _ 1

theorem gafDo_frcadd (rs1 rs2 : Nat) :
    GafDone { u with fritDelta := tset 0 u.fritDelta (xreg u c rs1 % 4096) (tget 0 u.fritDelta (xreg u c rs1 % 4096) + sw (xreg u c rs2)) }
      (gafDo (curSet u c) c w len (.frcadd rs1 rs2)) c 0 0 ((core u c).gaf.pc + len) 2 := by
  simp only [gafDo, cur_x, cur_pc]
  exact gafDone_go { u with fritDelta := _ } c _ 2

theorem gafDo_frcld (rd rs1 : Nat) :
    GafDone u (gafDo (curSet u c) c w len (.frcld rd rs1)) c rd (seenRefs u (xreg u c rs1 % 4096)) ((core u c).gaf.pc + len) 12 := by
  simp only [gafDo, cur_x, cur_pc]
  exact gafDone_put_lt u c rd (BitVec.isLt _) _ 12

end

theorem acts_gafTrap (u : State) (c cause tval : Nat) : (gafTrap (curSet u c) c cause tval).acts = u.acts := by
  unfold gafTrap gafStop raiseGaf
  rw [modGaf_acts, bump_acts, raiseEng_acts]
  exact modGaf_acts ..

/-! ### Stream-table words (R32, R167) -/

theorem raiseStr_recorded (s : State) (c code st w d : Nat) : Recorded s (raiseStr s c code st w d) code 2 :=
  recorded_bump (raiseEng_recorded ..) _ _ _

@[simp] theorem core_raiseStr (s : State) (c code st w d x : Nat) : core (raiseStr s c code st w d) x = core s x := by
  unfold raiseStr raiseGaf
  rw [core_bump, core_raiseEng]

@[simp] theorem raiseStr_strmPend (s : State) (c code st w d : Nat) : (raiseStr s c code st w d).strmPend = s.strmPend := by
  unfold raiseStr raiseGaf
  rw [bump_strmPend, raiseEng_strmPend]

theorem setX_faults (s : State) (c rd : Nat) (v : W32) : (setX s c rd v).faults = s.faults := by
  unfold setX
  split <;> rfl

theorem gafStrld_home {s : State} {c a : Nat} (h : homed s c (fld a 0 13) = true) (rd word nxt : Nat) :
    gafStrld s c rd a word nxt = gafPut s c rd (seenStrm s (16 * fld a 0 13 + word)) nxt 12 :=
  if_pos h

theorem gafStrld_foreign {s : State} {c a : Nat} (h : homed s c (fld a 0 13) = false) (rd word nxt : Nat) :
    gafStrld s c rd a word nxt = gafPut (raiseStr s c 0x040D (fld a 0 13) word 0) c rd 0 nxt 12 :=
  if_neg (by simp [h])

theorem gafStrst_pends {s : State} {c a word : Nat} (hh : homed s c (fld a 0 13) = true) (hw : strWritable word = true) (v nxt : Nat) :
    gafStrst s c a v word nxt =
      gafNext { s with strmPend := tset none s.strmPend (16 * fld a 0 13 + word) (some (BitVec.ofNat 32 (strMask word v))) } c nxt 2 := by
  unfold gafStrst
  simp only
  rw [if_neg (by simp [hh]), if_neg (by simp [hw])]

theorem gafStrst_foreign {s : State} {c a : Nat} (hh : homed s c (fld a 0 13) = false) (v word nxt : Nat) :
    gafStrst s c a v word nxt = gafNext (raiseStr s c 0x040D (fld a 0 13) word 1) c nxt 2 := by
  unfold gafStrst
  simp only
  rw [if_pos (by simp [hh])]

theorem gafStrst_readOnly {s : State} {c a word : Nat} (hh : homed s c (fld a 0 13) = true) (hw : strWritable word = false) (v nxt : Nat) :
    gafStrst s c a v word nxt = gafNext (raiseStr s c 0x040F (fld a 0 13) word 0) c nxt 2 := by
  unfold gafStrst
  simp only
  rw [if_neg (by simp [hh]), if_pos (by simp [hw])]

section
variable (u : State) (c w len : Nat)

theorem gafDo_strld (rd rs1 word : Nat) : gafDo (curSet u c) c w len (.strld rd rs1 word) =
    gafStrld (curSet u c) c rd (xreg u c rs1) word ((core u c).gaf.pc + len) := by
  simp only [gafDo, cur_x, cur_pc]

theorem gafDo_strst (rs1 rs2 word : Nat) : gafDo (curSet u c) c w len (.strst rs1 rs2 word) =
    gafStrst (curSet u c) c (xreg u c rs1) (xreg u c rs2) word ((core u c).gaf.pc + len) := by
  simp only [gafDo, cur_x, cur_pc]

/-- A read of a stream of another core is recorded and returns 0. -/
theorem refusedRead_facts (code st word d rd nxt lat : Nat) :
    let t := gafPut (raiseStr (curSet u c) c code st word d) c rd 0 nxt lat
    Recorded u t code 2 ∧ ∀ r, xreg t c r = if r = rd then 0 else xreg u c r := by
  refine ⟨?_, fun r => ?_⟩
  · exact recorded_since rfl rfl rfl (recorded_of_faults (raiseStr_recorded (curSet u c) c code st word d) ((modGaf_faults ..).trans (setX_faults ..)))
  · rw [xreg_gafPut, xreg_congr (core_raiseStr ..), cur_x]
    by_cases hr : r = 0
    · subst hr; simp [xreg]
    · simp [hr]

/-- A refused write is recorded and leaves nothing pending. -/
theorem refusedWrite_facts (code st word d nxt lat : Nat) :
    let t := gafNext (raiseStr (curSet u c) c code st word d) c nxt lat
    Recorded u t code 2 ∧ t.strmPend = u.strmPend ∧ ∀ r, xreg t c r = xreg u c r := by
  refine ⟨?_, ?_, fun r => ?_⟩
  · exact recorded_since rfl rfl rfl (recorded_of_faults (raiseStr_recorded (curSet u c) c code st word d) (modGaf_faults ..))
  · exact (modGaf_strmPend ..).trans (raiseStr_strmPend ..)
  · rw [xreg_gafNext, xreg_congr (core_raiseStr ..), cur_x]

end

/-! ### WAITTK (R168, R186) -/

theorem mentry_setMentry (s : State) (c e k : Nat) (v : Option MEntry) : mentry (setMentry s c e v) c k = if k = e then v else mentry s c k := by
  unfold mentry setMentry
  rw [core_modCore_same]
  exact tget_tset ..

/-- An entry marked for its write-back. -/
def wbMarked (m : MEntry) : MEntry := { m with wb := true }

theorem mentry_markWb (s : State) (c e k : Nat) : mentry (markWb s c e) c k = if k = e then (mentry s c k).map wbMarked else mentry s c k := by
  unfold markWb
  split
  · next m hm =>
    rw [mentry_setMentry]
    split
    · next hk => rw [hk, hm]; rfl
    · rfl
  · next hm =>
    split
    · next hk => rw [hk, hm]; rfl
    · rfl

/-- One core differs, and its gaffer does not. -/
def GafKept (s t : State) (c : Nat) : Prop := CoreOnly s t c ∧ (core t c).gaf = (core s c).gaf

theorem gafKept_markWb {s t : State} {c : Nat} (H : GafKept s t c) (e : Nat) : GafKept s (markWb t c e) c := by
  obtain ⟨honly, hgaf⟩ := H
  unfold markWb
  split
  · refine ⟨coreOnly_modCore honly _, ?_⟩
    unfold setMentry
    rw [core_modCore_same]
    exact hgaf
  · exact ⟨honly, hgaf⟩

/-- The state after the write-back marks of a WAITTK (R186). -/
def wbAll (s : State) (c : Nat) : State := forN 4 s fun e s => markWb s c e

theorem gafKept_wbAll (s : State) (c : Nat) : GafKept s (wbAll s c) c :=
  forN_keeps (P := fun t => GafKept s t c) 4 ⟨⟨rfl, fun _ _ => rfl⟩, rfl⟩ fun e _ h => gafKept_markWb h e

theorem mentry_forN_markWb (s : State) (c n k : Nat) :
    mentry (forN n s fun e s => markWb s c e) c k = if k < n then (mentry s c k).map wbMarked else mentry s c k := by
  induction n with
  | zero => rfl
  | succ n ih =>
    rw [forN_succ, mentry_markWb, ih]
    by_cases hk : k = n
    · rw [if_pos hk, if_neg (by omega), if_pos (by omega)]
    · rw [if_neg hk]
      exact if_congr (by omega) rfl rfl

/-- The state in which a WAITTK judges its target: entries marked, and at the end of frame the busy time noted (R173). -/
def waitJudged (s : State) (c a : Nat) : State :=
  if a = 0x80000000 then modGaf (wbAll s c) c fun g => { g with busy := frameCyc (wbAll s c) } else wbAll s c

theorem waitJudged_only (s : State) (c a : Nat) : CoreOnly s (waitJudged s c a) c := by
  unfold waitJudged
  split
  · exact coreOnly_modCore (gafKept_wbAll s c).1 _
  · exact (gafKept_wbAll s c).1

theorem waitJudged_gaf (s : State) (c a : Nat) : ∃ b, (core (waitJudged s c a) c).gaf = { (core s c).gaf with busy := b } := by
  unfold waitJudged
  split
  · exact ⟨_, by rw [gaf_modGaf, (gafKept_wbAll s c).2]⟩
  · exact ⟨_, (gafKept_wbAll s c).2⟩

theorem mentry_modGaf (s : State) (c k : Nat) (f : Gaffer → Gaffer) : mentry (modGaf s c f) c k = mentry s c k := by
  unfold mentry modGaf
  rw [core_modCore_same]

theorem mentry_waitJudged (s : State) (c a : Nat) {k : Nat} (hk : k < 4) : mentry (waitJudged s c a) c k = (mentry s c k).map wbMarked := by
  have hmarks : mentry (wbAll s c) c k = (mentry s c k).map wbMarked := (mentry_forN_markWb s c 4 k).trans (if_pos hk)
  unfold waitJudged
  split
  · rw [mentry_modGaf, hmarks]
  · exact hmarks

/-- The tick that a WAITTK names. -/
def waitTarget (s : State) (a : Nat) : Nat := frameStartT s + fld a 0 23 + (if bitAt a 31 then frameLen s else 0)

theorem waitTarget_congr {s t : State} (h : t.regs = s.regs) (a : Nat) : waitTarget t a = waitTarget s a := by
  unfold waitTarget frameStartT launchT stepNo frameLen
  simp only [rf_congr h, rg_congr h]

/-- A gaffer that has begun to wait for a tick. -/
def waitsFor (target nxt : Nat) (g : Gaffer) : Gaffer := { g with pc := nxt % 2 ^ 32, waitTick := some target, minstret := g.minstret + 1 }

theorem gafWaittk_late {s : State} {c a : Nat} (h : waitTarget s a ≤ ttc s) (nxt : Nat) :
    gafWaittk s c a nxt =
      gafNext (bump (raiseGaf (waitJudged s c a) c 0x040C 2 [(4, 4, a), (8, 3, frameTick s)]) (gafA c 0x020) 32 16) c nxt 1 := by
  have hregs : (waitJudged s c a).regs = s.regs := by rw [(waitJudged_only s c a).1]
  refine if_pos (?_ : waitTarget (waitJudged s c a) a ≤ ttc (waitJudged s c a))
  unfold ttc
  rw [waitTarget_congr hregs, rg_congr hregs]
  exact h

theorem gafWaittk_waits {s : State} {c a : Nat} (h : ttc s < waitTarget s a) (nxt : Nat) :
    gafWaittk s c a nxt = modGaf (waitJudged s c a) c (waitsFor (waitTarget s a) nxt) := by
  have hregs : (waitJudged s c a).regs = s.regs := by rw [(waitJudged_only s c a).1]
  have htarget := waitTarget_congr hregs a
  rw [← htarget]
  refine if_neg (?_ : ¬ waitTarget (waitJudged s c a) a ≤ ttc (waitJudged s c a))
  unfold ttc at h ⊢
  rw [htarget, rg_congr hregs]
  omega

theorem gafDo_waittk (u : State) (c w len rs1 : Nat) : gafDo (curSet u c) c w len (.waittk rs1) =
    gafWaittk (curSet u c) c (xreg u c rs1) ((core u c).gaf.pc + len) := by
  simp only [gafDo, cur_x, cur_pc]

theorem gafDue_waitTick {u : State} {c : Nat} (h : gafDue u c = true) : (core u c).gaf.waitTick = none := by
  unfold gafDue at h
  simp only [Bool.and_eq_true, Option.isNone_iff_eq_none] at h
  exact h.1.1.2

/-! ### Control and status registers (R170) -/

/-- No CSR shows the address of the running instruction. -/
theorem csrGet_cur (u : State) (c n : Nat) : csrGet (curSet u c) c n = csrGet u c n := by
  unfold csrGet
  rw [cur_core]
  rfl

theorem csrLatch_other (s : State) (c : Nat) {n : Nat} (h1 : n ≠ 0xFC1) (h2 : n ≠ 0xFC3) : csrLatch s c n = s := by
  unfold csrLatch
  split
  · exact absurd rfl h1
  · exact absurd rfl h2
  · rfl

theorem showing_csrLatch (u : State) (c n : Nat) : Showing (csrLatch u c n) (csrLatch (curSet u c) c n) c := by
  by_cases h1 : n = 0xFC1
  · subst h1; exact showing_modGaf u c (f := fun g => { g with steph := BitVec.ofNat 32 (stepNo u / 2 ^ 32) }) fun _ => rfl
  · by_cases h2 : n = 0xFC3
    · subst h2; exact showing_modGaf u c (f := fun g => { g with ttch := BitVec.ofNat 32 (ttc u / 2 ^ 32) }) fun _ => rfl
    · rw [csrLatch_other u c h1 h2, csrLatch_other _ c h1 h2]; exact showing_cur u c

theorem gafCsr_absent {s : State} {c n : Nat} (h : csrGet s c n = none) (w f3 rd rs1 nxt : Nat) : gafCsr s c w f3 n rd rs1 nxt = gafTrap s c 2 w := by
  unfold gafCsr
  simp only
  rw [h]

theorem gafCsr_readOnly {n f3 rs1 : Nat} (hn : n ≠ 0x7C0) (hw : f3 % 4 = 1 ∨ rs1 ≠ 0) (s : State) (c w rd nxt : Nat) :
    gafCsr s c w f3 n rd rs1 nxt = gafTrap s c 2 w := by
  cases hget : csrGet s c n with
  | none => exact gafCsr_absent hget ..
  | some v =>
    unfold gafCsr
    simp only
    rw [hget]
    exact if_pos (by simpa [hn] using hw)

theorem gafCsr_reads {s : State} {c n v f3 : Nat} (hget : csrGet s c n = some v) (hf : f3 % 4 = 2 ∨ f3 % 4 = 3) (w rd nxt : Nat) :
    gafCsr s c w f3 n rd 0 nxt = gafPut (csrLatch s c n) c rd v nxt 2 := by
  have h1 : f3 % 4 ≠ 1 := by omega
  unfold gafCsr
  simp only
  rw [hget]
  simp [h1]

/-- A gaffer whose gscratch takes a value. -/
def scratched (v : Nat) (g : Gaffer) : Gaffer := { g with gscratch := BitVec.ofNat 32 v }

theorem gafCsr_scratch (s : State) (c w rd rs1 nxt : Nat) : gafCsr s c w 1 0x7C0 rd rs1 nxt =
    gafPut (modGaf s c (scratched (xreg s c rs1))) c rd (core s c).gaf.gscratch.toNat nxt 2 := by
  have hlatch : (if rd = 0 ∧ 1 % 4 = 1 then s else csrLatch s c 0x7C0) = s := ite_self s
  show gafPut (modGaf (if rd = 0 ∧ 1 % 4 = 1 then s else csrLatch s c 0x7C0) c (scratched (xreg s c rs1))) c rd _ nxt 2 = _
  rw [hlatch]

theorem gafCsr_scratch_done (u : State) (c w rd rs1 nxt : Nat) :
    GafDone (modGaf u c (scratched (xreg u c rs1))) (gafCsr (curSet u c) c w 1 0x7C0 rd rs1 nxt) c rd (core u c).gaf.gscratch.toNat nxt 2 := by
  have hput := showing_put (showing_modGaf u c (f := scratched (xreg u c rs1)) fun _ => rfl) rd (core u c).gaf.gscratch.toNat nxt 2
  have hcur : (core (curSet u c) c).gaf.gscratch = (core u c).gaf.gscratch := by rw [cur_core]
  rw [gafCsr_scratch, cur_x, hcur]
  rwa [Nat.mod_eq_of_lt (BitVec.isLt _)] at hput

theorem gafDo_csr (u : State) (c w len f3 n rd rs1 : Nat) : gafDo (curSet u c) c w len (.csr f3 n rd rs1) =
    gafCsr (curSet u c) c w f3 n rd rs1 ((core u c).gaf.pc + len) := by
  simp only [gafDo, cur_pc]

/-- What the waiting gaffer keeps and what its marver entries become. -/
theorem waitBegun_facts (u : State) (c a target nxt : Nat) :
    let t := modGaf (waitJudged (curSet u c) c a) c (waitsFor target nxt)
    t = { u with cores := t.cores } ∧ (core t c).gaf.waitTick = some target ∧ (core t c).gaf.pc = nxt % 2 ^ 32 ∧
      (core t c).gaf.minstret = (core u c).gaf.minstret + 1 ∧ (∀ r, xreg t c r = xreg u c r) ∧
      ∀ e, e < 4 → mentry t c e = (mentry u c e).map fun m => { m with wb := true } := by
  obtain ⟨busy, hgaf⟩ := waitJudged_gaf (curSet u c) c a
  have honly := coreOnly_modCore (waitJudged_only (curSet u c) c a) fun x => { x with gaf := waitsFor target nxt x.gaf }
  refine ⟨honly.1, ?_, ?_, ?_, fun r => ?_, fun e he => ?_⟩
  · rw [gaf_modGaf]; rfl
  · rw [gaf_modGaf]; rfl
  · rw [gaf_modGaf, hgaf, cur_core]; rfl
  · rw [xreg_modGaf _ _ _ _ rfl, ← cur_x u c r]
    unfold xreg
    rw [hgaf]
  · rw [mentry_modGaf, mentry_waitJudged _ _ _ he]
    exact congrArg (Option.map wbMarked) (mentry_modGaf u c e _)

/-- The gaffer's counters are not the cycle count. -/
theorem now_bump_gafA (s : State) (c ofs lo w : Nat) : now (bump s (gafA c ofs) lo w) = now s := by
  unfold now
  rw [rg_bump_ne _ (by unfold kelA gafA; omega), bump_phase]

/-- A late target is recorded, and the gaffer goes on in the next cycle (R168). -/
theorem waitLate_facts {u : State} {c : Nat} (hwait : (core u c).gaf.waitTick = none) (a nxt : Nat) (d : List (Nat × Nat × Nat)) :
    let t := gafNext (bump (raiseGaf (waitJudged (curSet u c) c a) c 0x040C 2 d) (gafA c 0x020) 32 16) c nxt 1
    Recorded u t 0x040C 2 ∧ (core t c).gaf.waitTick = none ∧ (core t c).gaf.pc = nxt % 2 ^ 32 ∧ (core t c).gaf.at_ = now u + 1 ∧
      ∀ r, xreg t c r = xreg u c r := by
  have honly := (waitJudged_only (curSet u c) c a).1
  obtain ⟨busy, hgaf⟩ := waitJudged_gaf (curSet u c) c a
  generalize waitJudged (curSet u c) c a = v at honly hgaf
  have hfaults : v.faults = u.faults := by rw [honly]; rfl
  have hregs : v.regs = u.regs := by rw [honly]; rfl
  have hphase : v.phase = u.phase := by rw [honly]; rfl
  have hcore : core (bump (raiseGaf v c 0x040C 2 d) (gafA c 0x020) 32 16) c = core v c := by
    unfold raiseGaf; rw [core_bump, core_raiseEng]
  have hnow : now (bump (raiseGaf v c 0x040C 2 d) (gafA c 0x020) 32 16) = now v := by
    rw [now_bump_gafA]
    exact now_congr (raiseEng_regs ..) (raiseEng_phase ..)
  refine ⟨?_, ?_, ?_, ?_, fun r => ?_⟩
  · exact recorded_since hfaults (rg_congr hregs _) (rf_congr hregs _ _ _)
      (recorded_of_faults (recorded_bump (raiseEng_recorded v c 9 0x040C 2 d) (gafA c 0x020) 32 16) (modGaf_faults ..))
  · unfold gafNext
    rw [gaf_modGaf, hcore, hgaf, cur_core]
    exact hwait
  · unfold gafNext
    rw [gaf_modGaf]
  · unfold gafNext
    rw [gaf_modGaf]
    exact congrArg (· + 1) (hnow.trans (now_congr hregs hphase))
  · rw [xreg_gafNext, xreg_congr hcore, ← cur_x u c r]
    unfold xreg
    rw [hgaf]

/-- Settles O37: each event runs its instruction by `gafEvent_named`; what the instruction leaves is the lemma of its kind. -/
theorem gafferPlanInstructions : Obligations.GafferPlanInstructions := by
  unfold Obligations.GafferPlanInstructions
  intro c p s hp u g X nxt
  refine ⟨fun rd rs1 rs2 H => ?segarm, fun rs1 rs2 H => ⟨_, gafEvent_named hp H, gafDo_predw u c.val _ _ rs1.val rs2.val⟩,
    fun rd H => ⟨_, gafEvent_named hp H, gafDo_predr u c.val _ _ rd.val⟩, fun rd rs1 word H => ?strld, fun rs1 rs2 word H => ?strst,
    fun rs1 rs2 H => ⟨_, gafEvent_named hp H, gafDo_frcadd u c.val _ _ rs1.val rs2.val⟩,
    fun rd rs1 H => ⟨_, gafEvent_named hp H, gafDo_frcld u c.val _ _ rd.val rs1.val⟩, fun rs1 H => ?waittk, ?complete,
    fun f3 n rd rs1 H => ?csr⟩
  case segarm =>
    have hx : exec (.segarm c p rd rs1 rs2) s = .next _ := gafEvent_named hp H
    rw [gafDo_segarm] at hx
    refine ⟨fun hk hix => ⟨_, hx, ?_⟩, fun h => ⟨_, hx, ?_⟩⟩
    · rw [gafSegarm_arms _ _ _ _ _ _ hk hix]
      exact gafDone_go (addAct u _) c.val nxt 2
    · rw [gafSegarm_traps _ _ _ _ _ _ h]
      obtain ⟨hrec, hgaf, -⟩ := trap_facts u c.val 2 (gafWord u c.val).1
      exact ⟨hrec, by rw [hgaf], acts_gafTrap u c.val 2 _⟩
  case strld =>
    intro st
    have hx : exec (.strld c p rd rs1 word) s = .next _ := gafEvent_named hp H
    rw [gafDo_strld] at hx
    refine ⟨fun hh => ⟨_, hx, ?_⟩, fun hh => ⟨_, hx, ?_⟩⟩
    · rw [gafStrld_home (s := curSet u c.val) hh]
      exact gafDone_put_lt u c.val rd.val (BitVec.isLt _) nxt 12
    · rw [gafStrld_foreign (s := curSet u c.val) hh]
      exact refusedRead_facts u c.val 0x040D st word.toNat 0 rd.val nxt 12
  case strst =>
    intro st
    have hx : exec (.strst c p rs1 rs2 word) s = .next _ := gafEvent_named hp H
    rw [gafDo_strst] at hx
    refine ⟨fun hh hw => ⟨_, hx, ?_⟩, fun hh => ⟨_, hx, ?_⟩, fun hh hw => ⟨_, hx, ?_⟩⟩
    · rw [gafStrst_pends (s := curSet u c.val) hh hw]
      exact gafDone_go { u with strmPend := _ } c.val nxt 2
    · rw [gafStrst_foreign (s := curSet u c.val) hh]
      exact refusedWrite_facts u c.val 0x040D st word.toNat 1 nxt 2
    · rw [gafStrst_readOnly (s := curSet u c.val) hh hw]
      exact refusedWrite_facts u c.val 0x040F st word.toNat 0 nxt 2
  case waittk =>
    intro target
    have hx : exec (.waittk c p rs1) s = .next _ := gafEvent_named hp H
    rw [gafDo_waittk] at hx
    refine ⟨fun hlate => ⟨_, hx, ?_⟩, fun hlater => ⟨_, hx, ?_⟩⟩
    · rw [gafWaittk_late (s := curSet u c.val) hlate]
      exact waitLate_facts (gafDue_waitTick H.due) _ nxt _
    · rw [gafWaittk_waits (s := curSet u c.val) hlater]
      exact waitBegun_facts u c.val _ target nxt
  case complete =>
    intro hphase hon hwait hrun
    exact congrArg Host.Outcome.next (if_pos (by simp [hphase, hon, hwait, hrun]))
  case csr =>
    have hx : exec (.csrAccess c p f3 n rd rs1) s = .next _ := gafEvent_named hp H
    rw [gafDo_csr] at hx
    refine ⟨fun v hget hf hrs => ⟨_, hx, ?_⟩, fun hn hf => ⟨_, hx, ?_⟩, fun h => ⟨_, hx, ?_⟩⟩
    · rw [hrs, gafCsr_reads ((csrGet_cur u c.val _).trans hget) hf]
      exact showing_put (showing_csrLatch u c.val n.toNat) rd.val v nxt 2
    · have hnum : n.toNat = 0x7C0 := by rw [hn]; rfl
      rw [hf, hnum]
      exact gafCsr_scratch_done u c.val _ rd.val rs1.val nxt
    · have htraps : ∀ w, gafCsr (curSet u c.val) c.val w f3.toNat n.toNat rd.val rs1.val nxt = gafTrap (curSet u c.val) c.val 2 w := fun w => by
        rcases h with hnone | ⟨hn, hw⟩
        · exact gafCsr_absent ((csrGet_cur u c.val _).trans hnone) ..
        · exact gafCsr_readOnly (fun he => hn (BitVec.eq_of_toNat_eq he)) hw ..
      rw [htraps]
      obtain ⟨hrec, hgaf, -⟩ := trap_facts u c.val 2 (gafWord u c.val).1
      exact ⟨hrec, by rw [hgaf], xreg_gafTrap u c.val 2 _⟩

end Sys2Proof.Machine
end

section
/-!
PROOFS. The statement of the Crucible's masked row write (chapter 7): the bytes of a row, what the turn of one of its eight words does, what the
turns of the first words have done, then the theorem that settles it.
-/
namespace Sys2Proof.Machine
open Sys2Proof

/-! ### The bytes of a row (R175) -/

theorem leBytes_getElem (n x i : Nat) (h : i < (leBytes n x).length) : (leBytes n x)[i] = BitVec.ofNat 8 (x / 256 ^ i) := by
  induction n generalizing x i with
  | zero => simp at h
  | succ n ih =>
    cases i with
    | zero => simp [leBytes]
    | succ i => simp [leBytes, ih, Nat.div_div_eq_div_mul, pow_succ']

@[simp] theorem rowBytes_length (v : Row) : (rowBytes v).length = 128 := leBytes_length ..

theorem rowBytes_getElem (v : Row) (b : Nat) (h : b < (rowBytes v).length) : (rowBytes v)[b] = BitVec.ofNat 8 (rowByte v b) := by
  have hpow : 256 ^ b = 2 ^ (8 * b) := by rw [pow_mul]; norm_num
  calc (rowBytes v)[b] = BitVec.ofNat 8 (v.toNat / 256 ^ b) := leBytes_getElem 128 v.toNat b h
    _ = BitVec.ofNat 8 (rowByte v b) := BitVec.eq_of_toNat_eq (by simp [rowByte, fld, hpow])

/-- The 16 bytes of word w of a row. -/
def rowWord (v : Row) (w : Nat) : List Byte := (rowBytes v).drop (16 * w) |>.take 16

theorem rowWord_length (v : Row) {w : Nat} (hw : w < 8) : (rowWord v w).length = 16 := by
  simp only [rowWord, List.length_take, List.length_drop, rowBytes_length]; omega

theorem rowWord_getElem (v : Row) (w j : Nat) (h : j < (rowWord v w).length) :
    (rowWord v w)[j] = BitVec.ofNat 8 (rowByte v (16 * w + j)) := by
  simp [rowWord, rowBytes_getElem]

/-! ### The turn of one word (R176, R194) -/

/-- The turn of word w in a masked row write. -/
def writeWord (c r : Nat) (v : Row) (mask w : Nat) (s : State) : State :=
  if bitAt mask w then
    { s with mem := writeBytes s.mem (rowAddr c r + 16 * w) (rowWord v w), ecc := tset 0 s.ecc (rowAddr c r / 16 + w) 0 }
  else s

theorem writeRow_eq_forN (s : State) (c r : Nat) (v : Row) (mask : Nat) : writeRow s c r v mask = forN 8 s (writeWord c r v mask) := rfl

/-- Nothing but memory and the check-bit marks differs. -/
def MemEccOnly (s t : State) : Prop := t = { s with mem := t.mem, ecc := t.ecc }

theorem MemEccOnly.trans {s t u : State} (hst : MemEccOnly s t) (htu : MemEccOnly t u) : MemEccOnly s u :=
  Eq.trans htu (congrArg (fun x : State => { x with mem := u.mem, ecc := u.ecc }) hst)

section
variable (c r : Nat) (v : Row) (mask : Nat) (s : State)

theorem writeWord_selected {w : Nat} (h : bitAt mask w = true) : writeWord c r v mask w s =
    { s with mem := writeBytes s.mem (rowAddr c r + 16 * w) (rowWord v w), ecc := tset 0 s.ecc (rowAddr c r / 16 + w) 0 } := if_pos h

theorem writeWord_masked {w : Nat} (h : bitAt mask w = false) : writeWord c r v mask w s = s := if_neg (by simp [h])

/-- The turn of a selected word writes its 16 bytes and no other byte. -/
theorem readByte_writeWord {w : Nat} (hw : w < 8) (x : Nat) : readByte (writeWord c r v mask w s).mem x =
    if rowAddr c r ≤ x ∧ (x - rowAddr c r) / 16 = w ∧ bitAt mask w = true then BitVec.ofNat 8 (rowByte v (x - rowAddr c r)) else readByte s.mem x := by
  have hlen := rowWord_length v hw
  cases hsel : bitAt mask w with
  | false => simp [writeWord_masked c r v mask s hsel]
  | true =>
    rw [writeWord_selected c r v mask s hsel]
    by_cases hx : rowAddr c r ≤ x ∧ (x - rowAddr c r) / 16 = w
    · obtain ⟨j, hj, rfl⟩ : ∃ j, j < 16 ∧ x = rowAddr c r + 16 * w + j := ⟨x - (rowAddr c r + 16 * w), by omega, by omega⟩
      rw [if_pos ⟨hx.1, hx.2, rfl⟩, readByte_writeBytes_in _ _ _ _ (by omega), rowWord_getElem]
      congr 2; omega
    · rw [if_neg (fun h => hx ⟨h.1, h.2.1⟩), readByte_writeBytes_out _ _ _ _ (by omega)]

/-- The turn of a selected word clears the mark of its check bits and leaves every other mark. -/
theorem tget_ecc_writeWord (w k : Nat) : tget 0 (writeWord c r v mask w s).ecc k =
    if k = rowAddr c r / 16 + w ∧ bitAt mask w = true then 0 else tget 0 s.ecc k := by
  cases hsel : bitAt mask w with
  | false => simp [writeWord_masked c r v mask s hsel]
  | true => rw [writeWord_selected c r v mask s hsel]; simp [tget_tset]

theorem memEccOnly_writeWord (w : Nat) : MemEccOnly s (writeWord c r v mask w s) := by
  cases hsel : bitAt mask w with
  | false => rw [writeWord_masked c r v mask s hsel]; rfl
  | true => rw [writeWord_selected c r v mask s hsel]; rfl

theorem memOk_writeWord (w : Nat) (h : MemOk s) : MemOk (writeWord c r v mask w s) := by
  cases hsel : bitAt mask w with
  | false => rwa [writeWord_masked c r v mask s hsel]
  | true => rw [writeWord_selected c r v mask s hsel]; exact memWf_writeBytes _ _ _ h

/-! ### The turns of the first n words, and the whole row -/

theorem readByte_forN_writeWord {n : Nat} (hn : n ≤ 8) (x : Nat) : readByte (forN n s (writeWord c r v mask)).mem x =
    if rowAddr c r ≤ x ∧ (x - rowAddr c r) / 16 < n ∧ bitAt mask ((x - rowAddr c r) / 16) = true then BitVec.ofNat 8 (rowByte v (x - rowAddr c r))
    else readByte s.mem x := by
  induction n with
  | zero => simp [forN_zero]
  | succ n ih =>
    rw [forN_succ, readByte_writeWord c r v mask _ (by omega), ih (by omega)]
    by_cases hx : (x - rowAddr c r) / 16 = n
    · simp [hx]
    · have hlt : (x - rowAddr c r) / 16 < n + 1 ↔ (x - rowAddr c r) / 16 < n := by omega
      simp [hx, hlt]

theorem tget_ecc_forN_writeWord (n w : Nat) : tget 0 (forN n s (writeWord c r v mask)).ecc (rowAddr c r / 16 + w) =
    if w < n ∧ bitAt mask w = true then 0 else tget 0 s.ecc (rowAddr c r / 16 + w) := by
  induction n with
  | zero => simp [forN_zero]
  | succ n ih =>
    rw [forN_succ, tget_ecc_writeWord, ih]
    by_cases hw : w = n
    · simp [hw]
    · have hlt : w < n + 1 ↔ w < n := by omega
      simp [hw, hlt]

/-- A byte of a row in memory after a masked write of that row. -/
theorem readByte_writeRow_in {b : Nat} (hb : b < 128) : readByte (writeRow s c r v mask).mem (rowAddr c r + b) =
    if bitAt mask (b / 16) = true then BitVec.ofNat 8 (rowByte v b) else readByte s.mem (rowAddr c r + b) := by
  have hword : b / 16 < 8 := by omega
  rw [writeRow_eq_forN, readByte_forN_writeWord c r v mask s le_rfl]
  simp [hword]

theorem readByte_writeRow_out {x : Nat} (hx : x < rowAddr c r ∨ rowAddr c r + 128 ≤ x) :
    readByte (writeRow s c r v mask).mem x = readByte s.mem x := by
  rw [writeRow_eq_forN, readByte_forN_writeWord c r v mask s le_rfl, if_neg (by omega)]

theorem tget_ecc_writeRow {w : Nat} (hw : w < 8) : tget 0 (writeRow s c r v mask).ecc (rowAddr c r / 16 + w) =
    if bitAt mask w = true then 0 else tget 0 s.ecc (rowAddr c r / 16 + w) := by
  rw [writeRow_eq_forN, tget_ecc_forN_writeWord]
  simp [hw]

theorem memEccOnly_writeRow : MemEccOnly s (writeRow s c r v mask) :=
  forN_keeps (P := MemEccOnly s) 8 rfl fun w u hu => hu.trans (memEccOnly_writeWord c r v mask u w)

theorem memOk_writeRow (h : MemOk s) : MemOk (writeRow s c r v mask) :=
  forN_keeps 8 h fun w u => memOk_writeWord c r v mask u w
end

/-- Settles O5: bytes and check-bit marks by induction over the words already taken, frame and canonical form because each turn keeps them. -/
theorem rowWriteIsMasked : Obligations.RowWriteIsMasked := by
  intro s c r v mask
  exact ⟨fun b hb => readByte_writeRow_in c r v mask s hb, fun x hx => readByte_writeRow_out c r v mask s hx,
    fun w hw => tget_ecc_writeRow c r v mask s hw, memEccOnly_writeRow c r v mask s, memOk_writeRow c r v mask s⟩

end Sys2Proof.Machine
end

section
/-!
PROOFS. The statements of the stacks' own events (chapter 8): refreshes, deferred refreshes, activation windows, patrol reads and the
stack temperature; for each event first the state it leaves, then the theorem that settles its statement.
-/
namespace Sys2Proof.Machine
open Sys2Proof

/-! ### Refreshes, planned and deferred (R219, R220) -/

theorem dbank_refreshNow (s : State) (k ch b n : Nat) : dbank (refreshNow s k ch b) n =
    if n = (k * 64 + ch) * 16 + b then { dbank s n with openRow := none, refUntil := now s + 160 } else dbank s n := by
  unfold refreshNow
  rw [dbank_modBank]
  split
  · next h => rw [h]
  · rfl

/-- A refresh that falls due inside a gather window: the bank is marked for the tick and queued at its channel (R220). -/
def refreshDeferred (s : State) (k ch b : Nat) : State :=
  modChan (modBank s ((k * 64 + ch) * 16 + b) fun x => { x with defAt := now s + 1 }) (k * 64 + ch) fun c => { c with deferred := c.deferred ++ [b] }

theorem dbank_refreshDeferred (s : State) (k ch b n : Nat) : dbank (refreshDeferred s k ch b) n =
    if n = (k * 64 + ch) * 16 + b then { dbank s n with defAt := now s + 1 } else dbank s n := by
  unfold refreshDeferred
  rw [dbank_modChan, dbank_modBank]
  split
  · next h => rw [h]
  · rfl

theorem chan_refreshDeferred (s : State) (k ch b n : Nat) : chan (refreshDeferred s k ch b) n =
    if n = k * 64 + ch then { chan s n with deferred := (chan s n).deferred ++ [b] } else chan s n := by
  unfold refreshDeferred
  rw [chan_modChan]
  split
  · next h => rw [h, chan_modBank]
  · rfl

/-- In a planned tick of the bank (R219): deferred inside a gather window, once in the tick, and started outside it. -/
theorem refreshStart_planned {k : Fin 12} {ch : Fin 64} {b : Fin 16} {s : State} (hl : launched s = true) (hp : s.phase = 0)
    (ho : refreshOfs s k.val ch.val b.val ≤ frameTick s)
    (hm : (frameTick s - refreshOfs s k.val ch.val b.val) % max 1 (rf s (drmA k.val 0x018) 0 10) = 0) :
    exec (.refreshStart k ch b) s = .next (if (gatherWin s k.val (frameTick s)).isSome then
      (if (dbank s ((k.val * 64 + ch.val) * 16 + b.val)).defAt = now s + 1 then s else refreshDeferred s k.val ch.val b.val)
      else refreshNow s k.val ch.val b.val) := by
  show execRefreshStart k ch b s = _
  unfold execRefreshStart
  simp only
  rw [if_pos (by simp [hl, hp, ho, hm])]
  rfl

/-- The first deferred refresh leaves its channel's queue, and its tick is noted there (R220). -/
def deferredTaken (s : State) (i : Nat) (l : List Nat) : State := modChan s i fun c => { c with deferred := l, lastDef := now s + 1 }

theorem chan_deferredTaken (s : State) (i : Nat) (l : List Nat) (n : Nat) : chan (deferredTaken s i l) n =
    if n = i then { chan s n with deferred := l, lastDef := now s + 1 } else chan s n := by
  unfold deferredTaken
  rw [chan_modChan]
  split
  · next h => rw [h]
  · rfl

theorem deferredRefresh_starts {k : Fin 12} {ch : Fin 64} {s : State} {b : Nat} {l : List Nat}
    (hd : (chan s (k.val * 64 + ch.val)).deferred = b :: l) (hp : s.phase = 0) (hw : gatherWin s k.val (frameTick s) = none)
    (hl : (chan s (k.val * 64 + ch.val)).lastDef ≠ now s + 1) :
    exec (.deferredRefresh k ch) s = .next (refreshNow (deferredTaken s (k.val * 64 + ch.val) l) k.val ch.val b) := by
  show execDeferredRefresh k ch s = _
  unfold execDeferredRefresh
  simp only [hd]
  rw [if_pos (by simp [hp, hw, hl])]
  rfl

/-! ### Activation windows (R222) -/

/-- A key that a table does not list reads as the default. -/
theorem tget_of_not_mem {α : Type} (d : α) (t : Tbl α) {a : Nat} (h : a ∉ t.map Prod.fst) : tget d t a = d := by
  induction t with
  | nil => rfl
  | cons e t ih =>
    simp only [List.map_cons, List.mem_cons, not_or] at h
    obtain ⟨hne, hrest⟩ := h
    rw [tget, if_neg (Ne.symm hne)]
    exact ih hrest

/-- The turn of one bank at an activation window's start: a bank of the stack counts from 0, and its channel keeps its highest
count. -/
def windowTurn (k : Nat) (s : State) (e : Nat × DBank) : State :=
  if e.1 / 1024 = k then
    modBank (modChan s (e.1 / 16) fun c => { c with actPeak := max c.actPeak (dbank s e.1).acts }) e.1 fun b => { b with acts := 0 }
  else s

/-- Nothing of a channel but its highest count differs, and that only grows. -/
def PeaksGrow (s t : State) : Prop :=
  ∀ n, (chan s n).actPeak ≤ (chan t n).actPeak ∧ chan t n = { chan s n with actPeak := (chan t n).actPeak }

theorem PeaksGrow.refl (s : State) : PeaksGrow s s := fun _ => ⟨le_rfl, rfl⟩

theorem PeaksGrow.trans {s t u : State} (h : PeaksGrow s t) (g : PeaksGrow t u) : PeaksGrow s u := fun n =>
  have ⟨hle, heq⟩ := h n
  have ⟨gle, geq⟩ := g n
  ⟨hle.trans gle, by rw [geq, heq]⟩

theorem windowTurn_only (k : Nat) (s : State) (e : Nat × DBank) :
    windowTurn k s e = { s with dbanks := (windowTurn k s e).dbanks, chans := (windowTurn k s e).chans } := by
  unfold windowTurn
  split <;> rfl

theorem dbank_windowTurn (k : Nat) (s : State) (e : Nat × DBank) (n : Nat) : dbank (windowTurn k s e) n =
    if n / 1024 = k ∧ n = e.1 then { dbank s n with acts := 0 } else dbank s n := by
  unfold windowTurn
  by_cases hk : e.1 / 1024 = k
  · rw [if_pos hk, dbank_modBank, dbank_modChan, dbank_modChan]
    by_cases hn : n = e.1
    · rw [if_pos hn, if_pos ⟨hn ▸ hk, hn⟩, hn]
    · rw [if_neg hn, if_neg fun h => hn h.2]
  · rw [if_neg hk, if_neg fun ⟨h, hn⟩ => hk (hn ▸ h)]

theorem peaksGrow_windowTurn (k : Nat) (s : State) (e : Nat × DBank) : PeaksGrow s (windowTurn k s e) := by
  intro n
  unfold windowTurn
  split
  · rw [chan_modBank, chan_modChan]
    split
    · next h => rw [h]; exact ⟨le_max_left .., rfl⟩
    · exact ⟨le_rfl, rfl⟩
  · exact ⟨le_rfl, rfl⟩

theorem acts_le_windowTurn {k : Nat} (s : State) {e : Nat × DBank} (hk : e.1 / 1024 = k) :
    (dbank s e.1).acts ≤ (chan (windowTurn k s e) (e.1 / 16)).actPeak := by
  unfold windowTurn
  rw [if_pos hk, chan_modBank, chan_modChan, if_pos rfl]
  exact le_max_right ..

/-- What the turns of some banks have done. -/
structure WindowTurned (k : Nat) (keys : List Nat) (s t : State) : Prop where
  only : t = { s with dbanks := t.dbanks, chans := t.chans }
  banks : ∀ n, dbank t n = if n / 1024 = k ∧ n ∈ keys then { dbank s n with acts := 0 } else dbank s n
  kept : ∀ n ∈ keys, n / 1024 = k → (dbank s n).acts ≤ (chan t (n / 16)).actPeak
  peaks : PeaksGrow s t

theorem windowTurned_foldl (k : Nat) (l : List (Nat × DBank)) (s : State) : WindowTurned k (l.map Prod.fst) s (l.foldl (windowTurn k) s) := by
  induction l generalizing s with
  | nil => exact ⟨rfl, fun _ => by simp, fun _ h => absurd h List.not_mem_nil, PeaksGrow.refl s⟩
  | cons e l ih =>
    obtain ⟨honly, hbanks, hkept, hpeaks⟩ := ih (windowTurn k s e)
    rw [List.foldl_cons, List.map_cons]
    generalize l.foldl (windowTurn k) (windowTurn k s e) = t at honly hbanks hkept hpeaks
    refine ⟨?only, fun n => ?banks, fun n hn hk => ?kept, (peaksGrow_windowTurn k s e).trans hpeaks⟩
    case only => rw [honly, windowTurn_only k s e]
    case banks =>
      rw [hbanks, dbank_windowTurn]
      by_cases he : n = e.1
      · subst he
        by_cases hk : e.1 / 1024 = k
        · simp only [hk, true_and, if_true, ite_self, List.mem_cons, true_or]
        · simp only [hk, false_and, if_false]
      · simp only [he, and_false, if_false, List.mem_cons, false_or]
    case kept =>
      by_cases he : n = e.1
      · subst he
        exact (acts_le_windowTurn s hk).trans (hpeaks _).1
      · have hsame : dbank (windowTurn k s e) n = dbank s n := by rw [dbank_windowTurn, if_neg fun h => he h.2]
        rw [← hsame]
        exact hkept n ((List.mem_cons.mp hn).resolve_left he) hk

/-- A bank without an entry in the table has activated no row. -/
theorem dbank_unlisted {s : State} {n : Nat} (h : n ∉ s.dbanks.map Prod.fst) : dbank s n = {} := tget_of_not_mem _ _ h

theorem activationWindowStart_turns {k : Fin 12} {s : State} (hl : launched s = true) (hp : s.phase = 0)
    (hm : (ttc s - launchT s) % max 1 (rf s (drmA k.val 0x020) 0 16) = 0) :
    exec (.activationWindowStart k) s = .next (s.dbanks.foldl (windowTurn k.val) s) := by
  show execActivationWindowStart k s = _
  unfold execActivationWindowStart
  rw [if_pos (by simp [hl, hp, hm])]
  rfl

/-! ### Patrol reads (R225) -/

/-- The patrol of a channel moves to the next entry, and at its end counts a pass. -/
def patrolNext (c : Chan) : Chan :=
  { c with patPos := (c.patPos + 1) % 2 ^ 22, patPass := if c.patPos + 1 = 2 ^ 22 then min (2 ^ 32 - 1) (c.patPass + 1) else c.patPass }

/-- The entry of a bank in refresh is skipped and kept for later. -/
def patrolSkipped (s : State) (i : Nat) : State := modChan s i fun c => patrolNext { c with patSkip := c.patSkip ++ [c.patPos] }

/-- The entry counts as read. -/
def patrolCounted (s : State) (i : Nat) : State := modChan s i fun c => patrolNext { c with patDone := c.patDone + 1 }

theorem chan_patrolSkipped (s : State) (i n : Nat) : chan (patrolSkipped s i) n =
    if n = i then patrolNext { chan s i with patSkip := (chan s i).patSkip ++ [(chan s i).patPos] } else chan s n := chan_modChan ..

theorem chan_patrolCounted (s : State) (i n : Nat) : chan (patrolCounted s i) n =
    if n = i then patrolNext { chan s i with patDone := (chan s i).patDone + 1 } else chan s n := chan_modChan ..

/-- A patrol read within its share of the frame (R39, R315): the next entry of the channel, unless its bank is in refresh. -/
theorem patrolRead_next {k : Fin 12} {ch : Fin 64} {p : Fin 8} {s : State} (hp : p.val = s.phase) (hplan : planOn s = true)
    (hfit : patrolFits s k.val = true) (hswap : scheduled s = none) (hgood : chanFailed s (k.val * 2 ^ 28 + ch.val) = false)
    (hshare : (chan s (k.val * 64 + ch.val)).patDone + (chan s (k.val * 64 + ch.val)).patSkip.length < rf s (drmA k.val 0x028) 0 20) :
    exec (.patrolRead k ch p) s = .next (
      if now s < (dbank s ((k.val * 64 + ch.val) * 16 + patrolBank (chan s (k.val * 64 + ch.val)).patPos)).refUntil then
        patrolSkipped s (k.val * 64 + ch.val)
      else patrolGo (patrolCounted s (k.val * 64 + ch.val)) (.patrolRead k ch p) k.val ch.val (chan s (k.val * 64 + ch.val)).patPos) := by
  show execPatrolRead k ch p s = _
  unfold execPatrolRead
  rw [whenAt_now s _ hp]
  simp only
  rw [if_neg (by simp [hplan, hfit, hswap]), if_pos hshare, if_neg (Bool.eq_false_iff.mp hgood)]
  simp only [decide_eq_true_eq]
  rfl

/-- Settles O28: each event's state is an operation above, and what it leaves is read off bank by bank and channel by channel; the
activation window is an induction over the banks that the table lists. -/
theorem refreshActivationAndPatrol : Obligations.RefreshActivationAndPatrol := by
  refine ⟨?planned, ?deferred, ?window, ?patrol⟩
  case planned =>
    intro k ch b s hl hp ho hm i
    refine ⟨_, refreshStart_planned hl hp ho hm, fun hw => ?_, fun hw hd => ?_⟩
    · rw [hw]
      exact ⟨rfl, dbank_refreshNow s k.val ch.val b.val⟩
    · rw [if_pos (Option.isSome_iff_ne_none.mpr hw), if_neg hd]
      exact ⟨rfl, chan_refreshDeferred s k.val ch.val b.val, dbank_refreshDeferred s k.val ch.val b.val⟩
  case deferred =>
    intro k ch s b l i hd hp hw hl
    exact ⟨_, deferredRefresh_starts hd hp hw hl, rfl, dbank_refreshNow (deferredTaken s i l) k.val ch.val b, chan_deferredTaken s i l⟩
  case window =>
    intro k s hl hp hm
    obtain ⟨honly, hbanks, hkept, hpeaks⟩ := windowTurned_foldl k.val s.dbanks s
    refine ⟨_, activationWindowStart_turns hl hp hm, honly, fun n => ?_, fun n hk => ?_, hpeaks⟩
    · rw [hbanks]
      by_cases hn : n ∈ s.dbanks.map Prod.fst
      · simp only [hn, and_true]
      · simp only [hn, and_false, dbank_unlisted hn, ite_self]
    · by_cases hn : n ∈ s.dbanks.map Prod.fst
      · exact hkept n hn hk
      · rw [dbank_unlisted hn]
        exact Nat.zero_le _
  case patrol =>
    intro k ch p s hp hplan hfit hswap hgood i c hshare
    refine ⟨_, patrolRead_next hp hplan hfit hswap hgood hshare, ?_⟩
    by_cases hb : now s < (dbank s (i * 16 + patrolBank c.patPos)).refUntil
    · rw [if_pos hb, if_pos hb]
      have hi : chan (patrolSkipped s i) i = _ := (chan_patrolSkipped s i i).trans (if_pos rfl)
      exact ⟨fun n hn => (chan_patrolSkipped s i n).trans (if_neg hn), congrArg Chan.patPos hi, rfl, congrArg Chan.patSkip hi, (congrArg Chan.patDone hi).trans rfl⟩
    · rw [if_neg hb, if_neg hb]
      have hi : chan (patrolCounted s i) i = _ := (chan_patrolCounted s i i).trans (if_pos rfl)
      exact ⟨fun n hn => (chan_patrolCounted s i n).trans (if_neg hn), congrArg Chan.patPos hi, rfl, (congrArg Chan.patDone hi).trans rfl,
        job_startJob (patrolCounted s i) _ _, rfl⟩

/-! ### Stack temperatures (R221, R474) -/

theorem ttA_ne_drmA (n k m : Nat) (h : n < 0x1000) : ttA n ≠ drmA k m := by unfold ttA drmA; omega

/-- DRM_TEMP as a reading of n against a limit leaves it: CELSIUS, MAX, and the two flags. -/
def stackShown (s : State) (a limit n : Nat) : State :=
  setRf (setRf (setRf (setRf s a 56 8 n) a 48 8 (max n (rf s a 48 8))) a 1 1 (b2n (decide (limit ≤ n)))) a 0 1 (b2n (decide (limit ≤ n + 2)))

/-- Registers alone differ. -/
theorem stackShown_ex (s : State) (a limit n : Nat) : ∃ r, stackShown s a limit n = { s with regs := r } :=
  ⟨_, setRf_only (setRf_only (setRf_only (setRf_only (regs_self rfl) _ _ _ _) _ _ _ _) _ _ _ _) _ _ _ _⟩

theorem rg_stackShown_ne (s : State) {a b : Nat} (limit n : Nat) (h : b ≠ a) : rg (stackShown s a limit n) b = rg s b := by
  unfold stackShown
  rw [rg_setRf_ne _ h, rg_setRf_ne _ h, rg_setRf_ne _ h, rg_setRf_ne _ h]

theorem stackShown_celsius (s : State) (a limit : Nat) {n : Nat} (hn : n < 256) : rf (stackShown s a limit n) a 56 8 = n := by
  unfold stackShown
  rw [rf_setRf_above _ _ _ (by omega) (by omega), rf_setRf_above _ _ _ (by omega) (by omega), rf_setRf_above _ _ _ (by omega) (by omega),
    rf_setRf_same _ _ _ (by omega), Nat.mod_eq_of_lt (by omega)]

theorem stackShown_max (s : State) (a limit : Nat) {n : Nat} (hn : n < 256) : rf (stackShown s a limit n) a 48 8 = max n (rf s a 48 8) := by
  have hold : rf s a 48 8 < 2 ^ 8 := rf_lt s a 48 8
  unfold stackShown
  rw [rf_setRf_above _ _ _ (by omega) (by omega), rf_setRf_above _ _ _ (by omega) (by omega), rf_setRf_same _ _ _ (by omega),
    Nat.mod_eq_of_lt (by omega)]

theorem b2n_mod_two (b : Bool) : b2n b % 2 = b2n b := by cases b <;> rfl

theorem stackShown_hot (s : State) (a limit n : Nat) : rf (stackShown s a limit n) a 1 1 = b2n (decide (limit ≤ n)) := by
  unfold stackShown
  rw [rf_setRf_above _ _ _ (by omega) (by omega), rf_setRf_same _ _ _ (by omega)]
  exact b2n_mod_two _

theorem stackShown_warn (s : State) (a limit n : Nat) : rf (stackShown s a limit n) a 0 1 = b2n (decide (limit ≤ n + 2)) := by
  unfold stackShown
  rw [rf_setRf_same _ _ _ (by omega)]
  exact b2n_mod_two _

/-- A reading leaves the time of the device. -/
theorem time_stackShown (s : State) (k m limit n : Nat) :
    ttc (stackShown s (drmA k m) limit n) = ttc s ∧ stepNo (stackShown s (drmA k m) limit n) = stepNo s :=
  time_congr (fun _ hb => rg_stackShown_ne s limit n hb) (ttA_ne_drmA 0x000 k m (by omega)) (ttA_ne_drmA 0x008 k m (by omega))

/-- Within two degrees of the limit: 0x060C, and the stack is noted as warm (R221). -/
def stackWarned (u : State) (k n g : Nat) : State :=
  { raise u 0x060C 1 0x00 0 0xFFFF (det [(0, 1, k), (1, 1, n), (2, 1, g)]) with thermal := (u.thermal ++ [k]).eraseDups }

/-- At or above the limit: 0x060D (R221). -/
def stackHot (u : State) (k n g : Nat) : State := raise u 0x060D 3 0x00 0 0xFFFF (det [(0, 1, k), (1, 1, n), (2, 1, g)])

/-- What follows a reading that is shown: the warning, then the limit. -/
def stackJudged (u : State) (k n g limit : Nat) : State :=
  let v := if limit ≤ n + 2 then stackWarned u k n g else u
  if limit ≤ n then stackHot v k n g else v

/-- The limit of a stack's refresh class, in degrees. -/
def stackLimit (s : State) (k : Nat) : Nat := if rf s (drmA k 0x000) 1 2 = 2 then 95 else 85

theorem stackLimit_le (s : State) (k : Nat) : stackLimit s k ≤ 95 := by
  unfold stackLimit
  split <;> omega

/-- What follows the records: a trip at 105 degrees and above (R474). -/
def stackTripped (v : State) (k n : Nat) : State := if 105 ≤ n then thermalTrip v 0x00 0 (32 + k) n else v

theorem stackTemperatureReading_eq (k : Fin 12) (x : BitVec 8) (s : State) : exec (.stackTemperatureReading k x) s = .next (
    stackTripped (stackJudged (stackShown s (drmA k.val 0x008) (stackLimit s k.val) x.toNat) k.val x.toNat
      (rf s (drmA k.val 0x000) 1 2) (stackLimit s k.val)) k.val x.toNat) := rfl

theorem stackJudged_cool {u : State} {k n g limit : Nat} (h : n + 2 < limit) : stackJudged u k n g limit = u := by
  unfold stackJudged
  simp only
  rw [if_neg (by omega), if_neg (by omega)]

theorem stackJudged_warm {u : State} {k n g limit : Nat} (h : limit ≤ n + 2) (h2 : n < limit) : stackJudged u k n g limit = stackWarned u k n g := by
  unfold stackJudged
  simp only
  rw [if_neg (by omega), if_pos h]

theorem stackJudged_hot {u : State} {k n g limit : Nat} (h : limit ≤ n) : stackJudged u k n g limit = stackHot (stackWarned u k n g) k n g := by
  unfold stackJudged
  simp only
  rw [if_pos h, if_pos (by omega)]

/-- Neither record touches memory, cores, waiting commands, registers or the pin. -/
theorem stackJudged_kept (u : State) (k n g limit : Nat) : (stackJudged u k n g limit).mem = u.mem ∧ (stackJudged u k n g limit).cores = u.cores ∧
    (stackJudged u k n g limit).pending = u.pending ∧ (stackJudged u k n g limit).regs = u.regs ∧
    (stackJudged u k n g limit).thermtrip = u.thermtrip := by
  unfold stackJudged
  simp only
  split <;> split <;> exact ⟨rfl, rfl, rfl, rfl, rfl⟩

theorem stackWarned_recorded (u : State) (k n g : Nat) : Recorded u (stackWarned u k n g) 0x060C 1 :=
  recorded_of_faults (raise_recorded ..) rfl

theorem stackWarned_mild (u : State) (k n g : Nat) : (stackWarned u k n g).vote = u.vote ∧ (stackWarned u k n g).halted = u.halted :=
  ⟨voteFault_mild (show 1 < 2 by omega) u.vote, Bool.or_false _⟩

/-- At or above the limit: the two records, in this order, and an evacuation. -/
theorem stackHot_stackWarned (u : State) (k n g : Nat) : (∃ f f', (stackHot (stackWarned u k n g) k n g).faults = u.faults ++ [f, f'] ∧
    f.code = 0x060C ∧ f.sev = 1 ∧ f'.code = 0x060D ∧ f'.sev = 3 ∧ f'.ttc = ttc u) ∧ (stackHot (stackWarned u k n g) k n g).evacuate = true :=
  ⟨⟨_, _, List.append_assoc u.faults _ _, rfl, rfl, rfl, rfl, rfl⟩, Bool.or_true _⟩

/-- A trip lowers the pin; of the rest only the run, the evacuation, the vote and the record for the next start can differ, and neither
the halt nor the evacuation is taken back (R474). -/
theorem thermalTrip_ex (s : State) (cls ix sensor celsius : Nat) : ∃ h e v x,
    thermalTrip s cls ix sensor celsius = { s with thermtrip := true, halted := h, evacuate := e, vote := v, flash := x } ∧
      (s.evacuate = true → e = true) ∧ (s.thermtrip = false → h = true) := by
  unfold thermalTrip
  cases ht : s.thermtrip with
  | true => exact ⟨s.halted, s.evacuate, s.vote, s.flash, by rw [if_pos rfl, ← ht], id, nofun⟩
  | false => exact ⟨_, _, _, _, rfl, fun _ => rfl, fun _ => rfl⟩

theorem stackTripped_below {v : State} {k n : Nat} (h : n < 105) : stackTripped v k n = v := if_neg (by omega)

/-- A trip adds no record to the list, and keeps memory, cores, waiting commands, registers and a set evacuation. -/
theorem stackTripped_kept (v : State) (k n : Nat) : (stackTripped v k n).mem = v.mem ∧ (stackTripped v k n).cores = v.cores ∧
    (stackTripped v k n).pending = v.pending ∧ (stackTripped v k n).regs = v.regs ∧ (stackTripped v k n).faults = v.faults ∧
    (v.evacuate = true → (stackTripped v k n).evacuate = true) := by
  unfold stackTripped
  split
  · obtain ⟨h, e, w, x, heq, hevac, -⟩ := thermalTrip_ex v 0x00 0 (32 + k) n
    rw [heq]
    exact ⟨rfl, rfl, rfl, rfl, rfl, hevac⟩
  · exact ⟨rfl, rfl, rfl, rfl, rfl, id⟩

theorem stackTripped_trips (v : State) (k : Nat) {n : Nat} (hn : 105 ≤ n) :
    (stackTripped v k n).thermtrip = true ∧ (v.thermtrip = false → (stackTripped v k n).halted = true) := by
  unfold stackTripped
  rw [if_pos hn]
  obtain ⟨h, e, w, x, heq, -, hhalt⟩ := thermalTrip_ex v 0x00 0 (32 + k) n
  rw [heq]
  exact ⟨rfl, hhalt⟩

/-- Settles O29: the register is `stackShown`, the records are the three cases of `stackJudged`, and at 105 degrees and above
`stackTripped_trips`; below that the device stands as judged, and every limit lies below. -/
theorem stackTemperatureLimits : Obligations.StackTemperatureLimits := by
  intro k x s a limit n
  have hn : n < 256 := x.isLt
  have hlimit : limit ≤ 95 := stackLimit_le s k.val
  obtain ⟨g, hg⟩ : ∃ g, g = rf s (drmA k.val 0x000) 1 2 := ⟨_, rfl⟩
  obtain ⟨u, hu⟩ : ∃ u, u = stackShown s a limit n := ⟨_, rfl⟩
  obtain ⟨v, hv⟩ : ∃ v, v = stackJudged u k.val n g limit := ⟨_, rfl⟩
  have hexec : exec (.stackTemperatureReading k x) s = .next (stackTripped v k.val n) := by
    rw [hv, hu, hg]
    exact stackTemperatureReading_eq k x s
  obtain ⟨r, hr⟩ := stackShown_ex s a limit n
  rw [← hu] at hr
  obtain ⟨htt, hst⟩ : ttc u = ttc s ∧ stepNo u = stepNo s := hu ▸ time_stackShown s k.val 0x008 limit n
  obtain ⟨hmem, hcores, hpending, hregs, htrip⟩ := stackJudged_kept u k.val n g limit
  obtain ⟨tmem, tcores, tpending, tregs, tfaults, tevac⟩ := stackTripped_kept v k.val n
  rw [← hv] at hmem hcores hpending hregs htrip
  have hrg (b : Nat) : rg (stackTripped v k.val n) b = rg u b := rg_congr (tregs.trans hregs) b
  have hrf (lo w : Nat) : rf (stackTripped v k.val n) a lo w = rf u a lo w := rf_congr (tregs.trans hregs) a lo w
  refine ⟨stackTripped v k.val n, hexec, tmem.trans (hmem.trans (by rw [hr])), tcores.trans (hcores.trans (by rw [hr])),
    tpending.trans (hpending.trans (by rw [hr])), ?celsius, ?max, ?hotFlag, ?warnFlag, fun b hb => ?others, ?cool, ?warm, ?hot,
    fun h => (stackTripped_trips v k.val h).1, fun h hs => (stackTripped_trips v k.val h).2 (htrip.trans (by rw [hr]; exact hs))⟩
  case celsius => rw [hrf, hu, stackShown_celsius s a limit hn]
  case max => rw [hrf, hu, stackShown_max s a limit hn]
  case hotFlag => rw [hrf, hu, stackShown_hot]
  case warnFlag => rw [hrf, hu, stackShown_warn]
  case others => rw [hrg, hu, rg_stackShown_ne s limit n hb]
  case cool =>
    intro h
    rw [stackTripped_below (by omega), hv, stackJudged_cool h, hr]
    exact ⟨rfl, rfl, rfl⟩
  case warm =>
    intro h h2
    obtain ⟨hvote, hhalt⟩ := stackWarned_mild u k.val n g
    rw [stackTripped_below (by omega), hv, stackJudged_warm h h2]
    exact ⟨recorded_since (by rw [hr]) htt hst (stackWarned_recorded u k.val n g), hvote.trans (by rw [hr]), hhalt.trans (by rw [hr])⟩
  case hot =>
    intro h
    obtain ⟨⟨f, f', hf, hcode, hsev, hcode', hsev', httc⟩, hevac⟩ := stackHot_stackWarned u k.val n g
    rw [← stackJudged_hot h, ← hv] at hf hevac
    exact ⟨⟨f, f', tfaults.trans (hf.trans (by rw [hr])), hcode, hsev, hcode', hsev', httc.trans htt⟩, tevac hevac⟩

end Sys2Proof.Machine
end

section
/-!
PROOFS. The statement of retrain, rejoin and width changes (chapter 11): what the status register of a link keeps, what an attempt, its
failure and a rejoin leave, and the steps of a width change, then the theorem that settles it.
-/
namespace Sys2Proof.Machine
open Sys2Proof

/-! ### Partners and the registers of links (R302, R309) -/

theorem partner_ne (n : Nat) : partner n ≠ n := by unfold partner; split <;> omega

theorem partner_partner (n : Nat) : partner (partner n) = n := by
  rcases Nat.mod_two_eq_zero_or_one n with h | h
  · have hp : partner n = n + 1 := if_pos h
    rw [hp]; unfold partner; rw [if_neg (by omega)]; rfl
  · have hp : partner n = n - 1 := if_neg (by omega)
    rw [hp]; unfold partner; rw [if_pos (by omega)]; omega

theorem lnkA_ne_link {n m : Nat} (h : n ≠ m) {o o' : Nat} (ho : o < 0x10000) (ho' : o' < 0x10000) : lnkA n o ≠ lnkA m o' := by
  unfold lnkA; omega

theorem lnkA_ne_offset (n : Nat) {o o' : Nat} (h : o ≠ o') : lnkA n o ≠ lnkA n o' := by unfold lnkA; omega

/-- LNK_STAT is not LNK_STAT of another link. -/
theorem lnkStat_ne {n m : Nat} (h : n ≠ m) : lnkA n 0x008 ≠ lnkA m 0x008 := lnkA_ne_link h (by decide) (by decide)

theorem ttA_ne_lnkA {t : Nat} (h : t < 0x1000) (n o : Nat) : ttA t ≠ lnkA n o := by unfold ttA lnkA; omega
theorem kelA_ne_lnkA {t : Nat} (h : t < 0x1000) (n o : Nat) : kelA t ≠ lnkA n o := by unfold kelA lnkA; omega

/-- Counting in a link's register leaves the device's time. -/
theorem time_bumpLnk (s : State) (n o lo w : Nat) : ttc (bump s (lnkA n o) lo w) = ttc s ∧ stepNo (bump s (lnkA n o) lo w) = stepNo s :=
  time_congr (fun _ hb => rg_bump_ne s hb lo w) (ttA_ne_lnkA (by decide) n o) (ttA_ne_lnkA (by decide) n o)

/-- A field stored leaves every field that does not overlap it, in its register and in the others. -/
theorem rf_setRf_apart (s : State) {a b lo w l k : Nat} (v : Nat) (h64 : lo + w ≤ 64) (h : b = a → l + k ≤ lo ∨ lo + w ≤ l) :
    rf (setRf s a lo w v) b l k = rf s b l k := by
  by_cases hb : b = a
  · subst hb
    rcases h rfl with hlow | hhigh
    · exact rf_setRf_below s b v hlow h64
    · exact rf_setRf_above s b v hhigh h64
  · exact rf_setRf_ne s hb ..

theorem lnkSt_setLnkSt_same (s : State) (n : Nat) {v : Nat} (h : v < 16) : lnkSt (setLnkSt s n v) n = v :=
  (rf_setRf_same s _ v (by decide)).trans (Nat.mod_eq_of_lt h)

theorem lnkSt_setLnkSt_ne (s : State) {n m : Nat} (h : m ≠ n) (v : Nat) : lnkSt (setLnkSt s n v) m = lnkSt s m := rf_setRf_ne s (lnkStat_ne h) ..

@[simp] theorem link_setLnkSt (s : State) (n v m : Nat) : link (setLnkSt s n v) m = link s m := link_setRf ..

/-! ### FAILED_OVER and CARRYING (R303, R309) -/

@[simp] theorem link_setCarried (s : State) (n v m : Nat) : link (setCarried s n v) m = link s m := by
  unfold setCarried; rw [link_setRf, link_setRf]

/-- Only FAILED_OVER and CARRYING change. -/
theorem rf_setCarried_apart (s : State) (n v a : Nat) {l k : Nat} (h : l + k ≤ 54 ∨ 56 ≤ l) : rf (setCarried s n v) a l k = rf s a l k := by
  unfold setCarried
  rw [rf_setRf_apart _ _ (by decide) fun _ => by omega, rf_setRf_apart _ _ (by decide) fun _ => by omega]

theorem rg_setCarried_ne (s : State) {n a : Nat} (v : Nat) (h : a ≠ lnkA n 0x008) (hp : a ≠ lnkA (partner n) 0x008) : rg (setCarried s n v) a = rg s a :=
  (rg_setRf_ne _ hp ..).trans (rg_setRf_ne _ h ..)

theorem rf_setCarried_failedOver (s : State) (n v : Nat) : rf (setCarried s n v) (lnkA n 0x008) 55 1 = v % 2 := by
  unfold setCarried
  rw [rf_setRf_ne _ (lnkStat_ne (partner_ne n).symm), rf_setRf_same _ _ _ (by decide), pow_one]

theorem rf_setCarried_carrying (s : State) (n v : Nat) : rf (setCarried s n v) (lnkA (partner n) 0x008) 54 1 = v % 2 := by
  unfold setCarried
  rw [rf_setRf_same _ _ _ (by decide), pow_one]

theorem rf_setCarried_ownCarrying (s : State) (n v : Nat) : rf (setCarried s n v) (lnkA n 0x008) 54 1 = rf s (lnkA n 0x008) 54 1 := by
  unfold setCarried
  rw [rf_setRf_ne _ (lnkStat_ne (partner_ne n).symm), rf_setRf_below _ _ _ (by decide) (by decide)]

theorem rf_setCarried_partnerFailedOver (s : State) (n v : Nat) :
    rf (setCarried s n v) (lnkA (partner n) 0x008) 55 1 = rf s (lnkA (partner n) 0x008) 55 1 := by
  unfold setCarried
  rw [rf_setRf_above _ _ _ (by decide) (by decide), rf_setRf_ne _ (lnkStat_ne (partner_ne n))]

/-! ### Entering retrain with the partner not up (R290, R303, R304) -/

/-- The record and the count of a retrain. -/
def retrainNoted (s : State) (n c q : Nat) : State := bump (raiseLnk s n 0x0903 1 [(1, 1, c), (2, 2, q)]) (lnkA n 0x008) 32 16

/-- A link's traffic is dropped, and it carries none of its partner's. -/
def trafficDropped (s : State) (n : Nat) : State :=
  setCarried (modLink s n fun l => { l with unacked := [], replay := [], elig := [], failTick := ttc s }) (partner n) 0

/-- Retrain begins at a link that has no partner to move its traffic to. -/
def retrainAlone (s : State) (n c q : Nat) : State :=
  beginAttempt (trafficDropped (setLnkSt (retrainNoted s n c q) n 4) n) n (List.replicate 8 { op := 1, width := 0, sel := 0 })

theorem enterRetrain_of_not_up {s : State} {n : Nat} (h : lnkSt s n ≠ 3) (c q : Nat) : enterRetrain s n c q = s := if_pos h

theorem dropWidth_idle {s : State} {n : Nat} (h : (link s n).wStage = 0) : dropWidth s n = s := if_pos h

theorem failover_alone {s : State} {n : Nat} (hw : (link s n).wStage = 0) (hwp : (link s (partner n)).wStage = 0) (hp : lnkSt s (partner n) ≠ 3) :
    failover s n = trafficDropped s n := by
  have hcarried : lnkSt (trafficDropped s n) (partner n) ≠ 3 := by
    unfold trafficDropped lnkSt
    rw [rf_setCarried_apart _ _ _ _ (by omega), rf_modLink]
    exact hp
  unfold trafficDropped at hcarried ⊢
  unfold failover
  simp only
  rw [dropWidth_idle hw, dropWidth_idle hwp, if_pos hcarried]

@[simp] theorem link_retrainNoted (s : State) (n c q m : Nat) : link (retrainNoted s n c q) m = link s m := by
  unfold retrainNoted raiseLnk; rw [link_bump, link_raise]

theorem launched_retrainNoted (s : State) (n c q : Nat) : launched (retrainNoted s n c q) = launched s := by
  unfold launched retrainNoted raiseLnk
  rw [rf_bump_ne _ (ttA_ne_lnkA (by decide) n _), rf_raise]

theorem enterRetrain_alone {s : State} {n : Nat} (c q : Nat) (hup : lnkSt s n = 3) (hp : lnkSt s (partner n) ≠ 3) (hw : (link s n).wStage = 0)
    (hwp : (link s (partner n)).wStage = 0) (hnew : ((link s n).upSince.isSome && launched s) = false) :
    enterRetrain s n c q = retrainAlone s n c q := by
  have hagain : ((link (retrainNoted s n c q) n).upSince.isSome && launched (retrainNoted s n c q)) = false := by
    rw [launched_retrainNoted, link_retrainNoted, hnew]
  have hover : failover (setLnkSt (retrainNoted s n c q) n 4) n = trafficDropped (setLnkSt (retrainNoted s n c q) n 4) n := by
    refine failover_alone (by simpa using hw) (by simpa using hwp) ?_
    rw [lnkSt_setLnkSt_ne _ (partner_ne n)]
    unfold lnkSt retrainNoted raiseLnk
    rw [rf_bump_ne _ (lnkStat_ne (partner_ne n)), rf_raise]
    exact hp
  unfold retrainAlone
  rw [← hover]
  unfold retrainNoted at hagain ⊢
  unfold enterRetrain
  rw [if_neg (not_not.2 hup)]
  simp only
  rw [if_neg (by rw [hagain]; decide)]

theorem retrainNoted_recorded (s : State) (n c q : Nat) : Recorded s (retrainNoted s n c q) 0x0903 1 :=
  recorded_bump (raise_recorded s ..) ..

theorem retrainAlone_recorded (s : State) (n c q : Nat) : Recorded s (retrainAlone s n c q) 0x0903 1 := by
  refine recorded_of_faults (retrainNoted_recorded s n c q) ?_
  unfold retrainAlone beginAttempt trafficDropped setCarried
  simp only [modLink_faults, setRf_faults, setLnkSt_faults]

theorem lnkSt_retrainAlone (s : State) (n c q : Nat) : lnkSt (retrainAlone s n c q) n = 4 := by
  unfold lnkSt retrainAlone beginAttempt trafficDropped
  rw [rf_modLink, rf_setCarried_apart _ _ _ _ (by omega), rf_modLink]
  exact lnkSt_setLnkSt_same _ n (by decide)

theorem retrains_retrainAlone (s : State) (n c q : Nat) :
    rf (retrainAlone s n c q) (lnkA n 0x008) 32 16 = min (2 ^ 16 - 1) (rf s (lnkA n 0x008) 32 16 + 1) := by
  unfold retrainAlone beginAttempt trafficDropped setLnkSt
  rw [rf_modLink, rf_setCarried_apart _ _ _ _ (by omega), rf_modLink, rf_setRf_below _ _ _ (by decide) (by decide)]
  exact (rf_bump_same _ _ (by decide)).trans (by unfold raiseLnk; rw [rf_raise])

@[simp] theorem link_trafficDropped_same (s : State) (n : Nat) :
    link (trafficDropped s n) n = { link s n with unacked := [], replay := [], elig := [], failTick := ttc s } := by
  unfold trafficDropped; rw [link_setCarried, link_modLink_same]

theorem link_trafficDropped_ne (s : State) {n m : Nat} (h : m ≠ n) : link (trafficDropped s n) m = link s m := by
  unfold trafficDropped; rw [link_setCarried, link_modLink_ne _ h]

theorem rg_trafficDropped_ne (s : State) {n a : Nat} (h : a ≠ lnkA n 0x008) (hp : a ≠ lnkA (partner n) 0x008) : rg (trafficDropped s n) a = rg s a := by
  unfold trafficDropped
  rw [rg_setCarried_ne _ _ hp (by rw [partner_partner]; exact h), rg_modLink]

theorem link_beginAttempt_same (s : State) (n : Nat) (units : List LaneCtl) : link (beginAttempt s n units) n =
    { link s n with attempt := rg s (kelA 0x110), ident := none, delays := [], lanes := units ++ [{ op := 5, width := 0, sel := 0 }],
                    rejoinAt := none, nakDue := false, ctlDue := false } := by
  unfold beginAttempt; rw [link_modLink_same]

theorem link_beginAttempt_ne (s : State) {n m : Nat} (h : m ≠ n) (units : List LaneCtl) : link (beginAttempt s n units) m = link s m := by
  unfold beginAttempt; rw [link_modLink_ne _ h]

@[simp] theorem rf_beginAttempt (s : State) (n : Nat) (units : List LaneCtl) (a lo w : Nat) : rf (beginAttempt s n units) a lo w = rf s a lo w := by
  unfold beginAttempt; rw [rf_modLink]

theorem link_retrainAlone_ne (s : State) {n m : Nat} (h : m ≠ n) (c q : Nat) : link (retrainAlone s n c q) m = link s m := by
  unfold retrainAlone
  rw [link_beginAttempt_ne _ h, link_trafficDropped_ne _ h, link_setLnkSt, link_retrainNoted]

theorem link_retrainAlone_same (s : State) (n c q : Nat) : let t := retrainAlone s n c q
    (link t n).lanes = List.replicate 8 { op := 1, width := 0, sel := 0 } ++ [{ op := 5, width := 0, sel := 0 }] ∧
      (link t n).unacked = [] ∧ (link t n).elig = [] ∧ (link t n).attempt = rg s (kelA 0x110) := by
  have hkel (m : Nat) : kelA 0x110 ≠ lnkA m 0x008 := kelA_ne_lnkA (by decide) m _
  have huptime : rg (trafficDropped (setLnkSt (retrainNoted s n c q) n 4) n) (kelA 0x110) = rg s (kelA 0x110) := by
    rw [rg_trafficDropped_ne _ (hkel n) (hkel _)]
    unfold setLnkSt retrainNoted raiseLnk
    rw [rg_setRf_ne _ (hkel n), rg_bump_ne _ (hkel n), rg_raise]
  unfold retrainAlone
  simp only [link_beginAttempt_same, link_trafficDropped_same]
  exact ⟨trivial, trivial, trivial, huptime⟩

/-! ### Identities and failed attempts (R290, R291) -/

theorem lnkOn_of_state {s : State} {n : Nat} (h1 : 1 ≤ lnkSt s n) (h4 : lnkSt s n ≤ 4) : lnkOn s n = true := decide_eq_true ⟨h1, h4⟩

/-- What the far end's IDENT named is kept. -/
def identSeen (s : State) (n : Nat) (d : BitVec 13) (k : BitVec 5) : State := modLink s n fun l => { l with ident := some (d.toNat, k.toNat) }

theorem ident_judged {n : Fin 24} {p : Fin 8} {s : State} (d : BitVec 13) (k : BitVec 5) (hp : s.phase ≤ p.val) (h1 : 1 ≤ lnkSt (runTo s p.val) n.val)
    (h4 : lnkSt (runTo s p.val) n.val ≤ 4) : exec (.ident n p d k) s = .next (let v := identSeen (runTo s p.val) n.val d k
      if lnkSt (runTo s p.val) n.val = 4 && !identGood v n.val d.toNat k.toNat then attemptFails v n.val 3 0 else v) := by
  show Host.Outcome.next (whenAt s p.val _) = _
  rw [whenAt_run s p.val hp, if_neg (by simp [lnkOn_of_state h1 h4])]
  rfl

theorem retrainAttemptTimeout_due {n : Fin 24} {s : State} (hst : lnkSt s n.val = 4) (hr : (link s n.val).rejoinAt = none)
    (ht : (link s n.val).attempt + 3125 ≤ uptime s) : exec (.retrainAttemptTimeout n) s = .next (attemptFails s n.val 1 0) :=
  congrArg Host.Outcome.next (if_pos ⟨hst, hr, ht⟩)

/-- A failed attempt counted. -/
def failCounted (s : State) (n : Nat) : State := bump s (lnkA n 0x008) 48 4
/-- A failed attempt counted and recorded. -/
def attemptFailed (s : State) (n r f : Nat) : State :=
  raiseLnk (failCounted s n) n 0x0904 1 [(1, 1, rf (failCounted s n) (lnkA n 0x008) 48 4), (2, 1, r), (4, 2, f)]

section
variable {s : State} {n r f : Nat} (hst : lnkSt s n = 4) (hlim : rf s (lnkA n 0x008) 48 4 + 1 < replayLimit s n)

theorem lnkSt_attemptFailed : lnkSt (attemptFailed s n r f) n = lnkSt s n := by
  unfold lnkSt attemptFailed raiseLnk
  rw [rf_raise]
  exact rf_bump_above _ _ (by decide) (by decide)

theorem rg_attemptFailed_ne {a : Nat} (h : a ≠ lnkA n 0x008) : rg (attemptFailed s n r f) a = rg s a := by
  unfold attemptFailed raiseLnk
  rw [rg_raise]
  exact rg_bump_ne _ h ..

include hlim in
theorem fails_attemptFailed : rf (attemptFailed s n r f) (lnkA n 0x008) 48 4 = rf s (lnkA n 0x008) 48 4 + 1 := by
  have hmax : replayLimit s n < 2 ^ 4 := rf_lt ..
  unfold attemptFailed raiseLnk
  rw [rf_raise]
  refine (rf_bump_same s _ (by decide)).trans ?_
  omega

include hlim in
theorem judgeFails_attemptFailed : judgeFails (attemptFailed s n r f) n = attemptFailed s n r f := by
  have hlimit : replayLimit (attemptFailed s n r f) n = replayLimit s n :=
    congrArg (fld · 36 4) (rg_attemptFailed_ne (lnkA_ne_offset n (by decide)))
  unfold judgeFails
  simp only
  rw [hlimit, fails_attemptFailed hlim, if_neg (by omega)]

include hst hlim in
/-- Below REPLAY_LIMIT the next attempt begins. -/
theorem attemptFails_below : attemptFails s n r f = beginAttempt (attemptFailed s n r f) n [] := by
  have hjudge := judgeFails_attemptFailed (r := r) (f := f) hlim
  have hstate := (lnkSt_attemptFailed (r := r) (f := f)).trans hst
  unfold attemptFailed failCounted at hjudge hstate ⊢
  unfold attemptFails
  simp only
  rw [hjudge, if_pos hstate]
end

theorem attemptFailed_recorded (s : State) (n r f : Nat) : Recorded s (attemptFailed s n r f) 0x0904 1 :=
  let ⟨htt, hst⟩ := time_bumpLnk s n 0x008 48 4
  recorded_since (u := failCounted s n) (bump_faults ..) htt hst (raise_recorded ..)

/-! ### Rejoin (R292) -/

/-- The link is up, and its traffic returns; a partner that has failed gives its own. -/
def trafficReturned (s : State) (n : Nat) : State :=
  let v := setCarried (setLnkSt s n 3) n 0
  if isProtected v (partner n) && (lnkSt v (partner n) == 4 || lnkSt v (partner n) == 5) then setCarried v (partner n) 1 else v

/-- The link begins anew, and no end of the pair holds a width request back. -/
def rejoined (s : State) (n : Nat) : State :=
  modLink (modLink (trafficReturned s n) (partner n) fun l => { l with wHold := false }) n fun l =>
    { linkComesUp l with rejoinAt := none, upSince := some (ttc s), wHold := false }

theorem setCarried_only {s t : State} (h : t = { s with regs := t.regs }) (n v : Nat) : setCarried t n v = { s with regs := (setCarried t n v).regs } :=
  setRf_only (setRf_only h ..) ..

theorem trafficReturned_only (s : State) (n : Nat) : trafficReturned s n = { s with regs := (trafficReturned s n).regs } := by
  have hup : setCarried (setLnkSt s n 3) n 0 = { s with regs := (setCarried (setLnkSt s n 3) n 0).regs } := setCarried_only rfl ..
  unfold trafficReturned
  simp only
  split
  · exact setCarried_only hup ..
  · exact hup

@[simp] theorem link_trafficReturned (s : State) (n m : Nat) : link (trafficReturned s n) m = link s m := by
  unfold trafficReturned
  simp only
  split <;> simp

theorem lnkSt_trafficReturned (s : State) (n : Nat) : lnkSt (trafficReturned s n) n = 3 := by
  have hup : lnkSt (setCarried (setLnkSt s n 3) n 0) n = 3 := (rf_setCarried_apart _ _ _ _ (by omega)).trans (lnkSt_setLnkSt_same s n (by decide))
  unfold trafficReturned
  simp only
  split
  · exact (rf_setCarried_apart _ _ _ _ (by omega)).trans hup
  · exact hup

theorem failedOver_trafficReturned (s : State) (n : Nat) : rf (trafficReturned s n) (lnkA n 0x008) 55 1 = 0 := by
  have hup := rf_setCarried_failedOver (setLnkSt s n 3) n 0
  unfold trafficReturned
  simp only
  split
  · have hback := rf_setCarried_partnerFailedOver (setCarried (setLnkSt s n 3) n 0) (partner n) 1
    rw [partner_partner] at hback
    exact hback.trans hup
  · exact hup

theorem carrying_trafficReturned (s : State) (n : Nat) : rf (trafficReturned s n) (lnkA (partner n) 0x008) 54 1 = 0 := by
  have hup := rf_setCarried_carrying (setLnkSt s n 3) n 0
  unfold trafficReturned
  simp only
  split
  · exact (rf_setCarried_ownCarrying ..).trans hup
  · exact hup

theorem ttc_trafficReturned (s : State) (n : Nat) : ttc (trafficReturned s n) = ttc s := by
  have hne (m : Nat) : ttA 0x000 ≠ lnkA m 0x008 := ttA_ne_lnkA (by decide) m _
  have hup : ttc (setCarried (setLnkSt s n 3) n 0) = ttc s := (rg_setCarried_ne _ _ (hne _) (hne _)).trans (rg_setRf_ne _ (hne _) ..)
  unfold trafficReturned
  simp only
  split
  · exact (rg_setCarried_ne _ _ (hne _) (hne _)).trans hup
  · exact hup

theorem linkRejoin_due {n : Fin 24} {s : State} (hst : lnkSt s n.val = 4) (hr : (link s n.val).rejoinAt = some (ttc s)) :
    exec (.linkRejoin n) s = .next (rejoined s n.val) := by
  have htt := ttc_trafficReturned s n.val
  show execLinkRejoin n s = _
  unfold execLinkRejoin rejoined
  rw [if_pos ⟨hst, hr⟩, ← htt]
  unfold trafficReturned
  rfl

@[simp] theorem rf_rejoined (s : State) (n a lo w : Nat) : rf (rejoined s n) a lo w = rf (trafficReturned s n) a lo w := by
  unfold rejoined; rw [rf_modLink, rf_modLink]

theorem link_rejoined_same (s : State) (n : Nat) :
    link (rejoined s n) n = { linkComesUp (link s n) with rejoinAt := none, upSince := some (ttc s), wHold := false } := by
  unfold rejoined
  rw [link_modLink_same, link_modLink_ne _ (partner_ne n).symm, link_trafficReturned]

theorem link_rejoined_partner (s : State) (n : Nat) : link (rejoined s n) (partner n) = { link s (partner n) with wHold := false } := by
  unfold rejoined
  rw [link_modLink_ne _ (partner_ne n), link_modLink_same, link_trafficReturned]

theorem link_rejoined_ne (s : State) {n m : Nat} (h : m ≠ n) (hp : m ≠ partner n) : link (rejoined s n) m = link s m := by
  unfold rejoined
  rw [link_modLink_ne _ h, link_modLink_ne _ hp, link_trafficReturned]

theorem rejoined_only (s : State) (n : Nat) : rejoined s n = { s with regs := (rejoined s n).regs, links := (rejoined s n).links } := by
  obtain ⟨g, hg⟩ : ∃ g, trafficReturned s n = { s with regs := g } := ⟨_, trafficReturned_only s n⟩
  unfold rejoined
  rw [hg]
  rfl

/-! ### Width changes (R293, R309) -/

theorem laid_widthRequest (w g o : Nat) : laid 64 [(30, 2, w), (28, 2, g), (0, 23, o)] = true := rfl

/-- The fields of LNK_CTRL as a width request writes them, and the request's place in LNK_STAT. -/
theorem rf_widthWrite (s : State) (n : Nat) (w g : BitVec 2) (o : BitVec 23) : let t := widthWrite s n w.toNat g.toNat o.toNat
    rf t (lnkA n 0x010) 30 2 = w.toNat ∧ rf t (lnkA n 0x010) 28 2 = g.toNat ∧ rf t (lnkA n 0x010) 0 23 = o.toNat ∧ rf t (lnkA n 0x008) 53 1 = 1 := by
  have hfield (f : Nat × Nat × Nat) (hf : f ∈ [(30, 2, w.toNat), (28, 2, g.toNat), (0, 23, o.toNat)]) (hv : f.2.2 < 2 ^ f.2.1) :
      rf (widthWrite s n w.toNat g.toNat o.toNat) (lnkA n 0x010) f.1 f.2.1 = f.2.2 := by
    obtain ⟨hin, hx⟩ := pack_holds (laid_widthRequest w.toNat g.toNat o.toNat) f hf
    unfold widthWrite
    rw [rf_setRf_ne _ (lnkA_ne_offset n (by decide)), rf_setRg_same _ _ _ hin]
    exact hx.trans (Nat.mod_eq_of_lt hv)
  exact ⟨hfield (30, 2, w.toNat) (by simp) w.isLt, hfield (28, 2, g.toNat) (by simp) g.isLt, hfield (0, 23, o.toNat) (by simp) o.isLt,
    rf_setRf_same _ _ _ (by decide)⟩

theorem rg_widthWrite_ne (s : State) (n w g o : Nat) {a : Nat} (hc : a ≠ lnkA n 0x010) (hs : a ≠ lnkA n 0x008) : rg (widthWrite s n w g o) a = rg s a := by
  unfold widthWrite
  rw [rg_setRf_ne _ hs, rg_setRg_ne _ hc, rg_modLink]

theorem link_widthWrite (s : State) (n w g o m : Nat) : link (widthWrite s n w g o) m = link (modLink s n fun l => { l with wHold := false }) m := by
  unfold widthWrite
  rw [link_setRf, link_setRg]

theorem widthWrite_only (s : State) (n w g o : Nat) : ∃ r l, widthWrite s n w g o = { s with regs := r, links := l } := by
  obtain ⟨r, hr⟩ := setRg_ex (modLink s n fun l => { l with wHold := false }) (lnkA n 0x010) (pack [(30, 2, w), (28, 2, g), (0, 23, o)])
  obtain ⟨r', hr'⟩ := setRf_ex { modLink s n fun l => { l with wHold := false } with regs := r } (lnkA n 0x008) 53 1 1
  exact ⟨r', _, by unfold widthWrite; rw [hr, hr']; rfl⟩

theorem widthTick_due {n : Fin 24} {s : State} (hon : planOn s = true) (hup : lnkSt s n.val = 3) (hreq : rf s (lnkA n.val 0x008) 53 1 = 1)
    (htick : frameTick s = rf s (lnkA n.val 0x010) 0 23) (hw : (link s n.val).wStage = 0) (hh : (link s n.val).wHold = false) :
    exec (.widthTick n) s = .next (modLink s n.val fun l => { l with wStage := 1 }) :=
  congrArg Host.Outcome.next ((if_pos hon).trans (if_pos (by simp [lnkUp_of_state hup, hreq, htick, hw, hh])))

theorem widthReq_up {n : Fin 24} {p : Fin 8} {s : State} (w g : BitVec 2) (hp : s.phase ≤ p.val) (hup : lnkSt (runTo s p.val) n.val = 3) :
    exec (.widthReq n p w g) s =
      .next (modLink (runTo s p.val) n.val fun l => { l with lanes := l.lanes ++ [{ op := 3, width := w.toNat, sel := g.toNat }] }) := by
  show Host.Outcome.next (whenAt s p.val _) = _
  rw [whenAt_run s p.val hp, if_pos (lnkUp_of_state hup)]

theorem widthAck_asked {n : Fin 24} {p : Fin 8} {s : State} (hp : s.phase ≤ p.val) (hup : lnkSt (runTo s p.val) n.val = 3)
    (hw : (link (runTo s p.val) n.val).wStage = 2) :
    exec (.widthAck n p) s = .next (modLink (runTo s p.val) n.val fun l =>
      { l with wStage := 3, lanes := l.lanes ++ [{ op := 4, width := rf (runTo s p.val) (lnkA n.val 0x010) 30 2, sel := rf (runTo s p.val) (lnkA n.val 0x010) 28 2 }] }) := by
  show Host.Outcome.next (whenAt s p.val _) = _
  rw [whenAt_run s p.val hp, if_pos (by simp [lnkUp_of_state hup, hw])]

/-- The link is told the far end's change; an end that has not sent its own WIDTH_GO sends it. -/
def goAnswered (s : State) (n w g : Nat) : State :=
  modLink s n fun l => { l with wStage := 0, lanes := if (link s n).wStage = 3 then l.lanes else l.lanes ++ [{ op := 4, width := w, sel := g }] }
/-- The lanes take the width. -/
def widthTaken (s : State) (n w g : Nat) : State := setRf (setRf (goAnswered s n w g) (lnkA n 0x008) 58 2 w) (lnkA n 0x008) 56 2 g
/-- The width changes, and an own request is served. -/
def widthGone (s : State) (n w g : Nat) : State :=
  if (link s n).wStage = 0 then widthTaken s n w g else setRf (widthTaken s n w g) (lnkA n 0x008) 53 1 0

theorem widthGo_up {n : Fin 24} {p : Fin 8} {s : State} (w g : BitVec 2) (hp : s.phase ≤ p.val) (hup : lnkSt (runTo s p.val) n.val = 3) :
    exec (.widthGo n p w g) s = .next (widthGone (runTo s p.val) n.val w.toNat g.toNat) := by
  show Host.Outcome.next (whenAt s p.val _) = _
  rw [whenAt_run s p.val hp, if_neg (by simp [lnkUp_of_state hup])]
  rfl

/-- A fact about the change taken that the served request does not touch. -/
theorem widthGone_elim (P : State → Prop) {s : State} {n w g : Nat} (h : P (widthTaken s n w g)) (h0 : P (setRf (widthTaken s n w g) (lnkA n 0x008) 53 1 0)) :
    P (widthGone s n w g) := by
  unfold widthGone; split
  · exact h
  · exact h0

theorem link_widthGone (s : State) (n w g m : Nat) : link (widthGone s n w g) m = link (goAnswered s n w g) m :=
  have htaken : link (widthTaken s n w g) m = link (goAnswered s n w g) m := (link_setRf ..).trans (link_setRf ..)
  widthGone_elim (fun t => link t m = link (goAnswered s n w g) m) htaken ((link_setRf ..).trans htaken)

theorem rf_widthTaken (s : State) (n : Nat) (w g : BitVec 2) : let t := widthTaken s n w.toNat g.toNat
    rf t (lnkA n 0x008) 58 2 = w.toNat ∧ rf t (lnkA n 0x008) 56 2 = g.toNat ∧ rf t (lnkA n 0x008) 53 1 = rf s (lnkA n 0x008) 53 1 := by
  unfold widthTaken
  refine ⟨?_, ?_, ?_⟩
  · rw [rf_setRf_above _ _ _ (by decide) (by decide), rf_setRf_same _ _ _ (by decide)]; exact Nat.mod_eq_of_lt w.isLt
  · rw [rf_setRf_same _ _ _ (by decide)]; exact Nat.mod_eq_of_lt g.isLt
  · rw [rf_setRf_below _ _ _ (by decide) (by decide), rf_setRf_below _ _ _ (by decide) (by decide)]; rfl

theorem rf_widthGone (s : State) (n : Nat) (w g : BitVec 2) : let t := widthGone s n w.toNat g.toNat
    rf t (lnkA n 0x008) 58 2 = w.toNat ∧ rf t (lnkA n 0x008) 56 2 = g.toNat ∧
      rf t (lnkA n 0x008) 53 1 = (if (link s n).wStage = 0 then rf s (lnkA n 0x008) 53 1 else 0) := by
  obtain ⟨hwidth, hsel, hreq⟩ := rf_widthTaken s n w g
  unfold widthGone
  split
  · exact ⟨hwidth, hsel, hreq⟩
  · exact ⟨(rf_setRf_above _ _ _ (by decide) (by decide)).trans hwidth, (rf_setRf_above _ _ _ (by decide) (by decide)).trans hsel,
      rf_setRf_same _ _ _ (by decide)⟩

theorem rg_widthGone_ne (s : State) (n w g : Nat) {a : Nat} (h : a ≠ lnkA n 0x008) : rg (widthGone s n w g) a = rg s a := by
  have htaken : rg (widthTaken s n w g) a = rg s a := (rg_setRf_ne _ h ..).trans (rg_setRf_ne _ h ..)
  exact widthGone_elim (fun t => rg t a = rg s a) htaken ((rg_setRf_ne _ h ..).trans htaken)

theorem widthGone_only (s : State) (n w g : Nat) : widthGone s n w g = { s with regs := (widthGone s n w g).regs, links := (widthGone s n w g).links } := by
  obtain ⟨r1, h1⟩ := setRf_ex (goAnswered s n w g) (lnkA n 0x008) 58 2 w
  obtain ⟨r2, h2⟩ := setRf_ex { goAnswered s n w g with regs := r1 } (lnkA n 0x008) 56 2 g
  have htaken : widthTaken s n w g = { goAnswered s n w g with regs := r2 } := by unfold widthTaken; rw [h1, h2]
  obtain ⟨r3, h3⟩ := setRf_ex { goAnswered s n w g with regs := r2 } (lnkA n 0x008) 53 1 0
  refine widthGone_elim (fun t => t = { s with regs := t.regs, links := t.links }) ?_ ?_
  · rw [htaken]; rfl
  · rw [htaken, h3]; rfl

/-- Settles O41: entering retrain is `retrainAlone`, a failed attempt `attemptFails_below`, the rejoin `rejoined`, and the steps of a width
change are `widthWrite` to `widthGone`. -/
theorem linksRetrainAndChangeWidth : Obligations.LinksRetrainAndChangeWidth := by
  refine ⟨fun n p s hp => ⟨congrArg Host.Outcome.next (whenAt_run s p.val hp _), congrArg Host.Outcome.next (whenAt_run s p.val hp _)⟩,
    ?enter, ?ident, fun n s hst hr ht => retrainAttemptTimeout_due hst hr ht, ?fails, ?rejoin, ?request,
    fun n s hon hup hreq htick hw hh => widthTick_due hon hup hreq htick hw hh, fun n p w g s hp hup => widthReq_up w g hp hup,
    fun n p s hp hup hw => widthAck_asked hp hup hw, ?go⟩
  case enter =>
    intro s n c q _
    refine ⟨fun h => enterRetrain_of_not_up h c q, fun hup hp hw hwp hnew => ?_⟩
    obtain ⟨lanes, unacked, elig, attempt⟩ := link_retrainAlone_same s n c q
    rw [enterRetrain_alone c q hup hp hw hwp hnew]
    exact ⟨retrainAlone_recorded s n c q, lnkSt_retrainAlone s n c q, retrains_retrainAlone s n c q, lanes, unacked, elig, attempt,
      fun m hm => link_retrainAlone_ne s hm c q⟩
  case ident =>
    intro n p d k s hp u v h1 h4
    rw [ident_judged d k hp h1 h4]
    refine ⟨fun hgood => congrArg _ (if_neg ?_), fun hst hbad => congrArg _ (if_pos ?_)⟩
    · rcases hgood with hne | hok
      · simp [u, hne]
      · rw [show identGood (identSeen u n.val d k) n.val d.toNat k.toNat = true from hok]; simp
    · rw [show identGood (identSeen u n.val d k) n.val d.toNat k.toNat = false from hbad]; simp [u, hst]
  case fails =>
    intro s n r f hst hlim
    have huptime : rg (attemptFailed s n r f) (kelA 0x110) = rg s (kelA 0x110) := rg_attemptFailed_ne (kelA_ne_lnkA (by decide) n _)
    have hother (m : Nat) : link (attemptFailed s n r f) m = link s m := by unfold attemptFailed failCounted raiseLnk; rw [link_raise, link_bump]
    rw [attemptFails_below hst hlim]
    exact ⟨recorded_of_faults (attemptFailed_recorded s n r f) (modLink_faults ..), (rf_beginAttempt ..).trans (lnkSt_attemptFailed.trans hst),
      (rf_beginAttempt ..).trans (fails_attemptFailed hlim), by rw [link_beginAttempt_same, huptime], by rw [link_beginAttempt_same], fun m hm => (link_beginAttempt_ne _ hm _).trans (hother m)⟩
  case rejoin =>
    intro n s hst hr
    exact ⟨_, linkRejoin_due hst hr, (rf_rejoined ..).trans (lnkSt_trafficReturned s n.val), rejoined_only s n.val, link_rejoined_same s n.val, link_rejoined_partner s n.val,
      (rf_rejoined ..).trans (failedOver_trafficReturned s n.val), (rf_rejoined ..).trans (carrying_trafficReturned s n.val), fun m hm hmp => link_rejoined_ne s hm hmp⟩
  case request =>
    intro n w g o s
    obtain ⟨hwidth, hsel, htick, hreq⟩ := rf_widthWrite s n.val w g o
    obtain ⟨r, l, honly⟩ := widthWrite_only s n.val w.toNat g.toNat o.toNat
    exact ⟨_, rfl, by rw [honly], by rw [link_widthWrite, link_modLink_same], fun m hm => by rw [link_widthWrite, link_modLink_ne _ hm], hwidth, hsel, htick, hreq,
      fun a hc hs => rg_widthWrite_ne s n.val _ _ _ hc hs⟩
  case go =>
    intro n p w g s hp u hup
    obtain ⟨hwidth, hsel, hreq⟩ := rf_widthGone u n.val w g
    have hown : link (widthGone u n.val w.toNat g.toNat) n.val = _ := (link_widthGone ..).trans (link_modLink_same ..)
    exact ⟨_, widthGo_up w g hp hup, widthGone_only .., hwidth, hsel, hreq, by rw [hown], by rw [hown], fun a ha => rg_widthGone_ne u n.val _ _ ha,
      fun m hm => (link_widthGone ..).trans (link_modLink_ne _ hm _)⟩

end Sys2Proof.Machine
end

section
/-!
PROOFS. The statement of remote operations and ranging (chapter 11): what an arrival leaves, what each answer, mark and write changes, how an
operation ends, and the two ends of a ranging, then the theorem that settles it.
-/
namespace Sys2Proof.Machine
open Sys2Proof

/-! ### Engines of remote operations (R305) -/

theorem rop_modRop (s : State) (k : Nat) (f : RopS → RopS) (j : Nat) : rop (modRop s k f) j = if j = k then f (rop s k) else rop s j := by
  unfold rop modRop; simp only [tget_tset]; rfl
@[simp] theorem rop_modRop_same (s : State) (k : Nat) (f : RopS → RopS) : rop (modRop s k f) k = f (rop s k) := by rw [rop_modRop, if_pos rfl]
theorem rop_modRop_ne (s : State) {k j : Nat} (h : j ≠ k) (f : RopS → RopS) : rop (modRop s k f) j = rop s j := by rw [rop_modRop, if_neg h]

/-- Reading an engine depends on the engines alone. -/
theorem rop_congr {s t : State} (h : t.rops = s.rops) (k : Nat) : rop t k = rop s k := by unfold rop; rw [h]
theorem link_congr {s t : State} (h : t.links = s.links) (n : Nat) : link t n = link s n := by unfold link; rw [h]

@[simp] theorem rop_modLink (s : State) (n : Nat) (f : LinkS → LinkS) (k : Nat) : rop (modLink s n f) k = rop s k := rop_congr (modLink_rops ..) k
@[simp] theorem rop_bump (s : State) (a lo w k : Nat) : rop (bump s a lo w) k = rop s k := rop_congr (bump_rops ..) k
@[simp] theorem rop_raiseLnk (s : State) (n code sev : Nat) (d : List (Nat × Nat × Nat)) (k : Nat) : rop (raiseLnk s n code sev d) k = rop s k :=
  rop_congr (raise_rops ..) k
@[simp] theorem link_modRop (s : State) (k : Nat) (f : RopS → RopS) (n : Nat) : link (modRop s k f) n = link s n := link_congr (modRop_links ..) n

@[simp] theorem rop_emit (s : State) (x : Out) (k : Nat) : rop (emit s x) k = rop s k := rop_congr (emit_rops ..) k

theorem sent_emit (s : State) (x : Out) : (emit s x).sent = s.sent ++ [x] := rfl

theorem ropIssue_idle {s : State} {k : Nat} (h : (rop s k).wait = []) : ropIssue s k = s := by
  unfold ropIssue; rw [h]; rfl

/-! ### An operation that arrives in sequence (R283, R288) -/

/-- The number is accepted and the buffer's units are freed. -/
def ropArrived (s : State) (n : Nat) (m : RopMsg) : State := freeMgmt (seqAccepted s n) n (1 + m.bytes.toNat / 16)

theorem ropArrived_ex (s : State) (n : Nat) (m : RopMsg) : ∃ l, ropArrived s n m = { s with links := l } := ⟨_, rfl⟩

theorem link_ropArrived_ne (s : State) {n j : Nat} (h : j ≠ n) (m : RopMsg) : link (ropArrived s n m) j = link s j :=
  (link_modLink_ne _ h _).trans (link_modLink_ne _ h _)

theorem rxNext_ropArrived (s : State) (n : Nat) (m : RopMsg) : (link (ropArrived s n m) n).rxNext = ((link s n).rxNext + 1) % 65536 := by
  unfold ropArrived freeMgmt seqAccepted
  rw [link_modLink_same, link_modLink_same]

@[simp] theorem rop_ropArrived (s : State) (n : Nat) (m : RopMsg) (k : Nat) : rop (ropArrived s n m) k = rop s k := by
  unfold ropArrived freeMgmt seqAccepted; rw [rop_modLink, rop_modLink]

theorem ropArrived_sent (s : State) (n : Nat) (m : RopMsg) : (ropArrived s n m).sent = s.sent := by
  unfold ropArrived freeMgmt seqAccepted; rw [modLink_sent, modLink_sent]

theorem rf_ropArrived (s : State) (n : Nat) (m : RopMsg) (a lo w : Nat) : rf (ropArrived s n m) a lo w = rf s a lo w := by
  unfold ropArrived freeMgmt seqAccepted; rw [rf_modLink, rf_modLink]

theorem ropTake_accepted {s : State} {n : Nat} {m : RopMsg} (hup : lnkSt s n = 3) (hq : m.seq.toNat = (link s n).rxNext) (f : State → State) :
    ropTake s n m f = f (ropArrived s n m) := by
  have htake : seqTake s n m.seq.toNat = (true, seqAccepted s n) := seqTake_expected (by rw [hq]; omega)
  unfold ropTake
  rw [if_neg (by simp [lnkUp_of_state hup]), htake]
  rfl

/-- A fault recorded after the arrival is one of the arrival's tick and step. -/
theorem recorded_after_arrival {s t : State} {n code sev : Nat} {m : RopMsg} (h : Recorded (ropArrived s n m) t code sev) : Recorded s t code sev := by
  obtain ⟨l, hl⟩ := ropArrived_ex s n m
  rw [hl] at h
  exact h

/-! ### Answers (R306) -/

section
variable (s : State) (n : Nat) (m : RopMsg) (st b : Nat) (d : BitVec 1920)

theorem rop_ropAnswer_same : rop (ropAnswer s n m st b d) (n / 2) =
    { rop s (n / 2) with sendQ := (rop s (n / 2)).sendQ ++ [ropPkt 3 st m.rwseq.toNat b m.env.toNat m.addr.toNat d] } := by
  unfold ropAnswer ropQueue; rw [rop_modRop_same]
theorem rop_ropAnswer_ne {k : Nat} (h : k ≠ n / 2) : rop (ropAnswer s n m st b d) k = rop s k := by
  unfold ropAnswer ropQueue; rw [rop_modRop_ne _ h]
@[simp] theorem link_ropAnswer (j : Nat) : link (ropAnswer s n m st b d) j = link s j := by unfold ropAnswer ropQueue; rw [link_modRop]
@[simp] theorem ropAnswer_faults : (ropAnswer s n m st b d).faults = s.faults := by unfold ropAnswer ropQueue; rw [modRop_faults]
@[simp] theorem ropAnswer_mem : (ropAnswer s n m st b d).mem = s.mem := by unfold ropAnswer ropQueue; rw [modRop_mem]
@[simp] theorem ropAnswer_twinPend : (ropAnswer s n m st b d).twinPend = s.twinPend := by unfold ropAnswer ropQueue; rw [modRop_twinPend]
end

/-! ### What a request leaves of its engine and of the links -/

/-- An operation of engine k is served: the other engines, the links and the engine's own operations stand. -/
structure ServedAt (s t : State) (k : Nat) : Prop where
  others : ∀ j, j ≠ k → rop t j = rop s j
  links : ∀ j, link t j = link s j
  out : (rop t k).out = (rop s k).out

theorem servedAt_answer {s v : State} {n : Nat} (h : ServedAt s v (n / 2)) (m : RopMsg) (st b : Nat) (d : BitVec 1920) :
    ServedAt s (ropAnswer v n m st b d) (n / 2) where
  others j hj := (rop_ropAnswer_ne v n m st b d hj).trans (h.others j hj)
  links j := (link_ropAnswer ..).trans (h.links j)
  out := by rw [rop_ropAnswer_same]; exact h.out

/-- A request is refused: recorded, and answered with its status. -/
def ropRefused (s : State) (n : Nat) (m : RopMsg) (st : Nat) : State := ropAnswer (raise090B s n m st) n m st 0 0
/-- A write already marked is counted and answered STATUS 1. -/
def ropRepeated (s : State) (n : Nat) (m : RopMsg) : State := ropAnswer (bump s (lnkA (2 * (n / 2)) 0x060) 16 16) n m 1 0 0
/-- A write is marked, takes effect and is answered STATUS 0. -/
def ropApplied (s : State) (n : Nat) (m : RopMsg) : State :=
  ropAnswer (ropWrite (modRop s (n / 2) fun r => markSeq r m.rwseq.toNat) m) n m 0 0 0

@[simp] theorem rop_raise090B (s : State) (n : Nat) (m : RopMsg) (st k : Nat) : rop (raise090B s n m st) k = rop s k := rop_raiseLnk ..
@[simp] theorem link_raise090B (s : State) (n : Nat) (m : RopMsg) (st j : Nat) : link (raise090B s n m st) j = link s j := link_raise ..
@[simp] theorem raise090B_mem (s : State) (n : Nat) (m : RopMsg) (st : Nat) : (raise090B s n m st).mem = s.mem := raise_mem ..
@[simp] theorem raise090B_twinPend (s : State) (n : Nat) (m : RopMsg) (st : Nat) : (raise090B s n m st).twinPend = s.twinPend := raise_twinPend ..

theorem servedAt_refused (s : State) (n : Nat) (m : RopMsg) (st : Nat) : ServedAt s (ropRefused s n m st) (n / 2) :=
  servedAt_answer ⟨fun _ _ => rop_raise090B .., fun _ => link_raise090B .., congrArg RopS.out (rop_raise090B ..)⟩ ..

theorem servedAt_repeated (s : State) (n : Nat) (m : RopMsg) : ServedAt s (ropRepeated s n m) (n / 2) :=
  servedAt_answer ⟨fun _ _ => rop_bump .., fun _ => link_bump .., congrArg RopS.out (rop_bump ..)⟩ ..

/-- What a refusal leaves: one record, the answer, and nothing applied or marked. -/
theorem ropRefused_facts (s : State) (n : Nat) (m : RopMsg) (st : Nat) : let t := ropRefused s n m st
    Recorded s t 0x090B 2 ∧ t.mem = s.mem ∧ t.twinPend = s.twinPend ∧ (rop t (n / 2)).marks = (rop s (n / 2)).marks ∧
      (rop t (n / 2)).sendQ = (rop s (n / 2)).sendQ ++ [ropPkt 3 st m.rwseq.toNat 0 m.env.toNat m.addr.toNat 0] := by
  unfold ropRefused
  refine ⟨recorded_of_faults (raise_recorded s ..) (ropAnswer_faults ..), ?_, ?_, ?_, ?_⟩
  · rw [ropAnswer_mem, raise090B_mem]
  · rw [ropAnswer_twinPend, raise090B_twinPend]
  · rw [rop_ropAnswer_same, rop_raise090B]
  · rw [rop_ropAnswer_same, rop_raise090B]

/-- What a repeated write leaves: the answer, and nothing recorded or applied. -/
theorem ropRepeated_facts (s : State) (n : Nat) (m : RopMsg) : let t := ropRepeated s n m
    t.faults = s.faults ∧ t.mem = s.mem ∧ t.twinPend = s.twinPend ∧
      (rop t (n / 2)).sendQ = (rop s (n / 2)).sendQ ++ [ropPkt 3 1 m.rwseq.toNat 0 m.env.toNat m.addr.toNat 0] := by
  unfold ropRepeated
  refine ⟨?_, ?_, ?_, ?_⟩
  · rw [ropAnswer_faults, bump_faults]
  · rw [ropAnswer_mem, bump_mem]
  · rw [ropAnswer_twinPend, bump_twinPend]
  · rw [rop_ropAnswer_same, rop_bump]

/-! ### A write applied (R306, R381) -/

theorem ropWrite_stored {s : State} {m : RopMsg} (h : inMirror s m.addr.toNat = false) :
    ∃ x, ropWrite s m = { s with mem := writeBytes s.mem m.addr.toNat (leBytes m.bytes.toNat m.data.toNat), sec := x } := by
  unfold ropWrite
  simp only
  rw [if_neg (by simp [h])]
  exact storeBytes_only ..

theorem ropWrite_mirrored {s : State} {m : RopMsg} (h : inMirror s m.addr.toNat = true) :
    ropWrite s m = { s with twinPend := s.twinPend ++ [(m.addr.toNat, leBytes m.bytes.toNat m.data.toNat)] } := if_pos h

/-- A write changes memory, its sectors' errors and the mirror's pending writes, nothing else. -/
theorem ropWrite_ex (s : State) (m : RopMsg) : ∃ a x w, ropWrite s m = { s with mem := a, sec := x, twinPend := w } := by
  cases h : inMirror s m.addr.toNat with
  | true => exact ⟨_, _, _, ropWrite_mirrored h⟩
  | false => obtain ⟨x, hx⟩ := ropWrite_stored h; exact ⟨_, x, _, hx⟩

@[simp] theorem rop_ropWrite (s : State) (m : RopMsg) (k : Nat) : rop (ropWrite s m) k = rop s k := by
  obtain ⟨a, x, w, h⟩ := ropWrite_ex s m; rw [h]; rfl
@[simp] theorem link_ropWrite (s : State) (m : RopMsg) (j : Nat) : link (ropWrite s m) j = link s j := by
  obtain ⟨a, x, w, h⟩ := ropWrite_ex s m; rw [h]; rfl
@[simp] theorem ropWrite_faults (s : State) (m : RopMsg) : (ropWrite s m).faults = s.faults := by
  obtain ⟨a, x, w, h⟩ := ropWrite_ex s m; rw [h]

/-- A number that is not earlier than the window's last place is in the window it slides, and marked. -/
theorem mem_marks_markSeq {r : RopS} {q : Nat}
    (h : ∀ x, r.hi = some x → (x + 65536 - q) % 65536 ≤ 255 ∨ 32768 < (x + 65536 - q) % 65536) : q ∈ (markSeq r q).marks := by
  unfold markSeq
  refine List.mem_filter.2 ⟨by simp, decide_eq_true ?_⟩
  cases hhi : r.hi with
  | none => simp only; omega
  | some x =>
    have hx := h x hhi
    simp only
    split <;> omega

theorem servedAt_applied (s : State) (n : Nat) (m : RopMsg) : ServedAt s (ropApplied s n m) (n / 2) := by
  refine servedAt_answer ⟨fun j hj => ?_, fun j => ?_, ?_⟩ ..
  · rw [rop_ropWrite, rop_modRop_ne _ hj]
  · rw [link_ropWrite, link_modRop]
  · rw [rop_ropWrite, rop_modRop_same]; rfl

theorem rop_ropApplied (s : State) (n : Nat) (m : RopMsg) : rop (ropApplied s n m) (n / 2) =
    { markSeq (rop s (n / 2)) m.rwseq.toNat with sendQ := (rop s (n / 2)).sendQ ++ [ropPkt 3 0 m.rwseq.toNat 0 m.env.toNat m.addr.toNat 0] } := by
  unfold ropApplied
  rw [rop_ropAnswer_same, rop_ropWrite, rop_modRop_same]
  rfl

theorem ropApplied_faults (s : State) (n : Nat) (m : RopMsg) : (ropApplied s n m).faults = s.faults := by
  unfold ropApplied
  rw [ropAnswer_faults, ropWrite_faults, modRop_faults]

theorem ropApplied_stored {s : State} (n : Nat) {m : RopMsg} (h : inMirror s m.addr.toNat = false) :
    (ropApplied s n m).mem = writeBytes s.mem m.addr.toNat (leBytes m.bytes.toNat m.data.toNat) ∧ (ropApplied s n m).twinPend = s.twinPend := by
  obtain ⟨x, hx⟩ := ropWrite_stored (s := modRop s (n / 2) fun r => markSeq r m.rwseq.toNat) h
  unfold ropApplied
  rw [ropAnswer_mem, ropAnswer_twinPend, hx]
  exact ⟨rfl, rfl⟩

theorem ropApplied_mirrored {s : State} (n : Nat) {m : RopMsg} (h : inMirror s m.addr.toNat = true) :
    (ropApplied s n m).mem = s.mem ∧ (ropApplied s n m).twinPend = s.twinPend ++ [(m.addr.toNat, leBytes m.bytes.toNat m.data.toNat)] := by
  unfold ropApplied
  rw [ropAnswer_mem, ropAnswer_twinPend, ropWrite_mirrored (s := modRop s (n / 2) fun r => markSeq r m.rwseq.toNat) h]
  exact ⟨rfl, rfl⟩

/-! ### Requests (R306) -/

/-- A write's number is earlier than the window. -/
def earlier (r : RopS) (q : Nat) : Bool := r.hi.any fun h => decide (255 < (h + 65536 - q) % 65536 ∧ (h + 65536 - q) % 65536 ≤ 32768)

/-- A write as the engine serves it. -/
def rwriteServed (s : State) (n : Nat) (m : RopMsg) : State :=
  if !inWindow s (n / 2) m then ropRefused s n m 2
  else if (rop s (n / 2)).marks.contains m.rwseq.toNat then ropRepeated s n m
  else if earlier (rop s (n / 2)) m.rwseq.toNat then ropRefused s n m 3
  else ropApplied s n m

/-- A read as the engine serves it. -/
def rreadServed (s : State) (n : Nat) (m : RopMsg) : State :=
  if !inWindow s (n / 2) m then ropRefused s n m 2
  else ropAnswer s n m 0 m.bytes.toNat (BitVec.ofNat 1920 (leNat (readBytes s.mem m.addr.toNat m.bytes.toNat)))

section
variable {s : State} {n : Nat} {m : RopMsg}

theorem rwriteServed_outside (hw : inWindow s (n / 2) m = false) : rwriteServed s n m = ropRefused s n m 2 := if_pos (by simp [hw])

section
variable (hw : inWindow s (n / 2) m = true)
include hw

theorem rwriteServed_marked (hc : (rop s (n / 2)).marks.contains m.rwseq.toNat = true) : rwriteServed s n m = ropRepeated s n m :=
  (if_neg (by simp [hw])).trans (if_pos hc)

theorem rwriteServed_earlier (hc : (rop s (n / 2)).marks.contains m.rwseq.toNat = false) {h : Nat} (hhi : (rop s (n / 2)).hi = some h)
    (hfar : 255 < (h + 65536 - m.rwseq.toNat) % 65536) (hold : (h + 65536 - m.rwseq.toNat) % 65536 ≤ 32768) :
    rwriteServed s n m = ropRefused s n m 3 := by
  have he : earlier (rop s (n / 2)) m.rwseq.toNat = true := by
    unfold earlier; rw [hhi, Option.any_some]; exact decide_eq_true ⟨hfar, hold⟩
  unfold rwriteServed
  rw [if_neg (by simp [hw]), if_neg (by rw [hc]; decide), if_pos he]

theorem rwriteServed_new (hc : (rop s (n / 2)).marks.contains m.rwseq.toNat = false)
    (hnew : ∀ h, (rop s (n / 2)).hi = some h → (h + 65536 - m.rwseq.toNat) % 65536 ≤ 255 ∨ 32768 < (h + 65536 - m.rwseq.toNat) % 65536) :
    rwriteServed s n m = ropApplied s n m := by
  have he : earlier (rop s (n / 2)) m.rwseq.toNat = false := by
    unfold earlier
    cases hhi : (rop s (n / 2)).hi with
    | none => rfl
    | some h =>
      have hh := hnew h hhi
      rw [Option.any_some]
      exact decide_eq_false fun hold => by omega
  unfold rwriteServed
  rw [if_neg (by simp [hw]), if_neg (by rw [hc]; decide), if_neg (by rw [he]; decide)]

theorem rreadServed_inside : rreadServed s n m = ropAnswer s n m 0 m.bytes.toNat (BitVec.ofNat 1920 (leNat (readBytes s.mem m.addr.toNat m.bytes.toNat))) :=
  if_neg (by simp [hw])
end

theorem rreadServed_outside (hw : inWindow s (n / 2) m = false) : rreadServed s n m = ropRefused s n m 2 := if_pos (by simp [hw])

theorem servedAt_rwriteServed (s : State) (n : Nat) (m : RopMsg) : ServedAt s (rwriteServed s n m) (n / 2) := by
  unfold rwriteServed
  split
  · exact servedAt_refused ..
  · split
    · exact servedAt_repeated ..
    · split
      · exact servedAt_refused ..
      · exact servedAt_applied ..

/-- A read applies nothing and marks nothing. -/
theorem rreadServed_kept (s : State) (n : Nat) (m : RopMsg) : let t := rreadServed s n m
    t.mem = s.mem ∧ t.twinPend = s.twinPend ∧ (rop t (n / 2)).marks = (rop s (n / 2)).marks := by
  obtain ⟨-, hmem, htwin, hmarks, -⟩ := ropRefused_facts s n m 2
  unfold rreadServed
  split
  · exact ⟨hmem, htwin, hmarks⟩
  · exact ⟨ropAnswer_mem .., ropAnswer_twinPend .., by rw [rop_ropAnswer_same]⟩
end

/-! ### The end of an operation (R307) -/

/-- An operation is outstanding no longer; where its end is a failure of the commit engine's, its item is noted. -/
def opEnded (s : State) (k : Nat) (o : RopOp) (c : Prop) [Decidable c] : State :=
  let v := modRop s k fun r => { r with out := r.out.erase o }
  if c then { v with mirrorBad := v.mirrorBad ++ [(o.env, o.item)] } else v

section
variable (s : State) (k : Nat) (o : RopOp) (c : Prop) [Decidable c]

theorem opEnded_ex : ∃ x b, opEnded s k o c = { s with rops := x, mirrorBad := b } := by
  unfold opEnded
  simp only
  split
  · exact ⟨_, _, rfl⟩
  · exact ⟨_, _, rfl⟩

@[simp] theorem rop_opEnded : rop (opEnded s k o c) k = { rop s k with out := (rop s k).out.erase o } := by
  have hmod : rop (opEnded s k o c) k = rop (modRop s k fun r => { r with out := r.out.erase o }) k := by
    unfold opEnded
    simp only
    split
    · exact rop_congr rfl k
    · rfl
  rw [hmod, rop_modRop_same]

@[simp] theorem opEnded_sent : (opEnded s k o c).sent = s.sent := by obtain ⟨x, b, h⟩ := opEnded_ex s k o c; rw [h]

/-- What is recorded after the end is recorded since before it. -/
theorem recorded_after_end {t : State} {code sev : Nat} (h : Recorded (opEnded s k o c) t code sev) : Recorded s t code sev := by
  obtain ⟨x, b, hx⟩ := opEnded_ex s k o c
  rw [hx] at h
  exact h
end

section
variable {n : Fin 24} {p : Fin 8} {m : RopMsg} {s : State} (hp : s.phase ≤ p.val) (hwf : ropWf m = true) (hup : lnkSt (runTo s p.val) n.val = 3)
  (hq : m.seq.toNat = (link (runTo s p.val) n.val).rxNext)
include hp hwf hup hq

theorem rwrite_accepted : exec (.rwrite n p m) s = .next (rwriteServed (ropArrived (runTo s p.val) n.val m) n.val m) := by
  show execRwrite n p m s = _
  unfold execRwrite
  rw [if_neg (by simp [hwf]), whenAt_run s p.val hp, ropTake_accepted hup hq]
  rfl

theorem rread_accepted : exec (.rread n p m) s = .next (rreadServed (ropArrived (runTo s p.val) n.val m) n.val m) := by
  show execRread n p m s = _
  unfold execRread
  rw [if_neg (by simp [hwf]), whenAt_run s p.val hp, ropTake_accepted hup hq]
  rfl

/-! ### Responses (R307) -/

theorem rresp_unasked (hnone : ∀ x ∈ (rop (runTo s p.val) (n.val / 2)).out, x.seq ≠ m.rwseq.toNat) :
    exec (.rresp n p m) s = .next (bump (ropArrived (runTo s p.val) n.val m) (lnkA (2 * (n.val / 2)) 0x060) 0 16) := by
  have hfind : ((rop (ropArrived (runTo s p.val) n.val m) (n.val / 2)).out.find? fun o => o.seq == m.rwseq.toNat) = none := by
    rw [rop_ropArrived]
    exact List.find?_eq_none.2 fun x hx => by simpa using hnone x hx
  show execRresp n p m s = _
  unfold execRresp
  rw [if_neg (by simp [hwf]), whenAt_run s p.val hp, ropTake_accepted hup hq]
  simp only
  rw [hfind]

theorem rresp_completes {o : RopOp} {l : List RopOp} (hout : (rop (runTo s p.val) (n.val / 2)).out = o :: l) (ho : o.seq = m.rwseq.toNat)
    (hwait : (rop (runTo s p.val) (n.val / 2)).wait = []) :
    exec (.rresp n p m) s = .next (emit (opEnded (ropArrived (runTo s p.val) n.val m) (n.val / 2) o (o.who = 0 ∧ 2 ≤ m.status.toNat))
      (.ropDone (n.val / 2) m.rwseq.toNat m.status.toNat m.data)) := by
  have hfind : ((rop (ropArrived (runTo s p.val) n.val m) (n.val / 2)).out.find? fun o => o.seq == m.rwseq.toNat) = some o := by
    rw [rop_ropArrived, hout]
    exact List.find?_cons_of_pos (by simpa using ho)
  have hidle : ropIssue (opEnded (ropArrived (runTo s p.val) n.val m) (n.val / 2) o (o.who = 0 ∧ 2 ≤ m.status.toNat)) (n.val / 2) = _ :=
    ropIssue_idle (by rw [rop_opEnded, rop_ropArrived, hwait])
  rw [← hidle]
  show execRresp n p m s = _
  unfold execRresp opEnded
  rw [if_neg (by simp [hwf]), whenAt_run s p.val hp, ropTake_accepted hup hq]
  simp only
  rw [hfind]
end

/-! ### Deadlines (R307) -/

/-- An operation with its number waits ROP_TIMEOUT longer, with one reissue fewer. -/
def deadlineMoved (s : State) (k : Nat) (o : RopOp) : State :=
  modRop s k fun r => { r with out := r.out.map fun x => if x.seq = o.seq then { x with left := x.left - 1, deadline := x.deadline + ropTimeout s k } else x }
/-- The operation is issued again, counted. -/
def ropReissued (s : State) (k : Nat) (o : RopOp) : State :=
  ropQueue (bump (deadlineMoved s k o) (lnkA (2 * k) 0x060) 32 16) k (ropPkt o.op 0 o.seq o.bytes o.env o.addr o.data)

/-- The operation has failed and is recorded. -/
def ropFailed (s : State) (k : Nat) (o : RopOp) : State :=
  raiseLnk s (2 * k) 0x090A 2 [(1, 1, o.op), (2, 2, o.seq), (4, 2, rf s (lnkA (2 * k) 0x000) 51 13)]

section
variable {k : Fin 12} {q : BitVec 16} {s : State} {o : RopOp} {l : List RopOp} (hout : (rop s k.val).out = o :: l) (ho : o.seq = q.toNat)

include hout ho in
theorem out_find : ((rop s k.val).out.find? fun o => o.seq == q.toNat) = some o := by
  rw [hout]; exact List.find?_cons_of_pos (by simpa using ho)

include hout ho in
theorem ropDeadline_early (ht : ttc s < o.deadline) : exec (.ropDeadline k q) s = .next s := by
  show execRopDeadline k q s = _
  unfold execRopDeadline
  rw [out_find hout ho]
  simp only
  rw [if_pos ht]

include hout ho in
theorem ropDeadline_reissues (ht : o.deadline ≤ ttc s) (hl : 0 < o.left) : exec (.ropDeadline k q) s = .next (ropReissued s k.val o) := by
  show execRopDeadline k q s = _
  unfold execRopDeadline
  rw [out_find hout ho]
  simp only
  rw [if_neg (by omega), if_pos hl]
  rfl

include hout ho in
theorem ropDeadline_fails (ht : o.deadline ≤ ttc s) (hl : o.left = 0) (hwait : (rop s k.val).wait = []) :
    exec (.ropDeadline k q) s = .next (ropFailed (opEnded s k.val o (o.who = 0)) k.val o) := by
  have hidle : ropIssue (ropFailed (opEnded s k.val o (o.who = 0)) k.val o) k.val = _ :=
    ropIssue_idle (by unfold ropFailed; rw [rop_raiseLnk, rop_opEnded, hwait])
  rw [← hidle]
  show execRopDeadline k q s = _
  unfold execRopDeadline opEnded ropFailed
  rw [out_find hout ho]
  simp only
  rw [if_neg (by omega), if_neg (by omega)]

include hout in
theorem rop_ropReissued (hl : ∀ x ∈ l, x.seq ≠ o.seq) : rop (ropReissued s k.val o) k.val =
    { rop s k.val with out := { o with left := o.left - 1, deadline := o.deadline + ropTimeout s k.val } :: l,
                       sendQ := (rop s k.val).sendQ ++ [ropPkt o.op 0 o.seq o.bytes o.env o.addr o.data] } := by
  have hrest : (l.map fun x => if x.seq = o.seq then { x with left := x.left - 1, deadline := x.deadline + ropTimeout s k.val } else x) = l :=
    (List.map_congr_left fun x hx => if_neg (hl x hx)).trans l.map_id
  unfold ropReissued ropQueue deadlineMoved
  rw [rop_modRop_same, rop_bump, rop_modRop_same, hout, List.map_cons, if_pos rfl, hrest]

theorem ropReissued_faults (s : State) (k : Nat) (o : RopOp) : (ropReissued s k o).faults = s.faults := by
  unfold ropReissued ropQueue deadlineMoved
  rw [modRop_faults, bump_faults, modRop_faults]
end

/-! ### Ranging (R298, R323) -/

theorem countFailure_coldDue (s : State) : (countFailure s).coldDue = s.coldDue := by
  unfold countFailure showStartRec
  split
  · rfl
  · split <;> rw [setRg_coldDue]

/-- A stage that fails reads 15 (R422). -/
theorem stage_failStage {s : State} (code : Nat) (h : s.coldDue = false) : stage (failStage s code) = 15 := by
  unfold failStage coldIfDue
  rw [if_neg (by rw [setRf_coldDue, countFailure_coldDue, setRf_coldDue, setRf_coldDue, h]; decide)]
  exact rf_setRf_same _ _ _ (by decide)

/-- The two records of a failed ranging. -/
def rangingNoted (s : State) (n reason flight : Nat) : State :=
  let seen := (link s n).ident.getD (0, 0)
  raise (raiseLnk s n 0x090C 4 [(1, 1, reason), (2, 2, flight), (4, 2, flightA s n), (6, 2, seen.1), (8, 1, seen.2)]) 0x0A0E 4 0x00 0 0xFFFF (det [(0, 1, n)])

theorem rangingNoted_faults (s : State) (n reason flight : Nat) :
    ∃ f g : FaultRec, (rangingNoted s n reason flight).faults = s.faults ++ [f, g] ∧ f.code = 0x090C ∧ f.sev = 4 ∧ g.code = 0x0A0E ∧ g.sev = 4 := by
  unfold rangingNoted raiseLnk
  simp only [raise_faults, List.append_assoc, List.singleton_append]
  exact ⟨_, _, rfl, rfl, rfl, rfl, rfl⟩

theorem rangingNoted_halted (s : State) (n reason flight : Nat) : (rangingNoted s n reason flight).halted = true := by
  unfold rangingNoted
  exact raise_halts ..

theorem rangingNoted_coldDue (s : State) (n reason flight : Nat) : (rangingNoted s n reason flight).coldDue = s.coldDue := by
  unfold rangingNoted raiseLnk
  simp only [raise_coldDue]

/-- A failed ranging records 0x090C and 0x0A0E, halts the device and fails the stage. -/
theorem rangingFails_facts {s : State} (n reason flight : Nat) (h : s.coldDue = false) : let t := rangingFails s n reason flight
    t.halted = true ∧ stage t = 15 ∧ ∃ f g : FaultRec, t.faults = s.faults ++ [f, g] ∧ f.code = 0x090C ∧ f.sev = 4 ∧ g.code = 0x0A0E ∧ g.sev = 4 := by
  have heq : rangingFails s n reason flight = failStage (parRefuse (rangingNoted s n reason flight) 0x0A0E 0xFFFF 0) 0x0A0E := rfl
  obtain ⟨r, x, o, hpar⟩ := parRefuse_ex (rangingNoted s n reason flight) 0x0A0E 0xFFFF 0
  have hcold : (parRefuse (rangingNoted s n reason flight) 0x0A0E 0xFFFF 0).coldDue = false := by
    rw [hpar]; exact (rangingNoted_coldDue s n reason flight).trans h
  obtain ⟨r', y, hfail⟩ := failStage_ex _ 0x0A0E hcold
  simp only
  rw [heq]
  refine ⟨?_, stage_failStage _ hcold, ?_⟩
  · rw [hfail, hpar]; exact rangingNoted_halted s n reason flight
  · rw [hfail, hpar]; exact rangingNoted_faults s n reason flight

/-- A flight measured is kept, and its link is up. -/
def flightKept (s : State) (n m : Nat) : State :=
  setLnkSt (modLink (setRf s (lnkA n 0x018) 0 16 m) n fun l => { linkComesUp l with delays := [], ranged := true }) n 3

theorem rg_flightKept_ne (s : State) {n a : Nat} (m : Nat) (hf : a ≠ lnkA n 0x018) (hs : a ≠ lnkA n 0x008) : rg (flightKept s n m) a = rg s a := by
  unfold flightKept setLnkSt
  rw [rg_setRf_ne _ hs, rg_modLink, rg_setRf_ne _ hf]

theorem stage_flightKept (s : State) (n m : Nat) : stage (flightKept s n m) = stage s := by
  unfold stage rf
  rw [rg_flightKept_ne s m (kelA_ne_lnkA (by decide) n _) (kelA_ne_lnkA (by decide) n _)]

theorem usedLinks_flightKept (s : State) (n m : Nat) : usedLinks (flightKept s n m) = usedLinks s := by
  have hcfg (k : Nat) {o : Nat} (h0 : 0 < o) (h1 : o < 0x10000) : lnkA k 0x000 ≠ lnkA n o := by unfold lnkA; omega
  unfold usedLinks rf
  simp only [rg_flightKept_ne s m (hcfg _ (by decide) (by decide)) (hcfg _ (by decide) (by decide))]

theorem link_flightKept_same (s : State) (n m : Nat) : link (flightKept s n m) n = { linkComesUp (link s n) with delays := [], ranged := true } := by
  unfold flightKept
  rw [link_setLnkSt, link_modLink_same, link_setRf]

theorem link_flightKept_ne (s : State) {n j : Nat} (h : j ≠ n) (m : Nat) : link (flightKept s n m) j = link s j := by
  unfold flightKept
  rw [link_setLnkSt, link_modLink_ne _ h, link_setRf]

theorem lnkSt_flightKept (s : State) (n m : Nat) : lnkSt (flightKept s n m) n = 3 := by
  unfold flightKept
  exact lnkSt_setLnkSt_same _ n (by decide)

theorem flightM_flightKept (s : State) (n m : Nat) : rf (flightKept s n m) (lnkA n 0x018) 0 16 = m % 65536 := by
  unfold flightKept setLnkSt
  rw [rf_setRf_ne _ (lnkA_ne_offset n (by decide)), rf_modLink, rf_setRf_same _ _ _ (by decide)]
  rfl

theorem flightKept_faults (s : State) (n m : Nat) : (flightKept s n m).faults = s.faults := by
  unfold flightKept
  rw [setLnkSt_faults, modLink_faults, setRf_faults]

/-- What ranging finds of a link (R298). -/
def rangingJudged (s : State) (n : Nat) : State :=
  if !(usedLinks s).contains n || lnkSt s n != 2 then s
  else match (link s n).ident with
    | none => s
    | some (d, k) =>
      if !identGood s n d k then rangingFails s n 4 0
      else if (link s n).delays.length < 64 then s
      else
        let m := (medianOf (link s n).delays).toNat
        if flightReason s n m ≠ 0 then rangingFails s n (flightReason s n m) m else flightKept s n m

/-- The stage goes on while it is another, or a used link has no flight yet. -/
theorem ranging_goesOn {n : Fin 24} {s : State} (hstage : stage s = 8)
    (h : ¬ (stage (rangingJudged s n.val) = 8 ∧ (usedLinks (rangingJudged s n.val)).all (fun k => (link (rangingJudged s n.val) k).ranged) = true)) :
    exec (.ranging n) s = .next (rangingJudged s n.val) := by
  have hrun : exec (.ranging n) s = .next (if stage (rangingJudged s n.val) = 8 ∧ (usedLinks (rangingJudged s n.val)).all (fun k => (link (rangingJudged s n.val) k).ranged) = true
      then sendSecchk (endStage (setParState (rangingJudged s n.val) 5)) else rangingJudged s n.val) := by
    show execRanging n s = _
    unfold execRanging
    rw [if_neg (not_not.2 hstage)]
    unfold rangingJudged flightKept
    rfl
  rw [hrun, if_neg h]

section
variable {n : Fin 24} {s : State} {d k : Nat} (hstage : stage s = 8) (hused : (usedLinks s).contains n.val = true) (hst : lnkSt s n.val = 2)
  (hident : (link s n.val).ident = some (d, k))
include hstage hused hst hident

theorem ranging_refused (hbad : identGood s n.val d k = false) (hcold : s.coldDue = false) : exec (.ranging n) s = .next (rangingFails s n.val 4 0) := by
  obtain ⟨-, hfailed, -⟩ := rangingFails_facts n.val 4 0 hcold
  have hjudged : rangingJudged s n.val = rangingFails s n.val 4 0 := by
    unfold rangingJudged
    rw [if_neg (by rw [hused, hst]; decide), hident]
    exact if_pos (by rw [hbad]; decide)
  rw [← hjudged] at hfailed ⊢
  exact ranging_goesOn hstage fun h => by omega

theorem ranging_kept (hgood : identGood s n.val d k = true) (hn : 64 ≤ (link s n.val).delays.length)
    (hflight : flightReason s n.val (medianOf (link s n.val).delays).toNat = 0) (hmore : ∃ m ∈ usedLinks s, m ≠ n.val ∧ (link s m).ranged = false) :
    exec (.ranging n) s = .next (flightKept s n.val (medianOf (link s n.val).delays).toNat) := by
  obtain ⟨j, hj, hjn, hranged⟩ := hmore
  have hjudged : rangingJudged s n.val = flightKept s n.val (medianOf (link s n.val).delays).toNat := by
    unfold rangingJudged
    rw [if_neg (by rw [hused, hst]; decide), hident]
    simp only
    rw [if_neg (by rw [hgood]; decide), if_neg (by omega), if_neg (not_not.2 hflight)]
  rw [ranging_goesOn hstage, hjudged]
  rintro ⟨-, hall⟩
  rw [hjudged, usedLinks_flightKept] at hall
  have := List.all_eq_true.1 hall j hj
  rw [link_flightKept_ne s hjn, hranged] at this
  exact absurd this (by decide)
end

/-- Settles O42: a request is served as `rwriteServed` and `rreadServed` say, an operation ends by `rresp_completes` or its deadlines, and a
ranging by `rangingFails_facts` or `flightKept`. -/
theorem remoteOperations : Obligations.RemoteOperations := by
  refine ⟨?write, ?read, ?response, ?deadline, ?ranging⟩
  case write =>
    intro n p m s hp u q hwf hup hq
    obtain ⟨v, hv⟩ : ∃ v, v = ropArrived u n.val m := ⟨_, rfl⟩
    obtain ⟨l, hl⟩ := ropArrived_ex u n.val m
    have hrop : rop v (n.val / 2) = rop u (n.val / 2) := by rw [hv, rop_ropArrived]
    obtain ⟨hothers, hlinks, hout⟩ := servedAt_rwriteServed v n.val m
    refine ⟨rwriteServed v n.val m, hv ▸ rwrite_accepted hp hwf hup hq, fun k hk => ?_, fun j hj => ?_, ?_, hout.trans (by rw [hrop]), fun hw => ?outside,
      fun hw hc => ?marked, fun h hw hc hhi hfar hold => ?earlier, fun hw hc hnew => ?new⟩
    · rw [hothers k hk, hv, rop_ropArrived]
    · rw [hlinks, hv, link_ropArrived_ne u hj]
    · rw [hlinks, hv, rxNext_ropArrived]
    case outside =>
      obtain ⟨hrec, hmem, htwin, hmarks, hsend⟩ := ropRefused_facts v n.val m 2
      rw [rwriteServed_outside (by rw [hv, hl]; exact hw)]
      rw [hrop] at hmarks hsend
      rw [hv] at hrec
      exact ⟨hv ▸ recorded_after_arrival hrec, hmem.trans (by rw [hv, hl]), htwin.trans (by rw [hv, hl]), hmarks, hsend⟩
    case marked =>
      obtain ⟨hfaults, hmem, htwin, hsend⟩ := ropRepeated_facts v n.val m
      rw [rwriteServed_marked (by rw [hv, hl]; exact hw) (by rw [hrop]; exact hc)]
      rw [hrop] at hsend
      exact ⟨hfaults.trans (by rw [hv, hl]), hmem.trans (by rw [hv, hl]), htwin.trans (by rw [hv, hl]), hsend⟩
    case earlier =>
      obtain ⟨hrec, hmem, htwin, -, hsend⟩ := ropRefused_facts v n.val m 3
      rw [rwriteServed_earlier (by rw [hv, hl]; exact hw) (by rw [hrop]; exact hc) (by rw [hrop]; exact hhi) hfar hold]
      rw [hrop] at hsend
      rw [hv] at hrec
      exact ⟨hv ▸ recorded_after_arrival hrec, hmem.trans (by rw [hv, hl]), htwin.trans (by rw [hv, hl]), hsend⟩
    case new =>
      have hmark : q ∈ (markSeq (rop u (n.val / 2)) q).marks := mem_marks_markSeq hnew
      rw [rwriteServed_new (by rw [hv, hl]; exact hw) (by rw [hrop]; exact hc) (by rw [hrop]; exact hnew), rop_ropApplied, hrop]
      refine ⟨(ropApplied_faults ..).trans (by rw [hv, hl]), rfl, hmark, fun hm => ?_, fun hm => ?_⟩
      · obtain ⟨hmem, htwin⟩ := ropApplied_stored (s := v) n.val (m := m) (by rw [hv, hl]; exact hm)
        exact ⟨hmem.trans (by rw [hv, hl]), htwin.trans (by rw [hv, hl])⟩
      · obtain ⟨hmem, htwin⟩ := ropApplied_mirrored (s := v) n.val (m := m) (by rw [hv, hl]; exact hm)
        exact ⟨hmem.trans (by rw [hv, hl]), htwin.trans (by rw [hv, hl])⟩
  case read =>
    intro n p m s hp u hwf hup hq
    obtain ⟨v, hv⟩ : ∃ v, v = ropArrived u n.val m := ⟨_, rfl⟩
    obtain ⟨l, hl⟩ := ropArrived_ex u n.val m
    have hrop : rop v (n.val / 2) = rop u (n.val / 2) := by rw [hv, rop_ropArrived]
    obtain ⟨hmem, htwin, hmarks⟩ := rreadServed_kept v n.val m
    refine ⟨rreadServed v n.val m, hv ▸ rread_accepted hp hwf hup hq, hmem.trans (by rw [hv, hl]), htwin.trans (by rw [hv, hl]), hmarks.trans (by rw [hrop]),
      fun hw => ?_, fun hw => ?_⟩
    · obtain ⟨hrec, -, -, -, hsend⟩ := ropRefused_facts v n.val m 2
      rw [rreadServed_outside (by rw [hv, hl]; exact hw)]
      rw [hrop] at hsend
      rw [hv] at hrec
      exact ⟨hv ▸ recorded_after_arrival hrec, hsend⟩
    · rw [rreadServed_inside (by rw [hv, hl]; exact hw), rop_ropAnswer_same, hrop, show v.mem = u.mem by rw [hv, hl]]
      exact ⟨(ropAnswer_faults ..).trans (by rw [hv, hl]), rfl⟩
  case response =>
    intro n p m s hp u hwf hup hq
    refine ⟨fun hnone => ⟨_, rresp_unasked hp hwf hup hq hnone, ?_, ?_, ?_⟩, fun o l hout ho hwait => ?_⟩
    · rw [rop_bump, rop_ropArrived]
    · rw [bump_sent, ropArrived_sent]
    · rw [rf_bump_same _ _ (by decide), rf_ropArrived]
    · refine ⟨_, rresp_completes hp hwf hup hq hout ho hwait, ?_, ?_⟩
      · rw [rop_emit, rop_opEnded, rop_ropArrived, hout, List.erase_cons_head]
      · rw [sent_emit, opEnded_sent, ropArrived_sent]
  case deadline =>
    intro k q s o l hout ho hl
    refine ⟨fun ht => ropDeadline_early hout ho ht, fun ht hleft => ?_, fun ht hleft hwait => ?_⟩
    · have hown := rop_ropReissued hout fun x hx => ho ▸ hl x hx
      exact ⟨_, ropDeadline_reissues hout ho ht hleft, ropReissued_faults .., by rw [hown], by rw [hown]⟩
    · refine ⟨_, ropDeadline_fails hout ho ht hleft hwait, recorded_after_end s k.val o (o.who = 0) (raise_recorded ..), ?_⟩
      unfold ropFailed
      rw [rop_raiseLnk, rop_opEnded, hout, List.erase_cons_head]
  case ranging =>
    intro n s d k hstage hused hst hident
    refine ⟨fun hbad hcold => ?_, fun hgood hn hflight hmore => ?_⟩
    · obtain ⟨hhalted, hstage', f, g, hfaults⟩ := rangingFails_facts n.val 4 0 hcold
      exact ⟨_, f, g, ranging_refused hstage hused hst hident hbad hcold, hhalted, hstage', hfaults⟩
    · exact ⟨_, ranging_kept hstage hused hst hident hgood hn hflight hmore, flightKept_faults .., by rw [link_flightKept_same],
        lnkSt_flightKept .., (stage_flightKept ..).trans hstage, flightM_flightKept ..⟩

end Sys2Proof.Machine
end

section
/-!
PROOFS. The statements of the requests (chapter 13), in common: how an accepted request is judged, what it sees of its envelope, and what
the operations that several requests share leave alone.
-/
namespace Sys2Proof.Machine
open Sys2Proof

/-! ### How a request is judged (R347, R351) -/

section
variable {s : State} {e lsn kind : Nat} {t : Taken} {checks : State → Taken → List (Bool × Nat)} {f : State → Taken → State}

/-- A request that fails a check answers with its status and does nothing else. -/
theorem request_refused {code : Nat} (H : Accepted s e lsn kind t) (hfail : firstFail (checks (executing s e lsn) t) = some code) :
    ∃ u, (.next (request s e lsn kind checks f) : Host.Outcome State Fault Refusal) = .next u ∧ Answered s u e lsn t code 0 := by
  refine ⟨_, rfl, ?_⟩
  rw [request_accepted s H, hfail]
  exact answered ..

/-- A request that passes its checks has its effect. -/
theorem request_effect (H : Accepted s e lsn kind t) (hpass : firstFail (checks (executing s e lsn) t) = none) :
    request s e lsn kind checks f = f (executing s e lsn) t := by
  rw [request_accepted s H, hpass]
/-- A request that passes its checks and only answers does nothing else. -/
theorem request_answered {result : Nat} (H : Accepted s e lsn kind t) (hpass : firstFail (checks (executing s e lsn) t) = none)
    (heffect : f (executing s e lsn) t = answer (executing s e lsn) e t 0 result) :
    ∃ u, (.next (request s e lsn kind checks f) : Host.Outcome State Fault Refusal) = .next u ∧ Answered s u e lsn t 0 result := by
  refine ⟨_, rfl, ?_⟩
  rw [request_effect H hpass, heffect]
  exact answered ..
end

/-! ### What a request sees of its envelope: all as before it, but the mark -/

section
variable (s : State) (e lsn : Nat)

theorem pState_executing (z : Nat) : pState (executing s e lsn) z = pState s z := rfl
theorem maxPos_executing (d : Nat) : maxPos (executing s e lsn) d = maxPos s d := rfl
theorem dones_executing (d : Nat) : (srv (executing s e lsn) d).dones = (srv s d).dones := by
  rw [srv_executing]; split
  · rename_i h; rw [h]
  · rfl
theorem handleValid_executing (d h tenant : Nat) (lead : Bool) : handleValid (executing s e lsn) d h tenant lead = handleValid s d h tenant lead := by
  unfold handleValid; rw [srv_executing_c, srv_executing_p]; rfl
theorem openFrit_executing (d : Nat) (t : Taken) : openFrit (executing s e lsn) d t = openFrit s d t := by
  unfold openFrit; rw [srv_executing_c]
theorem freeHandle_executing (d c : Nat) : freeHandle (executing s e lsn) d c = freeHandle s d c := by
  unfold freeHandle; rw [srv_executing_p]; rfl
theorem freeFrit_executing (d : Nat) : freeFrit (executing s e lsn) d = freeFrit s d := by
  unfold freeFrit; rw [srv_executing_c, srv_executing_p]; rfl
theorem freeUnits_executing (d : Nat) : freeUnits (executing s e lsn) d = freeUnits s d := by
  unfold freeUnits; rw [srv_executing]; split
  · rename_i h; rw [h]; rfl
  · rfl
theorem nextLsn_executing (d : Nat) : (srv (executing s e lsn) d).nextLsn = (srv s d).nextLsn := by
  rw [srv_executing]; split
  · rename_i h; rw [h]
  · rfl
end

/-! ### Shared operations -/

/-- Words of two streams lie at different places of the stream table. -/
theorem word_ne {y z w x : Nat} (hy : y ≠ z) (hw : w < 16) (hx : x < 16) : 16 * y + w ≠ 16 * z + x := by omega

section
variable (s : State) (e : Nat)

theorem pState_answer (t : Taken) (status result z : Nat) : pState (answer s e t status result) z = pState s z := rfl
theorem dones_answer (t : Taken) (status result : Nat) : (srv (answer s e t status result) e).dones = (srv s e).dones ++ [doneRec t status result] := by
  rw [srv_answer, if_pos rfl]
theorem pend_answer (t : Taken) (status result : Nat) : (srv (answer s e t status result) e).p = (srv s e).p := by
  rw [srv_answer, if_pos rfl]

/-- Users counted at handles are no words, answers or keys. -/
theorem foldl_modHandle_keeps {α : Type} (l : List α) (ix : α → Nat) (f : Handle → Handle) :
    (∀ y w, pword (l.foldl (fun s a => modHandle s e (ix a) f) s) y w = pword s y w) ∧
      (srv (l.foldl (fun s a => modHandle s e (ix a) f) s) e).dones = (srv s e).dones ∧
      (l.foldl (fun s a => modHandle s e (ix a) f) s).envKeys = s.envKeys :=
  ⟨fun y w => foldl_keeps l _ (fun s => pword s y w) (fun _ _ => pword_modHandle ..) s, foldl_keeps l _ (fun s => (srv s e).dones) (fun _ _ => dones_modHandle ..) s,
    foldl_keeps l _ (fun s => s.envKeys) (fun _ _ => envKeys_modHandle ..) s⟩
end

end Sys2Proof.Machine
end

section
/-!
PROOFS. The statement of OPEN, APPEND, SET, TRIM and CLOSE (chapter 13): the state each leaves, with its parts named, what that state holds
of the stream words and answers, then the theorem that settles it.
-/
namespace Sys2Proof.Machine
open Sys2Proof

/-! ### A stream's generation and its words -/

/-- The stream's generation is over: nothing is drawn for it (R349). -/
def genEnded (s : State) (e z : Nat) : State := modSrv s e fun v => { v with p := { v.p with gens := tset {} v.p.gens z {} } }

theorem pword_genEnded (s : State) (e z y w : Nat) : pword (genEnded s e z) y w = pword s y w := rfl
theorem dones_genEnded (s : State) (e z : Nat) : (srv (genEnded s e z) e).dones = (srv s e).dones := by
  unfold genEnded; rw [srv_modSrv_same]

/-- A stream's entry gets a list of words, the first of them word 1. -/
def setWords (s : State) (z : Nat) (l : List Nat) : State := l.zipIdx.foldl (fun s w => pendWord s z (1 + w.2) w.1) s

section
variable (z : Nat)

/-- Words numbered from n on are written at their places and nowhere else. -/
theorem pword_foldl_pendWord (l : List Nat) : ∀ (n : Nat) (s : State),
    let u := (l.zipIdx n).foldl (fun s w => pendWord s z (1 + w.2) w.1) s
    (∀ y w, (∀ i < l.length, 16 * y + w ≠ 16 * z + (1 + (n + i))) → pword u y w = pword s y w) ∧
      ∀ i (h : i < l.length), pword u z (1 + (n + i)) = l[i] % 2 ^ 32 := by
  induction l with
  | nil => exact fun n s => ⟨fun _ _ _ => rfl, fun i h => absurd h (Nat.not_lt_zero i)⟩
  | cons v l ih =>
    intro n s u
    obtain ⟨hout, hin⟩ := ih (n + 1) (pendWord s z (1 + n) v)
    refine ⟨fun y w h => ?_, fun i hi => ?_⟩
    · refine (hout y w fun i hi => ?_).trans (pword_pendWord_ne _ (h 0 (Nat.zero_lt_succ _)) _)
      have := h (i + 1) (Nat.succ_lt_succ hi)
      omega
    · cases i with
      | zero => exact (hout z (1 + n) fun i _ => by omega).trans (pword_pendWord_same ..)
      | succ i =>
        have := hin i (Nat.lt_of_succ_lt_succ hi)
        rw [show 1 + (n + (i + 1)) = 1 + (n + 1 + i) by omega]
        exact this

theorem pword_setWords (s : State) (l : List Nat) {i : Nat} (h : i < l.length) : pword (setWords s z l) z (1 + i) = l[i] % 2 ^ 32 := by
  have hin := (pword_foldl_pendWord z l 0 s).2 i h
  rwa [Nat.zero_add] at hin
theorem pword_setWords_other (s : State) {l : List Nat} (hl : l.length < 16) {y w : Nat} (hy : y ≠ z) (hw : w < 16) :
    pword (setWords s z l) y w = pword s y w :=
  (pword_foldl_pendWord z l 0 s).1 y w fun _ _ => word_ne hy hw (by omega)
theorem srv_setWords (s : State) (l : List Nat) (d : Nat) : srv (setWords s z l) d = srv s d :=
  foldl_keeps _ _ (fun s => srv s d) (fun _ _ => srv_pendWord ..) s
end

/-! ### OPEN (R351, R355, R360) -/

/-- The record maps a handle. -/
def maps (t : Taken) : Bool := arg t 56 16 != 0
/-- The handle it maps, as committed. -/
def mapped (s : State) (e : Nat) (t : Taken) : Handle := tget {} (srv s e).c.handles (arg t 56 4)
/-- LENGTH of the opened stream: 0 or the handle's. -/
def openLen (s : State) (e : Nat) (t : Taken) : Nat := if maps t then (mapped s e t).len else 0
/-- The fields of word 1 of the opened stream: IDLE, and what the record gives. -/
def openFields (t : Taken) : List (Nat × Nat × Nat) :=
  [(28, 4, 1), (20, 8, arg t 24 1), (16, 4, arg t 26 1), (15, 1, arg t 25 1), (13, 1, arg t 38 1), (9, 4, arg t 27 1), (8, 1, b2n (maps t))]
/-- Words 1 to 11 of the opened stream. -/
def openWords (t : Taken) (len k : Nat) : List Nat :=
  [pack (openFields t), len, k, arg t 28 4, arg t 40 4, arg t 44 4, arg t 48 4, arg t 52 4, 0,
    (if maps t then arg t 56 4 % 2 ^ 16 * 2 ^ 16 else 0) + arg t 36 2, 0]
/-- The stream refers to the frit slot it is bound to, where it is bound to one (R358). -/
def openRefers (s : State) (k : Nat) : State := if k = 0x1FFF then s else fritRef s k 1
/-- The stream is a user of the handle it maps, and its gaffer lists the handle's panes (R355). -/
def openMaps (s : State) (e : Nat) (t : Taken) (h : Handle) : State :=
  if maps t then h.panes.zipIdx.foldl (fun s p => listPane s e t.core (zOf t) p.2 1 p.1.toNat) (modHandle s e (arg t 56 4) fun x => { x with users := x.users + 1 })
  else s
/-- The stream is open, bound to slot k. -/
def opened (s : State) (e : Nat) (t : Taken) (k : Nat) : State :=
  genEnded (openMaps (openRefers (setWords s (zOf t) (openWords t (openLen s e t) k)) k) e t (mapped s e t)) e (zOf t)

/-- The RESULT of an OPEN: its slot, the version there, LENGTH. -/
def openResult (s : State) (e : Nat) (t : Taken) (k : Nat) : Nat :=
  pack [(0, 16, k), (32, 32, (tget {} (srv (opened s e t k) e).c.frits k).version), (64, 32, openLen s e t)]

section
variable (s : State) (e : Nat) (t : Taken) (k : Nat)

theorem pword_openRefers (y w : Nat) : pword (openRefers s k) y w = pword s y w := by unfold openRefers; split <;> rfl
theorem srv_openRefers (d : Nat) : srv (openRefers s k) d = srv s d := by unfold openRefers; split <;> rfl
theorem pword_openMaps (h : Handle) (y w : Nat) : pword (openMaps s e t h) y w = pword s y w := by
  unfold openMaps
  split
  · exact (foldl_keeps _ _ (fun s => pword s y w) (fun _ _ => pword_listPane ..) _).trans (pword_modHandle ..)
  · rfl
theorem dones_openMaps (h : Handle) : (srv (openMaps s e t h) e).dones = (srv s e).dones := by
  unfold openMaps
  split
  · exact (foldl_keeps _ _ (fun s => (srv s e).dones) (fun _ _ => dones_listPane ..) _).trans (dones_modHandle ..)
  · rfl
theorem dones_opened : (srv (opened s e t k) e).dones = (srv s e).dones := by
  unfold opened
  rw [dones_genEnded, dones_openMaps, srv_openRefers, srv_setWords]
theorem pword_opened_eq (y w : Nat) : pword (opened s e t k) y w = pword (setWords s (zOf t) (openWords t (openLen s e t) k)) y w := by
  unfold opened
  rw [pword_genEnded, pword_openMaps, pword_openRefers]
theorem pword_opened_other {y w : Nat} (hy : y ≠ zOf t) (hw : w < 16) : pword (opened s e t k) y w = pword s y w := by
  rw [pword_opened_eq]
  exact pword_setWords_other _ _ (by simp [openWords]) hy hw
theorem pword_opened {i : Nat} (h : i < (openWords t (openLen s e t) k).length) :
    pword (opened s e t k) (zOf t) (1 + i) = (openWords t (openLen s e t) k)[i] % 2 ^ 32 := by
  rw [pword_opened_eq]
  exact pword_setWords _ _ _ h
/-- Word 1 of an opened stream holds each of its fields. -/
theorem fld_opened {f : Nat × Nat × Nat} (hf : f ∈ openFields t) : fld (pword (opened s e t k) (zOf t) 1) f.1 f.2.1 = f.2.2 % 2 ^ f.2.1 := by
  have hw : pword (opened s e t k) (zOf t) 1 = pack (openFields t) % 2 ^ 32 := pword_opened s e t k (i := 0) (by simp [openWords])
  obtain ⟨hin, hval⟩ := pack_holds (b := 32) (l := openFields t) rfl f hf
  rw [hw, fld_mod _ hin]
  exact hval

/-- An OPEN passes its checks, to bind slot k (R351, Table 13-6). -/
structure OpenPasses : Prop where
  free : pState s (zOf t) = 0
  unkept : ((srv s e).p.handles.all fun h => !(h.2.live && h.2.keeper == zOf t)) = true
  fields : arg t 25 1 ≤ 1 ∧ arg t 26 1 ≤ 15 ∧ arg t 27 1 ≤ 8 ∧ arg t 38 1 ≤ 1
  topP : topPGood (arg t 48 4) = true
  temp : tempGood (arg t 52 4) = true
  byte39 : arg t 39 1 = 0
  rest : restZero t 1 72 = true
  frit : (openFrit s e t).1 = some k
  handle : arg t 56 16 = 0 ∨ (handleValid s e (arg t 56 16) (arg t 12 4) false = true ∧ (tget {} (srv s e).c.handles (arg t 56 4)).model = arg t 24 1)

theorem open_executed {s : State} {e : Fin 16} {lsn : BitVec 64} {t : Taken} {k : Nat} (H : Accepted s e.val lsn.toNat 1 t) (hpass : OpenPasses s e.val t k) :
    let v := executing s e.val lsn.toNat
    exec (.open_ e lsn true) s = .next (answer (opened v e.val t k) e.val t 0 (openResult v e.val t k)) := by
  intro v
  obtain ⟨hfree, hunkept, hfields, htop, htemp, hbyte, hrest, hfrit, hmap⟩ := hpass
  have hvalid : (arg t 56 16 == 0 || handleValid s e.val (arg t 56 16) (arg t 12 4) false) = true := by
    rcases hmap with h | ⟨h, _⟩ <;> simp [h]
  have hmodel : (arg t 56 16 == 0 || (tget {} (srv s e.val).c.handles (arg t 56 4)).model == arg t 24 1) = true := by
    rcases hmap with h | ⟨_, h⟩ <;> simp [h]
  have hk : ((openFrit v e.val t).1).getD 0x1FFF = k := by rw [openFrit_executing, hfrit]; rfl
  show execOpen e lsn true s = _
  unfold execOpen
  rw [request_effect H]
  · rw [← hk]; rfl
  · simp only [firstFail, pState_executing, srv_executing_p, srv_executing_c, openFrit_executing, handleValid_executing, hvalid, hmodel, hunkept]
    simp [hfree, hfields, htop, htemp, hbyte, hrest, hfrit]
end

/-! ### APPEND (R348, R351, R361) -/

/-- The words of an APPEND of n positions: PREFILL, whether it generates, QUEUED, and no new token yet. -/
def appendWords (s : State) (t : Taken) : State :=
  pendWord (pendWord (pendFld (pendFld s (zOf t) 1 28 4 2) (zOf t) 1 14 1 (arg t 9 1 % 2)) (zOf t) 9 (pword s (zOf t) 9 + arg t 24 4)) (zOf t) 11 0
/-- A floating stream whose family is not retired moves to the family's committed default (R361). -/
def floats (s : State) (c : SrvC) (z : Nat) : State :=
  if bitAt (pword s z 1) 15 && pword s z 4 != 0 && !c.retired.contains (pword s z 4) then
    match defaultSlot c (pword s z 4) with
    | some k => if k = pword s z 3 then s else pendWord (fritRef (fritRef s (pword s z 3) (-1)) k 1) z 3 k
    | none => s
  else s
/-- The APPEND is unfinished, and the stream's generation is its own. -/
def appendJoins (s : State) (e : Nat) (t : Taken) (first : Nat) (room : Option Nat) : State :=
  modSrv s e fun v => { v with p := { v.p with
    apps := v.p.apps ++ [{ stream := zOf t, lsn := t.lsn, ring := t.ring, cookie := arg t 16 8, first := first, count := arg t 24 4, room := room }]
    gens := tset {} v.p.gens (zOf t) { lsn := t.lsn, ring := t.ring, cookie := arg t 16 8 } } }
/-- What an APPEND leaves. -/
def appended (s : State) (e : Nat) (t : Taken) (room : Option Nat) : State :=
  appendJoins (floats (appendWords s t) (srv (appendWords s t) e).c (zOf t)) e t (pword s (zOf t) 2 + pword s (zOf t) 9) room

section
variable (s : State) (e : Nat) (t : Taken) (room : Option Nat)

/-- Moving to the default changes the slot's word and the reference counts alone. -/
theorem pword_floats (c : SrvC) (z : Nat) {y w : Nat} (h : 16 * y + w ≠ 16 * z + 3) : pword (floats s c z) y w = pword s y w := by
  unfold floats
  split
  · split
    · split
      · rfl
      · exact pword_pendWord_ne _ h _
    · rfl
  · rfl
theorem srv_floats (c : SrvC) (z d : Nat) : srv (floats s c z) d = srv s d := by
  unfold floats
  split
  · split
    · split <;> rfl
    · rfl
  · rfl

theorem pword_appended_eq {y w : Nat} (h : 16 * y + w ≠ 16 * zOf t + 3) : pword (appended s e t room) y w = pword (appendWords s t) y w :=
  pword_floats _ _ _ h
theorem pword_appended_other {y w : Nat} (hy : y ≠ zOf t) (hw : w < 16) : pword (appended s e t room) y w = pword s y w := by
  rw [pword_appended_eq _ _ _ _ (word_ne hy hw (by decide))]
  unfold appendWords
  rw [pword_pendWord_ne _ (word_ne hy hw (by decide)), pword_pendWord_ne _ (word_ne hy hw (by decide)), pword_pendFld_ne _ (word_ne hy hw (by decide)),
    pword_pendFld_ne _ (word_ne hy hw (by decide))]
theorem pword_appended_length : pword (appended s e t room) (zOf t) 2 = pword s (zOf t) 2 := by
  rw [pword_appended_eq _ _ _ _ (by omega)]
  unfold appendWords
  rw [pword_pendWord_ne _ (by omega), pword_pendWord_ne _ (by omega), pword_pendFld_ne _ (by omega), pword_pendFld_ne _ (by omega)]
theorem pword_appended_queued : pword (appended s e t room) (zOf t) 9 = (pword s (zOf t) 9 + arg t 24 4) % 2 ^ 32 := by
  rw [pword_appended_eq _ _ _ _ (by omega)]
  unfold appendWords
  rw [pword_pendWord_ne _ (by omega), pword_pendWord_same]
theorem pword_appended_new : pword (appended s e t room) (zOf t) 11 = 0 := by
  rw [pword_appended_eq _ _ _ _ (by omega)]
  exact pword_pendWord_same ..
theorem pword_appended_one : pword (appended s e t room) (zOf t) 1 =
    pword (pendFld (pendFld s (zOf t) 1 28 4 2) (zOf t) 1 14 1 (arg t 9 1 % 2)) (zOf t) 1 := by
  rw [pword_appended_eq _ _ _ _ (by omega)]
  unfold appendWords
  rw [pword_pendWord_ne _ (by omega), pword_pendWord_ne _ (by omega)]
theorem prefill_appended : fld (pword (appended s e t room) (zOf t) 1) 28 4 = 2 := by
  rw [pword_appended_one, pfld_above _ _ _ _ (by omega) (by omega)]
  exact pfld_same _ _ _ _ (by omega)
theorem generates_appended : fld (pword (appended s e t room) (zOf t) 1) 14 1 = arg t 9 1 % 2 := by
  rw [pword_appended_one, pfld_same _ _ _ _ (by omega)]
  exact Nat.mod_mod _ _
theorem srv_appendWords (d : Nat) : srv (appendWords s t) d = srv s d := by
  unfold appendWords
  rw [srv_pendWord, srv_pendWord, srv_pendFld, srv_pendFld]
theorem dones_appended : (srv (appended s e t room) e).dones = (srv s e).dones := by
  unfold appended appendJoins
  rw [srv_modSrv_same, srv_floats, srv_appendWords]
theorem apps_appended : ∃ a, (srv (appended s e t room) e).p.apps = (srv s e).p.apps ++ [a] ∧ a.stream = zOf t ∧ a.count = arg t 24 4 := by
  unfold appended appendJoins
  rw [srv_modSrv_same, srv_floats, srv_appendWords]
  exact ⟨_, rfl, rfl, rfl⟩

variable {s t}

theorem append_executed {e : Fin 16} {lsn : BitVec 64} {room : Option (BitVec 24)} (H : Accepted s e.val lsn.toNat 2 t) (hopen : pState s (zOf t) ≠ 0) (hpos : 1 ≤ arg t 24 4)
    (hcount : arg t 24 4 ≤ 56) (hzero : arg t 28 4 = 0) (hinline : bitAt (arg t 9 1) 1 = false) (hrest : restZero t 4 (32 + 4 * arg t 24 4) = true)
    (hmax : pword s (zOf t) 2 + pword s (zOf t) 9 + arg t 24 4 ≤ maxPos s e.val) :
    exec (.append e lsn room) s = .next (appended (executing s e.val lsn.toNat) e.val t (room.map (·.toNat))) := by
  show execAppend e lsn room s = _
  unfold execAppend
  rw [request_effect H]
  · rfl
  · simp [firstFail, isOpen, pState_executing, pword_executing, maxPos_executing, hopen, hpos, hcount, hzero, hinline, hrest, hmax]
end

/-! ### SET (R351) -/

/-- The field of a SET lies within one word of a stream's entry. -/
theorem setField_fits {i w lo n : Nat} {f : Nat → Bool} (h : setField i = some (w, lo, n, f)) : w < 16 ∧ lo + n ≤ 32 := by
  unfold setField at h
  split at h <;> simp only [Option.some.injEq, Prod.mk.injEq, reduceCtorEq] at h <;> omega

section
variable {s : State} {e : Fin 16} {lsn : BitVec 64} {t : Taken} {w lo n : Nat} {f : Nat → Bool}

theorem set_refused (H : Accepted s e.val lsn.toNat 3 t) (hopen : pState s (zOf t) ≠ 0) (hfield : setField (arg t 24 1) = some (w, lo, n, f))
    (hbad : (f (arg t 32 8) && arg t 25 7 == 0 && restZero t 1 40) = false) : ∃ u, exec (.set_ e lsn) s = .next u ∧ Answered s u e.val lsn.toNat t 0x0B02 0 := by
  show ∃ u, execSet e lsn s = .next u ∧ _
  refine request_refused H ?_
  simp only [firstFail, isOpen, pState_executing, hfield, hbad]
  simp [hopen]

theorem set_executed (H : Accepted s e.val lsn.toNat 3 t) (hopen : pState s (zOf t) ≠ 0) (hfield : setField (arg t 24 1) = some (w, lo, n, f))
    (hgood : (f (arg t 32 8) && arg t 25 7 == 0 && restZero t 1 40) = true) :
    exec (.set_ e lsn) s = .next (answer (pendFld (executing s e.val lsn.toNat) (zOf t) w lo n (arg t 32 8)) e.val t 0 (fld (pword s (zOf t) w) lo n)) := by
  show execSet e lsn s = _
  unfold execSet
  rw [request_effect H]
  · simp only [hfield]; rfl
  · simp only [firstFail, isOpen, pState_executing, hfield, hgood]
    simp [hopen]
end

/-! ### TRIM and CLOSE (R253, R351) -/

/-- A stream's input and panes from position p on are gone: its APPENDs beyond p are discarded, its panes listed to be removed. -/
def cutFrom (s : State) (e : Nat) (t : Taken) (p : Nat) : State := removeFrom (discardApps s e (zOf t) p) e t.core (zOf t) (cdiv p 256)

section
variable (s : State) (e : Nat) (t : Taken)

theorem pword_cutFrom (p y w : Nat) : pword (cutFrom s e t p) y w = pword s y w := by
  unfold cutFrom
  rw [pword_removeFrom, (discardApps_does s e (zOf t) p).1]
/-- The discarded APPENDs are answered (R351). -/
theorem dones_cutFrom (p : Nat) : ∃ l, (srv (cutFrom s e t p) e).dones = (srv s e).dones ++ l := by
  unfold cutFrom
  rw [dones_removeFrom]
  exact (discardApps_does s e (zOf t) p).2.1

/-- A stream trimmed to nothing uses no handle. -/
def trimUses (s : State) (e z p : Nat) : State := if p = 0 then dropUses s e z else s
/-- LENGTH, QUEUED and the state of a stream of length len trimmed at p. -/
def trimWords (s : State) (z len p : Nat) : State :=
  pendFld (pendFld (pendWord (pendWord s z 2 (min len p)) z 9 (p - len)) z 1 14 1 0) z 1 28 4 (if len < p then 2 else 1)
/-- What a TRIM leaves. -/
def trimmed : State :=
  genEnded (trimWords (trimUses (cutFrom s e t (arg t 24 4)) e (zOf t) (arg t 24 4)) (zOf t) (pword s (zOf t) 2) (arg t 24 4)) e (zOf t)

theorem pword_trimUses (z p : Nat) {y w : Nat} (h : 16 * y + w ≠ 16 * z + 1) : pword (trimUses s e z p) y w = pword s y w := by
  unfold trimUses
  split
  · exact pword_dropUses _ _ _ _ _ h
  · rfl
theorem dones_trimUses (z p : Nat) : (srv (trimUses s e z p) e).dones = (srv s e).dones := by
  unfold trimUses
  split
  · exact dones_dropUses ..
  · rfl
theorem pword_trimWords_other {z y w : Nat} (hy : y ≠ z) (hw : w < 16) (len p : Nat) : pword (trimWords s z len p) y w = pword s y w := by
  unfold trimWords
  rw [pword_pendFld_ne _ (word_ne hy hw (by decide)), pword_pendFld_ne _ (word_ne hy hw (by decide)), pword_pendWord_ne _ (word_ne hy hw (by decide)),
    pword_pendWord_ne _ (word_ne hy hw (by decide))]
theorem pword_trimWords_length (z len p : Nat) : pword (trimWords s z len p) z 2 = min len p % 2 ^ 32 := by
  unfold trimWords
  rw [pword_pendFld_ne _ (by omega), pword_pendFld_ne _ (by omega), pword_pendWord_ne _ (by omega), pword_pendWord_same]
theorem pword_trimWords_queued (z len p : Nat) : pword (trimWords s z len p) z 9 = (p - len) % 2 ^ 32 := by
  unfold trimWords
  rw [pword_pendFld_ne _ (by omega), pword_pendFld_ne _ (by omega), pword_pendWord_same]
theorem state_trimWords (z len p : Nat) : fld (pword (trimWords s z len p) z 1) 28 4 = if len < p then 2 else 1 := by
  refine (pfld_same _ _ _ _ (by omega)).trans ?_
  split <;> rfl
theorem srv_trimWords (z len p d : Nat) : srv (trimWords s z len p) d = srv s d := by
  unfold trimWords
  rw [srv_pendFld, srv_pendFld, srv_pendWord, srv_pendWord]

theorem pword_trimmed_other {y w : Nat} (hy : y ≠ zOf t) (hw : w < 16) : pword (trimmed s e t) y w = pword s y w := by
  unfold trimmed
  rw [pword_genEnded, pword_trimWords_other _ hy hw, pword_trimUses _ _ _ _ (word_ne hy hw (by decide)), pword_cutFrom]
theorem pword_trimmed_length : pword (trimmed s e t) (zOf t) 2 = min (pword s (zOf t) 2) (arg t 24 4) := by
  unfold trimmed
  rw [pword_genEnded, pword_trimWords_length, Nat.mod_eq_of_lt ((Nat.min_le_left ..).trans_lt (pword_lt ..))]
theorem pword_trimmed_queued : pword (trimmed s e t) (zOf t) 9 = (arg t 24 4 - pword s (zOf t) 2) % 2 ^ 32 := by
  unfold trimmed
  rw [pword_genEnded, pword_trimWords_queued]
theorem state_trimmed : fld (pword (trimmed s e t) (zOf t) 1) 28 4 = if pword s (zOf t) 2 < arg t 24 4 then 2 else 1 := by
  unfold trimmed
  rw [pword_genEnded, state_trimWords]
theorem dones_trimmed : ∃ l, (srv (trimmed s e t) e).dones = (srv s e).dones ++ l := by
  unfold trimmed
  rw [dones_genEnded, srv_trimWords, dones_trimUses]
  exact dones_cutFrom ..

/-- A family's stream no longer refers to its slot (R358). -/
def unrefers (s : State) (z : Nat) : State := if pword s z 4 = 0 then s else fritRef s (pword s z 3) (-1)
/-- A stream that is free, with nothing queued. -/
def freeWords (s : State) (z : Nat) : State := pendWord (pendFld s z 1 28 4 0) z 9 0
/-- What a CLOSE leaves. -/
def closed : State := genEnded (freeWords (dropUses (unrefers (cutFrom s e t 0) (zOf t)) e (zOf t)) (zOf t)) e (zOf t)

theorem pword_unrefers (z y w : Nat) : pword (unrefers s z) y w = pword s y w := by unfold unrefers; split <;> rfl
theorem srv_unrefers (z d : Nat) : srv (unrefers s z) d = srv s d := by unfold unrefers; split <;> rfl
theorem pword_freeWords_other {z y w : Nat} (hy : y ≠ z) (hw : w < 16) : pword (freeWords s z) y w = pword s y w := by
  unfold freeWords
  rw [pword_pendWord_ne _ (word_ne hy hw (by decide)), pword_pendFld_ne _ (word_ne hy hw (by decide))]
theorem pState_freeWords (z : Nat) : pState (freeWords s z) z = 0 := by
  unfold pState freeWords
  rw [pword_pendWord_ne _ (by omega)]
  exact pfld_same _ _ _ _ (by omega)
theorem srv_freeWords (z d : Nat) : srv (freeWords s z) d = srv s d := by
  unfold freeWords
  rw [srv_pendWord, srv_pendFld]

theorem pState_closed : pState (closed s e t) (zOf t) = 0 := by
  unfold pState closed
  rw [pword_genEnded]
  exact pState_freeWords ..
theorem pword_closed_queued : pword (closed s e t) (zOf t) 9 = 0 := by
  unfold closed freeWords
  exact (pword_genEnded ..).trans (pword_pendWord_same ..)
theorem pword_closed_other {y w : Nat} (hy : y ≠ zOf t) (hw : w < 16) : pword (closed s e t) y w = pword s y w := by
  unfold closed
  rw [pword_genEnded, pword_freeWords_other _ hy hw, pword_dropUses _ _ _ _ _ (word_ne hy hw (by decide)), pword_unrefers, pword_cutFrom]
theorem dones_closed : ∃ l, (srv (closed s e t) e).dones = (srv s e).dones ++ l := by
  unfold closed
  rw [dones_genEnded, srv_freeWords, dones_dropUses, srv_unrefers]
  exact dones_cutFrom ..
end

section
variable {s : State} {e : Fin 16} {lsn : BitVec 64} {t : Taken}

theorem trim_executed (H : Accepted s e.val lsn.toNat 6 t) (hopen : pState s (zOf t) ≠ 0) (hin : arg t 24 4 ≤ pword s (zOf t) 2 + pword s (zOf t) 9) :
    exec (.trim e lsn) s = .next (answer (trimmed (executing s e.val lsn.toNat) e.val t) e.val t 0 (min (pword s (zOf t) 2) (arg t 24 4))) := by
  show execTrim e lsn s = _
  unfold execTrim
  rw [request_effect H]
  · rfl
  · simp [firstFail, isOpen, pState_executing, pword_executing, hopen, hin]

theorem close_executed (H : Accepted s e.val lsn.toNat 7 t) (hopen : pState s (zOf t) ≠ 0) :
    exec (.close e lsn) s = .next (answer (closed (executing s e.val lsn.toNat) e.val t) e.val t 0 (pword s (zOf t) 2)) := by
  show execClose e lsn s = _
  unfold execClose
  rw [request_effect H]
  · rfl
  · simp [firstFail, isOpen, pState_executing, hopen]
end

/-! ### The statement -/

/-- Settles O43: a request that fails a check by `request_refused`; one that passes by `open_executed`, `append_executed`, `set_executed`,
`trim_executed` or `close_executed`, each with what the state it leaves holds. -/
theorem streamRequests : Obligations.StreamRequests := by
  refine ⟨?open_, ?append, ?set, ?trim, ?close⟩
  case open_ =>
    intro e lsn m s t H
    refine ⟨fun hopen => ?_, fun hfree hkeep hm => ?_, fun k hfree hkeep hm h1 h2 h3 h4 htop htemp hzero hrest hfrit hmap => ?_⟩
    · exact request_refused H (by simp [firstFail, pState_executing, hopen])
    · refine request_refused H ?_
      simp only [firstFail, pState_executing, srv_executing_p, hkeep]
      simp [hfree, hm]
    subst hm
    refine ⟨_, open_executed H ⟨hfree, hkeep, ⟨h1, h2, h3, h4⟩, htop, htemp, hzero, hrest, hfrit, hmap⟩, ?_⟩
    generalize hv : executing s e.val lsn.toNat = v
    have hlen : openLen v e.val t = if arg t 56 16 = 0 then 0 else (tget {} (srv s e.val).c.handles (arg t 56 4)).len := by
      rw [← hv]
      unfold openLen maps mapped
      rw [srv_executing_c]
      by_cases h : arg t 56 16 = 0 <;> simp [h]
    have hwords {i : Nat} (h : i < 11) := (pword_answer _ e.val t 0 (openResult v e.val t k) (zOf t) (1 + i)).trans (pword_opened v e.val t k (i := i) h)
    have hfields {f : Nat × Nat × Nat} (h : f ∈ openFields t) :=
      (congrArg (fun x => fld x f.1 f.2.1) (pword_answer _ e.val t 0 (openResult v e.val t k) (zOf t) 1)).trans (fld_opened v e.val t k h)
    refine ⟨hfields (f := (28, 4, 1)) (by simp [openFields]), hfields (f := (20, 8, arg t 24 1)) (by simp [openFields]),
      (hwords (i := 1) (by decide)).trans (by rw [← hlen]; rfl), hwords (i := 2) (by decide), hwords (i := 6) (by decide), hwords (i := 7) (by decide),
      hwords (i := 8) (by decide), fun y w hy hw => ?_, openResult v e.val t k, ?_⟩
    · rw [pword_answer, pword_opened_other _ _ _ _ hy hw, ← hv, pword_executing]
    · rw [dones_answer, dones_opened, ← hv, dones_executing]
  case append =>
    intro e lsn room s t H
    refine ⟨fun hclosed => ?_, fun hopen hpos hcount hzero hinline hrest => ⟨fun hmax => ?_, fun hmax => ?_⟩⟩
    · exact request_refused H (by simp [firstFail, isOpen, pState_executing, hclosed])
    · exact request_refused H (by simp [firstFail, isOpen, pState_executing, pword_executing, maxPos_executing, hopen, hpos, hcount, hzero, hinline, hrest, Nat.not_le.2 hmax])
    refine ⟨_, append_executed H hopen hpos hcount hzero hinline hrest hmax, prefill_appended .., generates_appended .., pword_appended_length ..,
      pword_appended_queued .., pword_appended_new .., fun y w => pword_appended_other _ _ _ _, ?_, ?_⟩
    · rw [dones_appended, dones_executing]
    · rw [← srv_executing_p s e.val lsn.toNat e.val]
      exact apps_appended ..
  case set =>
    intro e lsn s t H
    refine ⟨fun hclosed => ?_, fun w lo n f hopen hfield => ⟨set_refused H hopen hfield, fun hgood => ?_⟩⟩
    · exact request_refused H (by simp [firstFail, isOpen, pState_executing, hclosed])
    obtain ⟨hw, hfits⟩ := setField_fits hfield
    refine ⟨_, set_executed H hopen hfield hgood, pfld_same _ _ _ _ hfits, fun y x hne hx => ?_, ?_⟩
    · refine pword_pendFld_ne _ (fun h => hne ?_) ..
      exact Prod.ext (by omega) (by omega)
    · rw [dones_answer, srv_pendFld, dones_executing]
  case trim =>
    intro e lsn s t H hopen
    refine ⟨fun hout => ?_, fun hin => ?_⟩
    · exact request_refused H (by simp [firstFail, isOpen, pState_executing, pword_executing, hopen, Nat.not_le.2 hout])
    refine ⟨_, trim_executed H hopen hin, (pword_answer ..).trans (pword_trimmed_length ..), (pword_answer ..).trans (pword_trimmed_queued ..), ?_,
      fun y w hy hw => (pword_answer ..).trans (pword_trimmed_other _ _ _ hy hw), ?_⟩
    · rw [pword_answer, state_trimmed, pword_executing]
    obtain ⟨l, hl⟩ := dones_trimmed (executing s e.val lsn.toNat) e.val t
    exact ⟨l, by rw [dones_answer, hl, dones_executing]⟩
  case close =>
    intro e lsn s t H
    refine ⟨fun hclosed => ?_, fun hopen => ?_⟩
    · exact request_refused H (by simp [firstFail, isOpen, pState_executing, hclosed])
    refine ⟨_, close_executed H hopen, (pState_answer ..).trans (pState_closed ..), (pword_answer ..).trans (pword_closed_queued ..),
      fun y w hy hw => (pword_answer ..).trans (pword_closed_other _ _ _ hy hw), ?_⟩
    obtain ⟨l, hl⟩ := dones_closed (executing s e.val lsn.toNat) e.val t
    exact ⟨l, by rw [dones_answer, hl, dones_executing]⟩

end Sys2Proof.Machine
end

section
/-!
PROOFS. The statement of KEEP, RELEASE, FRIT_LOAD, FRIT_REPLACE, FRIT_RETIRE and QUERY (chapter 13): the state each leaves, with its parts
named, what that state holds of handles, frit slots and answers, then the theorem that settles it.
-/
namespace Sys2Proof.Machine
open Sys2Proof

/-! ### KEEP (R353, R354) -/

/-- The generation after g. -/
def nextGen (g : Nat) : Nat := if g + 1 < 2 ^ 32 then g + 1 else 1
/-- A pane-table entry with FROZEN set. -/
def frozenEnt (x : Nat) : BitVec 64 := BitVec.ofNat 64 (setFld x 60 1 1)
/-- The entries of the panes that a KEEP keeps. -/
def keptEnts (s : State) (e : Nat) (t : Taken) : List Nat := (List.range (cdiv (arg t 24 4) 256)).map fun i => paneNow s e (zOf t) i
/-- The handles that froze a pane which the KEEP keeps. -/
def keptUses (s : State) (e : Nat) (ents : List Nat) : List Nat :=
  ((srv s e).p.handles.filter fun h => h.2.live && ents.any fun x => fld x 60 1 == 1 && h.2.own.contains (frozenEnt x)).map (·.1)
/-- The panes not frozen yet are listed to be. -/
def freezeEnts (s : State) (e : Nat) (t : Taken) (ents : List Nat) : State :=
  ents.zipIdx.foldl (fun s p => if fld p.1 60 1 = 0 ∧ fld p.1 61 3 ≠ 7 then listPane s e t.core (zOf t) p.2 2 p.1 else s) s
/-- The panes of a KEEP are frozen, and the handles it uses have a user more. -/
def keepPanes (s : State) (e : Nat) (t : Taken) : State :=
  (keptUses s e (keptEnts s e t)).foldl (fun s h => modHandle s e h fun x => { x with users := x.users + 1 }) (freezeEnts s e t (keptEnts s e t))
/-- The handle of a KEEP, of the state in which its panes are frozen. -/
def keptHandle (s : State) (t : Taken) (gen : Nat) (ents uses : List Nat) : Handle :=
  { gen := gen, live := true, keeper := zOf t, keeperIn := true, len := arg t 24 4, model := fld (pword s (zOf t) 1) 20 8, panes := ents.map frozenEnt,
    own := (ents.filter fun x => fld x 60 1 == 0 && fld x 61 3 != 7).map frozenEnt, uses := uses, users := 1,
    expiry := if arg t 28 4 = 0 then none else some (stepNo s + arg t 28 4) }
/-- What a KEEP leaves that takes handle ix. -/
def kept (s : State) (e : Nat) (t : Taken) (ix gen : Nat) : State :=
  modHandle (keepPanes s e t) e ix fun _ => keptHandle (keepPanes s e t) t gen (keptEnts s e t) (keptUses s e (keptEnts s e t))
/-- The RESULT of a KEEP: index, generation, tag, length. -/
def keepResult (s : State) (e : Nat) (t : Taken) (ix gen : Nat) : Nat :=
  pack [(0, 32, ix), (32, 32, gen), (64, 64, handleTag s e ix gen (arg t 12 4)), (128, 32, arg t 24 4)]

section
variable (s : State) (e : Nat) (t : Taken)

/-- Frozen panes leave the words, the answers and the keys. -/
theorem freezeEnts_keeps (ents : List Nat) : (∀ y w, pword (freezeEnts s e t ents) y w = pword s y w) ∧
    (srv (freezeEnts s e t ents) e).dones = (srv s e).dones ∧ (freezeEnts s e t ents).envKeys = s.envKeys := by
  unfold freezeEnts
  refine ⟨fun y w => foldl_keeps _ _ (fun s => pword s y w) (fun s x => ?_) s, foldl_keeps _ _ (fun s => (srv s e).dones) (fun s x => ?_) s,
    foldl_keeps _ _ (fun s => s.envKeys) (fun s x => ?_) s⟩ <;> split
  · exact pword_listPane ..
  · rfl
  · exact dones_listPane ..
  · rfl
  · exact envKeys_listPane ..
  · rfl
theorem keepPanes_keeps : (∀ y w, pword (keepPanes s e t) y w = pword s y w) ∧ (srv (keepPanes s e t) e).dones = (srv s e).dones ∧
    (keepPanes s e t).envKeys = s.envKeys := by
  obtain ⟨hpword, hdones, hkeys⟩ := freezeEnts_keeps s e t (keptEnts s e t)
  obtain ⟨hpword', hdones', hkeys'⟩ := foldl_modHandle_keeps (freezeEnts s e t (keptEnts s e t)) e (keptUses s e (keptEnts s e t)) id
    fun x => { x with users := x.users + 1 }
  exact ⟨fun y w => (hpword' y w).trans (hpword y w), hdones'.trans hdones, hkeys'.trans hkeys⟩

variable (ix gen : Nat)

theorem pword_kept (y w : Nat) : pword (kept s e t ix gen) y w = pword s y w := (pword_modHandle ..).trans ((keepPanes_keeps s e t).1 y w)
theorem dones_kept : (srv (kept s e t ix gen) e).dones = (srv s e).dones := (dones_modHandle ..).trans (keepPanes_keeps s e t).2.1
theorem handle_kept : tget {} (srv (kept s e t ix gen) e).p.handles ix =
    keptHandle (keepPanes s e t) t gen (keptEnts s e t) (keptUses s e (keptEnts s e t)) := by
  unfold kept
  rw [srv_modHandle]
  exact tget_tset_same ..
theorem keepResult_kept : keepResult (kept s e t ix gen) e t ix gen = keepResult s e t ix gen := by
  have hkeys : (kept s e t ix gen).envKeys = s.envKeys := (envKeys_modHandle ..).trans (keepPanes_keeps s e t).2.2
  unfold keepResult handleTag
  rw [hkeys]

variable {s t ix}

theorem keep_executed {e : Fin 16} {lsn : BitVec 64} (H : Accepted s e.val lsn.toNat 4 t) (hopen : pState s (zOf t) ≠ 0)
    (hlen : 1 ≤ arg t 24 4 ∧ arg t 24 4 ≤ pword s (zOf t) 2) (hfree : freeHandle s e.val t.core = some ix) :
    let gen := nextGen (tget {} (srv s e.val).p.handles ix).gen
    exec (.keep e lsn) s = .next (answer (kept (executing s e.val lsn.toNat) e.val t ix gen) e.val t 0 (keepResult s e.val t ix gen)) := by
  intro gen
  have hix : (freeHandle (executing s e.val lsn.toNat) e.val t.core).getD 0 = ix := by rw [freeHandle_executing, hfree]; rfl
  have hgen : gen = nextGen (tget {} (srv (executing s e.val lsn.toNat) e.val).p.handles ix).gen := by rw [srv_executing_p]
  have hresult : keepResult s e.val t ix gen = keepResult (kept (executing s e.val lsn.toNat) e.val t ix gen) e.val t ix gen :=
    (keepResult_kept (executing s e.val lsn.toNat) e.val t ix gen).symm
  show execKeep e lsn s = _
  unfold execKeep
  rw [request_effect H]
  · rw [hresult, hgen, ← hix]; rfl
  · simp [firstFail, isOpen, pState_executing, pword_executing, freeHandle_executing, hopen, hlen, hfree]
end

/-! ### RELEASE (R355, R356) -/

section
variable {s : State} {e : Fin 16} {lsn : BitVec 64} {t : Taken}

/-- The handle of index ix has ended. -/
def endHandle (s : State) (e ix : Nat) : State := modHandle s e ix fun h => { h with ended := true }

theorem handles_endHandle (s : State) (e ix k : Nat) : tget {} (srv (endHandle s e ix) e).p.handles k =
    if k = ix then { tget {} (srv s e).p.handles k with ended := true } else tget {} (srv s e).p.handles k := by
  unfold endHandle
  rw [srv_modHandle]
  refine (tget_tset ..).trans ?_
  split
  · rename_i h; rw [h]
  · rfl

theorem release_executed (H : Accepted s e.val lsn.toNat 5 t) (hvalid : handleValid s e.val (arg t 24 16) (arg t 12 4) true = true) :
    exec (.release e lsn) s =
      .next (answer (endHandle (executing s e.val lsn.toNat) e.val (arg t 24 4)) e.val t 0 (tget {} (srv s e.val).c.handles (arg t 24 4)).users) := by
  rw [← srv_executing_c s e.val lsn.toNat e.val]
  show execRelease e lsn s = _
  unfold execRelease
  rw [request_effect H]
  · rfl
  · simp [firstFail, handleValid_executing, hvalid]
end

/-! ### FRIT_LOAD and FRIT_REPLACE (R359) -/

/-- A frit slot that the request loads. -/
def loadingFrit (t : Taken) (addr : Nat) : Frit :=
  { st := 1, family := arg t 24 4, version := arg t 28 4, lsn := t.lsn, ring := t.ring, cookie := arg t 16 8, kind := arg t 8 1, addr := addr, bytes := arg t 48 4,
    digest := arg t 56 16 }

section
variable {s : State} {e lsn k : Nat} {t : Taken}

theorem srv_setFrit (s : State) (e k : Nat) (f : Frit) : srv (setFrit s e k f) e = { srv s e with p := { (srv s e).p with frits := tset {} (srv s e).p.frits k f } } := by
  unfold setFrit; rw [srv_modSrv_same]
theorem pword_setFrit (s : State) (e k : Nat) (f : Frit) (y w : Nat) : pword (setFrit s e k f) y w = pword s y w := rfl
theorem dones_setFrit (s : State) (e k : Nat) (f : Frit) : (srv (setFrit s e k f) e).dones = (srv s e).dones := by rw [srv_setFrit]
theorem frits_setFrit (s : State) (e k : Nat) (f : Frit) (j : Nat) :
    tget {} (srv (setFrit s e k f) e).p.frits j = if j = k then f else tget {} (srv s e).p.frits j := by
  rw [srv_setFrit]
  exact tget_tset ..
theorem startFrit_eq (h : freeFrit s e = some k) (addr : Nat) : startFrit s e t addr = setFrit s e k (loadingFrit t addr) := by
  unfold startFrit; rw [h]; rfl
/-- A load that starts takes its slot, and neither answers nor writes a stream word. -/
theorem startFrit_does (h : freeFrit s e = some k) (addr : Nat) : let u := startFrit (executing s e lsn) e t addr
    (∀ y w, pword u y w = pword s y w) ∧ (srv u e).dones = (srv s e).dones ∧
      ∀ j, tget {} (srv u e).p.frits j = if j = k then loadingFrit t addr else tget {} (srv s e).p.frits j := by
  intro u
  have hu : u = setFrit (executing s e lsn) e k (loadingFrit t addr) := startFrit_eq (by rw [freeFrit_executing]; exact h) addr
  rw [hu, dones_setFrit, dones_executing]
  exact ⟨fun y w => (pword_setFrit ..).trans (pword_executing ..), rfl, fun j => by rw [frits_setFrit, srv_executing_p]⟩
end

section
variable {s : State} {e : Fin 16} {lsn : BitVec 64} {slot : BitVec 32} {t : Taken} {k : Nat}

theorem fritLoad_executed (addr : BitVec 48) (H : Accepted s e.val lsn.toNat 0x10 t) (hnew : familyIn (srv s e.val).p (arg t 24 4) = false)
    (hbytes : arg t 48 4 ≤ slot.toNat) (hfields : fritFields t = true) (hfree : freeFrit s e.val = some k) :
    exec (.fritLoad e lsn true slot addr) s = .next (startFrit (executing s e.val lsn.toNat) e.val t addr.toNat) := by
  show execFritLoad e lsn true slot addr s = _
  unfold execFritLoad
  rw [request_effect H]
  simp [firstFail, srv_executing_p, freeFrit_executing, hnew, hbytes, hfields, hfree]

theorem fritReplace_executed (addr : BitVec 48) (H : Accepted s e.val lsn.toNat 0x11 t) (hin : familyIn (srv s e.val).p (arg t 24 4) = true)
    (hkept : (srv s e.val).p.retired.contains (arg t 24 4) = false)
    (habove : fritFind (srv s e.val).p (fun x => x.family == arg t 24 4 && decide (arg t 28 4 ≤ x.version)) = none)
    (hbytes : arg t 48 4 ≤ slot.toNat) (hfields : fritFields t = true) (hfree : freeFrit s e.val = some k) :
    exec (.fritReplace e lsn true slot addr) s = .next (startFrit (executing s e.val lsn.toNat) e.val t addr.toNat) := by
  show execFritReplace e lsn true slot addr s = _
  unfold execFritReplace
  rw [request_effect H]
  simp only [firstFail, srv_executing_p, freeFrit_executing, hin, hkept, habove, hfields, hfree]
  simp [hbytes]
end

/-! ### FRIT_RETIRE (R363) -/

/-- What a slot of a retired family becomes: FREE where it was LOADING, else no default. -/
def retiredFrit (x : Frit) : Frit := if x.st = 1 then {} else { x with dflt := false }
/-- A slot is retired, and its load answered where it was LOADING. -/
def retireSlot (s : State) (e : Nat) (x : Nat × Frit) : State :=
  if x.2.st = 1 then answerLater (setFrit s e x.1 {}) e 0xFFFF x.2.kind x.2.ring x.2.lsn x.2.cookie 0x0B14 0 else setFrit s e x.1 { x.2 with dflt := false }
/-- The slots in which a family is LOADING or RESIDENT. -/
def slotsOf (s : State) (e f : Nat) : List (Nat × Frit) := (srv s e).p.frits.filter fun x => x.2.st != 0 && x.2.family == f
/-- The family is among the retired ones. -/
def retireFamily (s : State) (e f : Nat) : State := modSrv s e fun v => { v with p := { v.p with retired := (v.p.retired ++ [f]).eraseDups } }
/-- What a FRIT_RETIRE leaves. -/
def retired (s : State) (e f : Nat) : State := retireFamily ((slotsOf s e f).foldl (fun s x => retireSlot s e x) s) e f
/-- The references to a list of slots. -/
def refsOf (s : State) (l : List (Nat × Frit)) : Nat := (l.map fun x => (tget 0 s.fritRefs x.1).toNat).foldl (· + ·) 0

section
variable (s : State) (e : Nat)

theorem pword_retireSlot (x : Nat × Frit) (y w : Nat) : pword (retireSlot s e x) y w = pword s y w := by unfold retireSlot; split <;> rfl
theorem fritRefs_retireSlot (x : Nat × Frit) : (retireSlot s e x).fritRefs = s.fritRefs := by unfold retireSlot; split <;> rfl
theorem pend_retireSlot (x : Nat × Frit) :
    (srv (retireSlot s e x) e).p = { (srv s e).p with frits := tset {} (srv s e).p.frits x.1 (retiredFrit x.2) } := by
  unfold retireSlot retiredFrit
  split
  · unfold answerLater; rw [srv_modSrv_same, srv_setFrit]
  · rw [srv_setFrit]
theorem dones_retireSlot (x : Nat × Frit) : ∃ l, (srv (retireSlot s e x) e).dones = (srv s e).dones ++ l := by
  unfold retireSlot
  split
  · unfold answerLater; rw [srv_modSrv_same, srv_setFrit]; exact ⟨_, rfl⟩
  · rw [srv_setFrit]; exact ⟨[], (List.append_nil _).symm⟩

/-- The slots of a list, retired in turn, answer their loads. -/
theorem dones_retireSlots (l : List (Nat × Frit)) : ∀ s, ∃ m, (srv (l.foldl (fun s x => retireSlot s e x) s) e).dones = (srv s e).dones ++ m := by
  induction l with
  | nil => exact fun s => ⟨[], (List.append_nil _).symm⟩
  | cons x l ih =>
    intro s
    obtain ⟨m, hm⟩ := ih (retireSlot s e x)
    obtain ⟨n, hn⟩ := dones_retireSlot s e x
    exact ⟨n ++ m, by rw [List.foldl_cons, hm, hn, List.append_assoc]⟩
/-- A slot that the list does not name stays. -/
theorem frits_retireSlots_out (l : List (Nat × Frit)) {k : Nat} : ∀ s, (∀ x ∈ l, x.1 ≠ k) →
    tget {} (srv (l.foldl (fun s x => retireSlot s e x) s) e).p.frits k = tget {} (srv s e).p.frits k := by
  induction l with
  | nil => exact fun _ _ => rfl
  | cons x l ih =>
    intro s h
    obtain ⟨hx, hl⟩ := List.forall_mem_cons.mp h
    rw [List.foldl_cons, ih _ hl, pend_retireSlot]
    exact tget_tset_ne _ _ (Ne.symm hx) _
/-- A slot that the list names once is retired. -/
theorem frits_retireSlots_in (l : List (Nat × Frit)) : ∀ s, (l.map (·.1)).Nodup → ∀ x ∈ l,
    tget {} (srv (l.foldl (fun s x => retireSlot s e x) s) e).p.frits x.1 = retiredFrit x.2 := by
  induction l with
  | nil => exact fun _ _ x hx => absurd hx List.not_mem_nil
  | cons a l ih =>
    intro s hnodup x hx
    obtain ⟨ha, hl⟩ := List.nodup_cons.mp hnodup
    rw [List.foldl_cons]
    rcases List.mem_cons.mp hx with rfl | hx
    · rw [frits_retireSlots_out e l _ fun y hy h => ha (List.mem_map.mpr ⟨y, hy, h⟩), pend_retireSlot]
      exact tget_tset_same ..
    · exact ih _ hl x hx

variable (f : Nat)

theorem pword_retired (y w : Nat) : pword (retired s e f) y w = pword s y w :=
  (pword_modSrv ..).trans (foldl_keeps _ _ (fun s => pword s y w) (fun s x => pword_retireSlot s e x y w) s)
theorem fritRefs_retired : (retired s e f).fritRefs = s.fritRefs :=
  foldl_keeps _ _ (fun s => s.fritRefs) (fun s x => fritRefs_retireSlot s e x) s
theorem dones_retired : ∃ l, (srv (retired s e f) e).dones = (srv s e).dones ++ l := by
  unfold retired retireFamily
  rw [srv_modSrv_same]
  exact dones_retireSlots ..
theorem frits_retired : (srv (retired s e f) e).p.frits = (srv ((slotsOf s e f).foldl (fun s x => retireSlot s e x) s) e).p.frits := by
  unfold retired retireFamily
  rw [srv_modSrv_same]
theorem mem_retired (g : Nat) : g ∈ (srv (retired s e f) e).p.retired ↔ g ∈ (srv s e).p.retired ∨ g = f := by
  have hsame : (srv ((slotsOf s e f).foldl (fun s x => retireSlot s e x) s) e).p.retired = (srv s e).p.retired :=
    foldl_keeps _ _ (fun s => (srv s e).p.retired) (fun s x => by rw [pend_retireSlot]) s
  unfold retired retireFamily
  rw [srv_modSrv_same]
  simp [hsame]
theorem frits_retired_other {k : Nat} (h : ∀ x ∈ (srv s e).p.frits, x.1 = k → x.2.family ≠ f) :
    tget {} (srv (retired s e f) e).p.frits k = tget {} (srv s e).p.frits k := by
  rw [frits_retired]
  refine frits_retireSlots_out e _ s fun x hx hk => ?_
  obtain ⟨hmem, hf⟩ := List.mem_filter.mp hx
  exact h x hmem hk (by simpa using (Bool.and_eq_true_iff.mp hf).2)
theorem frits_retired_family (h : ((srv s e).p.frits.map (·.1)).Nodup) {x : Nat × Frit} (hx : x ∈ (srv s e).p.frits) (hst : x.2.st ≠ 0) (hf : x.2.family = f) :
    tget {} (srv (retired s e f) e).p.frits x.1 = if x.2.st = 1 then {} else { x.2 with dflt := false } := by
  rw [frits_retired]
  exact frits_retireSlots_in e _ s (h.sublist (List.filter_sublist.map _)) x (List.mem_filter.mpr ⟨hx, by simp [hst, hf]⟩)
end

theorem fritRetire_executed {s : State} {e : Fin 16} {lsn : BitVec 64} {t : Taken} (H : Accepted s e.val lsn.toNat 0x12 t)
    (hin : familyIn (srv s e.val).p (arg t 24 4) = true) :
    exec (.fritRetire e lsn) s =
      .next (answer (retired (executing s e.val lsn.toNat) e.val (arg t 24 4)) e.val t 0 (refsOf s (slotsOf s e.val (arg t 24 4)))) := by
  have hrefs : refsOf s (slotsOf s e.val (arg t 24 4)) =
      refsOf (retired (executing s e.val lsn.toNat) e.val (arg t 24 4)) (slotsOf (executing s e.val lsn.toNat) e.val (arg t 24 4)) := by
    unfold refsOf slotsOf
    rw [fritRefs_retired, srv_executing_p]
    rfl
  rw [hrefs]
  show execFritRetire e lsn s = _
  unfold execFritRetire
  rw [request_effect H]
  · rfl
  · simp [firstFail, srv_executing_p, hin]

/-! ### The statement -/

/-- Settles O44: a request that fails a check by `request_refused`; one that passes by `keep_executed`, `release_executed`, `fritLoad_executed`,
`fritReplace_executed` or `fritRetire_executed`, each with what the state it leaves holds; a QUERY by `request_answered`. -/
theorem handleFritAndQueryRequests : Obligations.HandleFritAndQueryRequests := by
  refine ⟨?keep, ?release, ?load, ?replace, ?retire, ?query⟩
  case keep =>
    intro e lsn s t H hopen
    refine ⟨fun hlen => ?_, fun hlen hnone => ?_, fun ix hlen hfree => ?_⟩
    · exact request_refused H (by simp [firstFail, isOpen, pState_executing, pword_executing, hopen, hlen])
    · exact request_refused H (by simp [firstFail, isOpen, pState_executing, pword_executing, freeHandle_executing, hopen, hlen, hnone])
    intro g gen
    refine ⟨_, keep_executed H hopen hlen hfree, fun y w => (pword_answer ..).trans (pword_kept ..), ?_, ?_⟩
    · rw [dones_answer, dones_kept, dones_executing]; rfl
    · rw [pend_answer, handle_kept]
      exact ⟨rfl, rfl, rfl, rfl, rfl, congrArg (fun x => fld x 20 8) (((keepPanes_keeps ..).1 ..).trans (pword_executing ..))⟩
  case release =>
    intro e lsn s t H
    refine ⟨fun hbad => ?_, fun hvalid => ?_⟩
    · exact request_refused H (by simp [firstFail, handleValid_executing, hbad])
    refine ⟨_, release_executed H hvalid, fun y w => (pword_answer ..).trans (pword_modHandle ..), fun k => ?_, ?_⟩
    · rw [pend_answer, handles_endHandle, srv_executing_p]
    · unfold endHandle; rw [dones_answer, dones_modHandle, dones_executing]
  case load =>
    intro e lsn slot addr s t H
    refine ⟨fun m hin => ?_, fun k hnew hbytes hfields hfree => ?_⟩
    · exact request_refused H (by simp [firstFail, srv_executing_p, hin])
    · obtain ⟨hpword, hdones, hfrits⟩ := startFrit_does (lsn := lsn.toNat) hfree addr.toNat
      exact ⟨_, fritLoad_executed addr H hnew hbytes hfields hfree, hpword, hdones, hfrits⟩
  case replace =>
    intro e lsn slot addr s t H
    refine ⟨fun m hnew => ?_, fun k hin hkept habove hbytes hfields hfree => ?_⟩
    · exact request_refused H (by simp [firstFail, srv_executing_p, hnew])
    · obtain ⟨hpword, hdones, hfrits⟩ := startFrit_does (lsn := lsn.toNat) hfree addr.toNat
      exact ⟨_, fritReplace_executed addr H hin hkept habove hbytes hfields hfree, hpword, hdones, hfrits⟩
  case retire =>
    intro e lsn s t H
    refine ⟨fun hnew => ?_, fun hin => ?_⟩
    · exact request_refused H (by simp [firstFail, srv_executing_p, hnew])
    have hp := srv_executing_p s e.val lsn.toNat e.val
    obtain ⟨l, hl⟩ := dones_retired (executing s e.val lsn.toNat) e.val (arg t 24 4)
    refine ⟨_, fritRetire_executed H hin, fun y w => (pword_answer ..).trans (pword_retired ..), ?_⟩
    rw [pend_answer, dones_answer, hl, dones_executing, ← hp]
    exact ⟨(mem_retired ..).mpr (Or.inr rfl), fun f hf => (mem_retired ..).mpr (Or.inl hf), ⟨l, by rw [hp]; rfl⟩, fun k h => frits_retired_other _ _ _ h,
      fun hnodup x hx hst hf => frits_retired_family _ _ _ hnodup hx hst hf⟩
  case query =>
    intro e lsn s t H
    refine ⟨fun hbad => ?_, fun hitem => ?_, fun hitem => ?_, fun hitem hvalid => ?_, fun hitem => ?_⟩
    · exact request_refused H (by simp [firstFail, hbad])
    · exact request_answered H (by simp [firstFail, hitem]) (by simp only [hitem, pState_executing, pword_executing])
    · exact (request_answered H (by simp [firstFail, hitem]) (by simp only [hitem]; rfl)).imp fun u hu => ⟨_, hu⟩
    · exact request_answered H (by simp [firstFail, handleValid_executing, hitem, hvalid]) (by simp only [hitem, srv_executing_c])
    · exact request_answered H (by simp [firstFail, hitem]) (by simp only [hitem, nextLsn_executing, freeUnits_executing]; rfl)

end Sys2Proof.Machine
end

section
/-!
PROOFS. The statement of Crownline's detection and decisions (R371 to R380): heartbeats, suspicion, votes, decisions and reports, each
row of the table with what it does to a state in which it is due, then the theorem that settles it.
-/
namespace Sys2Proof.Machine
open Sys2Proof

/-! ### Heartbeats (R372) -/

section
variable {s : State} {n : Fin 24} {m : CrlMsg}

theorem heartbeatSend_sent (h : hbWindow s < s.crl.hbWin) : exec .heartbeatSend s = .next s := by
  show execHeartbeatSend s = _
  unfold execHeartbeatSend
  simp [h]

/-- Beyond the mark of its window, a device that sends its heartbeats changes links alone. -/
theorem heartbeatSend_due (hp : planOn s = true) (h : s.crl.hbWin ≤ hbWindow s) :
    ∃ t, exec .heartbeatSend s = .next t ∧ t = { s with crl := { s.crl with hbWin := hbWindow s + 1 }, links := t.links } := by
  have hsend : ¬ (!planOn s || decide (hbWindow s < s.crl.hbWin)) = true := by simp [hp, h]
  refine ⟨_, rfl, ?_⟩
  dsimp only
  rw [if_neg hsend]
  exact foldSend_links _ 0x10 _ (modCrl s fun c => { c with hbWin := hbWindow s + 1 })

/-- The senders heard, with one more. -/
theorem mem_heard (l : List Nat) (x d : Nat) : d ∈ (if l.contains x then l else l ++ [x]) ↔ d ∈ l ∨ d = x := by
  split
  case isTrue h =>
    have hx : x ∈ l := by simpa using h
    exact ⟨Or.inl, fun hd => hd.elim id fun e => e ▸ hx⟩
  case isFalse => simp

theorem heartbeat_taken (hd : m.dest.toNat = myIx s) (hf : m.dest ≠ 0xFFFF) :
    exec (.heartbeat n m) s = .next (modCrl s fun c => { c with heard := if c.heard.contains m.sender.toNat then c.heard else c.heard ++ [m.sender.toNat] }) :=
  congrArg Host.Outcome.next (crlIn_own hd hf _)

theorem heartbeat_forwarded (hd : m.dest.toNat ≠ myIx s) (hf : m.dest ≠ 0xFFFF) : exec (.heartbeat n m) s = .next (crlSend s 0x10 m) :=
  congrArg Host.Outcome.next (crlIn_other hd hf _)
end

/-! ### The end of a window (R373, R380) -/

section
variable {s : State}

/-- At its end tick a window without a pending claim is judged, and its heartbeats are forgotten. -/
theorem heartbeatWindowEnd_due (hp : planOn s = true) (ht : ttc s = launchT s + (s.crl.win + 1) * hbPeriod s) (hc : s.crl.claim = false)
    (hv : (windowState s (ttc s)).crl.claim = false) :
    exec .heartbeatWindowEnd s = .next (modCrl (windowState s (ttc s)) fun c => { c with heard := [] }) := by
  have hend : windowEnd (windowState s (ttc s)) (ttc s) = modCrl (windowState s (ttc s)) fun c => { c with heard := [] } := by
    unfold windowEnd
    rw [hv]; rfl
  rw [← hend]
  show execHeartbeatWindowEnd s = _
  unfold execHeartbeatWindowEnd
  simp [hp, hc, ← ht]

/-- The count of windows a device has missed, with the present one. -/
def missCount (s : State) (x : Nat) : Nat := if s.crl.heard.contains x then 0 else tget 0 s.crl.miss x + 1
/-- That count stored. -/
def missCounted (s : State) (x : Nat) : State := modCrl s fun c => { c with miss := tset 0 c.miss x (missCount s x) }

theorem missStep_eq (s : State) (x t : Nat) : missStep s x t =
    if 3 ≤ fleetSize s ∧ missLimit s ≤ missCount s x ∧ tget 0 s.crl.noVote x ≤ s.crl.win then suspect (missCounted s x) x t 1 else missCounted s x := by
  have h : missStep s x t = if (decide (3 ≤ fleetSize s) && decide (missLimit s ≤ missCount s x) && decide (tget 0 s.crl.noVote x ≤ s.crl.win)) = true
    then suspect (missCounted s x) x t 1 else missCounted s x := rfl
  simpa [and_assoc] using h

theorem openVote_faults (s : State) (x v cause r : Nat) (down : Bool) : (openVote s x v cause r down).faults = s.faults := by
  unfold openVote
  split
  · rfl
  · exact setRf_faults ..
theorem openVote_votes {s : State} {x v : Nat} (h : (s.crl.votes.any fun y => y.subject == x && y.v == v) = false) (cause r : Nat) :
    (openVote s x v cause r true).crl.votes =
      s.crl.votes ++ [{ subject := x, v := v, cause := cause, down := 2 ^ electNo s x (myIx s), up := 0, from_ := r, sent := 0 }] := by
  unfold openVote
  rw [if_neg (by simp [h]), setRf_crl]
  rfl

theorem suspect_recorded (s : State) (x v cause : Nat) : Recorded s (suspect s x v cause) 0x0C02 0 :=
  recorded_of_faults (raiseCrl_recorded ..) (openVote_faults ..)
/-- A suspicion opens a vote in which this elector's bit is DOWN. -/
theorem suspect_votes {s : State} {x v : Nat} (h : (s.crl.votes.any fun y => y.subject == x && y.v == v) = false) (cause : Nat) :
    (suspect s x v cause).crl.votes =
      s.crl.votes ++ [{ subject := x, v := v, cause := cause, down := 2 ^ electNo s x (myIx s), up := 0, from_ := 1, sent := 0 }] :=
  openVote_votes (s := raiseCrl s 0x0C02 0 (some x) [(0, 1, cause), (8, 8, v)]) h cause 1
end

/-! ### Votes (R374) -/

section
variable {s : State}

theorem voteRound_due {x : BitVec 16} {y : CrlVote} (hp : planOn s = true)
    (hy : (s.crl.votes.find? fun y => y.subject == x.toNat && decide (y.sent < roundOf s y.v)) = some y) (hfrom : y.from_ ≤ roundOf s y.v)
    (hr : roundOf s y.v = 1 ∨ (1 < roundOf s y.v ∧ roundOf s y.v < crlRounds s)) :
    exec (.voteRound x) s = .next (((electorsOf s x.toNat).filter fun d => d != myIx s).foldl (fun s d =>
      crlSend s 0x11 { crlMsg s d x.toNat y.v y.cause with down := BitVec.ofNat 32 y.down, up := BitVec.ofNat 32 y.up }) (modVote s x.toNat y.v fun z => { z with sent := roundOf s y.v })) := by
  have hsend : ¬ (!planOn s || decide (roundOf s y.v = 0) || decide (roundOf s y.v < y.from_) || (decide (1 < roundOf s y.v) && decide (crlRounds s ≤ roundOf s y.v))) = true := by
    simp only [hp, Bool.not_true, Bool.false_or, Bool.or_eq_true, Bool.and_eq_true, decide_eq_true_eq]
    omega
  show execVoteRound x s = _
  unfold execVoteRound
  dsimp only
  rw [hy]
  dsimp only
  rw [if_neg hsend]
  rfl

variable {n : Fin 24} {r : BitVec 3} {m : CrlMsg}

/-- A VOTE in its round is merged into the vote it belongs to, which opens here if it was not open. -/
theorem vote_merges (hp : planOn s = true) (hn : 3 ≤ fleetSize s) (hd : m.dest.toNat = myIx s) (hf : m.dest ≠ 0xFFFF)
    (he : (electorsOf s m.subject.toNat).contains (myIx s) = true) (hr : roundOf s m.v.toNat = r.toNat + 1) :
    exec (.vote n r m) s = .next (modVote (openVote s m.subject.toNat m.v.toNat m.cause.toNat (r.toNat + 2) (joinBit s m)) m.subject.toNat m.v.toNat
      fun y => { y with down := y.down ||| m.down.toNat, up := y.up ||| m.up.toNat }) := by
  show execVote n r m s = _
  unfold execVote
  rw [crlIn_own hd hf]
  dsimp only
  rw [if_neg (by simp [voting, hp, hn, hr, List.contains_iff_mem.mp he]), hr]
theorem vote_ignored (hd : m.dest.toNat = myIx s) (hf : m.dest ≠ 0xFFFF) (hr : roundOf s m.v.toNat ≠ r.toNat + 1) : exec (.vote n r m) s = .next s := by
  show execVote n r m s = _
  unfold execVote
  rw [crlIn_own hd hf]
  simp [hr]
end

/-! ### Decisions (R375, R379) -/

/-- A vote taken off the list at its decision; with the last one CRL_STAT leaves its voting state (R375, R394). -/
def voteClosed (s : State) (y : CrlVote) : State :=
  let v := modCrl s fun c => { c with votes := c.votes.erase y }
  if v.crl.votes = [] ∧ rf v (crlA 0x010) 60 4 = 1 then setRf v (crlA 0x010) 60 4 (if v.crl.decs = [] then 0 else 2) else v

theorem voteClosed_ex (s : State) (y : CrlVote) :
    ∃ q, voteClosed s y = { s with crl := { s.crl with votes := s.crl.votes.erase y }, regs := q } ∧ ∀ a, a ≠ crlA 0x010 → rg (voteClosed s y) a = rg s a := by
  unfold voteClosed
  dsimp only
  split
  · exact ⟨_, rfl, fun a ha => rg_setRf_ne _ ha _ _ _⟩
  · exact ⟨_, rfl, fun _ _ => rfl⟩
theorem voteClosed_crl (s : State) (y : CrlVote) : (voteClosed s y).crl = { s.crl with votes := s.crl.votes.erase y } := by
  obtain ⟨_, h, _⟩ := voteClosed_ex s y
  rw [h]
theorem voteClosed_faults (s : State) (y : CrlVote) : (voteClosed s y).faults = s.faults := by
  obtain ⟨_, h, _⟩ := voteClosed_ex s y
  rw [h]
/-- CRL_STAT and the votes have no part in an electorate (R369). -/
theorem electorsOf_voteClosed (s : State) (y : CrlVote) (x : Nat) : electorsOf (voteClosed s y) x = electorsOf s x := by
  obtain ⟨q, h, hrg⟩ := voteClosed_ex s y
  have htrain : (voteClosed s y).train = s.train := by rw [h]
  have helectors : (voteClosed s y).electors = s.electors := by rw [h]
  unfold electorsOf myIx twinOf rf
  rw [htrain, helectors, hrg (parA 0x030) (by decide), hrg (twnA 0x008) (by decide), hrg (twnA 0) (by decide), hrg (crlA 0x008) (by decide)]

section
variable {s : State} {x : BitVec 16} {y : CrlVote}

/-- Both outcomes of a due decision. -/
theorem crownlineDecision_due (hp : planOn s = true)
    (hy : (s.crl.votes.find? fun y => y.subject == x.toNat && decide (ttc s = y.v + crlRounds s * crlRoundLen s)) = some y) :
    let w := voteClosed s y
    exec (.crownlineDecision x) s = .next (if (electorsOf s x.toNat).length < 2 * ones y.down
      then addDec (crlFlood w 0x12 { crlMsg w 0xFFFF x.toNat y.v y.cause with flags := 1, down := BitVec.ofNat 32 y.down, aux := BitVec.ofNat 64 (actionTickOf w (ttc w)) })
        { subject := x.toNat, cause := y.cause, tick := actionTickOf w (ttc w), forced := false } true
      else raiseCrl w 0x0C03 0 (some x.toNat) [(0, 1, y.cause), (4, 4, y.down), (8, 8, y.v)]) := by
  intro w
  rw [← electorsOf_voteClosed s y]
  show execCrownlineDecision x s = _
  unfold execCrownlineDecision
  dsimp only
  rw [hy]
  dsimp only
  rw [if_neg (by simp [hp])]
  rfl
end

section
variable {s : State} {n : Fin 24} {m : CrlMsg}

/-- A flood's first receipt: noted, and sent on over every vote link (R371). -/
def floodTaken (s : State) (ty : Nat) (m : CrlMsg) : State :=
  crlSend (modCrl s fun c => { c with seen := c.seen ++ [(ty, m.sender.toNat, m.subject.toNat, m.v.toNat)] }) ty m

theorem crlIn_first {s : State} {ty : Nat} {m : CrlMsg} (hd : m.dest = 0xFFFF)
    (hs : s.crl.seen.contains (ty, m.sender.toNat, m.subject.toNat, m.v.toNat) = false) (f : State → State) : crlIn s ty m f = f (floodTaken s ty m) :=
  crlIn_new hd hs f

/-- A DOWN decision at its first receipt. -/
theorem decide_taken (hd : m.dest = 0xFFFF) (hs : s.crl.seen.contains (0x12, m.sender.toNat, m.subject.toNat, m.v.toNat) = false)
    (hp : takesPart (floodTaken s 0x12 m) m = true) (hb : bitAt m.flags.toNat 0 = true) :
    let u := floodTaken s 0x12 m
    exec (.decide_ n m) s = .next (if m.aux.toNat < ttc u then raiseCrl u 0x0C08 4 none [(0, 2, m.subject.toNat), (8, 8, m.aux.toNat)]
      else addDec u { subject := m.subject.toNat, cause := m.cause.toNat, tick := m.aux.toNat, forced := false } true) := by
  intro u
  show execDecide n m s = _
  unfold execDecide
  rw [crlIn_first hd hs, if_neg (by simp [hp, hb])]

theorem event_taken (hd : m.dest = 0xFFFF) (hs : s.crl.seen.contains (0x13, m.sender.toNat, m.subject.toNat, m.v.toNat) = false)
    (hp : planOn (floodTaken s 0x13 m) = true) :
    let u := floodTaken s 0x13 m
    exec (.event n m) s = .next (addDec u { subject := m.subject.toNat, cause := m.cause.toNat, tick := actionTickOf u (m.v.toNat + crlRounds u * crlRoundLen u), forced := false } false) := by
  intro u
  show execEvent n m s = _
  unfold execEvent
  rw [crlIn_first hd hs, if_neg (by simp [hp])]
theorem event_again (hd : m.dest = 0xFFFF) (hs : s.crl.seen.contains (0x13, m.sender.toNat, m.subject.toNat, m.v.toNat) = true) :
    exec (.event n m) s = .next s :=
  congrArg Host.Outcome.next (crlIn_seen hd hs _)
end

theorem addDec_known {s : State} {x : CrlDec} (h : x ∈ s.crl.decs) (d : Bool) : addDec s x d = s := by
  unfold addDec
  rw [if_pos (by simpa using h)]
/-- A new decision joins the list; CRL_STAT, CRL_LAST and a vector show it (R376, R394). -/
theorem addDec_new {s : State} {x : CrlDec} (h : x ∉ s.crl.decs) (d : Bool) :
    ∃ r l o, addDec s x d = { s with crl := { s.crl with decs := s.crl.decs ++ [x] }, regs := r, fired := l, sent := o } := by
  unfold addDec
  rw [if_neg (by simpa using h)]
  extract_lets u v w
  have hw : w = { u with regs := w.regs } := setRg_only (setRf_only (setRg_only (regs_self rfl) _ _) _ _ _ _) _ _
  have hu : u = { s with crl := { s.crl with decs := s.crl.decs ++ [x] } } := rfl
  clear_value w u
  subst hu
  split
  · obtain ⟨r, l, o, e⟩ := msix_ex w 0 3
    exact ⟨r, l, o, by rw [e, hw]⟩
  · exact ⟨_, _, _, hw⟩

/-! ### The statement -/

/-- Settles O46: each row of the table by the lemma about it above, a suspicion by `suspect_recorded` and `suspect_votes`, a new decision by
`addDec_new`. -/
theorem crownlineDetectsAndDecides : Obligations.CrownlineDetectsAndDecides := by
  refine ⟨?send, ?heartbeat, ?windowEnd, ?miss, ?round, ?vote, ?decision, ?decide, ?event, ?add⟩
  case send => exact fun s hp => ⟨heartbeatSend_sent, heartbeatSend_due hp⟩
  case heartbeat =>
    exact fun n m s => ⟨fun hd hf => ⟨_, heartbeat_taken hd hf, rfl, fun d => mem_heard ..⟩, heartbeat_forwarded⟩
  case windowEnd => exact fun s hp ht hc => heartbeatWindowEnd_due hp ht hc
  case miss =>
    intro s x t n u
    refine ⟨fun h => ?_, fun hn hmiss hvote => ?_⟩
    · rw [missStep_eq, if_neg ?_]
      · rfl
      · rintro ⟨hn, hmiss, hvote⟩
        rcases h with h | h | h
        · omega
        · exact absurd hmiss (Nat.not_le.mpr h)
        · omega
    · have hs : missStep s x t = suspect u x t 1 := (missStep_eq s x t).trans (if_pos ⟨hn, hmiss, hvote⟩)
      rw [hs]
      exact ⟨rfl, suspect_recorded u x t 1, fun h => suspect_votes (s := u) h 1⟩
  case round => exact fun x s y hp hy hfrom hr => voteRound_due hp hy hfrom hr
  case vote => exact fun n r m s hp hn hd hf he => ⟨vote_merges hp hn hd hf he, vote_ignored hd hf⟩
  case decision =>
    intro x s y hp hy v w
    have hdue := crownlineDecision_due hp hy
    refine ⟨fun h => ?_, fun h => ?_⟩
    · rw [hdue, if_pos h]
      rfl
    · rw [hdue, if_neg (Nat.not_lt.mpr h)]
      obtain ⟨f, hf, hcode, hsev, _⟩ := raiseCrl_recorded (voteClosed s y) 0x0C03 0 (some x.toNat) [(0, 1, y.cause), (4, 4, y.down), (8, 8, y.v)]
      exact ⟨_, rfl, ⟨f, by rw [hf, voteClosed_faults], hcode, hsev⟩, by rw [raiseCrl_crl, voteClosed_crl]⟩
  case decide =>
    intro n m s hd hs u hp hb
    have htaken := decide_taken (n := n) hd hs hp hb
    refine ⟨fun h => ?_, fun h => ?_⟩
    · exact ⟨_, htaken.trans (congrArg _ (if_pos h)), raiseCrl_recorded .., raiseCrl_halts ..⟩
    · exact htaken.trans (congrArg _ (if_neg (Nat.not_lt.mpr h)))
  case event => exact fun n m s hd => ⟨event_again hd, event_taken hd⟩
  case add =>
    intro s x d
    refine ⟨fun h => addDec_known h d, fun h => ?_⟩
    obtain ⟨_, _, _, e⟩ := addDec_new h d
    dsimp only
    rw [e]
    exact ⟨rfl, rfl, rfl⟩

end Sys2Proof.Machine
end

section
/-!
PROOFS. The statement of actions, wear scores and security checks (R377 to R380, R390, R391, R449): claims, action ticks and their entries,
WEAR_UPDATE, the Keel's PROMOTE and CLAIM, and SECCHK, then the theorem that settles it.
-/
namespace Sys2Proof.Machine
open Sys2Proof

/-! ### Claims (R391) -/

section
variable {s : State} {n : Fin 24} {m : CrlMsg}

theorem claimMessage_again (hd : m.dest = 0xFFFF) (hs : s.crl.seen.contains (0x14, m.sender.toNat, m.subject.toNat, m.v.toNat) = true) :
    exec (.claimMessage n m) s = .next s :=
  congrArg Host.Outcome.next (crlIn_seen hd hs _)

/-- A claim at its first receipt opens a vote at an elector of its subject, and is only forwarded elsewhere. -/
theorem claimMessage_first (hd : m.dest = 0xFFFF) (hs : s.crl.seen.contains (0x14, m.sender.toNat, m.subject.toNat, m.v.toNat) = false)
    (hp : planOn (floodTaken s 0x14 m) = true) (hn : 3 ≤ fleetSize (floodTaken s 0x14 m)) :
    let u := floodTaken s 0x14 m
    exec (.claimMessage n m) s = .next (if (electorsOf u m.subject.toNat).contains (myIx u) = true
      then openVote u m.subject.toNat m.v.toNat 7 (roundOf u m.v.toNat + 1) (admits u m.subject.toNat m.aux.toNat m.secver.toNat) else u) := by
  intro u
  show execClaimMessage n m s = _
  unfold execClaimMessage
  rw [crlIn_first hd hs]
  by_cases he : (electorsOf u m.subject.toNat).contains (myIx u) = true
  · rw [if_pos he, if_neg (by rw [he]; simp [hp, voting, hn])]
  · rw [if_neg he, if_pos (by rw [Bool.eq_false_iff.mpr he]; simp)]
end

/-! ### Action ticks (R377 to R379) -/

/-- The decisions whose action tick is the present one. -/
def decsDue (s : State) : List CrlDec := s.crl.decs.filter fun d => d.tick == ttc s

section
variable {s : State}

theorem actionTick_idle (h0 : s.phase = 0) (hds : decsDue s = []) : exec .actionTick s = .next s := by
  refine congrArg Host.Outcome.next ((whenAt_now s 0 h0.symm _).trans (if_pos ?_))
  show (s.halted || decide (decsDue s = [])) = true
  simp [hds]

theorem actionTick_starts (hh : s.halted = false) (hds : decsDue s ≠ []) : ¬ (s.halted || decide (decsDue s = [])) = true := by simp [hh, hds]

theorem actionTick_refused (h0 : s.phase = 0) (hh : s.halted = false) (hds : decsDue s ≠ [])
    (h : 2 < (subjectsAt s (ttc s)).length ∨ entryAt s (ttc s) = none) :
    exec .actionTick s = .next (noEntry (decsTaken s) (subjectsAt s (ttc s))) := by
  refine congrArg Host.Outcome.next ((whenAt_now s 0 h0.symm _).trans ((if_neg (actionTick_starts hh hds)).trans ?_))
  rcases h with h | h
  · exact if_pos h
  · rw [h]
    exact ite_self _

theorem actionTick_applies (h0 : s.phase = 0) (hh : s.halted = false) (hds : decsDue s ≠ []) (hlen : (subjectsAt s (ttc s)).length ≤ 2)
    {e : ActEnt} (he : entryAt s (ttc s) = some e) :
    exec .actionTick s = .next (applyEntry (noteAction (decsTaken s) e) e (subjectsAt s (ttc s)) (((decsDue s).map (·.cause)).headD 0) (ttc s)) := by
  refine congrArg Host.Outcome.next ((whenAt_now s 0 h0.symm _).trans ((if_neg (actionTick_starts hh hds)).trans ?_))
  rw [if_neg (Nat.not_lt.mpr hlen), he]
  rfl
end

/-- The tick's decisions leave the list; the records and the time stand, so a halt for want of an entry is recorded of the state before. -/
theorem noEntry_recorded (s : State) (xs : List Nat) : Recorded s (noEntry (decsTaken s) xs) 0x0C07 4 := by
  obtain ⟨ht, hstep⟩ := decsTaken_time s
  have hfaults : (decsTaken s).faults = s.faults := by rw [decsTaken_only]
  exact recorded_since hfaults ht hstep (raiseCrl_recorded ..)

theorem applyEntry_evicts {e : ActEnt} (h : e.action = 1) (s : State) (xs : List Nat) (c t : Nat) : applyEntry s e xs c t = evict s xs c t := by
  unfold applyEntry
  rw [h]
  rfl
theorem applyEntry_halts {e : ActEnt} (h : e.action = 4) (s : State) (xs : List Nat) (c t : Nat) :
    applyEntry s e xs c t = setRf { s with halted := true } (crlA 0x010) 60 4 3 := by
  unfold applyEntry
  rw [h]
  rfl

/-! ### Wear scores (R390) -/

/-- What WEAR_UPDATE notes before the parts' scores. -/
def wearNoted (s : State) : State :=
  modCrl { s with wearMark := s.faults.length } fun c => { c with wearAt := ttc s, fec := (List.range 24).foldl (fun x n => tset 0 x n (rg s (lnkA n 0x048) / 65536)) c.fec }

section
variable {s : State}

theorem wearUpdate_elsewhere (h : ttc s - launchT s = 0 ∨ (ttc s - launchT s) % 156250 ≠ 0 ∨ s.crl.wearAt = ttc s) : exec .wearUpdate s = .next s := by
  refine congrArg Host.Outcome.next (if_pos ?_)
  simp only [Bool.or_eq_true, decide_eq_true_eq]
  tauto
theorem wearUpdate_due (hl : launched s = true) (h0 : ttc s - launchT s ≠ 0) (hm : (ttc s - launchT s) % 156250 = 0) (ha : s.crl.wearAt ≠ ttc s) :
    exec .wearUpdate s = .next ((List.range 128).foldl (wearUp s) (wearNoted s)) :=
  congrArg Host.Outcome.next (if_neg (by simp [hl, h0, hm, ha]))
end

/-! ### PROMOTE and CLAIM (R380, R391) -/

theorem promote_decides {s : State} {y : Nat} (hy : twinOf s = some y) (hp : planOn s = true) (hn : fleetSize s = 2) :
    promote s = addDec s { subject := y, cause := 1, tick := actionTickOf s (ttc s), forced := true } true := by
  unfold promote
  rw [hy]
  simp [hp, hn]
theorem promote_refused {s : State} (h : twinOf s = none ∨ fleetSize s ≠ 2) : promote s = s := by
  unfold promote
  cases hy : twinOf s with
  | none => rfl
  | some y => simp [h.resolve_left (by simp [hy])]

/-! ### SECCHK (R449) -/

/-- A check of device `x` counted and noted. -/
def secNoted (s : State) (x : Nat) : State := modCrl (bump s (secA 0x000) 32 8) fun c => { c with secOk := ascending (x :: c.secOk) }

theorem secNoted_regs (s : State) (x : Nat) : (secNoted s x).regs = (bump s (secA 0x000) 32 8).regs := rfl
theorem rg_secNoted (s : State) (x : Nat) {a : Nat} (h : a ≠ secA 0x000) : rg (secNoted s x) a = rg s a :=
  (rg_congr (secNoted_regs s x) a).trans (rg_bump_ne s h 32 8)
theorem rf_secNoted (s : State) (x : Nat) {a : Nat} (h : a ≠ secA 0x000) (lo w : Nat) : rf (secNoted s x) a lo w = rf s a lo w :=
  (rf_congr (secNoted_regs s x) a lo w).trans (rf_bump_ne s h 32 8 lo w)
/-- The count stands above the device's own firmware version. -/
theorem ownFw_secNoted (s : State) (x : Nat) : rf (secNoted s x) (secA 0x000) 0 32 = rf s (secA 0x000) 0 32 :=
  (rf_congr (secNoted_regs s x) ..).trans (rf_bump_below s (secA 0x000) (by omega) (by omega))
theorem secNoted_faults (s : State) (x : Nat) : (secNoted s x).faults = s.faults := (modCrl_faults ..).trans (bump_faults ..)
theorem secNoted_crl (s : State) (x : Nat) : (secNoted s x).crl = { s.crl with secOk := ascending (x :: s.crl.secOk) } := by
  unfold secNoted modCrl
  rw [bump_crl]

/-- A check that differs raises 0x0F06 and bars the launch. -/
def Barred (s t : State) : Prop := Recorded s t 0x0F06 4 ∧ t.crl.secBad = true

theorem secBadOf_barred (s : State) (x reason peer own y : Nat) : Barred s (secBadOf (secNoted s x) reason peer own y) := by
  unfold secBadOf
  refine ⟨recorded_since (secNoted_faults s x) (rg_secNoted s x (by decide)) (rf_secNoted s x (by decide) 0 48) ?_, ?_⟩
  · exact recorded_bump (recorded_of_faults (raise_recorded ..) (modCrl_faults ..)) ..
  · rw [bump_crl]
    rfl

section
variable {s : State} {n : Fin 24} {a b : BitVec 16} {p : BitVec 64} {pv fv : BitVec 32}

theorem secchk_forwarded (hb : b.toNat ≠ myIx s) : ∃ t, exec (.secchk n a b p pv fv) s = .next t ∧ t = { s with links := t.links } := by
  refine ⟨_, rfl, ?_⟩
  rw [if_pos hb]
  split
  · exact (sendMgmt_only (links_self rfl) ..).1
  · rfl
theorem secchk_late (hb : b.toNat = myIx s) (hl : launched s = true) : exec (.secchk n a b p pv fv) s = .next s :=
  congrArg Host.Outcome.next ((if_neg (not_not_intro hb)).trans (if_pos hl))

/-- A check for this device before launch, as its three comparisons judge it. -/
theorem secchk_judged (hb : b.toNat = myIx s) (hl : launched s = false) :
    exec (.secchk n a b p pv fv) s = .next (
      let t := secNoted s a.toNat
      if p.toNat ≠ rg s (parA 0x028) then secBadOf t 1 pv.toNat (rf s (parA 0x034) 0 32) a.toNat
      else if rf s (parA 0x034) 0 32 < pv.toNat then secBadOf t 2 pv.toNat (rf s (parA 0x034) 0 32) a.toNat
      else if rf s (secA 0x000) 0 32 < fv.toNat then secBadOf t 3 fv.toNat (rf s (secA 0x000) 0 32) a.toNat
      else t) := by
  have hplan := rg_secNoted s a.toNat (a := parA 0x028) (by decide)
  have hpar := rf_secNoted s a.toNat (a := parA 0x034) (by decide) 0 32
  have hfw := ownFw_secNoted s a.toNat
  rw [← hplan, ← hpar, ← hfw]
  exact congrArg Host.Outcome.next ((if_neg (not_not_intro hb)).trans (if_neg (by simp [hl])))

/-- The checks of the plan, the parison version and the firmware version all agree. -/
def SecAgrees (s : State) (p : BitVec 64) (pv fv : BitVec 32) : Prop :=
  p.toNat = rg s (parA 0x028) ∧ pv.toNat ≤ rf s (parA 0x034) 0 32 ∧ fv.toNat ≤ rf s (secA 0x000) 0 32

theorem secchk_agrees (hb : b.toNat = myIx s) (hl : launched s = false) (h : SecAgrees s p pv fv) :
    exec (.secchk n a b p pv fv) s = .next (secNoted s a.toNat) := by
  obtain ⟨hp, hpv, hfv⟩ := h
  rw [secchk_judged hb hl]
  dsimp only
  rw [if_neg (not_not_intro hp), if_neg (Nat.not_lt.mpr hpv), if_neg (Nat.not_lt.mpr hfv)]
theorem secchk_differs (hb : b.toNat = myIx s) (hl : launched s = false) (h : ¬ SecAgrees s p pv fv) :
    ∃ t, exec (.secchk n a b p pv fv) s = .next t ∧ Barred s t := by
  refine ⟨_, secchk_judged hb hl, ?_⟩
  dsimp only
  split_ifs with hp hpv hfv
  · exact secBadOf_barred ..
  · exact secBadOf_barred ..
  · exact secBadOf_barred ..
  · exact absurd ⟨not_not.mp hp, Nat.not_lt.mp hpv, Nat.not_lt.mp hfv⟩ h
end

/-! ### The statement -/

/-- Settles O47: a claim by `claimMessage_first`, an action tick by `actionTick_applies` and `noEntry_recorded`, an entry by `evict_facts`, the scores by
`wearFold`, and a SECCHK by `secchk_agrees` and `secchk_differs`. -/
theorem actionsWearAndSecurityChecks : Obligations.ActionsWearAndSecurityChecks := by
  refine ⟨?claim, ?tick, ?taken, ?entry, ?wear, ?keel, ?secchk⟩
  case claim =>
    intro n m s hd k u
    refine ⟨claimMessage_again hd, fun hs hp hn => ?_⟩
    have hfirst := claimMessage_first (n := n) hd hs hp hn
    exact ⟨fun he => hfirst.trans (congrArg _ (if_pos he)), fun he => hfirst.trans (congrArg _ (if_neg (Bool.eq_false_iff.mp he)))⟩
  case tick =>
    intro s h0 hh xs ds u
    refine ⟨actionTick_idle h0, fun hds h => ?_, fun hds hlen e he => actionTick_applies h0 hh hds hlen he⟩
    exact ⟨_, actionTick_refused h0 hh hds h, noEntry_recorded .., raiseCrl_halts ..⟩
  case taken => exact fun s => ⟨decsTaken_crl s, decsTaken_only s⟩
  case entry =>
    intro s e xs c t
    obtain ⟨hevicted, hself⟩ := evict_facts s xs c t
    refine ⟨fun h => applyEntry_evicts h .., fun h => ?_, hevicted, hself⟩
    rw [applyEntry_halts h, rf_setRf_same _ _ _ (by omega)]
    exact ⟨setRf_halted .., by decide⟩
  case wear =>
    refine fun s => ⟨wearUpdate_elsewhere, fun hl h0 hm ha => ?_⟩
    obtain ⟨hmark, hat, hscores⟩ := wearFold s 128 (wearNoted s)
    exact ⟨_, wearUpdate_due hl h0 hm ha, hmark, hat, fun p hp => (hscores p).trans (if_pos hp)⟩
  case keel =>
    exact fun s => ⟨fun y hy hp hn => congrArg _ (promote_decides hy hp hn), fun h => congrArg _ (promote_refused h), rfl⟩
  case secchk =>
    refine fun n a b p pv fv s => ⟨secchk_forwarded, secchk_late, fun hb hl => ⟨fun h => ?_, secchk_differs hb hl⟩⟩
    exact ⟨_, secchk_agrees hb hl h, secNoted_faults .., secNoted_crl ..⟩

end Sys2Proof.Machine
end

section
/-!
PROOFS. The statements of a step and of the relay of a pod (chapter 15): what a loop of messages sends and what a store leaves, each
relay message by its kind, then the theorems that settle them.
-/
namespace Sys2Proof.Machine
open Sys2Proof

/-- What is read through an equation for the first argument. -/
theorem congr_first {α β γ δ : Type} {f : α → β → γ → δ} {a a' : α} {b : β} {c : γ} : a = a' → f a b c = f a' b c := by
  rintro rfl
  rfl

/-- Settles O1: `step` on each shape of the queue. -/
theorem stepRunsTheFrontCommand : Obligations.StepRunsTheFrontCommand := by
  refine ⟨fun c rest s => rfl, fun s => ?_⟩
  delta step
  exact congr_first

/-! ### Loops that send, and stores -/

/-- The state with the messages l sent. -/
noncomputable def withSent (s : State) (l : List Out) : State := { s with sent := s.sent ++ l }

/-- Of s nothing differs in t but the messages l, sent after those of s. -/
def Sends (s t : State) (l : List Out) : Prop := t = withSent s l

/-- Of s nothing differs in t but the n bytes from a on, which read bs, and beside memory the errors of their sectors. -/
def Stores (s t : State) (a n : Nat) (bs : List Byte) : Prop :=
  t = { s with mem := t.mem, sec := t.sec } ∧ readBytes t.mem a n = bs ∧ ∀ b, b < a ∨ a + n ≤ b → readByte t.mem b = readByte s.mem b

/-- Of s nothing differs in t but links. -/
def LinksOnly (s t : State) : Prop := t = { s with links := t.links }

section
variable {s t : State} {l : List Out}

theorem withSent_nil (s : State) : s = withSent s [] := congrArg (fun x => { s with sent := x }) (List.append_nil s.sent).symm

theorem emit_withSent (s : State) (l : List Out) (o : Out) : emit (withSent s l) o = withSent s (l ++ [o]) :=
  congrArg (fun x => { s with sent := x }) (List.append_assoc s.sent l [o])

theorem Sends.emit (h : Sends s t l) (o : Out) : Sends s (emit t o) (l ++ [o]) := (congrArg (Machine.emit · o) h).trans (emit_withSent ..)

theorem Sends.hostWrite (h : Sends s t l) (hu : s.ucie ≠ 2) (hm : busMaster s 0 = true) (a : Nat) (d : List Byte) :
    Sends s (hostWrite t 0 a d) (l ++ [.hostWrite 0 a d]) := by
  refine Eq.trans ?_ (h.emit _)
  subst h
  exact hostWrite_on (s := withSent s l) hu hm ..

/-- A loop whose turn i sends the messages of i. -/
theorem forN_sends {f : Nat → State → State} {g : Nat → List Out} (h : ∀ i t l, Sends s t l → Sends s (f i t) (l ++ g i)) (n : Nat) :
    Sends s (forN n s f) ((List.range n).flatMap g) := by
  induction n with
  | zero => exact withSent_nil s
  | succ n ih =>
    rw [forN_succ, List.range_succ, List.flatMap_append, List.flatMap_singleton]
    exact h n _ _ ih
end

/-- What holds of each state that an equation leaves possible. -/
theorem holds_of_exists {α : Type} {P : State → Prop} {t : State} {g : α → State} (h : ∃ x, t = g x) (hg : ∀ x, P (g x)) : P t := by
  obtain ⟨x, rfl⟩ := h
  exact hg x

theorem stores_written (s : State) (a : Nat) (bs : List Byte) (x : Tbl (List (Nat × Nat))) :
    Stores s { s with mem := writeBytes s.mem a bs, sec := x } a bs.length bs :=
  ⟨rfl, readBytes_writeBytes .., fun _ hb => readByte_writeBytes_out _ _ _ _ hb⟩

theorem storeBytes_stores {n : Nat} (s : State) (a : Nat) (bs : List Byte) : bs.length = n → Stores s (storeBytes s a bs) a n bs := by
  rintro rfl
  exact holds_of_exists (P := (Stores s · a bs.length bs)) (storeBytes_only s a bs) (stores_written s a bs)

/-! ### Guards -/

/-- A choice whose condition holds, or does not, as an instruction of the model makes it. -/
theorem ite_taken {c : Prop} [Decidable c] {α : Type} {a b : α} : c → (if c then a else b) = a := fun h => if_pos h
theorem ite_off {b : Bool} {α : Type} {x y : α} : b = false → (if b then x else y) = y := by
  rintro rfl
  rfl

theorem next_taken {c : Prop} [Decidable c] {a b : State} : c → (.next (if c then a else b) : Host.Outcome State Fault Refusal) = .next a := fun h => congrArg _ (if_pos h)
theorem next_passed {c : Prop} [Decidable c] {a b : State} : ¬ c → (.next (if c then a else b) : Host.Outcome State Fault Refusal) = .next b :=
  fun h => congrArg _ (if_neg h)

theorem ite_passed_holds {c : Prop} [Decidable c] {α : Type} {P : α → Prop} {a b : α} (hb : P b) (h : ¬ c) : P (if c then a else b) := (if_neg h).symm ▸ hb

/-- What holds for each shape of a list. -/
theorem holds_of_cases {α β γ δ : Type} {P : δ → Prop} {f : List α → β → γ → δ} {b : β} {c : γ} (hnil : P (f [] b c)) (hcons : ∀ x r, P (f (x :: r) b c)) :
    ∀ l, P (f l b c)
  | [] => hnil
  | x :: r => hcons x r

theorem or_stays_false {a b : Bool} (ha : a = false) (hb : b = false) : (a || b) = false := Bool.or_eq_false_iff.2 ⟨ha, hb⟩

/-- A choice that needs two conditions stays where one fails, or where it would change nothing. -/
theorem ite_and_stays {a b : Bool} {s t : State} (h : a = false ∨ b = false ∨ t = s) : (if a && b then t else s) = s :=
  h.elim (fun h => if_neg fun hon => Bool.false_ne_true (h.symm.trans (Bool.and_elim_left hon)))
    (Or.rec (fun h => if_neg fun hon => Bool.false_ne_true (h.symm.trans (Bool.and_elim_right hon))) (fun h => h.symm ▸ ite_self _))

section
variable {x y z w k n : Nat} {b c d f : Bool} {s t u : State} {o : Host.Outcome State Fault Refusal} {q : Prop} {P : State → Prop}

/-- Six guards, none of which stops an instruction. -/
theorem next_of_guards (h : t = u) (hx : x = y) (hb : b = true) (hc : c = false) (hz : z = w) (hd : d = false) (hf : f = true) :
    (.next (if decide (x ≠ y) || !b || c || decide (z ≠ w) || d || !f then s else t) : Host.Outcome State Fault Refusal) = .next u :=
  congrArg Host.Outcome.next ((if_neg (Bool.eq_false_iff.mp (or_stays_false (or_stays_false (or_stays_false (or_stays_false (or_stays_false
    (decide_eq_false (not_not_intro hx)) (congrArg not hb)) hc) (decide_eq_false (not_not_intro hz))) hd) (congrArg not hf)))).trans h)

/-- Six guards, the first, third or fifth of which stops an instruction. -/
theorem next_of_guard (h : x ≠ y ∨ c = true ∨ d = true) :
    (.next (if decide (x ≠ y) || b || c || decide (z ≠ w) || d || f then s else t) : Host.Outcome State Fault Refusal) = .next s :=
  congrArg Host.Outcome.next (if_pos (Bool.or_inl (h.elim (fun h => Bool.or_inl (Bool.or_inl (Bool.or_inl (Bool.or_inl (decide_eq_true h)))))
    fun h => h.elim (fun h => Bool.or_inl (Bool.or_inl (Bool.or_inr h))) Bool.or_inr)))

/-- A number within its bound lets the instruction end. -/
theorem next_of_le (h : q → t = u) (hk : n ≤ k) (hq : q) : (if k < n then o else .next t) = .next u := (if_neg (Nat.not_lt.mpr hk)).trans (congrArg _ (h hq))

/-- An instruction that ends in a state of which P holds. -/
theorem exists_next (h : o = .next t) (hp : P t) : ∃ t, o = .next t ∧ P t := ⟨t, h, hp⟩
theorem exists_next_of_le (h : q → P t) (hk : n ≤ k) (hq : q) : ∃ u, (if k < n then o else .next t) = .next u ∧ P u := ⟨t, next_of_le (fun _ => rfl) hk hq, h hq⟩
end

/-! ### Relay messages (R409, R410) -/

theorem relayIn_here {m : RelayMsg} {s : State} {ty : Nat} {f : State → State} (h : m.dest.toNat = myIx s) : relayIn s ty m f = f s := if_pos h

theorem sendMgmt_linksOnly {s t : State} (h : LinksOnly s t) (n p k : Nat) (rows : List Row) : LinksOnly s (sendMgmt t n p k rows) := (sendMgmt_only h n p k rows).1

/-- A message for another device goes out on a link, or nowhere without a route. -/
theorem relayIn_forwarded {s : State} {ty : Nat} {m : RelayMsg} {f : State → State} : m.dest.toNat ≠ myIx s → LinksOnly s (relayIn s ty m f) := by
  exact ite_passed_holds (holds_of_cases (P := LinksOnly s) (links_self rfl) (fun _ _ => sendMgmt_linksOnly (links_self rfl) ..) _)

section
variable {m : RelayMsg} {s : State}

/-- The writes of record i of a RELAY_POST, its first 8 bytes last. -/
noncomputable def postedWrites (m : RelayMsg) (i : Nat) : List Out :=
  let b := leBytes 64 (fld m.payload.toNat (512 * i) 512)
  [.hostWrite 0 (m.addr.toNat + 64 * i + 8) (b.drop 8), .hostWrite 0 (m.addr.toNat + 64 * i) (b.take 8)]

/-- Record i of a RELAY_POST written to host memory, and all of them. -/
noncomputable def postRecord (m : RelayMsg) (i : Nat) (s : State) : State :=
  let b := leBytes 64 (fld m.payload.toNat (512 * i) 512)
  hostWrite (hostWrite s 0 (m.addr.toNat + 64 * i + 8) (b.drop 8)) 0 (m.addr.toNat + 64 * i) (b.take 8)
noncomputable def recordsPosted (m : RelayMsg) (s : State) : State := forN m.b1.toNat s (postRecord m)

/-- A RELAY_POST for this device taken. -/
noncomputable def relayPosted (m : RelayMsg) (s : State) : State := msix { recordsPosted m s with podPost := (recordsPosted m s).podPost + m.b1.toNat } 0 4

theorem relayPost_runs (n : Fin 24) (m : RelayMsg) (s : State) : m.b1.toNat ≤ 3 → m.dest.toNat = myIx s → exec (.relayPost n m) s = .next (relayPosted m s) :=
  next_of_le (relayIn_here (f := relayPosted m))

theorem recordsPosted_sends (hu : s.ucie ≠ 2) (hm : busMaster s 0 = true) :
    Sends s (recordsPosted m s) ((List.range m.b1.toNat).flatMap (postedWrites m)) :=
  forN_sends (f := postRecord m) (g := postedWrites m)
    (fun _ _ _ h => ((h.hostWrite hu hm ..).hostWrite hu hm ..).trans (congrArg (withSent s) (List.append_assoc ..))) _

theorem relayWord_runs (n : Fin 24) (m : RelayMsg) (s : State) : m.b1.toNat ≤ 2 → m.dest.toNat = myIx s → exec (.relayWord n m) s = .next (relayWordIn m s) :=
  next_of_le relayIn_here

/-- A HEAD word stands last in its ring's image, the mark word before that of ring 0 (log entry 13). -/
noncomputable def relayedPlace (s : State) (m : RelayMsg) : Nat :=
  if m.b1.toNat = 0 then (imageRing s (m.env.toNat % 16) (m.ring.toNat % 16)).2 else (imageRing s (m.env.toNat % 16) 0).2 - 8

theorem congr_first_of_four {α β γ δ ε : Type} {f : α → β → γ → δ → ε} {a a' : α} {b : β} {c : γ} {d : δ} : a = a' → f a b c d = f a' b c d := by
  rintro rfl
  rfl

theorem relayWordIn_head (m : RelayMsg) (s : State) : m.b1.toNat = 0 →
    relayWordIn m s = storeBytes s (imageRing s (m.env.toNat % 16) (m.ring.toNat % 16)).2 (leBytes 8 (fld m.payload.toNat 0 64)) := by
  delta relayWordIn
  dsimp only
  exact congr_first_of_four

theorem relayWordIn_mark (m : RelayMsg) (s : State) : m.b1.toNat = 2 →
    relayWordIn m s = storeBytes s ((imageRing s (m.env.toNat % 16) 0).2 - 8) (leBytes 8 (fld m.payload.toNat 0 64)) := by
  delta relayWordIn
  dsimp only
  exact congr_first_of_four

theorem relayWordIn_stores (hk : m.b1.toNat = 0 ∨ m.b1.toNat = 2) :
    relayWordIn m s = storeBytes s (relayedPlace s m) (leBytes 8 (fld m.payload.toNat 0 64)) :=
  hk.elim (fun h => (relayWordIn_head m s h).trans (congrArg (storeBytes s · _) (if_pos h).symm))
    fun h => (relayWordIn_mark m s h).trans (congrArg (storeBytes s · _) (if_neg (h ▸ by decide)).symm)

/-- A member's consumed word as its ring keeps it. -/
noncomputable def relayConsumed (s : State) (m : RelayMsg) : State :=
  { s with relayC := tset 0 s.relayC ((m.sender.toNat * 16 + m.env.toNat % 16) * 16 + m.ring.toNat % 16) (fld m.payload.toNat 0 64) }

theorem relayWordIn_member (m : RelayMsg) (s : State) : m.b1.toNat = 1 →
    relayWordIn m s = hostWrite (relayConsumed s m) 0 m.addr.toNat (leBytes 8 (fld m.payload.toNat 0 64)) := by
  delta relayWordIn
  dsimp only
  exact congr_first_of_four

theorem relayWordIn_consumed (hk : m.b1.toNat = 1) (hu : s.ucie ≠ 2) (hm : busMaster s 0 = true) :
    relayWordIn m s = emit (relayConsumed s m) (.hostWrite 0 m.addr.toNat (leBytes 8 (fld m.payload.toNat 0 64))) :=
  (relayWordIn_member m s hk).trans (hostWrite_on (s := relayConsumed s m) hu hm ..)
end

/-! ### The statement -/

/-- Settles O48: the lead's reads by `foldl_emit`, a message on its way by `relayIn_forwarded`, and here a store by
`storeBytes_stores`, records by `recordsPosted_sends`, a consumed word by `relayWordIn_consumed`. -/
theorem podRelay : Obligations.PodRelay := by
  refine ⟨?reads, fun m s ty f => ⟨relayIn_here, relayIn_forwarded⟩, ?sub, ?post, ?word⟩
  case reads =>
    intro x e k hd sb lg s key c reads
    exact ⟨next_of_guards (foldl_emit reads ..), next_of_guard⟩
  case sub =>
    intro n m s e k a
    exact ⟨fun h => exists_next (congrArg Host.Outcome.next (relayIn_here h)) (storeBytes_stores _ _ _ (leBytes_length ..)),
      fun h => exists_next rfl (relayIn_forwarded h)⟩
  case post =>
    intro n m s
    exact ⟨ite_taken, exists_next_of_le relayIn_forwarded, fun hb h hu hm => (relayPost_runs n m s hb h).trans
        (congrArg (fun u : State => Host.Outcome.next (msix { u with podPost := u.podPost + m.b1.toNat } 0 4)) (recordsPosted_sends hu hm))⟩
  case word =>
    intro n m s e k v a
    exact ⟨ite_taken, exists_next_of_le relayIn_forwarded,
      fun hk h => exists_next ((relayWord_runs n m s (hk.elim (·.le.trans (Nat.zero_le 2)) (·.le)) h).trans (congrArg Host.Outcome.next (relayWordIn_stores hk)))
        (storeBytes_stores _ _ _ (leBytes_length ..)),
      fun hk h hu hm => (relayWord_runs n m s (hk.le.trans (by decide)) h).trans (congrArg Host.Outcome.next (relayWordIn_consumed hk hu hm))⟩

end Sys2Proof.Machine
end

section
/-!
PROOFS. The statement of host windows and functions (chapter 15): a window's first cycles, a transfer's reads and deadline, requests on
objects, the read window and the reset of a function, then the theorem that settles it.
-/
namespace Sys2Proof.Machine
open Sys2Proof

/-! ### Guards of two conditions -/

theorem and_beq {b : Bool} {m n : Nat} (hb : b = true) (h : m = n) : (b && m == n) = true := Bool.and_eq_true_iff.2 ⟨hb, beq_iff_eq.2 h⟩

/-! ### Host windows (R404) -/

section
variable {st : Fin 12} {w : Fin 16} {s : State}

theorem hostWindowStart_due (hph : s.phase = 0) (hp : planOn s = true) (hw : isHostWin s (16 * st.val + w.val) = true)
    (ht : frameTick s = winStart s (16 * st.val + w.val)) : exec (.hostWindowStart st w) s = .next (startWindow s (16 * st.val + w.val)) :=
  congrArg Host.Outcome.next ((whenAt_now s 0 hph.symm _).trans (if_pos (and_beq (Bool.and_eq_true_iff.2 ⟨hp, hw⟩) ht)))

theorem hostWindowStart_elsewhere (hph : s.phase = 0)
    (h : isHostWin s (16 * st.val + w.val) = false ∨ frameTick s ≠ winStart s (16 * st.val + w.val)) : exec (.hostWindowStart st w) s = .next s :=
  congrArg Host.Outcome.next ((whenAt_now s 0 hph.symm _).trans (ite_and_stays
    (h.imp (fun h => Bool.and_eq_false_iff.2 (.inr h)) fun h => .inl (beq_false_of_ne h))))
end

/-- The operations of window k into which nothing lands: its descriptor reads, and the mover's turn once they have arrived. -/
noncomputable def windowReads (s : State) (k : Nat) : List (Nat × Micro) :=
  let h := hwin s k
  ((List.range h.ndesc).filterMap fun j =>
    if now s + j < now s + 8 * (winEnd s k - winStart s k) then some (now s + j, Micro.dReq false (h.table + j) (descKey + j)) else none) ++
  (if h.ndesc = 0 then [] else [(now s + h.ndesc + 103, Micro.mover 0 0 0)])

/-- The job of such a window. -/
noncomputable def windowJob (s : State) (k : Nat) : Job :=
  { noJob with cmd := .hostWindowStart (Fin.ofNat 12 (k / 16)) (Fin.ofNat 16 k), core := k / 16 * 5, t0 := now s, term := 0, buf := [] }

theorem startWindow_bare {s : State} {k : Nat} (h : landing s k = []) : startWindow s k = startJob s (windowJob s k) (windowReads s k) := by
  unfold startWindow
  rw [h]
  have hnil := congrArg (startJob s (windowJob s k)) (List.append_nil (windowReads s k))
  exact hnil

/-- The state with other jobs and agenda, one job later. -/
noncomputable def withJob (s : State) (j : Tbl (Option Job)) (a : List Act) : State := { s with jobs := j, acts := a, nextJob := s.nextJob + 1 }

theorem startJob_facts {s t : State} {x : Job} {l : List (Nat × Micro)} (h : t = startJob s x l) :
    t = withJob s t.jobs t.acts ∧ t.acts = s.acts ++ l.map fun o => { cyc := o.1, core := x.core, job := s.nextJob, op := o.2 } := by
  subst h
  exact ⟨rfl, rfl⟩

/-! ### Transfers (R406) -/

/-- A transfer's reads of host memory asked for. -/
noncomputable def inboundAsked (s : State) (x : Xfer) : State := forN x.n (modXfer s x.win x.desc fun y => { y with started := true })
  fun i s => emit s (.hostRead (xferTag x.win x.desc i) (x.env + 1) (x.host + 128 * i) 128)

theorem startInbound_asks {s : State} {x : Xfer} (hok : x.ok = true) (hst : x.started = false) (hin : x.outw = false) (hr : hostReach s (x.env + 1) = true) :
    startInbound s x = inboundAsked s x :=
  (if_neg (Bool.eq_false_iff.mp (or_stays_false (or_stays_false (congrArg not hok) hst) hin))).trans (if_pos hr)

theorem judgeXfer_stands {s : State} {x : Xfer} (h : x.ok = false ∨ x.n ≤ (if x.outw then x.doneN else x.have_.length) ∨ x.late = true) : judgeXfer s x = s :=
  ite_and_stays (h.imp_right (Or.imp (fun h => decide_eq_false (Nat.not_lt.2 h)) ite_taken))

theorem judgeXfer_raises {s : State} {x : Xfer} (hok : x.ok = true) (hless : (if x.outw then x.doneN else x.have_.length) < x.n) : judgeXfer s x = raise0610 s x :=
  if_pos (Bool.and_eq_true_iff.2 ⟨hok, decide_eq_true hless⟩)

theorem raise0610_facts (s : State) (x : Xfer) : ¬ x.late = true → Recorded s (raise0610 s x) 0x0610 2 ∧
    (raise0610 s x).xfers = (modXfer s x.win x.desc fun y => { y with late := true }).xfers :=
  ite_passed_holds (P := fun t => Recorded s t 0x0610 2 ∧ t.xfers = (modXfer s x.win x.desc fun y => { y with late := true }).xfers) ⟨raise_recorded .., rfl⟩

section
variable {st : Fin 12} {w : Fin 16} {d : Fin 128} {s : State} {x : Xfer}

theorem inboundTransferStart_due (hx : xferOf s (16 * st.val + w.val) d.val = some x) (hp : planOn s = true)
    (ht : frameTick s = winEnd s (16 * st.val + w.val)) : exec (.inboundTransferStart st w d) s = .next (startInbound s x) :=
  congrArg Host.Outcome.next ((congr_first hx).trans (if_pos (and_beq hp ht)))

theorem inboundTransferStart_none (hx : xferOf s (16 * st.val + w.val) d.val = none) : exec (.inboundTransferStart st w d) s = .next s :=
  congrArg Host.Outcome.next (congr_first hx)

theorem transferDeadline_due (hph : s.phase = 0) (hx : xferOf s (16 * st.val + w.val) d.val = some x) (hp : planOn s = true)
    (ht : frameTick s = deadlineOf s x) : exec (.transferDeadline st w d) s = .next (judgeXfer s x) :=
  congrArg Host.Outcome.next ((whenAt_now s 0 hph.symm _).trans ((congr_first hx).trans (if_pos (and_beq hp ht))))

theorem transferDeadline_none (hph : s.phase = 0) (hx : xferOf s (16 * st.val + w.val) d.val = none) :
    exec (.transferDeadline st w d) s = .next s :=
  congrArg Host.Outcome.next ((whenAt_now s 0 hph.symm _).trans (congr_first hx))
end

/-! ### Requests on objects (R403) -/

noncomputable def withReq (v : Srv) (q : Tbl (Option (Nat × List Nat))) : Srv := { v with req := q }

theorem srv_regRequest (s : State) (e o n : Nat) (v : List Nat) : srv (regRequest s e o n v) e = withReq (srv s e) (tset none (srv s e).req o (some (n, v))) :=
  srv_modSrv_same ..
theorem req_regRequest (s : State) (e o n : Nat) (v : List Nat) : (srv (regRequest s e o n v) e).req = tset none (srv s e).req o (some (n, v)) :=
  congrArg Srv.req (srv_regRequest ..)

theorem regRequest_facts (s : State) (e o n : Nat) (v : List Nat) : let t := regRequest s e o n v
    t = { s with srvs := t.srvs } ∧ srv t e = { srv s e with req := (srv t e).req } ∧ (∀ d, d ≠ e → srv t d = srv s d) ∧
      ∀ x, tget none (srv t e).req x = if x = o then some (n, v) else tget none (srv s e).req x := by
  intro t
  exact ⟨rfl, (srv_regRequest ..).trans (congrArg (withReq (srv s e)) (req_regRequest s e o n v).symm), fun d hd => srv_modSrv_ne _ hd _,
    fun x => (congrArg (tget none · x) (req_regRequest s e o n v)).trans (tget_tset none (srv s e).req o x (some (n, v)))⟩

theorem next_on {b : Bool} {s t : State} (h : b = true) : (.next (if b then t else s) : Host.Outcome State Fault Refusal) = .next t := congrArg _ (if_pos h)
theorem next_off {b : Bool} {s t : State} (h : b = false) : (.next (if b then t else s) : Host.Outcome State Fault Refusal) = .next s :=
  congrArg _ (if_neg (Bool.eq_false_iff.mp h))

/-! ### The read window (R402) -/

/-- What the read window of a function shows. -/
noncomputable def rwinView (f : Fin 17) (s : State) : Option RegView :=
  let a := rf s (bar f.val 0x028) 0 48
  if (if f.val = 0 then decide (0x020000000000 ≤ a) && !keelOnly a else vfSees s (f.val - 1) a) then readReg s a else none

theorem rwinRead_shown {r : RegView} (f : Fin 17) (s : State) : rwinView f s = some r →
    exec (.rwinRead f) s = .next (emit s (.regData f.val (rf s (bar f.val 0x028) 0 48) r.v)) :=
  fun h => congrArg Host.Outcome.next (congr_first h)

theorem rwinRead_denied (f : Fin 17) (s : State) : rwinView f s = none →
    exec (.rwinRead f) s = .next (emit (bump s (bar f.val 0x008) 16 16) (.regData f.val (rf s (bar f.val 0x028) 0 48) 0)) :=
  fun h => congrArg Host.Outcome.next (congr_first h)

section
variable {α : Type} {b : Bool} {o p : Option α}

theorem guarded_shown (hb : b = true) (ho : o = p) : (if b then o else none) = p := (if_pos hb).trans ho
theorem guarded_denied (h : b = false ∨ o = none) : (if b then o else none) = none :=
  h.elim (fun h => if_neg (Bool.eq_false_iff.mp h)) fun h => h.symm ▸ ite_self none
end

/-! ### Function-level reset (R399) -/

/-- A register that the reset of a function clears. -/
noncomputable def flrHits (f a : Nat) : Bool := decide (bar f 0 ≤ a ∧ a < bar f 0 + 0x10000) && flrClears f (a - bar f 0)
/-- The state with other registers and another copy. -/
noncomputable def withRegsCopy (s : State) (r : Tbl (BitVec 64)) (c : Option Copy) : State := { s with regs := r, copy := c }
/-- The registers as the reset of a function leaves them. -/
noncomputable def flrRegs (s : State) (f : Nat) : State := setRf (withRegsCopy s (s.regs.filter fun r => !flrHits f r.1) s.copy) (cfgA f 0x004) 2 1 0

theorem toNat_ite_not {b : Bool} (x : BitVec 64) : (if (!b) = true then x else 0).toNat = if b = true then 0 else x.toNat := by cases b <;> rfl

theorem rg_flrRegs {s : State} {f a : Nat} (h : a ≠ cfgA f 0x004) : rg (flrRegs s f) a = if flrHits f a = true then 0 else rg s a :=
  (rg_setRf_ne _ h ..).trans ((congrArg BitVec.toNat (tget_filter_key 0 (fun a => !flrHits f a) s.regs a)).trans (toNat_ite_not _))

theorem rf_flrRegs (s : State) (f : Nat) : rf (flrRegs s f) (cfgA f 0x004) 2 1 = 0 := rf_setRf_same _ _ _ (by decide)

/-- What the reset of a function leaves: its registers cleared, and copy c. -/
def FunctionReset (f : Nat) (s t : State) (c : Option Copy) : Prop :=
  t = withRegsCopy s t.regs c ∧ rf t (cfgA f 0x004) 2 1 = 0 ∧
    ∀ a, a ≠ cfgA f 0x004 → rg t a = if bar f 0 ≤ a ∧ a < bar f 0 + 0x10000 ∧ flrClears f (a - bar f 0) = true then 0 else rg s a

theorem flrHits_iff (f a : Nat) : flrHits f a = true ↔ bar f 0 ≤ a ∧ a < bar f 0 + 0x10000 ∧ flrClears f (a - bar f 0) = true :=
  Bool.and_eq_true_iff.trans ((and_congr_left' decide_eq_true_iff).trans and_assoc)

theorem functionReset_of {f : Nat} {s t : State} {c d : Option Copy} (h : t = withRegsCopy s t.regs c) (hr : t.regs = (flrRegs s f).regs) (hc : d = c) :
    FunctionReset f s t d :=
  ⟨h.trans (congrArg (withRegsCopy s t.regs) hc.symm), (rf_congr hr ..).trans (rf_flrRegs s f), fun a ha => (rg_congr hr a).trans ((rg_flrRegs ha).trans (if_congr (flrHits_iff f a) rfl rfl))⟩

theorem kelAnswer_idle (s : State) (st : Nat) : s.kcmd = none → kelAnswer s st = s := by
  delta kelAnswer
  exact congr_first

/-- Without a command under way, the reset of the physical function only stops its copy beside the registers. -/
theorem functionLevelReset_idle {f : Fin 17} {s : State} (h : s.kcmd = none) : ∃ t, exec (.functionLevelReset f) s = .next t ∧ FunctionReset f.val s t (if f.val = 0 then none else s.copy) :=
  exists_next (t := if f.val = 0 then (if s.copy.isSome then kelAnswer (withRegsCopy s (flrRegs s f.val).regs none) 0x0D13 else flrRegs s f.val)
      else if s.kcmd.any (fun c => c.cmd == 1 && fld (c.args.getD 1 0) 8 5 == f.val && c.args.getD 1 0 != 0xFF) then kelAnswer (flrRegs s f.val) 0x0D13 else flrRegs s f.val)
    rfl (iteInduction (motive := fun t => FunctionReset f.val s t (if f.val = 0 then none else s.copy))
    (fun hz => iteInduction (motive := fun t => FunctionReset f.val s t (if f.val = 0 then none else s.copy))
      (fun _ => (kelAnswer_idle (withRegsCopy s (flrRegs s f.val).regs none) 0x0D13 h).symm ▸ functionReset_of rfl rfl (if_pos hz))
      (fun hc => functionReset_of rfl rfl ((if_pos hz).trans (Option.not_isSome_iff_eq_none.1 hc).symm)))
    (fun hz => ite_passed_holds (P := fun t => FunctionReset f.val s t (if f.val = 0 then none else s.copy)) (functionReset_of rfl rfl (if_neg hz))
      (show ¬ s.kcmd.any _ = true from h ▸ Bool.false_ne_true)))

/-! ### The statement -/

/-- Settles O49: a window by `hostWindowStart_due` and `startWindow_bare`, a transfer by `startInbound_asks` and the two cases of
`judgeXfer`, a request by `regRequest_facts`, the read window by `rwinRead_shown` and `rwinRead_denied`, a reset by `functionLevelReset_idle`. -/
theorem hostWindowsAndFunctions : Obligations.HostWindowsAndFunctions := by
  refine ⟨fun st w s hph => ⟨hostWindowStart_due hph, hostWindowStart_elsewhere hph⟩, ?window, ?inbound, ?deadline, ?object, regRequest_facts, ?read, ?reset⟩
  case window =>
    intro s k hnone t h
    exact startJob_facts (startWindow_bare hnone)
  case inbound =>
    intro st w d s x k hx hp ht hok hst hin hr
    exact (inboundTransferStart_due hx hp ht).trans (congrArg Host.Outcome.next ((startInbound_asks hok hst hin hr).trans (foldl_emit ..)))
  case deadline =>
    intro st w d s hph k
    refine ⟨fun hx => ⟨inboundTransferStart_none hx, transferDeadline_none hph hx⟩, fun x hx hp ht => ?_⟩
    intro got
    exact ⟨fun h => (transferDeadline_due hph hx hp ht).trans (congrArg Host.Outcome.next (judgeXfer_stands h)),
      fun hok hless hl => exists_next ((transferDeadline_due hph hx hp ht).trans (congrArg Host.Outcome.next (judgeXfer_raises hok hless)))
        (raise0610_facts s x (Bool.eq_false_iff.mp hl))⟩
  case object =>
    exact fun e k r s => ⟨fun h => ⟨next_off h, next_off h, next_off h, next_off h⟩, fun h => ⟨next_on h, next_on h, next_on h, next_on h⟩⟩
  case read =>
    intro f s a seen
    exact ⟨fun r hseen hr => rwinRead_shown f s (guarded_shown hseen hr), fun h => rwinRead_denied f s (guarded_denied h)⟩
  case reset => exact fun f s hidle => functionLevelReset_idle hidle

end Sys2Proof.Machine
end

section
/-!
PROOFS. The statement of the attachment and the loader's controls (chapters 12 and 15): what a fault of the attachment and an unmasked
vector leave, what each read that returns is for, then the theorem that settles it.
-/
namespace Sys2Proof.Machine
open Sys2Proof

/-! ### The attachment (R397, R408) -/

/-- The state with other registers, vectors fired and messages. -/
noncomputable def withShown (s : State) (r : Tbl (BitVec 64)) (l : List Nat) (o : List Out) : State := { s with regs := r, fired := l, sent := o }

/-- Of s nothing differs in t but registers, the vectors fired and what is sent. -/
def ShowsOnly (s t : State) : Prop := t = withShown s t.regs t.fired t.sent

/-- What does not look at registers, vectors or messages is the same. -/
theorem ShowsOnly.keeps {β : Type} {s t : State} (h : ShowsOnly s t) (g : State → β) (hg : ∀ r l o, g (withShown s r l o) = g s) :
    g t = g s := (congrArg g h).trans (hg ..)

theorem showsOnly_of_exists {s t : State} (h : ∃ r l o, t = withShown s r l o) : ShowsOnly s t := by
  obtain ⟨r, l, o, rfl⟩ := h
  exact rfl

theorem msix_shows (s : State) (f v : Nat) : ShowsOnly s (msix s f v) := showsOnly_of_exists (msix_ex s f v)

theorem raise_mild_recorded (s : State) {sev : Nat} (h : sev < 2) (code cls idx env : Nat) (d : BitVec 320) :
    Recorded s (raise s code sev cls idx env d) code sev ∧ raise s code sev cls idx env d = { s with faults := (raise s code sev cls idx env d).faults } :=
  ⟨raise_recorded .., raise_mild s h ..⟩

/-- A fault of the attachment stands where its change of rate fires a vector. -/
theorem msix_stands {s t u : State} {code sev n : Nat} (ht : t = msix u 0 5) (h : Recorded s u code sev) (hn : u.ucie = n) :
    Recorded s t code sev ∧ t.ucie = n ∧ t = msix u 0 5 := by
  subst ht
  exact ⟨recorded_of_faults h ((msix_shows ..).keeps State.faults fun _ _ _ => rfl), ((msix_shows ..).keeps State.ucie fun _ _ _ => rfl).trans hn, rfl⟩

/-! ### Unmasking (R408) -/

/-- Configuration space lies above BAR0. -/
theorem cfgA_ne_bar {f o : Nat} (hf : f < 17) (ho : o < 0x10000) (g p : Nat) : cfgA g p ≠ bar f o := by
  have hbar : bar f o < 0x1000000000000 + 17 * 0x10000 + 0x10000 := Nat.add_lt_add_of_le_of_lt (Nat.add_le_add_left (Nat.mul_le_mul_right _ hf.le) _) ho
  exact ((hbar.trans_le (by decide)).trans_le ((Nat.le_add_right ..).trans (Nat.le_add_right ..))).ne'

/-- Whether the host can be reached, by the attachment and three fields of configuration space. -/
noncomputable def reachBy (u m v n g : Nat) : Bool := u != 2 && m == 1 && (g == 0 || (v == 1 && decide (g ≤ n)))

theorem hostReach_setRf_bar (s : State) {f o : Nat} (hf : f < 17) (ho : o < 0x10000) (lo w v g : Nat) :
    hostReach (setRf s (bar f o) lo w v) g = hostReach s g := by
  show reachBy (setRf s (bar f o) lo w v).ucie _ _ _ g = _
  rw [setRf_ucie, rf_setRf_ne _ (cfgA_ne_bar hf ho g 4), rf_setRf_ne _ (cfgA_ne_bar hf ho 0 0x108), rf_setRf_ne _ (cfgA_ne_bar hf ho 0 0x110)]
  rfl

/-- The vector's mask bit cleared. -/
noncomputable def unmasked (s : State) (f v : Nat) : State := setRf s (bar f (0x8008 + 16 * v)) 32 1 0

section
variable (s : State) (f : Fin 17) (v : Fin 18)

theorem maskPlace_lt (v : Fin 18) : 0x8008 + 16 * v.val < 0x9000 :=
  (Nat.add_lt_add_left (Nat.mul_lt_mul_of_pos_left v.isLt (by decide)) _).trans (by decide)

theorem rg_unmasked_pending : rg (unmasked s f.val v.val) (bar f.val 0x9000) = rg s (bar f.val 0x9000) :=
  rg_setRf_ne s (fun h => (maskPlace_lt v).ne' (Nat.add_left_cancel h)) ..
theorem hostReach_unmasked : hostReach (unmasked s f.val v.val) f.val = hostReach s f.val := hostReach_setRf_bar s f.isLt ((maskPlace_lt v).trans (by decide)) ..

theorem bit_unmasked {b : Bool} (h : bitAt (rg s (bar f.val 0x9000)) v.val = b) : bitAt (rg (unmasked s f.val v.val) (bar f.val 0x9000)) v.val = b :=
  (congrArg (bitAt · v.val) (rg_unmasked_pending s f v)).trans h
end

/-! ### Completions of host reads (R401, R406) -/

section
variable {tag : Nat} {d : Option (List Byte)} {s : State}

/-- Where the number of a read leads, of six ways. -/
noncomputable def readWay {α : Type} (tag : Nat) (a b c d e f : α) : α :=
  if tag < 2 ^ 28 then a else if tag < 2 ^ 29 then b else if tag < 2 ^ 40 then c else if tag < 2 ^ 41 then d else if tag < 2 ^ 42 then e else f

section
variable {α : Type} {a b c d e f : α}

/-- A number past a bound takes the way of the next ones. -/
theorem past {k l : Nat} (h : l ≤ tag) (hkl : k ≤ l) (hb : b = c) : (if tag < k then a else b) = c := (if_neg (Nat.not_lt.2 (hkl.trans h))).trans hb

theorem readWay_low (h : tag < 2 ^ 28) : readWay tag a b c d e f = a := if_pos h
theorem readWay_snap (h : 2 ^ 28 ≤ tag) (h2 : tag < 2 ^ 29) : readWay tag a b c d e f = b := past h le_rfl (if_pos h2)
theorem readWay_relay (h : 2 ^ 40 ≤ tag) (h2 : tag < 2 ^ 41) : readWay tag a b c d e f = d := past h (by decide) (past h (by decide) (past h le_rfl (if_pos h2)))
theorem readWay_xfer (h : 2 ^ 41 ≤ tag) (h2 : tag < 2 ^ 42) : readWay tag a b c d e f = e :=
  past h (by decide) (past h (by decide) (past h (by decide) (past h le_rfl (if_pos h2))))
theorem readWay_copy (h : 2 ^ 42 ≤ tag) : readWay tag a b c d e f = f :=
  past h (by decide) (past h (by decide) (past h (by decide) (past h (by decide) (past h le_rfl rfl))))
end

/-- A completion of fitting length goes where the read's number says. -/
theorem hostReadCompletion_fits (tag : Nat) (d : Option (List Byte)) (s : State) : d.any (fun b => readLen s tag != some b.length) = false →
    exec (.hostReadCompletion tag d) s =
      .next (readWay tag s (snapRead s ((tag - 2 ^ 28) / 65536) tag d) s (relayRead s tag d) (xferRead s tag d) (copyIn s tag d)) :=
  ite_off

theorem snapRead_stray {e : Nat} (h : (srv s e).snap.out.contains tag = false) : snapRead s e tag d = s := if_pos (congrArg not h)

theorem snapRead_error {e : Nat} (h : (srv s e).snap.out.contains tag = true) (hd : d = none) :
    snapRead s e tag d = snapAdvance (snapFail (bump s (bar (e + 1) 0x008) 0 16) e tag) e := (if_neg (Bool.eq_false_iff.mp (congrArg not h))).trans (congr_first hd)
end

section
variable (s : State) (tag : Nat) (d : Option (List Byte))

theorem relayRead_none : s.relays.find? (fun r => r.out.contains tag) = none → relayRead s tag d = s := by
  delta relayRead
  exact congr_first

theorem relayRead_stray (h : ∀ r ∈ s.relays, tag ∉ r.out) : relayRead s tag d = s :=
  relayRead_none s tag d (List.find?_eq_none.2 fun r hr hin => h r hr (List.contains_iff_mem.1 hin))

theorem copyIn_stray : s.copy = none → copyIn s tag d = s := by
  delta copyIn
  exact congr_first

/-- The transfer that a read's number names, by window and descriptor. -/
noncomputable def xferAt : Option Xfer := xferOf s ((tag - 2 ^ 41) / 65536 / 128) ((tag - 2 ^ 41) / 65536 % 128)

theorem xferRead_stray : xferAt s tag = none → xferRead s tag d = s := fun h => congr_first h

theorem xferRead_error {x : Xfer} (h : xferAt s tag = some x) : xferRead s tag none = bump s (bar (x.env + 1) 0x008) 0 16 := congr_first h

/-- Row i of a transfer kept until it lands. -/
noncomputable def rowKept (x : Xfer) (b : List Byte) (i : Nat) : State := if !x.started || x.late || x.have_.contains i then s
  else modXfer s x.win x.desc fun y => { y with got := tset 0 y.got i (rowOf b), have_ := y.have_ ++ [i] }

theorem xferRead_data {x : Xfer} (b : List Byte) (h : xferAt s tag = some x) : xferRead s tag (some b) = rowKept s x b ((tag - 2 ^ 41) % 65536) := congr_first h
end

/-- The digits of a number. -/
theorem digits {n m i : Nat} (h : i < n) : (m * n + i) / n = m ∧ (m * n + i) % n = i :=
  (Nat.div_mod_unique (Nat.zero_lt_of_lt h)).2 ⟨by rw [Nat.mul_comm, Nat.add_comm], h⟩

section
variable {s : State} {k j i : Nat} {x : Xfer}

theorem xferTag_sub (k j i : Nat) : xferTag k j i - 2 ^ 41 = (k * 128 + j) * 65536 + i := (congrArg (· - 2 ^ 41) (Nat.add_assoc ..)).trans (Nat.add_sub_cancel_left ..)

/-- The number of a transfer's read names window, descriptor and row. -/
theorem xferAt_xferTag (hi : i < 65536) (hj : j < 128) : xferAt s (xferTag k j i) = xferOf s k j := by
  unfold xferAt
  rw [xferTag_sub, (digits hi).1, (digits hj).1, (digits hj).2]

theorem rowKept_xferTag (b : List Byte) (hi : i < 65536) : rowKept s x b ((xferTag k j i - 2 ^ 41) % 65536) = rowKept s x b i :=
  congrArg (rowKept s x b) ((congrArg (· % 65536) (xferTag_sub ..)).trans (digits hi).2)

theorem rowKept_new (b : List Byte) (hst : x.started = true) (hl : x.late = false) (hnew : i ∉ x.have_) :
    rowKept s x b i = modXfer s x.win x.desc fun y => { y with got := tset 0 y.got i (rowOf b), have_ := y.have_ ++ [i] } :=
  if_neg (Bool.eq_false_iff.mp (or_stays_false (or_stays_false (congrArg not hst) hl) (Bool.eq_false_iff.mpr (mt List.contains_iff_mem.1 hnew))))

theorem rowKept_old (b : List Byte) (h : x.started = false ∨ x.late = true ∨ i ∈ x.have_) : rowKept s x b i = s :=
  if_pos (h.elim (fun h => Bool.or_inl (Bool.or_inl (congrArg not h))) (Or.rec (fun h => Bool.or_inl (Bool.or_inr h)) fun h => Bool.or_inr (List.contains_iff_mem.2 h)))
end

/-! ### DISCARD (R329) -/

theorem rg_setParState_ne {s : State} {a : Nat} (h : a ≠ parA 0x000) (hlow : a < 0x1000000000000) (v : Nat) : rg (setParState s v) a = rg s a :=
  iteInduction (motive := fun t => rg t a = rg s a) (fun _ => rfl) fun _ => (msix_rg hlow ..).trans (rg_setRf_ne _ h ..)

theorem setParState_shows (s : State) (v : Nat) : ShowsOnly s (setParState s v) := showsOnly_of_exists (setParState_ex s v)

theorem discardStaged_facts (s : State) : let t := discardStaged s
    t = { s with staged := [], regs := t.regs, fired := t.fired, sent := t.sent } ∧ rf t (parA 0x000) 60 4 = 0 ∧
      ∀ a, a ≠ parA 0x000 → a < 0x1000000000000 → rg t a = rg s a := by
  intro t
  exact ⟨setParState_shows { s with staged := [] } 0, rf_setParState _ (by decide), fun a ha hlow => rg_setParState_ne ha hlow 0⟩

/-! ### The statement -/

/-- Settles O50: the attachment by `msix_stands`, an unmasked vector by `hostReach_unmasked`, a completion by `hostReadCompletion_fits` and
the lemmas of each kind of read, DISCARD by `discardStaged_facts`. -/
theorem attachmentAndLoaderControls : Obligations.AttachmentAndLoaderControls := by
  refine ⟨fun m l s => exists_next rfl (raise_mild_recorded s (by decide) ..), ?pair, ?down, ?unmask, ?completion, ?stray, ?transfer, fun s => rfl,
    fun s => exists_next rfl (discardStaged_facts s)⟩
  case pair => exact fun p s => ⟨next_passed, fun h => exists_next (next_taken h) (msix_stands rfl (raise_recorded ..) rfl)⟩
  case down => exact fun s => ⟨next_taken, fun h => exists_next (next_passed h) (msix_stands rfl (raise_recorded ..) rfl)⟩
  case unmask =>
    intro f v s u
    exact ⟨fun hp hr => next_taken (Bool.and_eq_true_iff.2 ⟨bit_unmasked s f v hp, (hostReach_unmasked s f v).trans hr⟩),
      fun h => congrArg Host.Outcome.next (ite_and_stays (h.imp (bit_unmasked s f v) fun h => .inl ((hostReach_unmasked s f v).trans h)))⟩
  case completion =>
    exact fun tag d s => ⟨ite_taken, fun h => ⟨fun h1 => (hostReadCompletion_fits tag d s h).trans (congrArg _ (readWay_low h1)),
      fun h1 h2 => (hostReadCompletion_fits tag d s h).trans (congrArg _ (readWay_snap h1 h2)), fun h1 h2 => (hostReadCompletion_fits tag d s h).trans (congrArg _ (readWay_relay h1 h2)),
      fun h1 h2 => (hostReadCompletion_fits tag d s h).trans (congrArg _ (readWay_xfer h1 h2)), fun h1 => (hostReadCompletion_fits tag d s h).trans (congrArg _ (readWay_copy h1))⟩⟩
  case stray => exact fun s e tag d => ⟨snapRead_stray, snapRead_error, relayRead_stray s tag d, copyIn_stray s tag d⟩
  case transfer =>
    intro s k j i b hi hj
    exact ⟨fun hx => xferRead_stray _ _ _ ((xferAt_xferTag hi hj).trans hx), fun x hx =>
      ⟨fun hst hl hnew => (xferRead_data _ _ b ((xferAt_xferTag hi hj).trans hx)).trans ((rowKept_xferTag b hi).trans (rowKept_new b hst hl hnew)),
        fun h => (xferRead_data _ _ b ((xferAt_xferTag hi hj).trans hx)).trans ((rowKept_xferTag b hi).trans (rowKept_old b h)),
        xferRead_error _ _ ((xferAt_xferTag hi hj).trans hx)⟩⟩

end Sys2Proof.Machine
end

section
/-!
PROOFS. The statement of the watchdog and the tail queues (chapter 15): what a restart leaves, what a change of a partition leaves, each
operation of a tail queue by these, then the theorem that settles it.
-/
namespace Sys2Proof.Machine
open Sys2Proof

/-! ### The watchdog (R413, R438) -/

/-- The state with other faults and registers, in which the Keel has given up what it was doing. -/
noncomputable def keelWith (s : State) (l : List FaultRec) (r : Tbl (BitVec 64)) : State := { s with faults := l, regs := r, kcmd := none, copy := none, stall := none }

/-- Of s nothing differs in t but faults, registers and what the Keel was doing. -/
def KeelGaveUp (s t : State) : Prop := t = keelWith s t.faults t.regs

theorem KeelGaveUp.setRg {s t : State} (h : KeelGaveUp s t) (a v : Nat) : KeelGaveUp s (setRg t a v) := congrArg (Machine.setRg · a v) h

theorem KeelGaveUp.setRf {s t : State} (h : KeelGaveUp s t) (a lo w v : Nat) : KeelGaveUp s (setRf t a lo w v) := h.setRg ..

noncomputable def keelLetGo (s : State) : State := keelWith s s.faults s.regs

theorem raise_gaveUp (s : State) {sev : Nat} (h : sev < 2) (code cls idx env : Nat) (d : BitVec 320) : KeelGaveUp s (keelLetGo (raise s code sev cls idx env d)) :=
  congrArg keelLetGo (raise_mild s h ..)

/-- The state with the restart's fault, in which the Keel has given up what it was doing. -/
noncomputable def keelStopped (s : State) (m : BitVec 64) : State := keelLetGo (raise s 0x0D06 1 0x0B 0 0xFFFF (det [(0, 8, m.toNat)]))

theorem keelRestarts_eq (s : State) (m : BitVec 64) : keelRestarts s m = setRf (bump (keelStopped s m) (bar 0 0x280) 0 16) (bar 0 0x280) 60 4 2 := rfl

theorem rg_keelStopped (s : State) (m : BitVec 64) (a : Nat) : rg (keelStopped s m) a = rg s a := rg_congr (s := s) (t := keelStopped s m) rfl a

theorem rg_keelRestarts_ne (s : State) (m : BitVec 64) {a : Nat} (h : a ≠ bar 0 0x280) : rg (keelRestarts s m) a = rg s a :=
  (congrArg (rg · a) (keelRestarts_eq s m)).trans ((rg_setRf_ne _ h ..).trans ((rg_bump_ne _ h ..).trans (rg_keelStopped ..)))

theorem keelRestarts_facts (s : State) (m : BitVec 64) : let w := keelRestarts s m
    Recorded s w 0x0D06 1 ∧ w = keelWith s w.faults w.regs ∧ kelState w = 2 ∧ rf w (bar 0 0x280) 0 16 = min (2 ^ 16 - 1) (rf s (bar 0 0x280) 0 16 + 1) := by
  intro w
  exact ⟨recorded_of_faults (raise_recorded s 0x0D06 1 0x0B 0 0xFFFF (det [(0, 8, m.toNat)])) ((congrArg State.faults (keelRestarts_eq s m)).trans
      ((setRf_faults ..).trans (bump_faults ..))),
    ((raise_gaveUp s (by decide) ..).setRf (t := keelStopped s m) ..).setRf (t := bump (keelStopped s m) (bar 0 0x280) 0 16) .., rf_setRf_same (bump (keelStopped s m) ..) _ _ (by decide),
    (congrArg (rf · (bar 0 0x280) 0 16) (keelRestarts_eq s m)).trans ((rf_setRf_below _ _ _ (by decide) (by decide)).trans ((rf_bump_same _ _ (by decide)).trans
      (congrArg (fun n => min (2 ^ 16 - 1) (fld n 0 16 + 1)) (rg_keelStopped ..))))⟩

/-- Whether a start is running, by the register that shows it. -/
noncomputable def startingBy (n : Nat) : Bool := fld n 60 4 != 0 && decide (fld n 56 4 ≤ 9)

theorem starting_keelRestarts (s : State) (m : BitVec 64) : starting (keelRestarts s m) = starting s :=
  congrArg startingBy (rg_keelRestarts_ne s m (by decide))

/-- A watchdog's expiry with the firmware running. -/
noncomputable def expired (s : State) (m : BitVec 64) : State :=
  let w := keelRestarts s m
  if starting w then failStage (raiseStart w 0x0E09 4 0x00 0 [(1, 1, stage w), (4, 8, uptime w)]) 0x0E09 else w

theorem watchdogExpiry_due (m : BitVec 64) {s : State} (hk : kelState s = 1) (ht : s.kick + wdogPeriod s ≤ uptime s) : exec (.watchdogExpiry m) s = .next (expired s m) :=
  next_passed (b := expired s m) (not_or.2 ⟨not_not_intro hk, Nat.not_lt.2 ht⟩)

/-- The state at another kick, with other registers. -/
noncomputable def kicked (s : State) (r : Tbl (BitVec 64)) : State := { s with kick := uptime s, regs := r }

theorem keelRestarted {s t : State} (h : t = setRf (kicked s s.regs) (bar 0 0x280) 60 4 1) :
    kelState t = 1 ∧ t = kicked s t.regs ∧ ∀ a, a ≠ bar 0 0x280 → rg t a = rg s a := by
  subst h
  exact ⟨rf_setRf_same _ _ _ (by decide), rfl, fun a ha => rg_setRf_ne _ ha ..⟩

/-! ### Partitions (R416) -/

/-- The state with other partitions and registers. -/
noncomputable def tqWith (s : State) (q : Tbl TqPart) (r : Tbl (BitVec 64)) : State := { s with tqs := q, regs := r }

/-- Nothing but the partitions and registers differs. -/
def TqOnly (s t : State) : Prop := t = tqWith s t.tqs t.regs

theorem TqOnly.refl (s : State) : TqOnly s s := rfl
theorem TqOnly.setRg {s t : State} (h : TqOnly s t) (a v : Nat) : TqOnly s (setRg t a v) := congrArg (Machine.setRg · a v) h
theorem TqOnly.modTq {s t : State} (h : TqOnly s t) (p : Nat) (f : TqPart → TqPart) : TqOnly s (modTq t p f) := congrArg (Machine.modTq · p f) h

theorem tqA_ne {p o q : Nat} (h : o ≠ q) : tqA p o ≠ tqA p q := fun hsame => h (Nat.add_left_cancel hsame)

section
variable (s : State) (p : Nat) (f : TqPart → TqPart)

@[simp] theorem modTq_stall : (modTq s p f).stall = s.stall := setRf_stall ..

theorem tqs_modTq : (modTq s p f).tqs = tset {} s.tqs p (f (tqPart s p)) := setRf_tqs ..
theorem tqPart_modTq (j : Nat) : tqPart (modTq s p f) j = if j = p then f (tqPart s p) else tqPart s j :=
  (congrArg (tget ({} : TqPart) · j) (tqs_modTq s p f)).trans (tget_tset {} s.tqs p j (f (tqPart s p)))
theorem tqPart_modTq_same : tqPart (modTq s p f) p = f (tqPart s p) := by rw [tqPart_modTq, if_pos rfl]

/-- The partitions are one part of the state. -/
theorem tqPart_congr {s t : State} (h : t.tqs = s.tqs) (p : Nat) : tqPart t p = tqPart s p := by
  unfold tqPart
  rw [h]

/-- COUNT follows the records held. -/
theorem tqCount_modTq : tqCount (modTq s p f) p = ((f (tqPart s p)).recs.map fun r => r.2.length).sum % 2 ^ 13 := rf_setRf_same _ _ _ (by decide)

variable {s p f}

theorem rg_modTq_ne {a : Nat} (h : a ≠ tqA p 0x08) : rg (modTq s p f) a = rg s a := rg_setRf_ne _ h ..
/-- The counters below COUNT stand. -/
theorem rf_modTq_below {lo w : Nat} (h : lo + w ≤ 51) : rf (modTq s p f) (tqA p 0x08) lo w = rf s (tqA p 0x08) lo w :=
  rf_setRf_below _ _ _ h (by decide)
end

/-! ### Records stored (R414 to R416) -/

section
variable {α β γ δ : Type} {c : Prop} [Decidable c] {o : Host.Outcome State Fault Refusal}

/-- What is read once a guard is passed. -/
theorem passed_reads {f : α → β → γ → State} {a a' : α} {x : β} {y : γ} : ¬ c → a = a' → (if c then o else .next (f a x y)) = .next (f a' x y) := by
  rintro h rfl
  exact if_neg h

theorem off_reads {b : Bool} {f : α → β → γ → δ} {a a' : α} {x : β} {y : γ} {z : δ} : b = false → a = a' → (if b then z else f a x y) = f a' x y := by
  rintro rfl rfl
  rfl

theorem next_reads {f : α → β → γ → State} {a a' : α} {x : β} {y : γ} : a = a' → (.next (f a x y) : Host.Outcome State Fault Refusal) = .next (f a' x y) := by
  rintro rfl
  rfl
end

/-- A record that its queue may store: dropped before the crossing, or held by the partition that takes it, or lost. -/
noncomputable def tqStored (q : Fin 16) (k : Fin 4) (ws : List (BitVec 64)) (d : Bool) (u : State) : State :=
  if d then forN 4 u fun i s => bump s (tqA (4 * q.val + i) 0x08) 8 8
  else match tqFor u q.val k.val with
    | some p => tqHold u p k.val ws
    | none => bump u (tqA (4 * q.val) 0x08) 32 16

section
variable (q : Fin 16) (k : Fin 4) (ws : List (BitVec 64)) (d : Bool) (s u : State)

theorem tqRecordStore_ill : ws = [] ∨ 8 < ws.length ∨ (k = 0 ∧ ws.length ≠ 8) ∨ (k = 3 ∧ ws.length ≠ 2) →
    exec (.tqRecordStore q k ws d) s = .fault (.illFormed "TQ_RECORD_STORE") := ite_taken

theorem tqRecordStore_nothing : ¬ (ws = [] ∨ 8 < ws.length ∨ (k = 0 ∧ ws.length ≠ 8) ∨ (k = 3 ∧ ws.length ≠ 2)) → tqSource s q.val k.val ws = none →
    exec (.tqRecordStore q k ws d) s = .next s := passed_reads

theorem tqRecordStore_takes {u : State} (q : Fin 16) (k : Fin 4) (ws : List (BitVec 64)) (d : Bool) (s : State) :
    ¬ (ws = [] ∨ 8 < ws.length ∨ (k = 0 ∧ ws.length ≠ 8) ∨ (k = 3 ∧ ws.length ≠ 2)) → tqSource s q.val k.val ws = some u →
    exec (.tqRecordStore q k ws d) s = .next (tqStored q k ws d u) := passed_reads

theorem tqStored_unowned : d = false → tqFor u q.val k.val = none → tqStored q k ws d u = bump u (tqA (4 * q.val) 0x08) 32 16 := by
  delta tqStored
  exact off_reads

theorem tqStored_held {p : Nat} (q : Fin 16) (k : Fin 4) (ws : List (BitVec 64)) (d : Bool) (u : State) : d = false → tqFor u q.val k.val = some p →
    tqStored q k ws d u = tqHold u p k.val ws := by
  delta tqStored
  exact off_reads
end

section
variable {s : State} {p : Nat}

theorem tqRoom_free {n : Nat} (h : tqCount s p + n ≤ rf s (tqA p 0) 0 16) : ∀ k, tqRoom k s p n = s
  | 0 => rfl
  | _ + 1 => ite_and_stays (.inl (decide_eq_false (Nat.not_lt.2 h)))

/-- With interrupts off, a record is put at the tail and nothing more. -/
theorem tqPut_quiet (h : rf s (tqA p 0x10) 29 1 = 0) (k : Nat) (ws : List (BitVec 64)) :
    tqPut s p k ws = modTq s p fun x => { x with recs := x.recs ++ [(k, ws)] } :=
  if_neg fun hon => Nat.zero_ne_one ((congrArg (fld · 29 1) (rg_modTq_ne (tqA_ne (by decide)))).trans h |>.symm.trans hon.1)

theorem tqServe_unstalled (s : State) (p : Nat) : s.stall = none → tqServe s p = s := by
  delta tqServe
  exact congr_first

theorem tqHold_holds {ws : List (BitVec 64)} (hroom : tqCount s p + ws.length ≤ rf s (tqA p 0) 0 16) (hoff : rf s (tqA p 0x10) 29 1 = 0)
    (hst : s.stall = none) (k : Nat) : tqHold s p k ws = modTq s p fun x => { x with recs := x.recs ++ [(k, ws)] } :=
  (congrArg (fun u => tqServe (tqPut u p k ws) p) (tqRoom_free hroom _)).trans
    ((congrArg (tqServe · p) (tqPut_quiet hoff ..)).trans (tqServe_unstalled _ p ((modTq_stall ..).trans hst)))

theorem sum_map_concat {α : Type} (f : α → Nat) (l : List α) (x : α) : ((l ++ [x]).map f).sum = (l.map f).sum + f x :=
  (congrArg List.sum List.map_append).trans (List.sum_append.trans (congrArg ((l.map f).sum + ·) List.sum_singleton))

/-- What a record put at the tail leaves. -/
theorem tqHeld_facts {t : State} {k : Nat} {ws : List (BitVec 64)} (h : t = modTq s p fun x => { x with recs := x.recs ++ [(k, ws)] }) :
    TqOnly s t ∧ tqPart t p = { tqPart s p with recs := (tqPart s p).recs ++ [(k, ws)] } ∧ (∀ j, j ≠ p → tqPart t j = tqPart s j) ∧
      tqCount t p = (((tqPart s p).recs.map fun r => r.2.length).sum + ws.length) % 2 ^ 13 ∧ ∀ a, a ≠ tqA p 0x08 → rg t a = rg s a := by
  exact ⟨h ▸ (TqOnly.refl s).modTq .., (congrArg (tqPart · p) h).trans (tqPart_modTq_same ..), fun j hj => (congrArg (tqPart · j) h).trans ((tqPart_modTq ..).trans (if_neg hj)),
    (congrArg (tqCount · p) h).trans ((tqCount_modTq ..).trans (congrArg (· % 2 ^ 13) (sum_map_concat ..))), fun a ha => (congrArg (rg · a) h).trans (rg_modTq_ne ha)⟩

/-- The head record discarded and counted in LOST. -/
noncomputable def tqShed (s : State) (p : Nat) : State := bump (modTq s p fun x => { x with recs := x.recs.drop 1 }) (tqA p 0x08) 32 16

theorem recs_tqShed (s : State) (p : Nat) : (tqPart (tqShed s p) p).recs = (tqPart s p).recs.drop 1 :=
  (congrArg TqPart.recs ((tqPart_congr (bump_tqs ..) p).trans (tqPart_modTq_same ..))).trans rfl
theorem lost_tqShed (s : State) (p : Nat) : rf (tqShed s p) (tqA p 0x08) 32 16 = min (2 ^ 16 - 1) (rf s (tqA p 0x08) 32 16 + 1) :=
  (rf_bump_same _ _ (by decide)).trans (congrArg (fun n => min (2 ^ 16 - 1) (n + 1)) (rf_modTq_below (by decide)))

/-- Discarding a record, reported at most once in an interval, is `tqShed` for records and counters. -/
theorem tqDrop_facts (s : State) (p : Nat) : (tqPart (tqDrop s p) p).recs = (tqPart s p).recs.drop 1 ∧
    rf (tqDrop s p) (tqA p 0x08) 32 16 = min (2 ^ 16 - 1) (rf s (tqA p 0x08) 32 16 + 1) := by
  exact iteInduction (motive := fun t => (tqPart t p).recs = (tqPart s p).recs.drop 1 ∧ rf t (tqA p 0x08) 32 16 = min (2 ^ 16 - 1) (rf s (tqA p 0x08) 32 16 + 1))
    (fun _ => ⟨recs_tqShed s p, lost_tqShed s p⟩)
    fun _ => ⟨(congrArg TqPart.recs (tqPart_modTq_same ..)).trans ((congrArg TqPart.recs (tqPart_congr (raise_tqs ..) p)).trans (recs_tqShed s p)),
      (rf_modTq_below (by decide)).trans ((rf_raise ..).trans (lost_tqShed s p))⟩
end

/-! ### The Keel's reads (R417) -/

/-- The register that shows the record of the read buffer. -/
noncomputable def tqShown (r : Nat × List (BitVec 64)) : Nat := pack [(63, 1, 1), (60, 3, r.2.length - 1), (56, 4, r.1)]

/-- A partition whose head record r has moved into the read buffer. -/
noncomputable def headTaken (u : State) (p : Nat) (r : Nat × List (BitVec 64)) (l : List (Nat × List (BitVec 64))) : State :=
  setRg (modTq u p fun x => { x with recs := l, bufKind := r.1, buf := r.2, pos := 0 }) (tqA p 0x18) (tqShown r)

theorem tqTake_head {r : Nat × List (BitVec 64)} {l : List (Nat × List (BitVec 64))} (u : State) (p : Nat) : (tqPart u p).recs = r :: l →
    tqTake u p = headTaken u p r l := by
  delta tqTake
  exact congr_first

/-- The read buffer of a partition emptied. -/
noncomputable def bufEmptied (s : State) (p : Nat) : State := modTq s p fun x => { x with buf := [], pos := 0 }

theorem recs_bufEmptied (s : State) (p : Nat) : (tqPart (bufEmptied s p) p).recs = (tqPart s p).recs := (congrArg TqPart.recs (tqPart_modTq_same ..)).trans rfl

theorem headTaken_facts (s : State) (p : Nat) (r : Nat × List (BitVec 64)) (l : List (Nat × List (BitVec 64))) : let t := headTaken (bufEmptied s p) p r l
    tqPart t p = { tqPart s p with recs := l, bufKind := r.1, buf := r.2, pos := 0 } ∧ rg t (tqA p 0x18) = tqShown r % 2 ^ 64 ∧ TqOnly s t := by
  intro t
  exact ⟨(tqPart_congr (setRg_tqs ..) p).trans ((tqPart_modTq_same ..).trans (congrArg (fun x => { x with recs := l, bufKind := r.1, buf := r.2, pos := 0 })
    (tqPart_modTq_same ..))), rg_setRg_same .., (((TqOnly.refl s).modTq ..).modTq ..).setRg ..⟩

/-- A read stalled on a partition. -/
noncomputable def stalled (u : State) (p : Nat) : State := { u with stall := some (p, now u) }

/-- A NEXT read stalls on a partition without records, and takes the head record of another. -/
noncomputable def nextRead (u : State) (p : Nat) : State := if (tqPart u p).recs = [] then stalled u p else tqTake u p

theorem nextRead_stalls (u : State) (p : Nat) : (tqPart u p).recs = [] → nextRead u p = stalled u p := ite_taken

theorem nextRead_takes {r : Nat × List (BitVec 64)} {l : List (Nat × List (BitVec 64))} (u : State) (p : Nat) (h : (tqPart u p).recs = r :: l) :
    nextRead u p = headTaken u p r l := (if_neg fun hnil => List.cons_ne_nil r l (h.symm.trans hnil)).trans (tqTake_head u p h)

/-- A DATA read returns a word; the last of a fault record goes to the log. -/
noncomputable def dataRead (s : State) (p : Nat) : State :=
  let x := tqPart s p
  let u := setRg s (tqA p 0x20) (x.buf.getD x.pos 0).toNat
  if x.buf.length ≤ x.pos then u
  else
    let v := modTq u p fun y => { y with pos := y.pos + 1 }
    if x.pos + 1 = x.buf.length ∧ x.bufKind = 0 ∧ x.buf.length = 8 then logFault v x.buf else v

section
variable {p : Fin 64} {s : State}

theorem keelReads_blocked (h : kelState s ≠ 1 ∨ s.stall ≠ none) : exec (.kelTqNextRead p) s = .next s ∧ exec (.kelTqDataRead p) s = .next s :=
  ⟨next_taken (h.imp_right Option.isSome_iff_ne_none.2), next_taken (h.imp_right Option.isSome_iff_ne_none.2)⟩

/-- The Keel runs and no read of it is stalled. -/
theorem not_blocked (hk : kelState s = 1) (hst : s.stall = none) : ¬ (kelState s ≠ 1 ∨ s.stall.isSome = true) :=
  not_or.2 ⟨not_not_intro hk, hst ▸ Bool.false_ne_true⟩

theorem kelTqNextRead_runs (hk : kelState s = 1) (hst : s.stall = none) : exec (.kelTqNextRead p) s = .next (nextRead (bufEmptied s p.val) p.val) :=
  next_passed (b := nextRead (bufEmptied s p.val) p.val) (not_blocked hk hst)

theorem kelTqDataRead_runs (hk : kelState s = 1) (hst : s.stall = none) : exec (.kelTqDataRead p) s = .next (dataRead s p.val) :=
  next_passed (b := dataRead s p.val) (not_blocked hk hst)
end

theorem dataRead_beyond {s : State} {p : Nat} (h : (tqPart s p).buf.length ≤ (tqPart s p).pos) : dataRead s p = setRg s (tqA p 0x20) 0 :=
  (if_pos h).trans (congrArg (fun w : BitVec 64 => setRg s (tqA p 0x20) w.toNat) (List.getD_eq_default _ 0 h))

/-- A word returned and passed. -/
noncomputable def wordPassed (s : State) (p : Nat) (w : BitVec 64) : State := modTq (setRg s (tqA p 0x20) w.toNat) p fun y => { y with pos := y.pos + 1 }

theorem dataRead_word {s : State} {p : Nat} (h : (tqPart s p).pos < (tqPart s p).buf.length)
    (hlast : ¬ ((tqPart s p).pos + 1 = (tqPart s p).buf.length ∧ (tqPart s p).bufKind = 0 ∧ (tqPart s p).buf.length = 8)) :
    dataRead s p = wordPassed s p ((tqPart s p).buf.getD (tqPart s p).pos 0) := (if_neg (Nat.not_le.2 h)).trans (if_neg hlast)

theorem wordPassed_facts (s : State) (p : Nat) (w : BitVec 64) : let t := wordPassed s p w
    rg t (tqA p 0x20) = w.toNat ∧ tqPart t p = { tqPart s p with pos := (tqPart s p).pos + 1 } ∧ TqOnly s t := by
  intro t
  exact ⟨(rg_modTq_ne (tqA_ne (by decide))).trans ((rg_setRg_same ..).trans (Nat.mod_eq_of_lt w.isLt)), tqPart_modTq_same .., ((TqOnly.refl s).setRg ..).modTq ..⟩

/-- A stalled read given up. -/
noncomputable def timedOut (s : State) (p : Nat) : State := raise (setRg { s with stall := none } (tqA p 0x18) 0) 0x0D07 0 0x08 18 0xFFFF (det [(0, 1, p)])

theorem tqStallTimeout_held {p t : Nat} (s : State) : s.stall = some (p, t) → exec .tqStallTimeout s = .next (if t + 65536 ≤ now s then timedOut s p else s) :=
  fun h => next_reads h

theorem timedOut_facts (s : State) (p : Nat) : (timedOut s p).stall = none ∧ rg (timedOut s p) (tqA p 0x18) = 0 ∧
    ∃ f, (timedOut s p).faults = s.faults ++ [f] ∧ f.code = 0x0D07 ∧ f.sev = 0 :=
  ⟨rfl, (rg_raise ..).trans ((rg_setRg_same ..).trans (Nat.zero_mod _)), _, raise_faults .., rfl, rfl⟩

/-! ### Flushes (R418) -/

/-- A partition's records discarded, and their number added to FLUSHED. -/
noncomputable def tqFlushed (s : State) (p : Nat) : State := bumpBy (modTq s p fun x => { x with recs := [] }) (tqA p 0x08) 16 16 (tqPart s p).recs.length

theorem tqFlushed_facts (s : State) (p : Nat) : let t := tqFlushed s p
    tqPart t p = { tqPart s p with recs := [] } ∧ tqCount t p = 0 ∧
      rf t (tqA p 0x08) 16 16 = min (2 ^ 16 - 1) (rf s (tqA p 0x08) 16 16 + (tqPart s p).recs.length) ∧ TqOnly s t := by
  intro t
  exact ⟨(tqPart_congr (bumpBy_tqs ..) p).trans (tqPart_modTq_same ..), (rf_setRf_above _ _ _ (by decide) (by decide)).trans (tqCount_modTq ..),
    (rf_bumpBy_same _ _ _ (by decide)).trans (congrArg (fun n => min (2 ^ 16 - 1) (n + (tqPart s p).recs.length)) (rf_modTq_below (by decide))),
    ((TqOnly.refl s).modTq ..).setRg ..⟩

/-! ### The statement -/

/-- Settles O52: a restart by `keelRestarts_facts`, a record by the cases of `tqStored` with `tqHold_holds` and `tqDrop_facts`, the Keel's
reads by `kelTqNextRead_runs` and `kelTqDataRead_runs`, a stall by `tqStallTimeout_held`, a flush by `tqFlushed_facts`. -/
theorem watchdogAndTailQueues : Obligations.WatchdogAndTailQueues := by
  refine ⟨?kick, ?expiry, fun s => ⟨fun h => exists_next (next_taken h) (keelRestarted rfl), next_passed⟩, ?store, ?hold, tqDrop_facts, ?next, ?data, ?timeout,
    fun p s => exists_next rfl (tqFlushed_facts s p.val)⟩
  case kick =>
    exact fun s => ⟨fun hk hst => next_taken (Bool.and_eq_true_iff.2 ⟨decide_eq_true hk, Option.isNone_iff_eq_none.2 hst⟩),
      fun h => congrArg Host.Outcome.next (ite_and_stays (h.imp decide_eq_false fun h => .inl (Option.isNone_eq_false_iff.2 (Option.isSome_iff_ne_none.2 h))))⟩
  case expiry =>
    intro m s w
    exact ⟨next_taken, fun hk ht => ⟨fun hst => (watchdogExpiry_due m hk ht).trans (congrArg _ (ite_off ((starting_keelRestarts ..).trans hst))),
      fun hst => (watchdogExpiry_due m hk ht).trans (congrArg _ (if_pos ((starting_keelRestarts ..).trans hst)))⟩, keelRestarts_facts s m⟩
  case store =>
    intro q k ws d s ill
    exact ⟨tqRecordStore_ill q k ws d s, fun h => ⟨tqRecordStore_nothing q k ws d s h, fun u hs => ⟨fun hd => (tqRecordStore_takes q k ws d s h hs).trans (congrArg _ (if_pos hd)),
      fun hd => ⟨fun hp => (tqRecordStore_takes q k ws d s h hs).trans (congrArg _ (tqStored_unowned q k ws d u hd hp)),
        fun p hp => (tqRecordStore_takes q k ws d s h hs).trans (congrArg _ (tqStored_held q k ws d u hd hp))⟩⟩⟩⟩
  case hold =>
    intro s p k ws hroom hoff hst t
    exact tqHeld_facts (tqHold_holds hroom hoff hst k)
  case next =>
    intro p s u
    exact ⟨keelReads_blocked, fun hk hst => ⟨fun h => (kelTqNextRead_runs hk hst).trans (congrArg _ (nextRead_stalls _ p.val ((recs_bufEmptied ..).trans h))),
      fun r l h => exists_next ((kelTqNextRead_runs hk hst).trans (congrArg _ (nextRead_takes _ p.val ((recs_bufEmptied ..).trans h)))) (headTaken_facts s p.val r l)⟩⟩
  case data =>
    intro p s hk hst x
    exact ⟨fun h => (kelTqDataRead_runs hk hst).trans (congrArg _ (dataRead_beyond h)),
      fun h hlast => exists_next ((kelTqDataRead_runs hk hst).trans (congrArg _ (dataRead_word h hlast))) (wordPassed_facts ..)⟩
  case timeout =>
    exact fun s => ⟨fun h => next_reads h, fun p t h => ⟨fun ht => (tqStallTimeout_held s h).trans (next_passed (Nat.not_le.2 ht)),
      fun ht => exists_next ((tqStallTimeout_held s h).trans (next_taken ht)) (timedOut_facts s p)⟩⟩

end Sys2Proof.Machine
end
